-- ==== Sys2Proof/Word.lean ====
section
/-! DEFINITION. Word types of the Sceob block: bytes, register words and the granule of the data ports. -/

namespace Sys2Proof

/-- One byte of memory or of a descriptor (00 R4). -/
abbrev Byte := BitVec 8
/-- A 16-bit register field. -/
abbrev Word16 := BitVec 16
/-- One 32-bit register (00 R9), and a ring index (03 R78). -/
abbrev Word32 := BitVec 32
/-- A 64-bit register pair (00 R9), and a Sceob address (02 R45). -/
abbrev Word64 := BitVec 64
/-- A granule of 64 bytes, the unit of transfer on every data port (00, Units and time). -/
abbrev Granule := BitVec 512

end Sys2Proof
end

