-- ==== Sys2Proof/Syntax.lean ====
section
/-! DEFINITION. The commands of the block: one constructor of `Instr` for each row of spec/opcode_table.json, with the
operands the row's rule names. The table gives no row any bits; which operands a row carries is the model's reading of the
row's summary and rule (log entry 4). -/

namespace Sys2Proof

/-- A queue: an I/O queue by its ID, 0 to 4,095, or an administrative queue A0 to A8 (03, 13). -/
inductive QId where
  | io (id : Nat)
  | adm (p : Nat)
deriving DecidableEq, Repr

/-- A data port of the block (19 R424). -/
inductive Port where
  | host
  | mp (n : Nat)
  | ap (n : Nat)
  | tp (n : Nat)
  | vp (n : Nat)
deriving DecidableEq, Repr

/-- The answer to a port request: RESULT 0 or 1 of R432, or the refusal of a deck peer (02 R55). -/
inductive Resp where
  | okay
  | error
  | refused
deriving DecidableEq, Repr

/-- What a read of the ring met (03 R88). -/
inductive ReadFail where
  | busError
  | poison
  | translation
deriving DecidableEq, Repr

/-- Which access a read answer, a translation answer or a request timeout belongs to (19 R432, R439). -/
inductive Access where
  /-- An access of a job's tile or pass, at a linear element of the job, for translation answers; the Bool is true for the
  element's index read, which R151 ranks first. -/
  | job (uid elem : Nat) (index : Bool)
  /-- The read of the fetch stage that a port has in flight under a TAG (06 R147, 19 R427). -/
  | fetch (tag : Nat)
  /-- A destination write of a job at a linear element, for translation answers (R151 ranks it last). -/
  | jobWrite (uid elem : Nat)
  /-- A closing write of a job, whose block or group begins at the element (06 R491). -/
  | closing (uid elem : Nat)
  /-- A read of one job in decode: a folio entry or a map (07 R169, 11 R269). -/
  | decode (uid : Nat)
  /-- A read of a RESEND redo of a group: in step 1, or in step 2 at an element (08 R204). -/
  | redo (uid group : Nat) (second : Option Nat)
  /-- Ring, completion and status-line traffic of a queue. -/
  | ring (q : QId)
  /-- An access of a paced channel (12 R287). -/
  | channel (ch : Nat)
  /-- An access of a waiting administrative command on Aaq. -/
  | admin (aq : Nat)
  /-- A write to the event slot of the owner (0) or of a partition (18 R418). -/
  | slot (p : Nat)
  /-- The target access of an inbound request (19 R445). -/
  | inbound (id : Nat)
  /-- An access whose job has been cancelled, killed or reset: its data drains into scratch (06 R155). -/
  | drained
  /-- A tag with no request outstanding (19 R432); of a timeout, a message or a write of the group protocol, which its TAG alone names. -/
  | unknown
deriving DecidableEq, Repr

/-- RESULT of a translation response (19 R439). -/
inductive XResult where
  | mapped (addr : Word64) (pageLog2 : Nat)
  | pageFault
  | abort
  | other
deriving DecidableEq, Repr

/-- A power domain: a span or the central domain (16 R361). -/
inductive Domain where
  | span (n : Nat)
  | central
deriving DecidableEq, Repr

/-- A kind of element with spares (18 R419, 13 R313). -/
inductive SpareKind where
  | core
  | pipe
  | lane
  | sorting
deriving DecidableEq, Repr

/-- A bank of a span (14 R324): of its staging buffer, the table bank or the working bank of a core, a codebook cache set. -/
inductive Bank where
  | staging (k : Nat)
  | table (core : Nat)
  | work (core : Nat)
  | codebook (set : Nat)
deriving DecidableEq, Repr

/-- The context that a unit names with a checker event (17 R393, 18 R414). -/
structure FaultCtx where
  part    : Option Nat := none
  core    : Option Nat := none
  queue   : Option QId := none
  job     : Option Nat := none
  elem    : Option Nat := none
  element : Option (SpareKind × Nat) := none
  bank    : Option Bank := none
deriving DecidableEq, Repr

/-- What the self-test reports (15 R358; log entry 19): the CRC-32C values that a core got for the codebook, the payloads and the
records it built, those that a pipe got for the four folios it expanded, the two sums of a lane, and whether the AES units gave the
known answers. An element that is not listed got the stored results. -/
structure SelfTest where
  cores : List (Nat × Nat × List Word32) := []
  pipes : List (Nat × Nat × List Word32) := []
  lanes : List (Nat × Word32 × Word32) := []
  aes   : Bool := true
deriving DecidableEq, Repr

/-- A hardware event in the clock of a register write that clears its bit (00 R12): an event of a source at a unit, a cause of
WAKE_CAUSE, a bit of the profile status. -/
inductive HwEvent where
  | fault (u src : Nat) (ctx : FaultCtx)
  | wake (bit : Nat)
  | profile (bit : Nat)
deriving DecidableEq, Repr

/-- The data of a register write, and the hardware event of its clock, if there is one (00 R12). -/
structure RegData (n : Nat) where
  bits : BitVec n
  also : Option HwEvent := none
deriving DecidableEq, Repr

/-- The key slot of an erasure and its OP, 3 for ERASE (14 R327). -/
structure EraseReq where
  slot : Nat
  op   : BitVec 8 := 3
deriving DecidableEq, Repr

/-- What reports ready at a profile load: the attach ports (15 R352), and the logic of step 7 of 15 R355. -/
structure LoadReady where
  attach : BitVec 8
  logic  : Bool
deriving DecidableEq, Repr

/-- The residue checks met while a REDUCE ran (11 R260). -/
inductive Residue where
  | sound
  | once
  | twice
  | late
deriving DecidableEq, Repr

/-- Cause of an abort letter (11 R265). -/
inductive AbortCause where
  | groupAbort
  | lateCorruption
  | memberTimeout
deriving DecidableEq, Repr

/-- A message between engines (11, 19 R443). `tag` is GROUP_TAG. -/
inductive Msg where
  | contribution (tag epoch chunk rank elems : Nat) (crc : Word32) (data : List Byte)
  | accepted (tag epoch chunk rank : Nat)
  | badElems (tag epoch chunk rank : Nat)
  | duplicate (tag epoch chunk rank : Nat)
  | resend (tag epoch chunk rank : Nat)
  | reRequest (tag epoch chunk rank : Nat)
  | ready (tag epoch : Nat) (ranks : List Nat)
  | close (tag epoch : Nat)
  | closeAck (tag epoch : Nat) (ranks : List Nat)
  | abort (tag epoch : Nat) (cause : AbortCause)
  | barrier (device part id : Nat)
  | barrierRefused (part id : Nat)
deriving DecidableEq, Repr

/-- Where a message or an inbound request comes from: a transport connection, or a deck peer over the viaduct. -/
inductive MsgSrc where
  | conn (c : Nat)
  | deck (d : Nat)
deriving DecidableEq, Repr

/-- What a peer of the deck is known to be reached by: hop counts of the two directions, none where a direction does
not lead to it (19 R448). -/
structure Peer where
  deckId : Nat
  hops0  : Option Nat
  hops1  : Option Nat
deriving DecidableEq, Repr

/-- The commands: one constructor per row of spec/opcode_table.json, in the table's order. -/
inductive Instr where
  -- rings and admission (03, 04, 01)
  | doorbell (off width : Nat) (value : Word32)
  | doorbellCapture (off width : Nat) (value : Word32)
  | entryFetch (q : QId)
  | ringUnreadable (q : QId) (why : ReadFail)
  | admitJob (p : Nat)
  | tokenRefill
  | tileRequest (span uid n : Nat)
  | threadRetire (uid tile : Nat)
  | completionRecordWrite (uid : Nat)
  | doneWrite (uid : Nat)
  | doneAnswered (uid : Nat)
  | jobTimeout (uid : Nat)
  -- the opcodes and their passes (05 to 11)
  | move (uid tile : Nat)
  | gather (uid tile : Nat)
  | scatter (uid tile : Nat)
  | indexPass (uid : Nat)
  | stats (uid tile : Nat)
  | contribute (uid : Nat)
  | reduce (uid : Nat) (residue : Residue)
  | collect (uid : Nat)
  | dispatch (uid : Nat)
  | combine (uid tile : Nat)
  | tariff (uid tile : Nat)
  | barrier (uid : Nat)
  | groupBarrier (uid : Nat)
  | fill (uid tile : Nat)
  | sealCheck (uid tile : Nat)
  | nop (uid : Nat)
  | histogramBuild (uid : Nat)
  | folioEntryWrite (uid : Nat)
  | conversionPass (uid : Nat)
  | resendRedo (uid group : Nat)
  -- answers at the ports (19)
  | portWriteResponse (port : Port) (tag : Nat) (res : Resp)
  | portReadData (port : Port) (acc : Access) (addr : Nat) (data : Granule) (poison : Bool) (res : Resp)
  | portRequestTimeout (port : Port) (acc : Access) (tag : Nat)
  | hostWriteError
  | translationResponse (route iova : Nat) (acc : Access) (res : XResult)
  | translationTimeout (route iova : Nat) (acc : Access)
  -- administrative commands (13); aq is the administrative queue whose head entry it is
  | createQueue (aq : Nat)
  | destroyQueue (aq : Nat)
  | cancelQueue (aq : Nat)
  | resumeQueue (aq : Nat)
  | resetQueue (aq : Nat)
  | setShaper (aq : Nat)
  | createRegion (aq : Nat)
  | destroyRegion (aq : Nat)
  | openWindow (aq : Nat)
  | closeWindow (aq : Nat)
  | createGroup (aq : Nat)
  | destroyGroup (aq : Nat)
  | bindKey (aq : Nat)
  | unbindKey (aq : Nat)
  | claimCbset (aq : Nat)
  | releaseCbset (aq : Nat)
  | setupChannel (aq : Nat)
  | armChannel (aq : Nat)
  | disarmChannel (aq : Nat)
  | releaseChannel (aq : Nat)
  | rearmPacer (aq : Nat)
  | vote (aq : Nat)
  | readHealth (aq : Nat)
  | fence (aq : Nat)
  | swapSpare (aq : Nat)
  | reset (aq : Nat)
  | scrubPartition (aq : Nat)
  | switchProfile (aq : Nat)
  | commandCompletes (aq : Nat)
  -- groups and barriers between engines (11, 02)
  | contributionArrival (m : Msg)
  | resendRequest (m : Msg)
  | reRequest (m : Msg)
  | groupWaitTimeout (uid : Nat)
  | ready (m : Msg)
  | closeLetter (m : Msg)
  | closeLetterRepeat (p g : Nat)
  | epochTimeout (p g : Nat)
  | abortLetter (m : Msg)
  | deckBarrierArrival (m : Msg)
  -- paced channels (12)
  | producer (ch : Nat) (value : Word32)
  | flushSet (ch : Nat) (value : Word32)
  | runStart (pacer : Nat)
  | recordDrained (pacer : Nat)
  | runEnd (pacer : Nat)
  | evtOutPulse (pacer : Nat)
  -- registers (20)
  | commit (value : Word32)
  | profileWindowWrite (off : Nat) (value : Word32)
  | create (p : Nat)
  | contextReset (p : Nat)
  | resume (p : Nat)
  | destroy (p : Nat)
  | offReq (value : Word32)
  | wakeTimer (value : Word32)
  | timerWake
  | faultStatusClear (u : Nat) (value : RegData 32)
  | faultSevereClear (u : Nat) (value : RegData 32)
  | faultPolicyWrite (u : Nat) (value : Word32)
  | faultInject (u : Nat) (value : Word32)
  | lowerWordRead (off : Nat)
  | upperWordWrite (off : Nat) (value : Word32)
  | incidentWord0Read (e : Nat)
  | eventSlot (p : Nat) (value : Word32)
  | eventPd (p : Nat) (value : Word32)
  | ownerEventSlot (value : Word32)
  | registerWrite (off width : Nat) (value : RegData 64)
  -- keys (14)
  | loadXts (slot : Nat) (check : Word32) (key : List Byte)
  | loadGcm (slot : Nat) (check : Word32) (key : List Byte)
  | erase (req : EraseReq)
  -- profile and start-up (15, 19, 21)
  | profileLoad (copies : Option (List Byte) × Option (List Byte)) (ready : LoadReady)
  | profileCopyReadFailure (copyB : Bool)
  | rstNAssert
  | rstNRelease (psel : BitVec 2) (deckId : BitVec 3) (fuse : Bool)
  | startupStepTimeout (step : Nat)
  | selfTest (outcome : SelfTest)
  | vinLow
  | vinRecovered (psel : BitVec 2) (deckId : BitVec 3) (fuse : Bool)
  -- power (16)
  | sleepDwellExpiry (span : Nat)
  | deepDwellExpiry (span : Nat) (tempC : Int) (loadMa : Nat)
  | centralDwellExpiry (tempC : Int) (loadMa : Nat)
  | powerEntryDone (d : Domain)
  | domainExit (d : Domain)
  | powerStepTimeout (d : Domain) (step : Nat)
  | wakeN (psel : BitVec 2) (deckId : BitVec 3) (fuse : Bool)
  | linkEnergy (mv : Nat)
  | brownout (aon : Bool)
  | offEntryDone
  -- faults (17)
  | faultEvent (u src : Nat) (ctx : FaultCtx)
  | faultWindowExpiry (u src : Nat)
  | lockstep
  | contextCollection (u : Nat) (answered : Bool)
  | alive
  -- resets and sparing (18)
  | resetLevelFinish (id : Nat)
  | resetLevelTimeout (id : Nat)
  | powerCycle
  | swapStepTimeout (span : Nat)
  | swapComplete (span : Nat)
  -- supply and clocks (21)
  | powerCapCheck (meanMw : Nat) (stayedBelow : Bool)
  | operatingPointDone (quadrant : Nat)
  | oscCalibration
  | refClkLoss
  | refClkReturn
  | refClkLossTimeout
  -- transport, viaduct and memory ports (19)
  | connOpen (conn part port : Nat)
  | connClose (conn : Nat)
  | windowReady (p w : Nat)
  | linkDown (port : Port)
  | inboundWrite (conn : Nat) (addr : Word64) (data : List Byte)
  | inboundTargetAck (id : Nat)
  | inboundRead (conn : Nat) (addr : Word64) (granules : Nat)
  | inboundMessage (src : MsgSrc) (m : Msg)
  | viaductLinkUp (vp peer peerPort : Nat)
  | deckFlood (peers : List Peer) (faulted : Bool)
  | memoryPortReady (n capacity : Nat)
  -- test access port (14, 19)
  | extest (bits : List Bool)
  | samplePreload (bits : List Bool)
  | idcode
  | bypass (code : BitVec 8)
  | debugArm
  | scanAccess
  | stagingRead (span off : Nat)
  | keypathTest (gcm : Bool) (key tweak data : List Byte)
  | selftestStart (outcome : SelfTest)
  | statusRead (u : Nat)
  | trstN
  -- deck, register reads and credits (02, 16, 19)
  | deckAccess (src dest part : Nat) (write : Bool) (off : Nat) (data : List Byte) (len : Nat)
  | registerRead (off width : Nat)
  | creditGrant (port : Port) (wd : Bool)
deriving DecidableEq, Repr

end Sys2Proof
end

