-- ==== Sys2Proof/Decode.lean ====
section
/-! DEFINITION. The command that a word of spec/opcode_table.json spells. Every row of the table has an empty list of
fields: no row gives any bit, so no word spells a command. -/

namespace Sys2Proof

/-- The command that the table's bits spell in a word; none, since no row of the table gives bits. -/
def decodeTableWord (_nbits _w : Nat) : Option Instr := none

end Sys2Proof
end

