-- ==== Sys2Proof/Machine/Bits.lean ====
section
/-! DEFINITION. Bytes, little-endian fields, bit strings, CRC-32C and association lists: the helpers the rest calls. -/

namespace Sys2Proof.Machine

/-- Little-endian value of a byte list (00 R4). -/
def leNat : List Byte → Nat
  | [] => 0
  | b :: r => b.toNat + 256 * leNat r

/-- The low `n` bytes of a number, little-endian (00 R4). -/
def leBytes : Nat → Nat → List Byte
  | 0, _ => []
  | n + 1, v => BitVec.ofNat 8 v :: leBytes n (v / 256)

/-- The field of `width` bytes at an offset of an entry or record (00, Numbers, bits and bytes). -/
def field (e : List Byte) (off width : Nat) : Nat := leNat ((e.drop off).take width)

def u8 (e : List Byte) (off : Nat) : Nat := field e off 1
def u16 (e : List Byte) (off : Nat) : Nat := field e off 2
def u32 (e : List Byte) (off : Nat) : Nat := field e off 4
def u64 (e : List Byte) (off : Nat) : Nat := field e off 8

/-- Bits [high:low] of a number (00 R5). -/
def bitsOf (v high low : Nat) : Nat := v / 2 ^ low % 2 ^ (high + 1 - low)

/-- Bit i of a number. -/
def bitOf (v i : Nat) : Bool := v / 2 ^ i % 2 = 1

/-- Two's complement reading of the low `w` bits (00 R6). -/
def signed (w v : Nat) : Int :=
  let x := v % 2 ^ w
  if x < 2 ^ (w - 1) then (x : Int) else (x : Int) - 2 ^ w

/-- Smallest multiple of `a` at or above `n`. -/
def roundUp (n a : Nat) : Nat := (n + a - 1) / a * a

/-- Ceiling of a quotient. -/
def ceilDiv (n a : Nat) : Nat := (n + a - 1) / a

def isAligned (n a : Nat) : Bool := n % a = 0

/-- One bit step of the reflected CRC of polynomial 0x1EDC_6F41 (07 R163). -/
def crcBit (c : Word32) : Word32 :=
  if c.getLsbD 0 then (c >>> 1) ^^^ 0x82F63B78#32 else c >>> 1

def crcByte (c : Word32) (b : Byte) : Word32 :=
  crcBit (crcBit (crcBit (crcBit (crcBit (crcBit (crcBit (crcBit (c ^^^ b.setWidth 32))))))))

/-- CRC-32C, Castagnoli, initial value and final exclusive-or 0xFFFF_FFFF (07 R163). -/
def crc32c (bs : List Byte) : Word32 := (bs.foldl crcByte 0xFFFFFFFF#32) ^^^ 0xFFFFFFFF#32

/-- Replace element `i` of a list by its image; other elements and the length stay. -/
def modAt {α : Type} : List α → Nat → (α → α) → List α
  | [], _, _ => []
  | x :: r, 0, f => f x :: r
  | x :: r, i + 1, f => x :: modAt r i f

/-- Value of a key, or `d` where the key is not listed. -/
def lookupD {α : Type} (l : List (Nat × α)) (k : Nat) (d : α) : α :=
  match l with
  | [] => d
  | (a, v) :: r => if a = k then v else lookupD r k d

/-- Set the value of a key. -/
def assocPut {α : Type} (l : List (Nat × α)) (k : Nat) (v : α) : List (Nat × α) :=
  match l with
  | [] => [(k, v)]
  | (a, w) :: r => if a = k then (k, v) :: r else (a, w) :: assocPut r k v

/-- Smallest number below `n` that a test accepts, if any. -/
def firstBelow (n : Nat) (p : Nat → Bool) : Option Nat := (List.range n).find? p

/-- Smallest number not listed. -/
def lowestFree (used : List Nat) : Nat := (firstBelow (used.length + 1) fun i => !used.contains i).getD 0

/-- A 32-bit or 8-bit saturating addition (03 R89, 17 R390). -/
def satAdd (w : Nat) (a : BitVec w) (n : Nat) : BitVec w := BitVec.ofNat w (min (a.toNat + n) (2 ^ w - 1))

def listSum (l : List Nat) : Nat := l.foldl (· + ·) 0

def listMaxD (l : List Int) (d : Int) : Int := match l with | [] => d | x :: r => r.foldl max x

/-- Smallest of a list, or `d` for none. -/
def listMinD (l : List Nat) (d : Nat) : Nat := match l with | [] => d | x :: r => r.foldl min x

/-- The bits of a mask that are set, below `n`. -/
def maskList (n m : Nat) : List Nat := (List.range n).filter (bitOf m)

/-- Mask with the listed bits set. -/
def listMask (l : List Nat) : Nat := listSum (l.map (2 ^ ·))

end Sys2Proof.Machine
end

