-- ==== Sys2Proof/Machine/Cipher.lean ====
section
/-! DEFINITION. AES-256, AES-XTS and AES-GCM, which 14 R333 names by their standards (FIPS 197, IEEE 1619, SP 800-38D):
PRESUMED from those standards, log entry 12. -/

namespace Sys2Proof.Machine

/-- Multiply by x in GF(2^8) modulo 0x11B. -/
def xtime (b : Byte) : Byte := (b <<< 1) ^^^ (if b.getLsbD 7 then 0x1B#8 else 0#8)

/-- Product in GF(2^8). -/
def gmul (a b : Byte) : Byte :=
  ((List.range 8).foldl (fun (s : Byte × Byte) i =>
    (if b.getLsbD i then s.1 ^^^ s.2 else s.1, xtime s.2)) (0#8, a)).1

/-- Inverse in GF(2^8), 0 for 0: the 254th power. -/
def ginv (a : Byte) : Byte :=
  let a2 := gmul a a
  let a3 := gmul a2 a
  let a6 := gmul a3 a3
  let a12 := gmul a6 a6
  let a15 := gmul a12 a3
  let a30 := gmul a15 a15
  let a60 := gmul a30 a30
  let a120 := gmul a60 a60
  let a126 := gmul a120 a6
  let a127 := gmul a126 a
  gmul a127 a127

def subByte (b : Byte) : Byte :=
  let i := ginv b
  i ^^^ i.rotateLeft 1 ^^^ i.rotateLeft 2 ^^^ i.rotateLeft 3 ^^^ i.rotateLeft 4 ^^^ 0x63#8

def invSubByte (b : Byte) : Byte :=
  ginv (b.rotateLeft 1 ^^^ b.rotateLeft 3 ^^^ b.rotateLeft 6 ^^^ 0x05#8)

/-- Exclusive-or of two byte lists, as long as the shorter. -/
def xorBytes (a b : List Byte) : List Byte := List.zipWith (· ^^^ ·) a b

/-- The key schedule of AES-256, most recent word first: `n` words from the eight of the key. -/
def aesWords : Nat → List (List Byte) → List (List Byte)
  | 0, ws => ws
  | n + 1, ws =>
    let i := ws.length
    let prev := ws.getD 0 []
    let t :=
      if i % 8 = 0 then
        let r := (prev.drop 1 ++ prev.take 1).map subByte
        xorBytes r [(List.range (i / 8 - 1)).foldl (fun c _ => xtime c) 1#8, 0, 0, 0]
      else if i % 8 = 4 then prev.map subByte
      else prev
    aesWords n (xorBytes (ws.getD 7 []) t :: ws)

/-- The 15 round keys of 16 bytes. -/
def aesRoundKeys (key : List Byte) : List (List Byte) :=
  let ws := (aesWords 52 ((List.range 8).map fun i => (key.drop (4 * i)).take 4).reverse).reverse
  (List.range 15).map fun r => ((ws.drop (4 * r)).take 4).flatten

def shiftRows (s : List Byte) : List Byte := (List.range 16).map fun i => s.getD ((i + 4 * (i % 4)) % 16) 0
def invShiftRows (s : List Byte) : List Byte := (List.range 16).map fun i => s.getD ((i + 12 * (i % 4)) % 16) 0

/-- A column transform given by the first row of its circulant matrix. -/
def mixWith (c : List Byte) (s : List Byte) : List Byte :=
  (List.range 16).map fun i =>
    (List.range 4).foldl (fun acc j => acc ^^^ gmul (c.getD ((j + 4 - i % 4) % 4) 0) (s.getD (i / 4 * 4 + j) 0)) 0#8

def mixColumns (s : List Byte) : List Byte := mixWith [2, 3, 1, 1] s
def invMixColumns (s : List Byte) : List Byte := mixWith [14, 11, 13, 9] s

/-- AES-256 of one 16-byte block. -/
def aesEncrypt (key block : List Byte) : List Byte :=
  let ks := aesRoundKeys key
  let s := (List.range 13).foldl (fun s r => xorBytes (mixColumns (shiftRows (s.map subByte))) (ks.getD (r + 1) []))
    (xorBytes block (ks.getD 0 []))
  xorBytes (shiftRows (s.map subByte)) (ks.getD 14 [])

def aesDecrypt (key block : List Byte) : List Byte :=
  let ks := aesRoundKeys key
  let s := (List.range 13).foldl (fun s r => invMixColumns (xorBytes ((invShiftRows s).map invSubByte) (ks.getD (13 - r) [])))
    (xorBytes block (ks.getD 14 []))
  xorBytes ((invShiftRows s).map invSubByte) (ks.getD 0 [])

/-- Multiply the XTS tweak by alpha. -/
def xtsDouble (t : List Byte) : List Byte :=
  let v := leNat t
  leBytes 16 (if v / 2 ^ 127 = 1 then Nat.xor (v * 2 % 2 ^ 128) 0x87 else v * 2)

/-- The blocks of a unit under XTS with a starting tweak. -/
def xtsBlocks (enc : Bool) (k1 : List Byte) : Nat → List Byte → List Byte → List Byte
  | 0, _, _ => []
  | n + 1, t, d =>
    let b := xorBytes (d.take 16) t
    xorBytes (if enc then aesEncrypt k1 b else aesDecrypt k1 b) t ++ xtsBlocks enc k1 n (xtsDouble t) (d.drop 16)

/-- AES-XTS of a data unit of whole blocks (14 R333): K1 is the data key, K2 the tweak key. -/
def xtsUnit (enc : Bool) (key unit data : List Byte) : List Byte :=
  xtsBlocks enc (key.take 32) (data.length / 16) (aesEncrypt (key.drop 32) unit) data

/-- A 16-byte string as the bit-reflected-free number GHASH uses: first bit most significant. -/
def beNat (bs : List Byte) : Nat := leNat bs.reverse
def beBytes (n v : Nat) : List Byte := (leBytes n v).reverse

/-- Product in GF(2^128) as SP 800-38D orders its bits. -/
def ghashMul (x y : Nat) : Nat :=
  ((List.range 128).foldl (fun (s : Nat × Nat) i =>
    (if bitOf x (127 - i) then Nat.xor s.1 s.2 else s.1,
     if s.2 % 2 = 1 then Nat.xor (s.2 / 2) (0xE1 * 2 ^ 120) else s.2 / 2)) (0, y)).1

/-- GHASH over whole blocks. -/
def ghash (h : Nat) : Nat → List Byte → Nat → Nat
  | 0, _, acc => acc
  | n + 1, d, acc => ghash h n (d.drop 16) (ghashMul (Nat.xor acc (beNat (d.take 16))) h)

/-- The counter-mode stream over whole blocks, from counter c on. -/
def gcmStream (key iv : List Byte) : Nat → Nat → List Byte → List Byte
  | 0, _, _ => []
  | n + 1, c, d => xorBytes (d.take 16) (aesEncrypt key (iv ++ beBytes 4 c)) ++ gcmStream key iv n (c + 1) (d.drop 16)

/-- AES-GCM of a data unit of whole blocks without additional data (14 R333). -/
def gcmCrypt (key iv data : List Byte) : List Byte := gcmStream (key.take 32) iv (data.length / 16) 2 data

/-- The 16-byte tag over a unit's ciphertext. -/
def gcmTag (key iv cipher : List Byte) : List Byte :=
  let h := beNat (aesEncrypt (key.take 32) (List.replicate 16 0))
  let g := ghash h (cipher.length / 16) cipher 0
  let s := ghashMul (Nat.xor g (cipher.length * 8)) h
  xorBytes (beBytes 16 s) (aesEncrypt (key.take 32) (iv ++ beBytes 4 1))

/-- The unit value of 14 R333: canonical offset of the unit's first byte and CIPHER_ID. -/
def unitValue (canon cipherId : Nat) : List Byte := leBytes 16 (canon % 2 ^ 56 + 2 ^ 56 * cipherId)

end Sys2Proof.Machine
end

