-- ==== Sys2Proof/Machine/Float.lean ====
section
/-! DEFINITION. Exact numbers, FP32 arithmetic rounded to nearest even with subnormals kept (00 R14), the element formats of
05 R127 and the conversions of 08 R188-R193. FP32, FP16, BF16 and the OCP formats are laid out as the standards that R127
names lay them out (log entry 13). -/

namespace Sys2Proof.Machine

/-- A number as a format holds it: NaN, an infinity, or (-1)^neg * m * 2^e exactly (a zero keeps its sign). -/
inductive Num where
  | nan
  | inf (neg : Bool)
  | fin (neg : Bool) (m : Nat) (e : Int)
deriving DecidableEq, Repr

/-- A floating format: exponent bits, mantissa bits, bias, and whether the top exponent is reserved (IEEE), holds
one NaN code (E4M3) or is an ordinary exponent (E2M1) (05 R127). -/
inductive Top where
  | ieee | oneNan | plain
deriving DecidableEq, Repr

structure Fmt where
  eb   : Nat
  mb   : Nat
  bias : Nat
  top  : Top
deriving DecidableEq, Repr

def fp32 : Fmt := ⟨8, 23, 127, .ieee⟩
def fp16 : Fmt := ⟨5, 10, 15, .ieee⟩
def bf16 : Fmt := ⟨8, 7, 127, .ieee⟩
def e4m3 : Fmt := ⟨4, 3, 7, .oneNan⟩
def e5m2 : Fmt := ⟨5, 2, 15, .ieee⟩
def e2m1 : Fmt := ⟨2, 1, 1, .plain⟩

/-- The floating format of a type code, if it is one (05 R127). -/
def floatOf (code : Nat) : Option Fmt :=
  match code with
  | 0 => some fp32 | 1 => some fp16 | 2 => some bf16 | 3 => some e4m3 | 4 => some e5m2 | 5 => some e2m1
  | _ => none

/-- Width in bits of a type code (05 R127); 0 for a reserved code. -/
def typeBits (code : Nat) : Nat :=
  match code with
  | 0 => 32 | 1 => 16 | 2 => 16 | 3 => 8 | 4 => 8 | 5 => 4 | 6 => 8 | 7 => 8 | 8 => 4 | 9 => 4
  | 11 => 32 | 12 => 32 | _ => 0

/-- Power of the smallest step of a format, its subnormal step. -/
def Fmt.emin (f : Fmt) : Int := 1 - (f.bias : Int) - f.mb

/-- The number an encoding stands for. -/
def Fmt.decode (f : Fmt) (x : Nat) : Num :=
  let neg := bitOf x (f.eb + f.mb)
  let e := x / 2 ^ f.mb % 2 ^ f.eb
  let m := x % 2 ^ f.mb
  if f.top = .ieee ∧ e = 2 ^ f.eb - 1 then (if m = 0 then .inf neg else .nan)
  else if f.top = .oneNan ∧ e = 2 ^ f.eb - 1 ∧ m = 2 ^ f.mb - 1 then .nan
  else if e = 0 then .fin neg m f.emin
  else .fin neg (m + 2 ^ f.mb) (f.emin + e - 1)

/-- m * 2^-s to the nearest integer, a tie to the even one (08 R189). -/
def rneShift (m s : Nat) : Nat :=
  if s = 0 then m else
  let k := m / 2 ^ s
  let r := m % 2 ^ s
  let half := 2 ^ (s - 1)
  if r > half ∨ (r = half ∧ k % 2 = 1) then k + 1 else k

/-- m * 2^e to the nearest integer, a tie to the even one (08 R189). -/
def rneInt (m : Nat) (e : Int) : Nat :=
  match e with
  | .ofNat n => m * 2 ^ n
  | .negSucc n => rneShift m (n + 1)

/-- RNE_F of a magnitude: F with its subnormals and with no largest exponent (08 R189). -/
def Fmt.roundMag (f : Fmt) (m : Nat) (e : Int) : Nat × Int :=
  if m = 0 then (0, f.emin) else
  let q := max f.emin ((Nat.log2 m : Int) + e - f.mb)
  let k := rneInt m (e - q)
  if k = 2 ^ (f.mb + 1) then (2 ^ f.mb, q + 1) else (k, q)

/-- a * 2^x at most b * 2^y, exactly. -/
def magLe (a : Nat) (x : Int) (b : Nat) (y : Int) : Bool :=
  let z := min x y
  decide (a * 2 ^ (x - z).toNat ≤ b * 2 ^ (y - z).toNat)

/-- Largest finite value of a format (08 R190). -/
def Fmt.maxFin (f : Fmt) : Nat × Int :=
  match f.top with
  | .ieee => (2 ^ (f.mb + 1) - 1, f.emin + (2 ^ f.eb - 2 : Nat) - 1)
  | .oneNan => (2 ^ (f.mb + 1) - 2, f.emin + (2 ^ f.eb - 1 : Nat) - 1)
  | .plain => (2 ^ (f.mb + 1) - 1, f.emin + (2 ^ f.eb - 1 : Nat) - 1)

/-- Encoding of k * 2^q, where (k, q) comes from `roundMag` and lies in range. -/
def Fmt.encFin (f : Fmt) (neg : Bool) (k : Nat) (q : Int) : Nat :=
  let s := if neg then 2 ^ (f.eb + f.mb) else 0
  if k < 2 ^ f.mb then s + k
  else s + ((q - f.emin).toNat + 1) * 2 ^ f.mb + (k - 2 ^ f.mb)

/-- Canonical NaN (08 R190); E2M1 has none and takes 0. -/
def Fmt.canonNan (f : Fmt) : Nat :=
  match f.top with
  | .ieee => (2 ^ f.eb - 1) * 2 ^ f.mb + 2 ^ (f.mb - 1)
  | .oneNan => 2 ^ (f.eb + f.mb) - 1
  | .plain => 0

def Fmt.infCode (f : Fmt) (neg : Bool) : Nat :=
  (2 ^ f.eb - 1) * 2 ^ f.mb + (if neg then 2 ^ (f.eb + f.mb) else 0)

/-- sat(RNE_F(v)) with the special inputs of 08 R190: the encoding, and 1 where it counts. A NaN into E2M1 counts; a NaN or
an infinity into a format that has one does not. -/
def Fmt.cast (f : Fmt) (v : Num) : Nat × Nat :=
  let top := f.maxFin
  match v with
  | .nan => (f.canonNan, if f.top = .plain then 1 else 0)
  | .inf neg => if f.top = .ieee then (f.infCode neg, 0) else (f.encFin neg top.1 top.2, 1)
  | .fin neg m e =>
    let r := f.roundMag m e
    if magLe r.1 r.2 top.1 top.2 then (f.encFin neg r.1 r.2, 0) else (f.encFin neg top.1 top.2, 1)

/-- An exact value rounded to FP32 as a float operation rounds it: overflow gives an infinity (00 R14). -/
def f32round (neg : Bool) (m : Nat) (e : Int) : Num :=
  let r := fp32.roundMag m e
  let top := fp32.maxFin
  if magLe r.1 r.2 top.1 top.2 then .fin neg r.1 r.2 else .inf neg

/-- Signed sum of two exact values over a common power. -/
def sumExact (n1 : Bool) (m1 : Nat) (e1 : Int) (n2 : Bool) (m2 : Nat) (e2 : Int) : Int × Int :=
  let e := min e1 e2
  let a : Int := (m1 * 2 ^ (e1 - e).toNat : Nat)
  let b : Int := (m2 * 2 ^ (e2 - e).toNat : Nat)
  ((if n1 then -a else a) + (if n2 then -b else b), e)

/-- FP32 addition of exact operands, one rounding (00 R14). -/
def f32add (a b : Num) : Num :=
  match a, b with
  | .nan, _ => .nan
  | _, .nan => .nan
  | .inf x, .inf y => if x = y then .inf x else .nan
  | .inf x, _ => .inf x
  | _, .inf y => .inf y
  | .fin n1 m1 e1, .fin n2 m2 e2 =>
    let s := sumExact n1 m1 e1 n2 m2 e2
    if s.1 = 0 then .fin (n1 && n2) 0 fp32.emin
    else f32round (decide (s.1 < 0)) s.1.natAbs s.2

/-- Exact product. -/
def numMul (a b : Num) : Num :=
  match a, b with
  | .nan, _ => .nan
  | _, .nan => .nan
  | .inf x, .inf y => .inf (x != y)
  | .inf x, .fin n m _ => if m = 0 then .nan else .inf (x != n)
  | .fin n m _, .inf y => if m = 0 then .nan else .inf (n != y)
  | .fin n1 m1 e1, .fin n2 m2 e2 => .fin (n1 != n2) (m1 * m2) (e1 + e2)

/-- A number rounded to FP32. -/
def f32of (a : Num) : Num := match a with | .fin n m e => f32round n m e | x => x

/-- FP32 multiplication, one rounding. -/
def f32mul (a b : Num) : Num := f32of (numMul a b)

/-- Fused multiply-add: exact a * b + c, one rounding (10 R232). -/
def f32fma (a b c : Num) : Num := f32add (numMul a b) c

/-- x * 2^s exactly. -/
def numScale (x : Num) (s : Int) : Num := match x with | .fin n m e => .fin n m (e + s) | y => y

def Num.isFinite : Num → Bool | .fin _ _ _ => true | _ => false
def Num.isInf : Num → Bool | .inf _ => true | _ => false
def Num.isNan : Num → Bool | .nan => true | _ => false

/-- The +0 of FP32. -/
def f32zero : Num := .fin false 0 fp32.emin

/-- Value of an element of a type (05 R127), integers exactly; z is subtracted from unsigned types (08 R188). -/
def elemNum (ty code : Nat) (z : Int) : Num :=
  match floatOf ty with
  | some f => f.decode code
  | none =>
    let v : Int := (if ty = 6 then signed 8 code else if ty = 8 then signed 4 code else (code : Int)) - z
    .fin (decide (v < 0)) v.natAbs 0

/-- Target range of an integer type (08 R190). -/
def intRange (ty : Nat) : Int × Int :=
  if ty = 6 then (-127, 127) else if ty = 8 then (-7, 7) else if ty = 7 then (0, 255) else (0, 15)

/-- Code of an integer value in its type. -/
def intCode (ty : Nat) (v : Int) : Nat := (v % 2 ^ typeBits ty).toNat

/-- Quantise to an integer target: sat(RNE(x * 2^-s) + z), with the special inputs of 08 R190; the second part counts. -/
def quantInt (ty : Nat) (x : Num) (s z : Int) : Nat × Nat :=
  let r := intRange ty
  match x with
  | .nan => (intCode ty z, 1)
  | .inf neg => (intCode ty (if neg then r.1 else r.2), 1)
  | .fin neg m e =>
    let k : Int := rneInt m (e - s)
    let v := (if neg then -k else k) + z
    if v < r.1 then (intCode ty r.1, 1)
    else if v > r.2 then (intCode ty r.2, 1)
    else (intCode ty v, 0)

/-- A type code of the wide side of 08 R183. -/
def isWide (ty : Nat) : Bool := ty ≤ 2
/-- A type code of the quantised side of 08 R183. -/
def isNarrow (ty : Nat) : Bool := decide (3 ≤ ty ∧ ty ≤ 9)

/-- The conversion rule of 08 R188: cast, quantise with shift s, or dequantise with shift s. -/
def convertElem (src dst code : Nat) (s z : Int) : Nat × Nat :=
  if isWide src then
    let x := elemNum src code 0
    if isWide dst then (floatOf dst).elim (0, 0) (·.cast x)
    else match floatOf dst with
      | some f => f.cast (numScale x (-s))
      | none => quantInt dst x s z
  else
    match floatOf dst with
    | some f => f.cast (numScale (elemNum src code z) s)
    | none => (0, 0)

/-- qmax of a target (08 R192), as a mantissa and a power of two. -/
def qmax (ty : Nat) (z : Int) : Nat :=
  match ty with
  | 6 => 127 | 8 => 7 | 3 => 448 | 4 => 57344 | 5 => 6
  | 7 => if z = 0 ∨ z = 255 then 255 else min z.toNat (255 - z.toNat)
  | 9 => if z = 0 ∨ z = 15 then 15 else min z.toNat (15 - z.toNat)
  | _ => 1

/-- s_need (08 R192): the least s from -127 with m <= qmax * 2^s, -127 for m = 0, 128 where none below fits. -/
def sNeed (m : Nat) (e : Int) (q : Nat) : Int :=
  if m = 0 then -127 else
  match (List.range 255).find? (fun (i : Nat) => magLe m e q ((i : Int) - 127)) with
  | some i => (i : Int) - 127
  | none => 128

/-- The larger magnitude of two finite values. -/
def magMax (a b : Nat × Int) : Nat × Int := if magLe a.1 a.2 b.1 b.2 then b else a

/-- max-abs over the finite values of a list (08 R192); +0 for none. -/
def maxAbs (xs : List Num) : Nat × Int :=
  xs.foldl (fun a x => match x with | .fin _ m e => if m = 0 then a else magMax a (m, e) | _ => a) (0, 0)

/-- The base exponent and offsets of a group from its rows' shifts; none marks a faulted row, whose offset is 15
(08 R193, R201). `dflt` is B where every row faulted. -/
def formBase (shifts : List (Option Int)) (dflt : Nat) : Nat :=
  match shifts.filterMap id with
  | [] => dflt
  | xs => (max 0 (listMaxD xs 0 + 113)).toNat

def formOff (b : Nat) (s : Option Int) : Nat :=
  match s with
  | none => 15
  | some s => (max s ((b : Int) - 127) - ((b : Int) - 127)).toNat

/-- Effective shift of an offset under a base: 15 decodes as B - 113 (08 R193, R194). -/
def effShift (b off : Nat) : Int := if off = 15 then (b : Int) - 113 else (b : Int) - 127 + off

/-- RNE FP32 to BF16 as the pseudocode of 08 gives it. -/
def rneBf16 (b : Word32) : Word16 := ((b + 0x7FFF#32 + ((b >>> 16) &&& 1#32)) >>> 16).setWidth 16

/-- FP32 encoding of a number already rounded to FP32; NaN is canonical. -/
def f32bits (x : Num) : Nat := (fp32.cast x).1

/-- Exact sum of finite values over the unit 2^-149 of a keystone accumulator (01 R24). -/
def keystoneSum (xs : List Num) : Int :=
  xs.foldl (fun a x => match x with
    | .fin n m e => let v : Int := (m * 2 ^ (e + 149).toNat : Nat); if n then a - v else a + v
    | _ => a) 0

/-- The result of a keystone lane before the cast (11 R253). -/
def keystone (xs : List Num) : Num :=
  if xs.any Num.isNan || (xs.contains (.inf true) && xs.contains (.inf false)) then .nan
  else if xs.contains (.inf true) then .inf true
  else if xs.contains (.inf false) then .inf false
  else
    let s := keystoneSum xs
    if s = 0 then .fin (xs.all fun x => match x with | .fin n m _ => n && m == 0 | _ => false) 0 fp32.emin
    else .fin (decide (s < 0)) s.natAbs (-149)

/-- FP32 reduction in rank order (11 R252): the sum, and whether finite inputs overflowed. -/
def reduceFp32 : List Num → Num × Bool
  | [] => (f32zero, false)
  | x :: r =>
    let acc := r.foldl f32add x
    (acc, (x :: r).all Num.isFinite && acc.isInf)

/-- chain8 (10 R232): a rounded product, then seven fused multiply-adds. -/
def chain8 : List Num → List Num → Num
  | e :: es, a :: as => (es.zip as).foldl (fun acc p => f32fma p.1 p.2 acc) (f32mul e a)
  | _, _ => f32zero

end Sys2Proof.Machine
end

