-- ==== Sys2Proof/Machine/Formats.lean ====
section
/-! DEFINITION. Compressed weight formats (07): leaf payloads, records and folio entries, expansion of each weight,
the codebook build and the reference compressor; and the self-test generator (15 R357). -/

namespace Sys2Proof.Machine

/-- Payload bytes of a leaf format (07 R158). -/
def payloadBytes (fmt : Nat) : Nat :=
  match fmt with | 0 => 2048 | 1 => 1408 | 2 => 128 | 3 => 256 | _ => 0

/-- Codebook bytes of a leaf format (07 R158). -/
def codebookBytes (fmt : Nat) : Nat :=
  match fmt with | 1 => 16384 | 2 => 4096 | 3 => 8192 | _ => 0

def byteAt (p : List Byte) (i : Nat) : Nat := (p.getD i 0).toNat

/-- Weight k of an EX4 leaf (07 R159). -/
def ex4Weight (p cb : List Byte) (k : Nat) : Nat :=
  let bit := 12 * (k / 4)
  let two := byteAt p (1024 + bit / 8) + 256 * byteAt p (1024 + bit / 8 + 1)
  let c := two / 2 ^ (bit % 8) % 4096
  let e := byteAt cb (4 * c + k % 4)
  let m := byteAt p k
  m / 128 * 2 ^ 15 + e * 2 ^ 7 + m % 128

/-- Value i of a VQ8 codebook vector c of stage t, 0 or 1 (07 R160). -/
def vq8Value (cb : List Byte) (t c i : Nat) : Num := bf16.decode (u16 cb (4096 * t + 16 * c + 2 * i))

/-- A BF16 output of the VQ8 rule and 1 where it saturates (07 R160). -/
def vq8Weight (two : Bool) (p cb : List Byte) (rowExp k : Nat) : Nat × Nat :=
  let v := k / 8
  let a := vq8Value cb 0 (byteAt p v) (k % 8)
  let b := if two then vq8Value cb 1 (byteAt p (128 + v)) (k % 8) else f32zero
  let t := f32mul (f32add a b) (.fin false 1 ((rowExp : Int) - 127))
  match t with
  | .nan => (0x7FC0, 0)
  | .inf n => if a.isFinite && b.isFinite then bf16.cast (.fin n 1 128) else (bf16.infCode n, 0)
  | .fin _ _ _ => bf16.cast t

/-- Weight k of a sound leaf: its BF16 encoding, and 1 where it saturates (07 R158-R161). -/
def leafWeight (fmt : Nat) (p cb : List Byte) (rowExp k : Nat) : Nat × Nat :=
  match fmt with
  | 0 => (u16 p (2 * k), 0)
  | 1 => (ex4Weight p cb k, 0)
  | 2 => vq8Weight false p cb rowExp k
  | _ => vq8Weight true p cb rowExp k

/-- A folio entry (07 R165). -/
structure Folio where
  fmt       : Nat
  placement : Nat
  cbId      : Nat
  count     : Nat
  first     : Nat
  payOff    : Nat
  tabOff    : Nat
  cbAddr    : Nat
deriving DecidableEq, Repr

def Folio.parse (e : List Byte) : Folio :=
  { fmt := u8 e 0, placement := u8 e 1, cbId := u16 e 2, count := u32 e 4, first := u32 e 8,
    payOff := u64 e 0x10, tabOff := u64 e 0x18, cbAddr := u64 e 0x20 }

/-- The limits of a folio entry (07 R165); `prev` is the entry before it. -/
def Folio.ok (e : List Byte) (prev : Option Folio) : Bool :=
  let f := Folio.parse e
  decide (f.fmt ≤ 3) && decide (f.placement ≤ 1) && (f.fmt != 0 || f.cbId == 0) && decide (64 ≤ f.count) &&
  (match prev with | some q => f.first == q.first + q.count | none => true) &&
  u32 e 0x0C == 0 &&
  isAligned f.payOff 16 && decide (f.payOff < 2 ^ 48) && isAligned f.tabOff 16 && decide (f.tabOff < 2 ^ 48) &&
  (if f.fmt = 0 then f.cbAddr == 0 else isAligned f.cbAddr 64 && f.cbAddr != 0) &&
  field e 0x28 24 == 0

/-- Offset of leaf n's payload and record from TENSOR_BASE (07 R166). -/
def Folio.payloadAt (f : Folio) (n : Nat) : Nat :=
  f.payOff + (n - f.first) * (if f.placement = 0 then payloadBytes f.fmt else 2048)
def Folio.recordAt (f : Folio) (n : Nat) : Nat := f.tabOff + (n - f.first) * 16

/-- A leaf record has no record fault (07 R162). -/
def leafRecordOk (rec : List Byte) (f : Folio) : Bool :=
  u8 rec 0 == f.fmt && (decide (f.fmt < 2) || u8 rec 1 != 255) && u16 rec 2 == payloadBytes f.fmt &&
  (f.fmt == 0 || u16 rec 6 == f.cbId)

/-- Declared element count of a record, bits [10:0] (07 R162). -/
def leafElements (rec : List Byte) : Nat := u16 rec 4 % 2048

inductive LeafClass where
  | sound | seal_ | under | over
deriving DecidableEq, Repr

/-- Class of a leaf (07 R174). -/
def classifyLeaf (rec payload : List Byte) (f : Folio) (need : Nat) : LeafClass :=
  if !leafRecordOk rec f || (crc32c payload).toNat != u32 rec 8 then .seal_
  else if leafElements rec < need then .under
  else if leafElements rec > need then .over
  else .sound

/-- How many of its `need` places a leaf fills from its expanded elements (07 R175). -/
def leafFilled (c : LeafClass) (rec : List Byte) (need : Nat) : Nat :=
  match c with
  | .sound => need
  | .over => need
  | .seal_ => 0
  | .under => leafElements rec

/-- need_j of job leaf j of a job of N data elements (07 R168). -/
def leafNeed (n j : Nat) : Nat := min 1024 (n - 1024 * j)

/-- Exponent of a BF16 encoding. -/
def bf16Exp (w : Nat) : Nat := w / 128 % 256

/-- Exponent tuple of group g of a source (07 R179). -/
def tupleOf (ws : List Nat) (g : Nat) : Nat :=
  bf16Exp (ws.getD (4 * g) 0) + 2 ^ 8 * bf16Exp (ws.getD (4 * g + 1) 0) +
  2 ^ 16 * bf16Exp (ws.getD (4 * g + 2) 0) + 2 ^ 24 * bf16Exp (ws.getD (4 * g + 3) 0)

/-- Add one to the count of a tuple in a list kept in ascending order of tuples. -/
def countTuple : List (Nat × Nat) → Nat → List (Nat × Nat)
  | [], t => [(t, 1)]
  | (x, c) :: r, t => if t < x then (t, 1) :: (x, c) :: r else if t = x then (x, c + 1) :: r else (x, c) :: countTuple r t

/-- Distinct tuples with their counts, ascending (07 R180 pass 1). -/
def tupleCounts (ws : List Nat) : List (Nat × Nat) :=
  ((List.range (ws.length / 4)).map (tupleOf ws)).foldl countTuple []

/-- Insert into a list ordered by descending count and ascending tuple (07 R180 step 1). -/
def insertByCount : List (Nat × Nat) → Nat × Nat → List (Nat × Nat)
  | [], a => [a]
  | x :: r, a => if a.2 > x.2 ∨ (a.2 = x.2 ∧ a.1 < x.1) then a :: x :: r else x :: insertByCount r a

/-- The kept tuples, ascending (07 R180). -/
def keptTuples (counts : List (Nat × Nat)) : List Nat :=
  ((counts.foldl insertByCount []).take (min 4096 counts.length)).map (·.1) |>.foldl insertAsc' []
where
  insertAsc' : List Nat → Nat → List Nat
    | [], a => [a]
    | x :: r, a => if a < x then a :: x :: r else x :: insertAsc' r a

/-- The codebook: kept tuples, then copies of the last (07 R180). -/
def buildCodebook (kept : List Nat) : List Byte :=
  ((List.range 4096).map fun i => leBytes 4 (kept.getD i (kept.getLastD 0))).flatten

/-- Distance of a group's exponents from codebook entry c (07 R181). -/
def ex4Dist (ws : List Nat) (cb : List Byte) (g c : Nat) : Nat :=
  listSum ((List.range 4).map fun i =>
    ((bf16Exp (ws.getD (4 * g + i) 0) : Int) - (byteAt cb (4 * c + i) : Int)).natAbs)

/-- Index of the nearest entry, the lowest winning ties, and its distance (07 R181). -/
def ex4Best (ws : List Nat) (cb : List Byte) (g : Nat) : Nat × Nat :=
  (List.range 4096).foldl (fun b c => let d := ex4Dist ws cb g c; if d < b.2 then (c, d) else b) (0, 0xFFFFFFFF)

/-- The reference compressor for one leaf: payload, and lossy groups (07 R181). -/
def ex4Compress (ws : List Nat) (cb : List Byte) : List Byte × Nat :=
  let best := (List.range 256).map (ex4Best ws cb)
  let plane := (List.range 1024).map fun k =>
    let w := ws.getD k 0
    BitVec.ofNat 8 (w / 2 ^ 15 % 2 * 128 + w % 128)
  let codes := leBytes 384 (best.foldr (fun b acc => acc * 4096 + b.1) 0)
  (plane ++ codes, (best.filter fun b => b.2 != 0).length)

/-- A leaf record as the reference compressor writes it (07 R181). -/
def ex4Record (cbId : Nat) (payload : List Byte) : List Byte :=
  leBytes 1 1 ++ leBytes 1 0x7F ++ leBytes 2 1408 ++ leBytes 2 1024 ++ leBytes 2 cbId ++
  leBytes 4 (crc32c payload).toNat ++ leBytes 4 0

/-- A folio entry's 64 bytes (07 R165, R181). -/
def Folio.bytes (f : Folio) : List Byte :=
  leBytes 1 f.fmt ++ leBytes 1 f.placement ++ leBytes 2 f.cbId ++ leBytes 4 f.count ++ leBytes 4 f.first ++
  leBytes 4 0 ++ leBytes 8 f.payOff ++ leBytes 8 f.tabOff ++ leBytes 8 f.cbAddr ++ leBytes 24 0

/-- One step of the self-test's generator (15 R357). -/
def genStep (st : Word32) : Word32 :=
  let a := st ^^^ (st <<< 13)
  let b := a ^^^ (a >>> 17)
  b ^^^ (b <<< 5)

/-- The BF16 value of the self-test tensor from one generator value (15 R357 item 1). -/
def genTensor (r : Word32) : Nat :=
  let v := r.toNat
  v / 2 ^ 31 * 2 ^ 15 + (120 + v / 256 % 10) * 128 + v % 128

/-- The FP32 value of the keystone vector (15 R357 item 4). -/
def genKeystone (v : Word32) : Word32 :=
  if (v >>> 23) &&& 0xFF#32 = 0xFF#32 then v &&& ~~~ 0x40000000#32 else v

end Sys2Proof.Machine
end

