-- ==== Sys2Proof/Machine/Operands.lean ====
section
/-! DEFINITION. The operand forms of a descriptor (05, 06, 07, 08, 09): header and view fields, index vectors, the place of
each element, ranges, rows and groups, the stage operands, and the element counts that follow from an entry alone. -/

namespace Sys2Proof.Machine

/-- An entry of 256 bytes as the engine read it. -/
abbrev Entry := List Byte

namespace Entry

def opcode (e : Entry) : Nat := u8 e 0x00
def flags (e : Entry) : Nat := u8 e 0x01
def notify (e : Entry) : Bool := bitOf (flags e) 0
def exact_ (e : Entry) : Bool := bitOf (flags e) 1
def resend (e : Entry) : Bool := bitOf (flags e) 2
def stages (e : Entry) : Nat := u16 e 0x02
def stage (e : Entry) (i : Nat) : Bool := bitOf (stages e) i
def pd (e : Entry) : Nat := u16 e 0x04 % 64
def keySlot (e : Entry) : Nat := u16 e 0x04 / 64
def cookie (e : Entry) : List Byte := (e.drop 8).take 8
def prio (e : Entry) : Nat := u32 e 0x10 % 4
def timeout (e : Entry) : Nat := u32 e 0x10 / 256

/-- Stage enables (05 R123). -/
def indexed (e : Entry) : Bool := stage e 1
def expand (e : Entry) : Bool := stage e 2
def convert (e : Entry) : Bool := stage e 3
def layout (e : Entry) : Bool := stage e 4
def cipher (e : Entry) : Bool := stage e 5
def sealing (e : Entry) : Bool := stage e 6

/-- The extents, both views' strides and the view header (05 R129, R131). -/
def extent (e : Entry) (d : Nat) : Nat := u32 e (0x20 + 4 * d)
def exts (e : Entry) : List Nat := (List.range 6).map (extent e)
def srcStride (e : Entry) (d : Nat) : Int := signed 48 (field e (0x38 + 6 * d) 6)
def dstStride (e : Entry) (d : Nat) : Int := signed 48 (field e (0x5C + 6 * d) 6)
def srcBase (e : Entry) : Nat := u64 e 0x80
def dstBase (e : Entry) : Nat := u64 e 0x88
def srcType (e : Entry) : Nat := u8 e 0x90 % 16
def dstType (e : Entry) : Nat := u8 e 0x90 / 16
def srcContig (e : Entry) : Nat := u8 e 0x91 % 8
def dstContig (e : Entry) : Nat := u8 e 0x91 / 16 % 8
def rowDim (e : Entry) : Nat := u8 e 0x92 % 8
def fill (e : Entry) : Nat := u32 e 0x98

/-- The index operand (06 R137). -/
def idxBase (e : Entry) : Nat := u64 e 0xA0
def idxPitch (e : Entry) : Nat := u32 e 0xA8
def idxSigned (e : Entry) : Bool := u8 e 0xAC % 16 == 0xC
def idxDim (e : Entry) : Nat := u8 e 0xAD % 8
def idxOuter (e : Entry) : Nat := u8 e 0xAD / 16 % 8
def rangeFill (e : Entry) : Bool := bitOf (u8 e 0xAE) 0
def idxVal (e : Entry) (raw : Nat) : Int := if idxSigned e then signed 32 raw else raw
def idxMin (e : Entry) : Int := idxVal e (u32 e 0xB0)
def idxMax (e : Entry) : Int := idxVal e (u32 e 0xB4)

/-- The EXPAND operand (07 R167); TARIFF holds the same fields elsewhere (10 R226). -/
def tensorBase (e : Entry) : Nat := if opcode e = 0x0A then u64 e 0x68 else if opcode e = 0x10 then u64 e 0xC0 else u64 e 0xA0
def folioIndex (e : Entry) : Nat := if opcode e = 0x0A then u64 e 0x70 else u64 e 0xA8
def firstLeaf (e : Entry) : Nat := if opcode e = 0x0A then u32 e 0x78 else u32 e 0xB0
def folioCount (e : Entry) : Nat := if opcode e = 0x0A then u8 e 0x7C else u8 e 0xB4
def cbSet (e : Entry) : Nat := u8 e 0xB5 % 8

/-- The CONVERT operand (08 R184). -/
def scaleIn (e : Entry) : Nat := u64 e 0xC0
def scaleOut (e : Entry) : Nat := u64 e 0xC8
def mode (e : Entry) : Nat := if convert e then u8 e 0xD0 % 4 else 0
def zeroPoint (e : Entry) : Nat := if convert e then u8 e 0xD1 else 0
def pmIn (e : Entry) : Nat := u8 e 0xD2
def pmOut (e : Entry) : Nat := u8 e 0xD3

/-- The LAYOUT operand (09 R211). -/
def layoutOp (e : Entry) : Nat := u8 e 0xD8
def isPad (e : Entry) : Bool := layout e && layoutOp e == 0
def isInter (e : Entry) : Bool := layout e && layoutOp e == 1
def isDeinter (e : Entry) : Bool := layout e && layoutOp e == 2
def isSplit (e : Entry) : Bool := layout e && layoutOp e == 3
def isMerge (e : Entry) : Bool := layout e && layoutOp e == 4
def ldim (e : Entry) : Nat := u8 e 0xDA % 8
def lunit (e : Entry) : Nat := u8 e 0xDB % 8
def planePitch (e : Entry) : Nat := u32 e 0xDC
def padValue (e : Entry) : Nat := if bitOf (u8 e 0xD9) 0 then u32 e 0xDC else fill e
def padLo (e : Entry) (d : Nat) : Nat := if isPad e && d < 4 then u16 e (0xE0 + 4 * d) else 0
def padHi (e : Entry) (d : Nat) : Nat := if isPad e && d < 4 then u16 e (0xE2 + 4 * d) else 0
/-- Output extents (09 R213); the shared extents without PAD. -/
def outExts (e : Entry) : List Nat := (List.range 6).map fun d => padLo e d + extent e d + padHi e d

/-- The SEAL and CIPHER operand (09 R220, 14 R331). -/
def sealAddr (e : Entry) : Nat := u64 e 0xF0
def sealMode (e : Entry) : Nat := u8 e 0xF8 % 4
def sealPitch (e : Entry) : Nat := if u8 e 0xF9 % 4 = 1 then 16 else 4
def sealBlock (e : Entry) : Nat := 16 * u16 e 0xFA
def sealGen (e : Entry) : Bool := sealing e && sealMode e == 1
def sealChk (e : Entry) : Bool := sealing e && sealMode e == 2
def cipherWrite (e : Entry) : Bool := cipher e && bitOf (u8 e 0xFC) 0
def cipherRead (e : Entry) : Bool := cipher e && !bitOf (u8 e 0xFC) 0
def cipherUnit (e : Entry) : Nat := 512 * 2 ^ (u8 e 0xFC / 2 % 8)
def cipherId (e : Entry) : Nat := field e 0xFD 3

/-- Opcode kinds (05 R124). -/
def isView (e : Entry) : Bool := [0x01, 0x02, 0x03, 0x04, 0x0D, 0x0E, 0x10].contains (opcode e)
def hasSrc (e : Entry) : Bool := [0x01, 0x02, 0x03, 0x04, 0x0E, 0x10].contains (opcode e)
def hasDst (e : Entry) : Bool := [0x01, 0x02, 0x03, 0x0D].contains (opcode e)

end Entry

/-- One view of a job (05 R132): base address, contiguous dimension, element width, skips, strides, extents. -/
structure View where
  addr   : Nat
  c      : Nat
  w      : Nat
  head   : Nat
  tail   : Nat
  stride : List Int
  ext    : List Nat
  /-- INTERLEAVE or DEINTERLEAVE acts on it: stream dimension and unit (09 R216). -/
  inter  : Option (Nat × Nat) := none
  /-- PLANE_SPLIT or PLANE_MERGE acts on it: the pitch (09 R218). -/
  plane  : Option Nat := none
deriving DecidableEq, Repr

namespace View

def route (v : View) : Nat := v.addr / 2 ^ 56
def base (v : View) : Nat := v.addr % 2 ^ 56

/-- A dimension adds its stride: neither contiguous nor the stream dimension of an interleave, with extent above 1. -/
def strided (v : View) (d : Nat) : Bool :=
  d != v.c && decide (v.ext.getD d 1 > 1) && (match v.inter with | some (k, _) => d != k | none => true)

/-- Length in elements of the run at fixed other indices (05 R132, 09 R216). -/
def runLen (v : View) : Nat :=
  v.head + v.tail + v.ext.getD v.c 1 * (match v.inter with | some (k, _) => v.ext.getD k 1 | none => 1)

/-- Sum of base and strides for an index vector, in bytes; `force` names the indexed dimension and its value, whose stride
applies whatever its extent (06 R138). -/
def byteSum (v : View) (i : List Nat) (force : Option (Nat × Int)) : Int :=
  (List.range 6).foldl (fun (acc : Int) d =>
    match force with
    | some (x, val) =>
      if d = x then acc + val * v.stride.getD d 0
      else if v.strided d then acc + (i.getD d 0 : Int) * v.stride.getD d 0 else acc
    | none => if v.strided d then acc + (i.getD d 0 : Int) * v.stride.getD d 0 else acc) (v.base : Int)

/-- Position of an element in its run (05 R132, 09 R216). -/
def runPos (v : View) (i : List Nat) : Nat :=
  match v.inter with
  | some (k, u) =>
    let ic := i.getD v.c 0
    v.head + (ic / u * v.ext.getD k 1 * u + i.getD k 0 * u + ic % u)
  | none => v.head + i.getD v.c 0

/-- The bit offsets that an element of the view occupies, least significant first: one place of `w` bits, or one bit in
each plane (05 R132, 09 R216, R218). -/
def bits (v : View) (i : List Nat) (force : Option (Nat × Int)) : List Int :=
  let b := v.byteSum i force * 8
  match v.plane with
  | some p =>
    let ic := i.getD v.c 0
    (List.range v.w).map fun k => b + (8 * (k * p + ic / 8) + ic % 8 : Nat)
  | none =>
    let start := if v.c = 7 then b else b + (v.runPos i * v.w : Nat)
    (List.range v.w).map fun (k : Nat) => start + (k : Int)

/-- lo and hi of a view (05 R133), the term of an indexed dimension replaced by the products of its bounds (06 R140). -/
def range (v : View) (idx : Option (Nat × Int × Int)) : Int × Int :=
  let lh := (List.range 6).foldl (fun (a : Int × Int) d =>
    let t : Int :=
      if v.strided d then ((v.ext.getD d 1 : Int) - 1) * v.stride.getD d 0 else 0
    match idx with
    | some (x, mn, mx) =>
      if d = x then
        let p := mn * v.stride.getD d 0
        let q := mx * v.stride.getD d 0
        (a.1 + min p q, a.2 + max p q)
      else if t < 0 then (a.1 + t, a.2) else (a.1, a.2 + t)
    | none => if t < 0 then (a.1 + t, a.2) else (a.1, a.2 + t)) ((v.base : Int), (v.base : Int))
  let run : Nat :=
    match v.plane with
    | some p => (v.w - 1) * p + v.ext.getD v.c 1 / 8
    | none => if v.c = 7 then v.w / 8 else v.runLen * v.w / 8
  (lh.1, lh.2 + run - 1)

def lo (v : View) : Int := (v.range none).1
def hi (v : View) : Int := (v.range none).2
def span (v : View) : Int := v.hi - v.lo + 1

end View

/-- Product of a list of extents. -/
def prodOf (l : List Nat) : Nat := l.foldl (· * ·) 1

/-- Index vector of a linear index over extents, dimension 0 fastest (01 R33). -/
def unrank : List Nat → Nat → List Nat
  | [], _ => []
  | x :: r, n => n % x :: unrank r (n / x)

/-- Linear index of an index vector. -/
def rank : List Nat → List Nat → Nat
  | x :: r, i :: is => i + x * rank r is
  | _, _ => 0

namespace Entry

def interOf (e : Entry) (on : Bool) : Option (Nat × Nat) := if on then some (ldim e, 2 ^ lunit e) else none
def planeOf (e : Entry) (on : Bool) : Option Nat := if on then some (planePitch e) else none

/-- The source view. -/
def src (e : Entry) : View :=
  { addr := srcBase e, c := srcContig e, w := typeBits (srcType e), head := u8 e 0x94, tail := u8 e 0x95,
    stride := (List.range 6).map (srcStride e), ext := exts e,
    inter := interOf e (isDeinter e), plane := planeOf e (isMerge e) }

/-- The destination view, with the output extents (09 R213). -/
def dst (e : Entry) : View :=
  { addr := dstBase e, c := dstContig e, w := typeBits (dstType e), head := u8 e 0x96, tail := u8 e 0x97,
    stride := (List.range 6).map (dstStride e), ext := outExts e,
    inter := interOf e (isInter e), plane := planeOf e (isSplit e) }

/-- The view that an index stream drives (06): the destination for SCATTER, else the source. -/
def idxOnDst (e : Entry) : Bool := opcode e == 0x03
def idxBounds (e : Entry) : Option (Nat × Int × Int) :=
  if indexed e then some (idxDim e, idxMin e, idxMax e) else none
def srcRange (e : Entry) : Int × Int := (src e).range (if idxOnDst e then none else idxBounds e)
def dstRange (e : Entry) : Int × Int := (dst e).range (if idxOnDst e then idxBounds e else none)

/-- Data elements: the product of the shared extents. -/
def dataElems (e : Entry) : Nat := prodOf (exts e)

/-- Rows and their length (08 R187). -/
def rowLen (e : Entry) : Nat := extent e (rowDim e)
def rows (e : Entry) : Nat := if rowLen e = 0 then 0 else dataElems e / rowLen e
def groups (e : Entry) : Nat := ceilDiv (rows e) 64

/-- Index position p of an index vector (06 R138), and the last one (R140). -/
def idxPos (e : Entry) (i : List Nat) : Nat :=
  i.getD (idxDim e) 0 + (if idxOuter e = 7 then 0 else i.getD (idxOuter e) 0 * idxPitch e)
def idxLast (e : Entry) : Nat :=
  (extent e (idxDim e) - 1) + (if idxOuter e = 7 then 0 else (extent e (idxOuter e) - 1) * idxPitch e)

/-- Entries of the winner table (06 R145). -/
def winnerEntries (e : Entry) : Int :=
  (idxMax e - idxMin e + 1) * (if idxOuter e = 7 then 1 else extent e (idxOuter e))

/-- The sealed view and its blocks (09 R221). -/
def sealView (e : Entry) : View := if sealMode e = 1 then dst e else src e
def sealBlocks (e : Entry) : Nat := ceilDiv (sealView e).span.toNat (max 1 (sealBlock e))
/-- The cipher-side view and its data units (14 R334-R337), for a view that is not expanded. -/
def cipherView (e : Entry) : View := if cipherWrite e then dst e else src e
def cipherUnits (e : Entry) : Nat := ceilDiv (cipherView e).span.toNat (cipherUnit e)

/-- Dense in order (09 R209), with the view's own extents. -/
def denseInOrder (_e : Entry) (v : View) (driven : Bool) : Bool :=
  v.c == 0 && v.head == 0 && v.tail == 0 && !driven && v.inter.isNone && v.plane.isNone &&
  (List.range 6).all fun d =>
    d == 0 || decide (v.ext.getD d 1 ≤ 1) ||
    v.stride.getD d 0 * 8 == ((prodOf (v.ext.take d) * v.w : Nat) : Int)

/-- Leaves of an EXPAND or TARIFF job (07 R168, 10 R228). -/
def leafData (e : Entry) : Nat := if opcode e = 0x0A then u32 e 0x20 * u32 e 0x24 else dataElems e
def leaves (e : Entry) : Nat := ceilDiv (leafData e) 1024

/-- Element count of the job: the linear output indices (01 R33, 05 R135, 06 R144, 08 R206, 09 R214 R225, 10 R236, 11 R250
R273). -/
def elemCount (e : Entry) : Nat :=
  match opcode e with
  | 0x01 => prodOf (outExts e)
  | 0x02 => prodOf (outExts e)
  | 0x03 => dataElems e
  | 0x04 => rows e
  | 0x05 => u32 e 0x2C
  | 0x06 => u32 e 0x2C
  | 0x07 => u32 e 0x2C
  | 0x08 => u32 e 0x28 * u32 e 0x2C
  | 0x09 => u32 e 0x28 * u32 e 0x2C
  | 0x0A => u32 e 0x20 * u8 e 0x28
  | 0x0D => prodOf (outExts e)
  | 0x0E => dataElems e
  | 0x10 => dataElems e
  | _ => 0

/-- Elements of a tile for an output width in bits (01 R33). -/
def tileElems (w : Nat) : Nat := 131072 / w

/-- Tile length of a view opcode, STATS or SEAL_CHECK (01 R33, 08 R206, 09 R225); HISTOGRAM_BUILD counts source elements. -/
def viewTile (e : Entry) : Nat :=
  match opcode e with
  | 0x04 => 4096
  | 0x0E => tileElems (max 1 (typeBits (srcType e)))
  | 0x10 => tileElems 16
  | _ => tileElems (max 1 (typeBits (dstType e)))

end Entry

/-- Type pairs of the classes of 08 R183: 0 cast, 1 quantise, 2 dequantise. -/
def convClass (src dst : Nat) : Option Nat :=
  if isWide src && isWide dst then some 0
  else if isWide src && isNarrow dst then some 1
  else if isNarrow src && isWide dst then some 2
  else none

/-- Modes that a class allows (08 R183). -/
def modeAllowed (cls mode : Nat) : Bool :=
  match cls with | 0 => mode == 0 | 1 => true | _ => mode == 0 || mode == 3

/-- A type code that R127 reserves. -/
def typeReserved (t : Nat) : Bool := [0xA, 0xD, 0xE, 0xF].contains t

end Sys2Proof.Machine
end

