-- ==== Sys2Proof/Config.lean ====
section
/-! DEFINITION. What an implementation fixes, and the free values: opaque constants, of which nothing can be proved. -/

namespace Sys2Proof.Config

/-- The free values: a value the spec leaves open is `freeValue n` for the step's own number n, taken from the
counter `block.free` of the state, which the step then advances (log entry 7). -/
opaque freeValue : Nat → Nat

/-- The byte that an undefined range reads at an address (07 R178 scratch, log entry 7): `seed` is the free counter
at the step that left the range undefined. -/
opaque freeByte : (seed address : Nat) → BitVec 8

/-- MAJOR design level of the identity register (20 R461: Fixed; log entry 8). -/
opaque majorLevel : BitVec 8
/-- MINOR design level of the identity register (20 R461: Fixed; log entry 8). -/
opaque minorLevel : BitVec 8
/-- Manufacturer identity, bits [11:1] of IDCODE, tied off by the integrator (19 R458; log entry 8). -/
opaque manufacturer : BitVec 11
/-- Version, bits [31:28] of IDCODE, tied off by the integrator (19 R458; log entry 8). -/
opaque version : BitVec 4

/-- CODEBOOK_ID of the folio that the self-test builds (15 R358 names none; log entry 19). -/
opaque selfTestBook : BitVec 16

end Sys2Proof.Config
end

