-- ==== Sys2Proof/Machine/State.lean ====
section
/-! DEFINITION. The state of the Sceob block as plain data, the reasons a step can stop, and the state at reset.
Every field cites the rule of spec/ that names it; fields that are the model's own say so. A register without a reset
value in the spec holds the value that log entry 6 names. -/

namespace Sys2Proof.Machine

/-- Reasons for the machine to stop with a fault. The block has none: what the manual calls a fault is a status code, a
unit's fault bit, an incident or a reset level, all of them effects on the state. No command raises one (safe). -/
inductive Fault where
deriving DecidableEq, Repr

/-- Reasons to refuse a command. -/
inductive Refusal where
  /-- The command has no meaning in the model yet. Raised by the arm of `exec` that names it, by nothing else (safe). -/
  | notModelled (mnemonic : String)
deriving DecidableEq, Repr

/-- What the block did at its boundary, the newest first in `Block.out`. -/
inductive Out where
  /-- A pulse on NOTE[line] (03 R96, 18 R418). -/
  | note (line : Nat)
  /-- A pulse on EVT_OUT[ch] (12 R284). -/
  | evt (ch : Nat)
  /-- The data of a host read (20 R460). -/
  | regData (off : Nat) (value : Word32)
  /-- The response byte of the key port (14 R327). -/
  | keyResp (code : Nat)
  /-- A placement credit on a transport port (19 R444): 0 PLACED, 1 REFUSED, 2 NOT_READY. -/
  | placement (conn outcome : Nat)
  /-- An RSP item to the transport or to a deck peer. -/
  | rsp (src : MsgSrc) (res : Resp)
  /-- Read data to the transport or to a deck peer, with its POISON bit. -/
  | rdd (src : MsgSrc) (data : List Byte) (poison : Bool)
  /-- A message sent to the engine that acts for a rank, or to a deck device. -/
  | msg (dst : MsgSrc) (m : Msg)
  /-- WINDOW_READY and WINDOW_CLOSED (19 R441). -/
  | winReady (conn w : Nat)
  | winClosed (conn w : Nat)
  /-- Bits shifted out of the test access port. -/
  | tdo (bits : List Bool)
  /-- An item of another device forwarded at the viaduct link layer (19 R450). -/
  | forwarded (src dest : Nat)
  /-- Credit withheld for a 65th doorbell write (16 R375). -/
  | withheld
deriving DecidableEq, Repr

/-- The life of the block: RST_N asserted, in start-up, in service, stopped by the keeper, OFF (15 R355 R356, 16 R383). -/
inductive Phase where
  | held | starting | running | stopped | off
deriving DecidableEq, Repr

/-- Phase, straps, supply, clock and outputs. -/
structure Block where
  phase      : Phase := .held
  /-- Start-up step last finished (15 R355). -/
  step       : Nat := 0
  /-- The fuse as last sensed (14 R340). -/
  testLock   : Bool := false
  debugArmed : Bool := false
  deckId     : BitVec 3 := 0
  /-- VIN stood below 0.78 V and has not recovered (21 R478). -/
  vinLow     : Bool := false
  /-- REF_CLK runs (21 R485). -/
  refClk     : Bool := true
  /-- The incident of R485 waits for REF_CLK to return. -/
  refLoss    : Bool := false
  pwrcyc     : Bool := false
  /-- OFF has been accepted and its entry runs (16 R383). -/
  offEntry   : Bool := false
  /-- The model's own count of keeper ticks (log entry 1). -/
  ticks      : Nat := 0
  /-- The model's own counter of free values (log entry 7). -/
  free       : Nat := 0
  out        : List Out := []
deriving DecidableEq, Repr

/-- The keeper page (20 R463) and what ALIVE needs (17 R404-R406). -/
structure Keeper where
  alive      : Bool := false
  frozen     : Bool := false
  lockstepOk : Bool := true
  oscRc      : Bool := false
  oscTrimmed : Bool := false
  ready      : BitVec 4 := 0
  lastSeq    : Word16 := 0
  anyInc     : Bool := false
  nextSeq    : Word16 := 0
  /-- 16 entries of 16 bytes, written as one number (18 R416). -/
  ring       : List (BitVec 128) := List.replicate 16 0
  ringLatch  : List (BitVec 128) := List.replicate 16 0
  ownerSlot  : Word64 := 0
  /-- Records to be written to an event slot, 0 the owner's, once the slot's translation has arrived (18 R418). -/
  slotDue    : List (Nat × List Byte) := []
deriving DecidableEq, Repr

/-- The latch and the shadow of each 64-bit register, by its lower offset (20 R460), and OWNER_XLAT_CTX (R461). -/
structure RegFile where
  latch    : List (Nat × Word32) := []
  shadow   : List (Nat × Word32) := []
  ownerCtx : Word32 := 0
deriving DecidableEq, Repr

/-- Profile status (15 R354), the image window (20 R462) and the copies of the load in progress (R345). -/
structure Prof where
  selected    : BitVec 2 := 0
  activeS     : Bool := false
  committed   : Bool := false
  oneCopy     : Bool := false
  disagree    : Bool := false
  bad         : Bool := false
  commitFault : Bool := false
  pselSampled : BitVec 2 := 0
  failA       : BitVec 3 := 0
  failB       : BitVec 3 := 0
  /-- Bytes +0x000 to +0x7FB; an unlisted byte is 0. -/
  image       : List Host.Cell := []
  crc         : Word32 := 0
  /-- A load has finished and COMMIT is accepted (R353, R355 step 7). -/
  loaded      : Bool := false
  /-- A load is due: cold start, block compute-part reset, or SWITCH_PROFILE (true: commits at once). -/
  loadDue     : Bool := false
  switching   : Bool := false
  /-- Copies marked as read failures (R345). -/
  failedA     : Bool := false
  failedB     : Bool := false
  /-- Outcome of the last load, for AUX of SWITCH_PROFILE (R351). -/
  outcome     : Nat := 0
  /-- A profile has been committed since RST_N was released (R360). -/
  once        : Bool := false
  /-- Stacks that reported ready at the last load, with their capacities (R348). -/
  loadCaps    : List (Nat × Nat) := []
deriving DecidableEq, Repr

/-- Queue states, coded as STATE of 03 R98. -/
inductive QState where
  | destroyed | active | halted | stopped | error | reset
deriving DecidableEq, Repr

/-- An entry read from the ring and not yet admitted (03 R87): its index and its job number. -/
structure Fetched where
  idx : Word32
  uid : Nat
deriving DecidableEq, Repr

/-- The shaper settings of 04 R109 and R111. -/
structure Shaper where
  quantum : Nat := 16
  rate    : Nat := 0
  burst   : Nat := 16
deriving DecidableEq, Repr

/-- A translation received (19 R439): the offset of a page of a route, its size and the address it maps to. -/
structure Xlat where
  route : Nat
  page  : Nat
  log2  : Nat
  addr  : Nat
deriving DecidableEq, Repr

/-- One I/O queue or administrative queue (03, 04). -/
structure Queue where
  qid       : QId
  state     : QState := .active
  part      : Nat := 0
  ring      : Word64 := 0
  log2      : Nat := 4
  status    : Word64 := 0
  recovery  : Bool := false
  pd        : Nat := 0
  /-- H, A and the last evaluated doorbell. -/
  head      : Word32 := 0
  tail      : Word32 := 0
  lastDb    : Word32 := 0
  seq       : Word16 := 0
  /-- Accepted entries that have not completed, in ring order. -/
  open_     : List Word32 := []
  fetched   : List Fetched := []
  shaper    : Shaper := {}
  /-- A committed shaper change that waits for its refill (R114). -/
  newShaper : Option Shaper := none
  tokens    : Int := 25 * 16 * 4096
  deficit   : Nat := 0
  admittedJobs  : Word64 := 0
  admittedBytes : Word64 := 0
  decodeFails   : Word64 := 0
  bucketHolds   : Word64 := 0
  /-- The context is lost (03 R92). -/
  lost      : Bool := false
  /-- INDEX, DETAIL and CODE of the status line in ERROR. -/
  errIndex  : Word32 := 0
  errDetail : Word16 := 0
  errCode   : Byte := 0
  /-- INDEX and HALT_COUNT of the last status line called for (R99). -/
  haltIndex : Word32 := 0
  haltCount : Nat := 0
  /-- Translations received for ring and status-line accesses, each used once (19 R439). -/
  xlat      : List Xlat := []
  /-- Status lines that are due and wait for their translation (R99). -/
  due       : Nat := 0
  /-- Jobs that a state change completes: its status line comes after the last of them (R99). -/
  after     : List Nat := []
deriving DecidableEq, Repr

/-- The data that the reads of a thread or a pass have brought (06 R147): granules returned, by key, and granules answered with
an error, with the code of the answer. -/
structure Seen where
  has : List Nat := []
  bad : List (Nat × Nat) := []
deriving DecidableEq, Repr

/-- A thread of a job: the tile, where it runs, what its reads have brought, and whether its writes have been issued (01
R34-R37). Core 32 means that it waits for a free thread context of its span (R19). -/
structure Thread where
  tile : Nat
  span : Nat
  core : Nat := 0
  seen : Seen := {}
  ran  : Bool := false
deriving DecidableEq, Repr

/-- A key slot that is not EMPTY (14 R326): mode, 64 bytes, and its binding if BOUND. -/
structure Key where
  slot  : Nat
  gcm   : Bool
  bytes : List Byte
  bound : Option (Nat × Nat × Nat) := none
deriving DecidableEq, Repr

/-- A contribution to COUNT and AUX at a linear element (01 R37, 06 R494). `conv` marks what the CONVERT stage counted in
COUNT, which a redo replaces (08 R191, R203). -/
structure Contrib where
  tile : Nat
  elem : Nat
  cnt  : Nat
  aux  : Nat
  conv : Bool := false
deriving DecidableEq, Repr

/-- What a job reports although it runs to its end: a faulted leaf (07 R174), a failed seal block (09 R224), a failed
cipher unit (14 R338) or a faulted row (08 R200). -/
inductive MarkKind where
  | leafSeal | leafUnder | leafOver | block | unit | row
deriving DecidableEq, Repr

structure Mark where
  kind : MarkKind
  tile : Nat
  elem : Nat
  num  : Nat
deriving DecidableEq, Repr

/-- An early event at a linear element (06 R150): its code and DETAIL, its rank under R151, and whether it is a
translation page fault. -/
structure Early where
  elem   : Nat
  code   : Nat
  detail : Nat
  rank   : Nat := 1
  halt   : Bool := false
  /-- The access belongs to no tile (02 R52). -/
  noTile : Bool := false
deriving DecidableEq, Repr

/-- What a committed administrative command waits for (13 R297, R299). -/
inductive Wait where
  | none
  | commit
  /-- CANCEL_QUEUE: the jobs that were cancelled. -/
  | cancel (uids : List Nat)
  | level (id : Nat)
  | jobs (uids : List Nat)
  | channel (ch : Nat)
  | floor (mask : Word64) (floor : Nat)
  | writes
  | fence (span : Nat) (core : Option Nat)
  | swap (span : Nat) (kind : SpareKind) (elem : Nat)
  | profile
deriving DecidableEq, Repr

/-- The phases of an entry: fetched and undecoded, running, halted on a page fault, ended with a code, record issued,
DONE issued, DONE answered. -/
inductive JobPhase where
  | fetched | running | halted | ending | record | done | answered
deriving DecidableEq, Repr

/-- The shifts of one group of 64 rows as a scale record holds them (08 R193 R194). -/
structure ScaleRec where
  group : Nat
  base  : Nat
  offs  : List Nat
  /-- FLAGS of an input record as it was read (08 R203). -/
  flags : Nat := 0
deriving DecidableEq, Repr

/-- What the passes of a job keep between its steps (06 R144, R491, 08 R195-R203, 10 R232). -/
structure Pass where
  /-- INDEX_PASS done, with the winning i[x] of each (value, i[y]). -/
  indexed   : Bool := false
  winners   : List ((Int × Nat) × Nat) := []
  /-- FIRST_PASS: records formed in the scale pass; CONVERSION_PASS has begun. -/
  scales    : List ScaleRec := []
  converting : Bool := false
  /-- CARRIED and APPLY, and TARIFF: input groups matched so far, in order. -/
  matched   : List ScaleRec := []
  /-- CARRIED: per row that has retired whole, its next shift, or none for a scale fault. -/
  nexts     : List (Nat × Option Int) := []
  /-- CARRIED: the max-abs of what a tile's thread read in a row, by tile and row (R200). -/
  maxima    : List ((Nat × Nat) × (Nat × Int)) := []
  /-- RESEND: groups that wait for their redo; records of groups whose data has been written again and waits for its answers;
  groups redone, and groups whose redo was cancelled (R203, R204). -/
  redo      : List Nat := []
  /-- RESEND: the group in step 2 of its redo, with the record that step 1 formed (R203). -/
  redoAt    : Option ScaleRec := none
  redoing   : List ScaleRec := []
  redone    : List Nat := []
  cancelled : List Nat := []
  /-- What the reads that belong to no thread have brought: those of a pass, of a redo, of input records, codebooks and tables. -/
  seen      : Seen := {}
  /-- Folios of the job whose codebooks spans hold in the job's sets: (span, folio) (07 R171). -/
  loaded    : List (Nat × Nat) := []
  /-- Closing writes issued, and those that wait for a translation: the first element of the block or group, and the
  kind: 0 seal, 1 GCM tag, 2 scale record, 3 per-tensor maximum (06 R491). -/
  closed    : List (Nat × Nat) := []
  due       : List (Nat × Nat) := []
  /-- Stored bytes of the destination as the job wrote them, by offset, for its seals and tags (09 R221, 14 R337). -/
  outs      : List Host.Cell := []
  /-- Granules, by key, that hold a filled element (07 R175). -/
  poisoned  : List Nat := []
  /-- STATS: the row maxima as FP32 bits, by row. -/
  rowMax    : List (Nat × Word32) := []
  /-- HISTOGRAM_BUILD: pass 1 done, its codebook, folio entry written. TARIFF: its tables are built (10 R240). DISPATCH and COMBINE:
  `book` holds the routing stream as the index pass read it (11 R270). -/
  built     : Bool := false
  book      : List Byte := []
  folio     : Bool := false
  /-- A group job: contribution sent, accepted or header seen, re-sends or re-requests, ranks whose payload and header
  writes have been issued, tiles recomputed after a residue failure (11 R251-R260). -/
  sent      : Bool := false
  accepted  : Bool := false
  resends   : Nat := 0
  payloads  : List Nat := []
  headers   : List Nat := []
  retried   : Bool := false
  /-- BARRIER and GROUP_BARRIER: phase reached, jobs waited for, devices arrived. -/
  bphase    : Nat := 0
  waitFor   : List Nat := []
  arrived   : List Nat := []
deriving DecidableEq, Repr

/-- One entry from its fetch, or from its completion without a fetch, to its completion. -/
structure Job where
  uid      : Nat
  queue    : QId
  idx      : Word32
  part     : Nat
  entry    : List Byte
  phase    : JobPhase := .fetched
  /-- False for an entry completed without ever having been fetched (03 R89). -/
  read     : Bool := true
  /-- Place in the partition's order of admission. -/
  order    : Nat := 0
  /-- Elements, tiles, and the next tile to hand out. -/
  elems    : Nat := 0
  tiles    : Nat := 0
  /-- Elements of a tile (01 R33, and the opcodes' chapters). -/
  tlen     : Nat := 1
  next     : Nat := 0
  /-- Tiles handed out whose span has been fenced or reset: they are handed out again (01 R32, R35), rising. -/
  again    : List Nat := []
  threads  : List Thread := []
  retired  : List Nat := []
  contribs : List Contrib := []
  marks    : List Mark := []
  early    : Option Early := none
  saved    : Nat := 0
  /-- Code and DETAIL once the entry has ended, with POSITION, COUNT and AUX for its record. -/
  code     : Nat := 0
  detail   : Nat := 0
  position : Nat := 0
  count    : Nat := 0
  aux      : Nat := 0
  /-- The descriptor timeout expired, the queue was cancelled or a reset began: no further access (06 R155). -/
  stopped  : Bool := false
  /-- Entries of one cancel or reset complete in index order (03 R92). -/
  ordered  : Bool := false
  /-- Keys of bytes that another party has written since the job was admitted (01 R39). -/
  touched  : List Nat := []
  banks    : List (Nat × Nat) := []
  cbSet    : Option Nat := none
  xlat     : List Xlat := []
  wait     : Wait := .none
  /-- Halted on an access that belongs to no tile: it is decoded again before it goes on (02 R52). -/
  recheck  : Bool := false
  /-- What decode read and checked: the folio entries or the expert map, as bytes (07 R169, 11 R269). -/
  decoded  : List Byte := []
  /-- The key of its slot as it was at admission (14 R329). -/
  key      : Option Key := none
  pass     : Pass := {}
deriving DecidableEq, Repr

/-- What an issued write belongs to, so that its answer finds its effect. -/
inductive WKind where
  /-- Output of the thread of tile n. -/
  | thread
  /-- Closing write of the block or group that begins at element n (06 R491). -/
  | closing
  /-- Output record of the scale pass (08 R197). -/
  | scale
  /-- Result payload and header for rank n (11 R254), slot rows and header n of a DISPATCH (R271). -/
  | payload
  | header
  /-- The codebook and folio of HISTOGRAM_BUILD; a record rewritten by RESEND_REDO. -/
  | other
  | record
  | done
deriving DecidableEq, Repr

/-- What a request belongs to, so that its answer finds its effect. -/
inductive Owner where
  | job (uid : Nat) (kind : WKind) (n : Nat)
  /-- A read of the fetch stage for the thread of a tile, or for a pass of the job, which has the number of the job's tiles. -/
  | fetch (uid tile : Nat)
  /-- A message to another engine (19 R443). -/
  | message
  | status (q : QId)
  | chanData (ch : Nat)
  | chanCons (ch : Nat)
  | slot (p : Nat)
  | admin (aq : Nat)
  | inbound (id : Nat)
  /-- A contribution on its way into its slot, and a result written again from retention: partition, group, chunk and rank (11 R251,
  R259). -/
  | contribution (p g chunk rank : Nat)
  | rewrite (p g chunk rank : Nat)
deriving DecidableEq, Repr

/-- Bits of one byte that a write changes: its key, the mask of the bits, their values (19 R429). -/
structure WByte where
  key  : Nat
  mask : Nat
  val  : Nat
deriving DecidableEq, Repr

/-- A read of the fetch stage (06 R147): the granules of one 256-byte block that are asked for and not yet returned, whether it
holds a prefetch tag, whether its data drains into scratch (R155), and the bytes that writes have reached since. -/
structure Fetch where
  left    : List Nat
  tagged  : Bool := false
  drained : Bool := false
  newer   : List Nat := []
deriving DecidableEq, Repr

/-- What a request carries: the bits it writes with the granules it poisons; zero over a whole range (a scrub, 13 R317); a read;
a message. The bits of a write reach its target when the target acknowledges it (02 R67). -/
inductive Body where
  | write (bytes : List WByte) (poison : List Nat)
  | zero (base len : Nat)
  | fetch (f : Fetch)
  | message (dst : MsgSrc) (m : Msg)
deriving DecidableEq, Repr

/-- A request issued to a port and not yet answered (19 R427-R433). -/
structure Request where
  port     : Port
  /-- Given when the request is transferred: the lowest free tag of the port. -/
  tag      : Nat := 0
  owner    : Owner
  body     : Body
  /-- Lowest linear element whose bytes a write carries. -/
  elem     : Nat := 0
  route    : Nat := 0
  part     : Nat := 0
  granules : Nat := 1
  /-- Span whose thread issued it: the prefetcher of a read, and the escalation of a context reset (18 R408). -/
  span     : Option Nat := none
  /-- Transferred; before that it waits for a prefetch tag or for credits. -/
  sent     : Bool := false
  /-- It timed out and counts as answered; the late answer is discarded (R433). -/
  late     : Bool := false
deriving DecidableEq, Repr

/-- A region entry (02 R59). -/
structure Region where
  id     : Nat
  base   : Word64
  len    : Nat
  pd     : Nat
  rights : BitVec 3
deriving DecidableEq, Repr

/-- A remote window (02 R57, 13 R304). -/
structure Window where
  w       : Nat
  conn    : Nat
  base    : Word64
  len     : Nat
  /-- WINDOW_READY has been sent (16 R379). -/
  ready   : Bool := false
  /-- CLOSE_WINDOW has committed and has not completed: its vote stands (16 R367). -/
  closing : Bool := false
deriving DecidableEq, Repr

/-- A member record (11 R245). -/
structure Member where
  recv    : Word64
  recvLen : Nat
  place   : Option MsgSrc
  /-- Remote window of a REMOTE member. -/
  win     : Option Nat := none
deriving DecidableEq, Repr

/-- What the owner keeps of a chunk in the epoch (11 R251-R254). -/
structure Chunk where
  chunk    : Nat
  elems    : Nat
  accepted : List Nat := []
  fails    : List (Nat × Nat) := []
  reduced  : Bool := false
deriving DecidableEq, Repr

inductive GState where
  | open_ | ready | aborted
deriving DecidableEq, Repr

/-- A group object (11 R244, R262-R268). -/
structure Group where
  g           : Nat
  tag         : Nat
  m           : Nat
  inT         : Nat
  outT        : Nat
  chunkElems  : Nat
  epochChunks : Nat
  slotDepth   : Nat
  timeout     : Nat
  pd          : Nat
  slotArea    : Word64
  members     : List Member
  epoch       : Nat := 0
  state       : GState := .open_
  cause       : AbortCause := .groupAbort
  chunks      : List Chunk := []
  /-- Chunks of this engine's ranks that it has contributed in the epoch: (rank, chunk). -/
  contributed : List (Nat × Nat) := []
  /-- Group jobs of the epoch that completed otherwise than with OK, other than with a decode code. -/
  dirty       : Bool := false
  /-- At the coordinator: ranks reported READY; engines that have acknowledged the close letter, by ranks. -/
  readyRanks  : List Nat := []
  closing     : Option Nat := none
  acked       : List Nat := []
deriving DecidableEq, Repr

/-- The set-up registers of an administrative queue (20 R466). -/
structure AQ where
  ring    : Word64 := 0
  status  : Word64 := 0
  log2    : BitVec 5 := 0
  pd      : BitVec 6 := 0
  code    : Byte := 0
  busy    : Bool := false
  /-- The command that BUSY stands for, 1 to 4. -/
  cmd     : Nat := 0
  /-- The reset level a CONTEXT_RESET waits for. -/
  level   : Option Nat := none
deriving DecidableEq, Repr

/-- An explicit vote of a holder (13 R310): floor 0 RUN, 1 IDLE, 2 SLEEP, and the spans named. -/
structure VoteRec where
  holder : Nat
  floor  : Nat
  mask   : Word64
deriving DecidableEq, Repr

/-- What the block holds for a partition, or for the owner as number 0. -/
structure Part where
  aq         : AQ := {}
  regions    : List Region := []
  windows    : List Window := []
  groups     : List Group := []
  votes      : List VoteRec := []
  eventSlot  : Word64 := 0
  eventPd    : BitVec 6 := 0
  slotRefused : Bool := false
  inflightHolds  : Word64 := 0
  inboundBytes   : Word64 := 0
  inboundRefused : Word64 := 0
  /-- PORT_BYTES, 2 x 35 counters: port q outbound at 2q, inbound at 2q + 1 (20 R473). -/
  portBytes  : List Word64 := List.replicate 70 0
  /-- Per priority level, the queue ID served last (04 R108), 4,096 for none; and the level whose turn goes on. -/
  cursor     : List Nat := List.replicate 4 4096
  turn       : Option Nat := none
  /-- Deck barrier arrivals held for IDs not yet posted: (device, BARRIER_ID) (02 R76). -/
  arrivals   : List (Nat × Nat) := []
  /-- A scrub runs: no command of Ap is started (13 R317). -/
  scrubbing  : Bool := false
deriving DecidableEq, Repr

/-- State of an element (01 R490, 13 R312): active, spare, fenced by the owner, fenced by the keeper, or replaced at the
self-test after failing (15 R359). -/
inductive Elem where
  | active | spare | fenced | keeperFenced | replaced
deriving DecidableEq, Repr

/-- How a whole span is fenced (13 R312, 18 R421): not, by falling below 8 cores, by a command, by the keeper. -/
inductive SpanFence where
  | none | byCount | byOwner | byKeeper
deriving DecidableEq, Repr

/-- Power states, coded as 16 R362. -/
inductive PState where
  | run | idle | sleep | deep
deriving DecidableEq, Repr

/-- A power transition in progress (16 R363). -/
inductive PTrans where
  | toSleep | toDeep | exitSleep | exitDeep
deriving DecidableEq, Repr

/-- A span (01 R17, 16 R384, 20 R470). -/
structure Span where
  power       : PState := .idle
  trans       : Option PTrans := none
  /-- A wake, vote or tile arrived during an entry (R376). -/
  wakeAfter   : Bool := false
  deepEnable  : Bool := false
  lastRefuser : Byte := 0xFF
  sleepDwell  : Word16 := 3125
  deepDwell   : Word16 := 0
  refused     : Word32 := 0
  aborted     : Word32 := 0
  cores       : List Elem := List.replicate 30 .active ++ List.replicate 2 .spare
  pipes       : List Elem := List.replicate 4 .active ++ List.replicate 1 .spare
  fence       : SpanFence := .none
  /-- The last self-test left the span unfenced (15 R350). -/
  passed      : Bool := true
  /-- A power timeout has been missed since the last block compute-part reset (R365). -/
  missed      : Bool := false
  /-- The element a swap drains, and the spare that replaces it (18 R420). -/
  swap        : Option (SpareKind × Nat) := none
  /-- Elements whose swap the keeper begins after it, in order (18 R419). -/
  swapsDue    : List (SpareKind × Nat) := []
  /-- The swap waits for a reset level to finish (18 R413). -/
  suspended   : Bool := false
deriving DecidableEq, Repr

/-- Keystone lanes (01, 15 R359) and the spare sorting processor (01 R27). -/
structure Lanes where
  lanes   : List Elem := List.replicate 16 .active ++ List.replicate 2 .spare
  /-- Physical lane behind each logical lane, or none. -/
  logical : List (Option Nat) := (List.range 16).map some
  sorting : Bool := true
deriving DecidableEq, Repr

/-- A doorbell write captured during central DEEP_SLEEP (16 R375). -/
structure Captured where
  qid  : QId
  tail : Word32
deriving DecidableEq, Repr

/-- The central domain and the wake logic (16 R385). -/
structure Central where
  power       : PState := .run
  trans       : Option PTrans := none
  wakeAfter   : Bool := false
  deepEnable  : Bool := false
  lastRefuser : Byte := 0xFF
  dwell       : Word16 := 0
  refused     : Word32 := 0
  aborted     : Word32 := 0
  wakeCause   : Word32 := 0
  wakeSpans   : Word64 := 0
  wakeTimer   : Word32 := 0
  timerFired  : Bool := false
  timerSpans  : Word64 := 0
  temp        : Int := 0
  leArmed     : Bool := false
  captured    : List Captured := []
  /-- Register accesses that wait for step 8 of R363: a write with its value, or a read. -/
  deferred    : List (Nat × Option Word32) := []
  /-- Retained content has been declared lost (R382). -/
  retCut      : Bool := false
  /-- The exit runs as a block compute-part reset (R382). -/
  exitReset   : Bool := false
deriving DecidableEq, Repr

/-- The policy that an open window keeps (17 R392). -/
structure WinPol where
  thr  : Nat
  log2 : Nat
deriving DecidableEq, Repr

/-- One source of a unit: sticky bit, SEVERE bit, counter, open window, and whether it has become SEVERE since its
sticky bit was last cleared (17 R390 R391). -/
structure Source where
  sticky  : Bool := false
  severe  : Bool := false
  count   : Byte := 0
  window  : Option WinPol := none
  latched : Bool := false
deriving DecidableEq, Repr

/-- An open incident (17 R395, 18 R414-R417). -/
structure Incident where
  seq      : Word16
  source   : Nat
  cause    : Nat
  step     : Nat
  level    : Nat
  part     : Nat := 0
  queue    : Option QId := none
  job      : Word32 := 0
  named    : Bool := false
  noAnswer : Bool := false
  escal    : Bool := false
  raised   : Bool := false
  /-- Collection has answered or timed out and the record stands written (18 R415). -/
  written  : Bool := false
  /-- The reaction has finished and only the record is awaited. -/
  reacted  : Bool := false
  /-- Threads that a fence killed, by job and tile: the fence is complete once their writes are answered (13 R314). -/
  killed   : List (Nat × Nat) := []
deriving DecidableEq, Repr

/-- The fault registers of a unit (17 R401, 20 R469). -/
structure FUnit where
  sources  : List Source := List.replicate 16 {}
  irqEn    : Word32 := 0
  policy   : Word32 := 0
  inject   : Word32 := 0
  corrected   : Word32 := 0
  uncorrected : Word32 := 0
  incident : Option Incident := none
deriving DecidableEq, Repr

/-- Scope of a reset level (18 R408). -/
inductive Scope where
  | context (q : QId)
  | span (n : Nat)
  | part (p : Nat)
  | block
  | power
deriving DecidableEq, Repr

/-- A running reset level (18 R409). -/
structure Level where
  id     : Nat
  scope  : Scope
  /-- Incidents whose reaction it is. -/
  units  : List Nat := []
  /-- Levels absorbed or taken over: their requesters finish with this one (R412). -/
  took   : List Nat := []
  /-- The queue whose context reset escalated into it (R409). -/
  origin : Option QId := none
deriving DecidableEq, Repr

/-- A quadrant's operating point (21 R481-R483). -/
structure Quad where
  point  : Nat := 2
  change : Option Nat := none
deriving DecidableEq, Repr

/-- Credits and arbitration of a data port (19 R430, 04 R115). -/
structure PortState where
  port    : Port
  req     : Nat := 0
  wd      : Nat := 0
  turn    : Nat := 0
  deficit : List Nat := List.replicate 9 0
deriving DecidableEq, Repr

/-- A transport connection (19 R441). -/
structure Conn where
  conn : Nat
  part : Nat
  port : Nat
  isOpen : Bool := true
deriving DecidableEq, Repr

/-- An inbound request whose target access is outstanding (19 R445): a write held in staging until its translation arrives
and then until its target write is acknowledged, or a read that waits for its translation. -/
structure Inbound where
  id     : Nat
  src    : MsgSrc
  part   : Nat
  addr   : Nat
  write  : Bool
  data   : List Byte := []
  len    : Nat := 0
  /-- The target write has been issued. -/
  issued : Bool := false
  error  : Bool := false
deriving DecidableEq, Repr

/-- What an access that waits for a translation belongs to (02 R53). -/
inductive XOwner where
  | job (uid : Nat)
  | ring (q : QId)
  | channel (ch : Nat)
  | admin (aq : Nat)
  | slot (p : Nat)
  | inbound (id : Nat)
deriving DecidableEq, Repr

/-- A translation request and its fields (19 R439); it has no tag while all 4,096 are in use. -/
structure XReq where
  tag    : Option Nat := none
  owner  : XOwner
  route  : Nat
  /-- XLAT_CTX of the issuing partition. -/
  ctx    : Nat
  /-- IOVA: the offset of the 4 KiB page. -/
  page   : Nat
  /-- 1 read, 2 write, 3 both. -/
  access : Nat
deriving DecidableEq, Repr

/-- The ports, the transport and the deck (19). -/
structure Ports where
  memReady : BitVec 8 := 0
  capacity : List Nat := List.replicate 8 0
  states   : List PortState := []
  requests : List Request := []
  /-- Translation requests without a response, oldest first (R439). -/
  xreqs    : List XReq := []
  /-- Reads that counted as answered with ERROR; their late answers are discarded (R433). -/
  lateReads : List (Port × Access) := []
  conns    : List Conn := []
  vpUp     : BitVec 2 := 0
  peers    : List Peer := []
  deckFault : Bool := false
  leRise   : Word64 := 0
  leFall   : Word64 := 0
  inbound  : List Inbound := []
  nextId   : Nat := 0
  /-- Messages taken and not yet acted on (11, R443). -/
  inbox    : List Msg := []
deriving DecidableEq, Repr

/-- A channel's configuration record (12 R276). -/
structure ChanCfg where
  src      : Word64 := 0
  dst      : Word64 := 0
  cons     : Word64 := 0
  log2     : Nat := 4
  recKib   : Nat := 1
  pd       : Nat := 0
  shufOp   : Nat := 0
  shufF    : Nat := 0
  shufUnit : Nat := 0
  shufType : Nat := 0
  high     : Nat := 1
  low      : Nat := 0
  runLimit : Nat := 1
deriving DecidableEq, Repr

/-- CH_STATE of 12 R291. -/
inductive ChState where
  | free | configured | armed | running | held
deriving DecidableEq, Repr

/-- How far a run has come (12 R283 R284): draining, waiting for its writes, waiting for the consumer word, pulsing. -/
inductive RunPhase where
  | draining | ended | consumer | pulse
deriving DecidableEq, Repr

/-- A paced channel (12). -/
structure Chan where
  state    : ChState := .free
  owner    : Nat := 0
  cfg      : ChanCfg := {}
  p        : Word32 := 0
  c        : Word32 := 0
  flush    : Bool := false
  flushRun : Bool := false
  /-- The end of the run has cleared a pending flush, which an abandoned run keeps (12 R283, R289). -/
  cleared  : Bool := false
  drained  : Nat := 0
  phase    : RunPhase := .draining
  disarm   : Bool := false
  /-- The span that holds the pacer buffer (16 R367). -/
  buffer   : Nat := 0
  xlat     : List Xlat := []
  records  : Word64 := 0
  runs     : Word64 := 0
  poisoned : Word64 := 0
  refusedP : Word64 := 0
deriving DecidableEq, Repr

/-- A pacer (12 R282 R292). -/
structure Pacer where
  stopped : Bool := false
  cause   : Nat := 0
  last    : Nat := 7
deriving DecidableEq, Repr

/-- An ERASE of a bound slot that waits for earlier jobs (14 R329). -/
structure EraseWait where
  slot : Nat
  jobs : List Nat
deriving DecidableEq, Repr

/-- A range whose bytes are undefined (07 R178), with the free counter that names them. -/
structure Undef where
  base : Nat
  len  : Nat
  seed : Nat
deriving DecidableEq, Repr

/-- A table bank that holds tariff tables (01 R20, 10 R232): its core, and the codebook and the activations of each token that
every entry of them follows from. -/
structure TableBank where
  span : Nat
  core : Nat
  book : List Byte
  acts : List (List Byte)
deriving DecidableEq, Repr

/-- The memories (log entry 2): bytes by location key, poisoned granules, undefined ranges, codebook caches, local RAM of the
cores, and injected codewords. -/
structure Store where
  mem    : List Host.Cell := []
  poison : List Nat := []
  undef  : List Undef := []
  cbMem  : List Host.Cell := []
  /-- Table banks that hold tables; every other table bank holds zero. -/
  tables : List TableBank := []
  /-- Working banks (span, core) that hold a thread's data; every other working bank holds zero. -/
  work   : List (Nat × Nat) := []
  /-- (unit, granule key) of codewords whose check bits stand inverted (17 R403). -/
  inj    : List (Nat × Nat) := []
deriving DecidableEq, Repr

/-- The test access port (14 R341, 19 R458). -/
structure Tap where
  ir       : BitVec 8 := 0x02
  boundary : List Bool := []
  extest   : Bool := false
  scan     : Bool := false
deriving DecidableEq, Repr

/-- Key table, codebook-set owners, erasures that wait (14, 13 R307). -/
structure Tables where
  keys    : List Key := []
  erasing : List EraseWait := []
  cbOwner : List Nat := List.replicate 8 0
  /-- The administrative queue served last (13 R295). -/
  adminLast : Nat := 8
deriving DecidableEq, Repr

/-- The state of the block, and the queue of the commands that wait. -/
structure State where
  block   : Block := {}
  keeper  : Keeper := {}
  regs    : RegFile := {}
  prof    : Prof := {}
  queues  : List Queue := []
  jobs    : List Job := []
  uidNext : Nat := 0
  orderNext : Nat := 0
  store   : Store := {}
  /-- Number 0 is the owner; 1 to 8 the partitions. -/
  parts   : List Part := List.replicate 9 {}
  tables  : Tables := {}
  spans   : List Span := List.replicate 40 {}
  lanes   : Lanes := {}
  central : Central := {}
  units   : List FUnit := []
  levels  : List Level := []
  levelNext : Nat := 0
  quads   : List Quad := List.replicate 4 {}
  ports   : Ports := {}
  chans   : List Chan := List.replicate 64 {}
  pacers  : List Pacer := List.replicate 8 {}
  tap     : Tap := {}
  pending : List Instr := []
deriving DecidableEq, Repr

/-- The sources a unit has, as a mask over the bits of 17 R387 (R386); none for an unassigned ID. -/
def presentMask (u : Nat) : Nat :=
  if u < 0x28 then 0x190F            -- 0 1 2 3 8 11 12
  else if u = 0x30 then 0x1907       -- 0 1 2 8 11 12
  else if u = 0x31 then 0x0786       -- 1 2 7 8 9 10
  else if u = 0x32 then 0x080F       -- 0 1 2 3 11
  else if 0x40 ≤ u ∧ u < 0x48 then 0x0177   -- 0 1 2 4 5 6 8
  else if 0x48 ≤ u ∧ u < 0x50 then 0x01F4   -- 2 4 5 6 7 8
  else if u = 0x50 then 0xC1F4       -- 2 4 5 6 7 8 14 15
  else if u = 0x51 then 0x8174       -- 2 4 5 6 8 15
  else if u = 0x52 then 0x01F4       -- 2 4 5 6 7 8
  else if u = 0x53 then 0x0114       -- 2 4 8
  else if 0x58 ≤ u ∧ u < 0x60 then 0x20B4   -- 2 4 5 7 13
  else 0

/-- A unit at reset: FAULT_IRQ_EN holds every present source except bit 0 (17 R401). -/
def FUnit.resetOf (u : Nat) : FUnit :=
  { irqEn := BitVec.ofNat 32 (presentMask u / 2 * 2) }

/-- The block with RST_N asserted, before any start-up step (log entry 5): every register at its reset value. -/
def State.reset : State :=
  { units := (List.range 96).map FUnit.resetOf }

end Sys2Proof.Machine
end

