-- ==== Sys2Proof/Machine/Mem.lean ====
section
/-! DEFINITION. The memories: location keys, one canonical list of cells, reads and writes of bytes, poison per granule.
Byte order is decided here once (00 R4). What an unlisted byte reads as is `unlisted` (log entry 3). -/

namespace Sys2Proof.Machine

/-- Where an access lands once its route is resolved (02 R45). -/
inductive Target where
  | host
  | attach (n : Nat)
  | stack (n : Nat)
  | deck (d part : Nat)
  | staging (span : Nat)
  | remote (conn : Nat)
deriving DecidableEq, Repr

/-- A number for a target; distinct targets have distinct numbers below their bounds. -/
def Target.num : Target → Nat
  | .host => 0
  | .attach n => 1 + n
  | .stack n => 9 + n
  | .staging n => 32 + n
  | .deck d p => 128 + 16 * d + p
  | .remote c => 1024 + c

/-- Key of a byte: its target and its address there. -/
def locKey (t : Target) (a : Nat) : Nat := t.num * 2 ^ 64 + a

/-- The unit whose codewords hold a key, with the TARGET value that injects there: a staging buffer or a pooled-memory stack
(17 R403). -/
def keyUnit (k : Nat) : Option (Nat × Nat) :=
  let n := k / 2 ^ 64
  if 32 ≤ n ∧ n < 72 then some (n - 32, 0) else if 9 ≤ n ∧ n < 17 then some (0x40 + (n - 9), 6) else none

/-- The undefined range that covers a key, if any (07 R178). -/
def undefAt (u : List Undef) (k : Nat) : Option Undef := u.find? fun r => decide (r.base ≤ k ∧ k < r.base + r.len)

/-- What an unlisted byte reads as: 0, or the free byte of the undefined range that covers it (log entries 3, 7). -/
def unlisted (u : List Undef) (k : Nat) : Byte :=
  match undefAt u k with
  | some r => Config.freeByte r.seed k
  | none => 0

/-- Byte of a canonical list, or `d` where it is not listed. -/
def memGet : List Host.Cell → Nat → Byte → Byte
  | [], _, d => d
  | (x, y) :: r, a, d => if x = a then y else if a < x then d else memGet r a d

/-- Write one byte and keep the form: rising addresses, no entry equal to `d`, what the address reads unlisted. -/
def memPut : List Host.Cell → Nat → Byte → Byte → List Host.Cell
  | [], a, b, d => if b = d then [] else [(a, b)]
  | (x, y) :: r, a, b, d =>
    if a < x then (if b = d then (x, y) :: r else (a, b) :: (x, y) :: r)
    else if a = x then (if b = d then r else (a, b) :: r)
    else (x, y) :: memPut r a b d

/-- Canonical form of a list of cells, given what each address reads unlisted. -/
def memWf (dflt : Nat → Byte) : List Host.Cell → Bool
  | [] => true
  | [(a, b)] => decide (b ≠ dflt a)
  | (a, b) :: (c, e) :: r => decide (b ≠ dflt a) && decide (a < c) && memWf dflt ((c, e) :: r)

/-- The canonical form of the memories: the bytes over what their undefined ranges leave unlisted, the codebook caches over 0,
and the poisoned granules in rising order. -/
abbrev Memory.wf (st : Store) : Prop :=
  memWf (unlisted st.undef) st.mem = true ∧ memWf (fun _ => 0) st.cbMem = true ∧ st.poison.Pairwise (· < ·)

/-- Drop the cells of a range: every byte of it reads as unlisted. -/
def memErase (m : List Host.Cell) (base len : Nat) : List Host.Cell :=
  m.filter fun c => !decide (base ≤ c.1 ∧ c.1 < base + len)

/-- One byte of the store. -/
def Store.get (st : Store) (k : Nat) : Byte := memGet st.mem k (unlisted st.undef k)

/-- Write one byte of the store. -/
def Store.put (st : Store) (k : Nat) (b : Byte) : Store :=
  { st with mem := memPut st.mem k b (unlisted st.undef k) }

/-- `n` bytes from a key on, lowest address first. -/
def Store.read (st : Store) (k n : Nat) : List Byte := (List.range n).map fun i => st.get (k + i)

/-- Write bytes from a key on. -/
def Store.write (st : Store) (k : Nat) : List Byte → Store
  | [] => st
  | b :: r => (st.put k b).write (k + 1) r

/-- Write the listed (key, byte) pairs in order. -/
def Store.writeAll (st : Store) : List (Nat × Byte) → Store
  | [] => st
  | (k, b) :: r => (st.put k b).writeAll r

/-- Change the listed bits of the listed bytes, in order. -/
def Store.change (st : Store) : List WByte → Store
  | [] => st
  | b :: r =>
    let old := (st.get b.key).toNat
    (st.put b.key (BitVec.ofNat 8 (Nat.lor (old - Nat.land old b.mask) b.val))).change r

/-- The granule of 64 bytes a key lies in (00, Granule). -/
def granuleOf (k : Nat) : Nat := k / 64

/-- The granule of a byte is held poisoned (19 R429). -/
def Store.isPoisoned (st : Store) (k : Nat) : Bool := st.poison.contains (granuleOf k)

/-- Insert a number into a rising list without repeats. -/
def insertAsc : List Nat → Nat → List Nat
  | [], a => [a]
  | x :: r, a => if a < x then a :: x :: r else if a = x then x :: r else x :: insertAsc r a

/-- Set or clear the poison of the granules of the listed keys: a write stores its POISON bit (19 R429). -/
def Store.setPoison (st : Store) (granules : List Nat) (p : Bool) : Store :=
  { st with poison := if p then granules.foldl insertAsc st.poison
                      else st.poison.filter fun g => !granules.contains g }

/-- The undefined ranges less a range that is written whole. -/
def cutUndef (u : List Undef) (base len : Nat) : List Undef :=
  u.flatMap fun r =>
    if r.base + r.len ≤ base ∨ base + len ≤ r.base then [r]
    else
      (if r.base < base then [{ r with len := base - r.base }] else []) ++
      (if base + len < r.base + r.len then
        [{ r with base := base + len, len := r.base + r.len - (base + len) }] else [])

/-- Write zero to a whole range and clear its poison (14 R323, R324). -/
def Store.zero (st : Store) (base len : Nat) : Store :=
  { st with
    mem := memErase st.mem base len
    undef := cutUndef st.undef base len
    poison := st.poison.filter fun g => !decide (base ≤ g * 64 ∧ g * 64 < base + len) }

/-- Leave a range undefined (07 R178). -/
def Store.undefine (st : Store) (base len seed : Nat) : Store :=
  { st with
    mem := memErase st.mem base len
    undef := { base, len, seed } :: cutUndef st.undef base len }

/-- Distinct granules of the listed keys, in order of first mention. -/
def granulesOf (keys : List Nat) : List Nat := (keys.map granuleOf).eraseDups

/-- Distinct 256-byte blocks of the listed keys (19 R428). -/
def blocksOf (keys : List Nat) : List Nat := (keys.map (· / 256)).eraseDups

/-- Key of a codebook cache byte: span, set, offset (01 R21). -/
def cbKey (span set off : Nat) : Nat := (span * 8 + set) * 16384 + off

/-- Load bytes into a codebook cache set (07 R171). -/
def Store.loadCodebook (st : Store) (span set : Nat) (bytes : List Byte) : Store :=
  let put := fun (m : List Host.Cell) (x : Nat × Byte) => memPut m (cbKey span set x.1) x.2 0
  let cells := ((List.range bytes.length).zip bytes).foldl put (memErase st.cbMem (cbKey span set 0) 16384)
  { st with cbMem := cells }

/-- Bytes of a codebook cache set. -/
def Store.codebook (st : Store) (span set len : Nat) : List Byte :=
  (List.range len).map fun i => memGet st.cbMem (cbKey span set i) 0

end Sys2Proof.Machine
end

