-- ==== Sys2Proof/Machine/Ops.lean ====
section
/-! DEFINITION. The shared operations over the state: access to queues, jobs, partitions, spans and units; the fields of
the active profile; routes, regions and translations (02); writes at the ports with their credits and arbitration (19, 04
R115); status lines and notifications (03). -/

namespace Sys2Proof.Machine

/-- The answer of a meaning that always goes on. -/
abbrev Ans := Host.Outcome State Fault Refusal

namespace State

/-! Lists of the state, by key. -/

def emit (s : State) (o : Out) : State := { s with block := { s.block with out := o :: s.block.out } }

def queue? (s : State) (q : QId) : Option Queue := s.queues.find? (·.qid == q)
def modQueue (s : State) (q : QId) (f : Queue → Queue) : State :=
  { s with queues := s.queues.map fun x => if x.qid == q then f x else x }
/-- A live queue exists and is not DESTROYED (03 R98). -/
def live? (s : State) (q : QId) : Option Queue := (s.queue? q).filter (·.state != .destroyed)
/-- Put a queue record in place of the one of its ID, or add it. -/
def putQueue (s : State) (x : Queue) : State :=
  { s with queues := s.queues.filter (·.qid != x.qid) ++ [x] }

def job? (s : State) (uid : Nat) : Option Job := s.jobs.find? (·.uid == uid)
def modJob (s : State) (uid : Nat) (f : Job → Job) : State :=
  { s with jobs := s.jobs.map fun x => if x.uid == uid then f x else x }
def dropJob (s : State) (uid : Nat) : State := { s with jobs := s.jobs.filter (·.uid != uid) }

def part (s : State) (p : Nat) : Part := s.parts.getD p {}
def modPart (s : State) (p : Nat) (f : Part → Part) : State := { s with parts := modAt s.parts p f }
def span (s : State) (n : Nat) : Span := s.spans.getD n {}
def modSpan (s : State) (n : Nat) (f : Span → Span) : State := { s with spans := modAt s.spans n f }
def unit (s : State) (u : Nat) : FUnit := s.units.getD u {}
def modUnit (s : State) (u : Nat) (f : FUnit → FUnit) : State := { s with units := modAt s.units u f }
def chan (s : State) (c : Nat) : Chan := s.chans.getD c {}
def modChan (s : State) (c : Nat) (f : Chan → Chan) : State := { s with chans := modAt s.chans c f }
def pacer (s : State) (p : Nat) : Pacer := s.pacers.getD p {}
def modPacer (s : State) (p : Nat) (f : Pacer → Pacer) : State := { s with pacers := modAt s.pacers p f }

/-- The next free value (log entry 7) and the state that has used it. -/
def freeNat (s : State) : Nat := Config.freeValue s.block.free
def useFree (s : State) : State := { s with block := { s.block with free := s.block.free + 1 } }

def inService (s : State) : Bool := s.block.phase == .running || s.block.phase == .starting
def running (s : State) : Bool := s.block.phase == .running

/-! The active profile (15 R345-R348). -/

def img (s : State) (off n : Nat) : Nat := leNat ((List.range n).map fun i => memGet s.prof.image (off + i) 0)
def features (s : State) : Nat := s.img 0x08 4
def apPresent (s : State) (n : Nat) : Bool := bitOf (s.img 0x0C 1) n
def mpPresent (s : State) (n : Nat) : Bool := bitOf (s.img 0x0D 1) n
def deckParts (s : State) (p : Nat) : Bool := bitOf (s.img 0x0E 1) (p - 1)
def leThresh (s : State) : Nat := s.img 0x0F 1 % 64
def leOwner (s : State) : Bool := bitOf s.features 1
def clockCeil (s : State) (q : Nat) : Nat := s.img (0x10 + q) 1
def powerCap (s : State) : Nat := s.img 0x14 2
def spanOwner (s : State) (n : Nat) : Nat := s.img (0x40 + n) 1
def retStaging (s : State) (n : Nat) : Nat := s.img (0x80 + 2 * n) 1
def retCodebook (s : State) (n : Nat) : Nat := s.img (0x81 + 2 * n) 1
def retCentral (s : State) : Nat := s.img 0xD0 1
def rec_ (s : State) (p off n : Nat) : Nat := s.img (0x100 + 64 * (p - 1) + off) n
def defined (s : State) (p : Nat) : Bool := decide (1 ≤ p ∧ p ≤ 8) && s.rec_ p 0 1 == 1
def weight (s : State) (p : Nat) : Nat := s.rec_ p 1 1
def qidCount (s : State) (p : Nat) : Nat := s.rec_ p 2 2
def qidFirst (s : State) (p : Nat) : Nat := s.rec_ p 4 2
def keyCount (s : State) (p : Nat) : Nat := s.rec_ p 6 2
def keyFirst (s : State) (p : Nat) : Nat := s.rec_ p 8 2
def keystoneMask (s : State) (p : Nat) : Nat := s.rec_ p 0x0A 2
def regionMax (s : State) (p : Nat) : Nat := s.rec_ p 0x0C 2
def inflightMax (s : State) (p : Nat) : Nat := s.rec_ p 0x0E 2
def cb (s : State) (p : Nat) : Nat := s.rec_ p 0x10 8
def cs (s : State) (p : Nat) : Nat := s.rec_ p 0x18 8

/-- Partition of a key slot, by the runs of R348; 0 for none. -/
def slotPart (s : State) (slot : Nat) : Nat :=
  ((List.range 9).find? fun p =>
    s.defined p && decide (s.keyFirst p ≤ slot ∧ slot < s.keyFirst p + s.keyCount p)).getD 0

/-! Spans. -/

def spanFenced (s : State) (n : Nat) : Bool := (s.span n).fence != .none
def partSpans (s : State) (p : Nat) : List Nat := (List.range 40).filter fun n => s.spanOwner n == p && decide (0 < p)
def unfencedSpans (s : State) (p : Nat) : List Nat := (s.partSpans p).filter fun n => !s.spanFenced n

/-- Active elements of a kind (01 R490). -/
def activeOf (l : List Elem) : Nat := (l.filter (· == .active)).length

/-! Routes (02 R45-R46). -/

/-- A route that the table of R45 defines. -/
def routeDefined (r : Nat) : Bool :=
  r == 0 || decide (0x10 ≤ r ∧ r ≤ 0x17) || decide (0x20 ≤ r ∧ r ≤ 0x28) || decide (0x30 ≤ r ∧ r ≤ 0x37) ||
  decide (0x40 ≤ r ∧ r ≤ 0xBF) || r == 0xF0

def translated (r : Nat) : Bool := r == 0 || decide (0x10 ≤ r ∧ r ≤ 0x17)

/-- A stack present and ready has a target (R46, 19 R436). -/
def stackReady (s : State) (n : Nat) : Bool := s.mpPresent n && s.ports.memReady.getLsbD n

/-- A peer is reached when a direction leads to it and the deck is not faulted (19 R448). -/
def reached (s : State) (d : Nat) : Bool :=
  d == s.block.deckId.toNat ||
  (!s.ports.deckFault && s.ports.peers.any fun x => x.deckId == d && (x.hops0.isSome || x.hops1.isSome))

def window? (s : State) (p w : Nat) : Option Window := (s.part p).windows.find? fun x => x.w == w && !x.closing

/-- A defined route has a target in the running configuration (R46). -/
def hasTarget (s : State) (p r : Nat) : Bool :=
  if r = 0 then true
  else if 0x10 ≤ r ∧ r ≤ 0x17 then s.apPresent (r - 0x10)
  else if r = 0x20 then (List.range 8).all s.stackReady
  else if 0x21 ≤ r ∧ r ≤ 0x28 then s.stackReady (r - 0x21)
  else if 0x30 ≤ r ∧ r ≤ 0x37 then
    if r - 0x30 = s.block.deckId.toNat then (List.range 8).all s.stackReady else s.reached (r - 0x30)
  else if 0x40 ≤ r ∧ r ≤ 0xBF then (s.window? p (r - 0x40)).isSome
  else r == 0xF0

/-- A route that no longer leads anywhere: a deck peer that is not reached, a window without an open connection (19 R442, R449,
02 R56). -/
def routeLost (s : State) (p r : Nat) : Bool :=
  if 0x40 ≤ r ∧ r ≤ 0xBF then
    match (s.part p).windows.find? fun x => x.w == r - 0x40 with
    | some w => !(s.ports.conns.any fun c => c.conn == w.conn && c.isOpen)
    | none => true
  else !s.hasTarget p r

/-- Stack and offset of an interleaved offset (R50). -/
def interleave (o : Nat) : Nat × Nat := (o / 2 ^ 12 % 8, o / 2 ^ 15 * 2 ^ 12 + o % 2 ^ 12)

/-- A translation for the page of an offset, if received. -/
def findXlat (xl : List Xlat) (r off : Nat) : Option Xlat :=
  xl.find? fun x => x.route == r && decide (x.page ≤ off ∧ off < x.page + 2 ^ x.log2)

/-- Target and address there of one byte of a Sceob address, or none where a translation has not arrived or the route
has no target (02 R49-R58). -/
def locate (s : State) (p : Nat) (xl : List Xlat) (a : Nat) : Option (Target × Nat) :=
  let r := a / 2 ^ 56
  let o := a % 2 ^ 56
  if !routeDefined r || (!decide (0x40 ≤ r ∧ r ≤ 0xBF) && !s.hasTarget p r) then none
  else if translated r then
    (findXlat xl r o).map fun x => (if r = 0 then .host else .attach (r - 0x10), x.addr + (o - x.page))
  else if r = 0x20 ∨ r = 0x30 + s.block.deckId.toNat then
    let k := interleave o
    some (.stack k.1, s.cb p + k.2)
  else if 0x21 ≤ r ∧ r ≤ 0x28 then some (.stack (r - 0x21), s.cb p + o)
  else if 0x30 ≤ r ∧ r ≤ 0x37 then some (.deck (r - 0x30) p, o)
  else if r = 0xF0 then some (.staging (o / 2 ^ 21 % 64), o % 2 ^ 20)
  else ((s.part p).windows.find? fun x => x.w == r - 0x40).map fun w => (.remote w.conn, w.base.toNat + o)

/-- Location key of one byte. -/
def key (s : State) (p : Nat) (xl : List Xlat) (a : Nat) : Option Nat :=
  (s.locate p xl a).map fun t => locKey t.1 t.2

/-- Keys of `n` bytes from an address on; none if one has no place yet. -/
def keys (s : State) (p : Nat) (xl : List Xlat) (a n : Nat) : Option (List Nat) :=
  (List.range n).mapM fun i => s.key p xl (a + i)

/-! Translation requests (19 R439). -/

/-- Requests that have no tag take the free ones of the 4,096, lowest first. -/
def giveXTags (l : List XReq) : List XReq :=
  (l.foldl (fun (a : List XReq × List Nat) x =>
    let t := lowestFree a.2
    if x.tag.isNone && decide (t < 4096) then (a.1 ++ [{ x with tag := some t }], t :: a.2) else (a.1 ++ [x], a.2))
    ([], l.filterMap (·.tag))).1

/-- Ask for the translation of accesses at addresses (R439): one request for each page, unless one of the owner is outstanding for it. -/
def askXlat (s : State) (own : XOwner) (p access : Nat) (as : List Nat) : State :=
  let ctx := if p = 0 then s.regs.ownerCtx.toNat else s.rec_ p 0x20 4
  let new := ((as.filter fun a => translated (a / 2 ^ 56)).map fun a =>
    ({ owner := own, route := a / 2 ^ 56, ctx, page := a % 2 ^ 56 / 4096 * 4096, access } : XReq)).eraseDups
  let asked := fun (x : XReq) => s.ports.xreqs.any fun y => { y with tag := none } == x
  { s with ports := { s.ports with xreqs := giveXTags (s.ports.xreqs ++ new.filter fun x => !asked x) } }

/-- Pages of a list of addresses that have no place yet. -/
def unplaced (s : State) (p : Nat) (xl : List Xlat) (as : List Nat) : List Nat :=
  ((as.filter fun a => (s.locate p xl a).isNone).map fun a => a / 4096 * 4096).eraseDups

/-- Ask for what `n` bytes from an address on still need. -/
def askRange (s : State) (own : XOwner) (p : Nat) (xl : List Xlat) (access a n : Nat) : State :=
  s.askXlat own p access (s.unplaced p xl ((List.range n).map fun i => a + i))

/-- Canonical offset (14 R332): aliases of pooled bytes share it. -/
def canonical (a : Nat) : Nat :=
  let r := a / 2 ^ 56
  let o := a % 2 ^ 56
  if 0x21 ≤ r ∧ r ≤ 0x28 then o / 2 ^ 12 * 2 ^ 15 + (r - 0x21) * 2 ^ 12 + o % 2 ^ 12 else o

/-- The deck peer whose direction an access takes (19 R449): port 0 or 1, or none. -/
def deckDir (s : State) (d : Nat) : Option Nat :=
  if s.ports.deckFault then none else
  match s.ports.peers.find? (·.deckId == d) with
  | some x => match x.hops0, x.hops1 with
    | some a, some b => some (if b < a then 1 else 0)
    | some _, none => some 0
    | none, some _ => some 1
    | none, none => none
  | none => none

/-- Port of a target. -/
def portOf (s : State) : Target → Option Port
  | .host => some .host
  | .attach n => some (.ap n)
  | .stack n => some (.mp n)
  | .deck d _ => (s.deckDir d).map .vp
  | .staging _ => none
  | .remote c => ((s.ports.conns.find? (·.conn == c)).map fun x => Port.tp x.port)

/-! Regions (02 R59-R62). -/

/-- The range of offsets lies in a region by itself, on its route and in its domain (R60). -/
def regionCovers (x : Region) (pd r : Nat) (lo hi : Int) : Bool :=
  x.base.toNat / 2 ^ 56 == r && (x.pd == pd || x.rights.getLsbD 2) &&
  decide (((x.base.toNat % 2 ^ 56 : Nat) : Int) ≤ lo) && decide (hi < ((x.base.toNat % 2 ^ 56 + x.len : Nat) : Int))

/-- The code a range fails a list of regions with: 0x41, 0x42, or none (R61). `wr` asks for WRITE. -/
def regionFail (xs : List Region) (pd r : Nat) (lo hi : Int) (wr : Bool) : Option Nat :=
  let m := xs.filter fun x => regionCovers x pd r lo hi
  if m.isEmpty then some 0x41
  else if m.any fun x => x.rights.getLsbD (if wr then 1 else 0) then none else some 0x42

/-- Kind 1 of R48: the route, and the limits of R22. -/
def routeFail (s : State) (p r : Nat) (lo hi : Int) : Bool :=
  !routeDefined r || !s.hasTarget p r ||
  (r == 0xF0 &&
    let bad (o : Nat) := decide (40 ≤ o / 2 ^ 21 % 64) || bitOf o 20 || decide (2 ^ 27 ≤ o)
    (decide (lo < 0) || bad lo.toNat || bad hi.toNat || lo.toNat / 2 ^ 21 != hi.toNat / 2 ^ 21))

/-- Kind 2 of R48: a span of another partition (R23). -/
def spanFail (s : State) (p r : Nat) (lo : Int) : Bool := r == 0xF0 && s.spanOwner (lo.toNat / 2 ^ 21 % 64) != p

/-- Kind 3 of R48: the regions, and DECK_PARTS on the own deck alias (R54). -/
def accessFail (s : State) (p pd r : Nat) (lo hi : Int) (wr : Bool) : Option Nat :=
  match regionFail (s.part p).regions pd r lo hi wr with
  | some c => some c
  | none => if r = 0x30 + s.block.deckId.toNat ∧ !s.deckParts p then some 0x42 else none

/-- The first code of R48 items 1 to 3 for one range. -/
def rangeFail (s : State) (p pd r : Nat) (lo hi : Int) (wr : Bool) : Option Nat :=
  if s.routeFail p r lo hi then some 0x40
  else if s.spanFail p r lo then some 0x42
  else s.accessFail p pd r lo hi wr

/-! Port states, credits and arbitration (19 R430, 04 R115). -/

def portState (s : State) (p : Port) : PortState := (s.ports.states.find? (·.port == p)).getD { port := p }
def putPort (s : State) (x : PortState) : State :=
  { s with ports := { s.ports with states := s.ports.states.filter (·.port != x.port) ++ [x] } }

/-- Number of a port among the counters of PORT_BYTES (20 R473). -/
def portIndex : Port → Nat
  | .mp n => n
  | .ap n => 8 + n
  | .tp n => 16 + n
  | .vp n => 32 + n
  | .host => 34

/-- Unit of a port (17 R386). -/
def portUnit : Port → Nat
  | .mp n => 0x40 + n
  | .ap n => 0x48 + n
  | .tp _ => 0x50
  | .vp _ => 0x51
  | .host => 0x52

/-- Count granules at a port for a partition (04 R117): direction 0 outbound, 1 inbound. -/
def countBytes (s : State) (part : Nat) (p : Port) (dir granules : Nat) : State :=
  if part = 0 then s else
  s.modPart part fun x => { x with portBytes := modAt x.portBytes (2 * portIndex p + dir) fun v => v + BitVec.ofNat 64 (64 * granules) }

/-- The read that a request is, if it is one. -/
def fetchOf (r : Request) : Option Fetch := match r.body with | .fetch f => some f | _ => none

/-- Ring, completion and status-line traffic of the host port goes ahead of data traffic and is not charged (R115); so does what
belongs to no partition, at every port (log entry 17). -/
def aheadOf (r : Request) : Bool :=
  r.part == 0 || (r.port == .host && match r.owner with
    | .status _ => true
    | .job _ .record _ => true
    | .job _ .done _ => true
    | _ => false)

/-- A request that waits for its transfer: a read once it holds a prefetch tag (06 R147). -/
def waits (r : Request) : Bool := !r.sent && ((fetchOf r).all fun f => f.tagged)

/-- The first waiting request of a port that a test accepts, with its place. -/
def waiting (rs : List Request) (p : Port) (f : Request → Bool) : Option (Nat × Request) :=
  ((List.range rs.length).zip rs).find? fun x => x.2.port == p && waits x.2 && f x.2

/-- Write the transferred request, with its tag, in its place (R431: the lowest tag not in use). -/
def markSent (rs : List Request) (i tag : Nat) : List Request := modAt rs i fun r => { r with sent := true, tag := tag }

/-- The lowest free tag of a port; reads and writes have separate tags (R427). -/
def freeTag (rs : List Request) (p : Port) (read : Bool) : Nat :=
  lowestFree ((rs.filter fun r => r.port == p && r.sent && (fetchOf r).isSome == read).map (·.tag))

/-- A waiting request of a partition's data traffic. -/
def dataOf (q : Nat) (r : Request) : Bool := !aheadOf r && r.part == q

/-- The next partition that has a waiting request at a port, after `t` in ascending order. -/
def nextPart (rs : List Request) (p : Port) (t : Nat) : Option Nat :=
  ((List.range 9).map fun i => (t + 1 + i) % 9).find? fun q => (waiting rs p (dataOf q)).isSome

/-- A partition with no pending request has its deficit set to 0 (R115). -/
def idleZero (rs : List Request) (x : PortState) : PortState :=
  { x with deficit := (List.range 9).map fun q => if (waiting rs x.port (dataOf q)).isSome then x.deficit.getD q 0 else 0 }

/-- Choose the request a port transfers next: its place, and the port's arbitration afterwards (R115). A read is charged for the
granules it asks for. -/
def choose (s : State) (x0 : PortState) : Option (Nat × Request × PortState) :=
  let rs := s.ports.requests
  let x := idleZero rs x0
  match waiting rs x.port aheadOf with
  | some (i, r) => some (i, r, x)
  | none =>
    match (waiting rs x.port (dataOf x.turn)).filter fun c => decide (64 * c.2.granules ≤ x.deficit.getD x.turn 0) with
    | some (i, r) => some (i, r, { x with deficit := modAt x.deficit x.turn fun d => d - 64 * r.granules })
    | none =>
      (nextPart rs x.port x.turn).bind fun q =>
        (waiting rs x.port (dataOf q)).map fun c =>
          (c.1, c.2, { x with turn := q, deficit := modAt x.deficit q fun d => d + s.weight q * 1024 - 64 * c.2.granules })

/-! What a write does when it reaches its target (02 R67, 19 R429). -/

/-- Written granules get fresh check bits; writes to a store under injection are noted, and COUNT falls (17 R403). -/
def noteInjected (s : State) (gs : List Nat) : State :=
  let s0 := { s with store := { s.store with inj := s.store.inj.filter fun x => !gs.contains x.2 } }
  gs.foldl (fun s g =>
    match keyUnit (64 * g) with
    | some (u, target) =>
      let v := (s.unit u).inject.toNat
      if bitsOf v 15 8 ≠ 0 ∧ bitsOf v 18 16 = target then
        ({ s with store := { s.store with inj := s.store.inj ++ [(u, g)] } }).modUnit u fun x =>
          { x with inject := x.inject - 0x100#32 }
      else s
    | none => s) s0

/-- Admitted jobs learn that bytes have changed (01 R39), and reads in flight that they return older ones. What a job reads of the
output of a job admitted before it is the old or the new value of each byte, and no change of that kind (02 R70). -/
def noteWritten (s : State) (own : Owner) (keys : List Nat) : State :=
  let orderOf := fun (u : Nat) => ((s.jobs.find? fun (j : Job) => j.uid == u).map fun j => j.order).getD 0
  let writer : Option Nat := match own with | .job u _ _ => some (orderOf u) | _ => none
  let gs := granulesOf keys
  { s with
    jobs := s.jobs.map fun j =>
      if j.order != 0 && (j.phase == .running || j.phase == .halted) && writer.all fun o => decide (j.order < o) then
        { j with touched := j.touched ++ keys }
      else j
    ports := { s.ports with requests := s.ports.requests.map fun r =>
      match r.body with
      | .fetch f => if f.left.any gs.contains then
          { r with body := .fetch { f with newer := f.newer ++ keys.filter fun k => f.left.contains (granuleOf k) } } else r
      | _ => r } }

/-- The bits of a write reach its target: they take their values there, and each granule the write's POISON bit. -/
def landBytes (s : State) (own : Owner) (bs : List WByte) (poison : List Nat) : State :=
  let gs := granulesOf (bs.map WByte.key)
  (({ s with store := ((s.store.change bs).setPoison gs false).setPoison (gs.filter poison.contains) true }).noteInjected
    gs).noteWritten own (bs.map WByte.key)

/-- Bytes of a write whose answer was an error: whether they reached the target is open, and so is what they hold (log entry
11). -/
def spoilBytes (s : State) (own : Owner) (bs : List WByte) : State :=
  let free := bs.map fun b => ({ key := b.key, mask := 255, val := (Config.freeByte s.block.free b.key).toNat } : WByte)
  (({ s with store := s.store.change free }).noteWritten own (bs.map WByte.key)).useFree

/-- What a request has written when it is answered: with OKAY, with an error, or with the refusal of a deck peer that took
nothing (02 R55). -/
def landBody (s : State) (r : Request) (res : Resp) : State :=
  match r.body, res with
  | .write bs poison, .okay => s.landBytes r.owner bs poison
  | .write bs _, .error => if r.sent then s.spoilBytes r.owner bs else s
  | .zero base len, .okay => { s with store := s.store.zero base len }
  | _, _ => s

/-- Partition of a queue, 0 for A0. -/
def noteLine (s : State) (q : QId) : Nat :=
  match q with
  | .adm p => p
  | .io _ => ((s.queue? q).map (·.part)).getD 0

/-- A host write is acknowledged: its bytes are in host memory, and a status line pulses NOTE (03 R99, R438). -/
def hostDone (s : State) (r : Request) : State :=
  let s1 := s.landBody { r with sent := true } .okay
  match r.owner with
  | .status q => s1.emit (.note (s.noteLine q))
  | _ => s1

/-- Transfer waiting requests while credits and tags last (R430). A host write's transfer is its acknowledgement: it is done, and
the result lists it (R438). -/
def pumpGo (p : Port) : Nat → State → List Request → State × List Request
  | 0, s, acc => (s, acc)
  | n + 1, s, acc =>
    match s.choose (s.portState p) with
    | none =>
      let z := idleZero s.ports.requests (s.portState p)
      (if z = s.portState p then s else s.putPort z, acc)
    | some (i, r, x) =>
      let read := (fetchOf r).isSome
      let tag := freeTag s.ports.requests p read
      let wd := if read then 0 else r.granules
      if x.req = 0 ∨ x.wd < wd ∨ 8192 ≤ tag then (s, acc) else
      let s1 := s.putPort { x with req := x.req - 1, wd := x.wd - wd }
      let s2 := if read then s1 else s1.countBytes r.part p 0 r.granules
      let s3 := match r.body with | .message dst m => s2.emit (.msg dst m) | _ => s2
      let done := p == .host && !read
      let rs := s3.ports.requests
      let s4 := { s3 with ports := { s3.ports with requests := if done then rs.eraseIdx i else markSent rs i tag } }
      pumpGo p n (if done then s4.hostDone r else s4) (if done then acc ++ [r] else acc)

def pump (s : State) (p : Port) : State × List Request := pumpGo p (s.ports.requests.length + 1) s []

/-- Put requests behind those of their ports, and transfer what can go at once. -/
def addRequests (s : State) (rs : List Request) : State :=
  (rs.map (·.port)).eraseDups.foldl (fun s p => (s.pump p).1)
    { s with ports := { s.ports with requests := s.ports.requests ++ rs } }

/-! Prefetch tags (06 R147). -/

/-- Tags of a span's prefetcher that are not free. -/
def tagsHeld (s : State) (span : Nat) : Nat :=
  (s.ports.requests.filter fun r => r.span == some span && ((fetchOf r).any fun f => f.tagged)).length

/-- Reads of a span that wait for a tag take the free ones, in order. -/
def giveTags (s : State) (span : Nat) : State :=
  let go := fun (a : List Request × Nat) (r : Request) =>
    match r.body with
    | .fetch f => if r.span == some span && !f.tagged && decide (a.2 < 2560) then
        (a.1 ++ [{ r with body := .fetch { f with tagged := true } }], a.2 + 1) else (a.1 ++ [r], a.2)
    | _ => (a.1 ++ [r], a.2)
  { s with ports := { s.ports with requests := (s.ports.requests.foldl go ([], s.tagsHeld span)).1 } }

/-- Granules that reads of a job's tile or pass have asked for and not yet got. -/
def askedFor (s : State) (uid tile : Nat) : List Nat :=
  s.ports.requests.flatMap fun r =>
    if r.owner == .fetch uid tile && !r.late then ((fetchOf r).filter fun f => !f.drained).elim [] (·.left) else []

/-- Read granules for a job's tile or pass through a span's prefetcher: one read for each 256-byte block, of the granules not
asked for before (R147). Each granule is a target and a number there. -/
def fetchGranules (s : State) (uid tile part span : Nat) (gs : List (Target × Nat)) : State :=
  let asked := s.askedFor uid tile
  let new := gs.eraseDups.filter fun g => !asked.contains (granuleOf (locKey g.1 (64 * g.2)))
  let rs := ((new.map fun g => (g.1, g.2 / 4)).eraseDups).filterMap fun b =>
    (s.portOf b.1).map fun p =>
      let mine := (new.filter fun g => g.1 == b.1 && g.2 / 4 == b.2).map fun g => granuleOf (locKey g.1 (64 * g.2))
      ({ port := p, owner := .fetch uid tile, body := .fetch { left := mine }, part, granules := mine.length,
         span := some span } : Request)
  let s1 := ({ s with ports := { s.ports with requests := s.ports.requests ++ rs } }).giveTags span
  (rs.map (·.port)).eraseDups.foldl (fun s p => (s.pump p).1) s1

/-- The reads of a job's tiles that a test names are given up: those not transferred are dropped, the others drain (R155); the
tags of dropped reads are free. -/
def drainReads (s : State) (uid : Nat) (f : Nat → Bool) : State :=
  let mine := fun (r : Request) => match r.owner with | .fetch u t => u == uid && f t | _ => false
  let spans := (s.ports.requests.filterMap fun r => if mine r && !r.sent then r.span else none).eraseDups
  let rs := (s.ports.requests.filter fun r => !(mine r && !r.sent)).map fun r =>
    match r.body with
    | .fetch x => if mine r then { r with body := .fetch { x with drained := true } } else r
    | _ => r
  spans.foldl (fun s n => s.giveTags n) { s with ports := { s.ports with requests := rs } }

/-! Issuing writes. -/

/-- The pieces of a write: one request for each 256-byte block that its bytes fall in, with the bytes' first mention
fixing the order (19 R428). -/
def pieces (bs : List (Target × Nat)) : List (Target × Nat × List Nat) :=
  let ks := (bs.map fun x => (x.1, x.2 / 256)).eraseDups
  ks.map fun k => (k.1, k.2, ((bs.filter fun x => x.1 == k.1 && x.2 / 256 == k.2).map (·.2)))

/-- Granules a piece transfers: from its lowest granule to its highest (R428). -/
def pieceGranules (l : List Nat) : Nat :=
  let gs := l.map (· / 64)
  (gs.foldl max 0) - listMinD gs 0 + 1

/-- Bits of one byte at a place, with the linear element they belong to. -/
structure Put8 where
  target : Target
  addr   : Nat
  mask   : Nat := 255
  val    : Nat
  elem   : Nat := 0
deriving DecidableEq, Repr

def Put8.wbyte (x : Put8) : WByte := ⟨locKey x.target x.addr, x.mask, x.val⟩

/-- Issue the requests that carry bytes, one for each 256-byte block, at once as far as credits allow. Bytes in staging reach their
ordering point at once (02 R45); bytes whose port is gone go nowhere. `poison` lists the granules (by key) that carry POISON, every
other granule written carries none (R429). -/
def issueElems (s : State) (own : Owner) (part route : Nat) (bs : List Put8) (poison : List Nat) (span : Option Nat) : State :=
  let here := bs.filter fun x => match x.target with | .staging _ => true | _ => false
  let s1 := if here.isEmpty then s else s.landBytes own (here.map Put8.wbyte) poison
  let reqs := (pieces (bs.map fun x => (x.target, x.addr))).filterMap fun k =>
    (s.portOf k.1).map fun p =>
      let mine := bs.filter fun x => x.target == k.1 && x.addr / 256 == k.2.1
      ({ port := p, owner := own, body := .write (mine.map Put8.wbyte) poison, elem := listMinD (mine.map (·.elem)) 0, route, part,
         granules := pieceGranules k.2.2, span } : Request)
  s1.addRequests reqs

/-- The same for bytes of one element. -/
def issue (s : State) (own : Owner) (part elem route : Nat) (bs : List (Target × Nat × Byte)) (poison : List Nat)
    (span : Option Nat := none) : State :=
  s.issueElems own part route (bs.map fun x => { target := x.1, addr := x.2.1, val := x.2.2.toNat, elem }) poison span

/-- The port on which a message reaches an engine (19 R443). -/
def msgPort (s : State) (dst : MsgSrc) : Option Port :=
  match dst with
  | .conn c => (s.ports.conns.find? fun x => x.conn == c && x.isOpen).map fun x => .tp x.port
  | .deck d => (s.deckDir d).map .vp

/-- Granules of a message: one, or what a contribution's data fill (R443). -/
def msgGranules : Msg → Nat
  | .contribution _ _ _ _ _ _ data => max 1 (ceilDiv data.length 64)
  | _ => 1

/-- Send a message to another engine; with no way there it goes nowhere. -/
def postMsg (s : State) (part : Nat) (dst : MsgSrc) (m : Msg) : State :=
  match s.msgPort dst with
  | some port => s.addRequests [{ port, owner := .message, body := .message dst m, part, granules := msgGranules m }]
  | none => s

/-- Places of a byte string written at an address. -/
def place (s : State) (p : Nat) (xl : List Xlat) (a : Nat) (bytes : List Byte) : Option (List (Target × Nat × Byte)) :=
  ((List.range bytes.length).zip bytes).mapM fun x => (s.locate p xl (a + x.1)).map fun t => (t.1, t.2, x.2)

/-- Read bytes at an address; none while a place is unknown. -/
def readAt (s : State) (p : Nat) (xl : List Xlat) (a n : Nat) : Option (List Byte) :=
  (s.keys p xl a n).map fun ks => ks.map s.store.get

/-- The queue lies in the scope of a level (18 R408). -/
def inScope (s : State) (sc : Scope) (q : QId) : Bool :=
  match sc with
  | .context r => q == r
  | .span _ => false
  | .part p => (match q with | .adm k => k == p | .io _ => ((s.queue? q).map (·.part)) == some p)
  | .block => true
  | .power => true

/-- A queue under a running level neither fetches nor admits. -/
def queueHeld (s : State) (q : QId) : Bool := s.levels.any fun l => s.inScope l.scope q

/-! Notifications and status lines (03 R96-R99). -/

def stateCode : QState → Nat
  | .destroyed => 0 | .active => 1 | .halted => 2 | .stopped => 3 | .error => 4 | .reset => 5

/-- Halted jobs of a queue. -/
def haltedJobs (s : State) (q : QId) : List Job := s.jobs.filter fun j => j.queue == q && j.phase == .halted

/-- Ring order (03 R78): j is earlier than i. -/
def earlier (j i : Word32) : Bool := decide ((i - j).toNat < 2 ^ 31) && i != j

/-- The earliest of a list of ring indices. -/
def earliest : List Word32 → Option Word32
  | [] => none
  | x :: r => match earliest r with | none => some x | some y => some (if earlier y x then y else x)

/-- INDEX and HALT_COUNT of a queue as they stand: the earliest halted entry and the number of halted entries. -/
def haltIndex (s : State) (q : QId) : Word32 := (earliest ((s.haltedJobs q).map (·.idx))).getD 0
def haltCount (s : State) (q : QId) : Nat := (s.haltedJobs q).length

/-- The 64 bytes of a queue's status line as they stand (R98). -/
def statusBytes (s : State) (x : Queue) : List Byte :=
  let halted := x.state == .halted
  let err := x.state == .error
  let pos := (((s.haltedJobs x.qid).find? (·.idx == s.haltIndex x.qid)).map (·.saved)).getD 0
  leBytes 8 (if halted then pos else 0) ++
  leBytes 4 (if halted then (s.haltIndex x.qid).toNat else if err then x.errIndex.toNat else 0) ++
  leBytes 4 x.head.toNat ++ leBytes 4 x.tail.toNat ++ leBytes 4 x.lastDb.toNat ++
  leBytes 2 (if err then x.errDetail.toNat else 0) ++ leBytes 1 (if err then x.errCode.toNat else 0) ++
  leBytes 1 (stateCode x.state) ++ leBytes 2 (if halted then s.haltCount x.qid else 0) ++
  leBytes 2 x.seq.toNat ++ List.replicate 32 0

/-- The partition whose context a queue's own traffic uses; 0 is the owner's. -/
def queuePart (x : Queue) : Nat := match x.qid with | .adm p => p | .io _ => x.part

/-- Issue a status line that a queue owes, as it stands at this moment, where the translation of the line's page has arrived;
SEQUENCE goes up with each write (R98). -/
def flushDue (s : State) (q : QId) : State :=
  match s.queue? q with
  | none => s
  | some x =>
    if x.due = 0 then s else
    match s.place (queuePart x) x.xlat x.status.toNat (s.statusBytes x) with
    | some bs =>
      (s.modQueue q fun y => { y with due := y.due - 1, seq := y.seq + 1, xlat := [] }).issue (.status q) (queuePart x) 0 0 bs []
    | none => s.askRange (.ring q) (queuePart x) x.xlat 2 x.status.toNat 64

/-- A queue's status line is due (R99). A queue whose context is lost gets none (R92). -/
def writeStatus (s : State) (q : QId) : State :=
  match s.queue? q with
  | none => s
  | some x =>
    if x.lost then s else
    (s.modQueue q fun y =>
      { y with due := y.due + 1, haltIndex := s.haltIndex q, haltCount := s.haltCount q }).flushDue q

/-- Move a queue to a state and write its status line. -/
def setQState (s : State) (q : QId) (st : QState) : State := (s.modQueue q fun x => { x with state := st }).writeStatus q

/-- In HALTED the line is written again when HALT_COUNT or INDEX has changed (R99), unless a level ends the entries: its state change
writes the line. -/
def noteHalts (s : State) (q : QId) : State :=
  match s.queue? q with
  | some x =>
    if !s.queueHeld q ∧ x.state = .halted ∧ (x.haltIndex, x.haltCount) ≠ (s.haltIndex q, s.haltCount q) then s.writeStatus q else s
  | none => s

end State

end Sys2Proof.Machine
end

