-- ==== Sys2Proof/Machine/Votes.lean ====
section
/-! DEFINITION. Votes and floors (16 R366-R368), the settling of a span between RUN and IDLE, and the raising of domains. -/

namespace Sys2Proof.Machine
namespace State

/-! Votes (16 R366-R368). -/

/-- The lowest unfenced span of a partition holds its pacer buffers (R367). -/
def bufferSpan (s : State) (p : Nat) : Nat := (s.unfencedSpans p).headD 0

def chanArmed (x : Chan) : Bool := x.state == .armed || x.state == .running || x.state == .held

/-- Every vote that stands: holder code, floor (0 RUN, 1 IDLE, 2 SLEEP), spans held. A span of no partition holds none (14 R320). -/
def votes (s : State) : List (Nat × Nat × List Nat) :=
  ((List.range 9).flatMap fun p => (s.part p).votes.map fun v => (v.holder, v.floor, maskList 40 v.mask.toNat)) ++
  ((s.queues.filter fun x => x.state != .destroyed && !x.open_.isEmpty).map fun x => (0x10, 1, s.partSpans (queuePart x))) ++
  ((List.range 9).flatMap fun p => (s.part p).windows.map fun _ => (0x11, 1, s.partSpans p)) ++
  ((s.chans.filter chanArmed).map fun c => (0x12, 1, [c.buffer])) ++
  (((List.range 40).filter fun n => (s.unit n).incident.isSome && s.spanOwner n != 0).map fun n => (0x13, 0, [n]))

/-- The shallowest floor on a span, with the lowest code among equal floors (R372). -/
def floorOn (s : State) (n : Nat) : Option (Nat × Nat) :=
  (s.votes.filter fun v => v.2.2.contains n).foldl (fun a v => match a with
    | none => some (v.2.1, v.1)
    | some b => if v.2.1 < b.1 ∨ (v.2.1 = b.1 ∧ v.1 < b.2) then some (v.2.1, v.1) else a) none

/-- The holder that keeps the central domain in RUN. -/
def centralHolder (s : State) : Option Nat :=
  (s.votes.foldl (fun (a : Option (Nat × Nat)) v => match a with
    | none => some (v.2.1, v.1)
    | some b => if v.2.1 < b.1 ∨ (v.2.1 = b.1 ∧ v.1 < b.2) then some (v.2.1, v.1) else a) none).map (·.2)

/-- Threads on a span. -/
def spanThreads (s : State) (n : Nat) : List (Nat × Thread) :=
  s.jobs.flatMap fun j => (j.threads.filter (·.span == n)).map fun t => (j.uid, t)

def spanBusy (s : State) (n : Nat) : Bool := !(s.spanThreads n).isEmpty

/-! Waking (R366, R374, R376). -/

/-- Settle a span between IDLE and RUN (R363 steps 1 and 2). -/
def settleRun (s : State) (n : Nat) : State :=
  let x := s.span n
  if x.trans.isNone ∧ (x.power = .run ∨ x.power = .idle) then
    let run := s.spanBusy n || (s.floorOn n).map (·.1) == some 0
    s.modSpan n fun y => { y with power := if run then .run else .idle }
  else s

/-- Raise a span to IDLE: an exit begins, or follows the entry in progress (R376). A fenced or unassigned span stays. -/
def raiseSpan (s : State) (n : Nat) : State :=
  if s.spanFenced n ∨ s.spanOwner n = 0 then s else
  (s.modSpan n fun x =>
    match x.trans with
    | some .toSleep => { x with wakeAfter := true }
    | some .toDeep => { x with wakeAfter := true }
    | some _ => x
    | none => match x.power with
      | .sleep => { x with trans := some .exitSleep }
      | .deep => { x with trans := some .exitDeep }
      | _ => x).settleRun n

def raiseSpans (s : State) (l : List Nat) : State := l.foldl raiseSpan s

/-- Raise the central domain, and record a cause bit (R374). -/
def wakeCentral (s : State) : State :=
  let c := s.central
  match c.trans with
  | some .toDeep => { s with central := { c with wakeAfter := true } }
  | some _ => s
  | none => if c.power = .deep then { s with central := { c with trans := some .exitDeep } } else s

def wakeBit (s : State) (i : Nat) : State :=
  { s with central := { s.central with wakeCause := s.central.wakeCause ||| BitVec.ofNat 32 (2 ^ i) } }

/-- The central domain does not run. -/
def centralAsleep (s : State) : Bool := s.central.power == .deep || s.central.trans.isSome

/-- The span is deeper than a floor, or on its way there (R366). -/
def deeperThan (s : State) (floor n : Nat) : Bool :=
  let x := s.span n
  let deep := x.power == .deep || x.trans == some .toDeep
  if floor = 2 then deep else deep || x.power == .sleep || x.trans == some .toSleep

/-- After a vote of a floor commits: the spans it holds that are deeper rise, the others take RUN for a RUN floor, and the central
domain is held in RUN (R366). -/
def voteCommitted (s : State) (floor : Nat) (spans : List Nat) : State :=
  spans.foldl (fun s n => if s.deeperThan floor n then s.raiseSpan n else s.settleRun n) s.wakeCentral

end State
end Sys2Proof.Machine
end

