-- ==== Sys2Proof/Machine/Jobs.lean ====
section
/-! DEFINITION. The life of a job after admission (01, 03, 06): positions and counts at an end, killing threads, ending a
job or all entries of a queue, and the abort of a group (11 R261-R267) that an end can bring with it. -/

namespace Sys2Proof.Machine

/-- Tile that holds an element. -/
def Job.tileOf (j : Job) (n : Nat) : Nat := n / max 1 j.tlen

/-- First element of a tile. -/
def Job.tileStart (j : Job) (t : Nat) : Nat := min (t * max 1 j.tlen) j.elems

/-- The lowest tile not yet retired; the tile count where all have. -/
def Job.lowestUnretired (j : Job) : Nat := min (lowestFree j.retired) j.tiles

/-- The faulted leaves, failed blocks and failed units among marks: each counts once, in the lowest tile that read it (14 R335,
R338); a faulted row counts in AUX when it is measured. -/
def runFaults (ms : List Mark) : Nat :=
  ((ms.filter fun m => m.kind != .row).map fun m => (m.kind, m.num)).eraseDups.length

/-- COUNT and AUX from the contributions and faults below an element, none of a tile above its own (06 R494). Faulted leaves count
in AUX of a TARIFF (10 R241), elsewhere in COUNT (07 R176, 09 R224). -/
def Job.countsBelow (j : Job) (n : Nat) : Nat × Nat :=
  let cs := j.contribs.filter fun c => decide (c.elem < n) && decide (c.tile ≤ j.tileOf n)
  let fs := runFaults (j.marks.filter fun m => decide (m.elem < n) && decide (m.tile ≤ j.tileOf n))
  let tariff := Entry.opcode j.entry == 0x0A
  (min (listSum (cs.map (·.cnt)) + if tariff then 0 else fs) 0xFFFFFFFF,
   min (listSum (cs.map (·.aux)) + if tariff then fs else 0) 0xFFFFFFFF)

/-- A contribution reaches its slot, and a result the members, only with the job's end: until then none of its output elements
holds its final value (03 R93, 11 R251, R254). -/
def Job.lateOutput (j : Job) : Bool := Entry.opcode j.entry == 0x05 || Entry.opcode j.entry == 0x06

/-- POSITION of a job that a cancel, a timeout or a reset ends (03 R93, 06 R154, R157, 18 R413). -/
def Job.stopPosition (j : Job) : Nat :=
  match j.phase with
  | .halted => j.saved
  | .fetched => 0
  | _ => if j.lateOutput then 0 else listMinD (j.tileStart j.lowestUnretired :: (j.early.map (·.elem)).toList) 0

/-- What a job's passes keep when its tiles from an element on run again (06 R152, R153, R491). -/
def Pass.backTo (x : Pass) (n rowLen : Nat) : Pass :=
  let below := fun (g : Nat) => decide (64 * g * rowLen < n)
  { x with closed := x.closed.filter (·.1 < n), due := [], redo := x.redo.filter below, redone := x.redone.filter below,
           redoAt := none, redoing := [], cancelled := x.cancelled.filter below, nexts := x.nexts.filter (fun r => (r.1 + 1) * rowLen ≤ n),
           matched := [], seen := {} }

/-- The counts of a HISTOGRAM_BUILD are those of its pass 1 and belong to no tile (07 R182). -/
def Job.ofPass1 (j : Job) : Bool := Entry.opcode j.entry == 0x10

/-- The job has not issued its record, so its outcome can still be set. -/
def Job.open_ (j : Job) : Bool :=
  j.phase == .fetched || j.phase == .running || j.phase == .halted || j.phase == .ending

/-- Give the job its outcome: no thread, no further access (03 R89, 06 R155). -/
def Job.ended (j : Job) (code detail pos : Nat) : Job :=
  let c := if j.phase == .fetched then (0, 0) else j.countsBelow pos
  { j with phase := .ending, code, detail := detail % 65536, position := pos, count := c.1, aux := c.2,
           threads := [], again := [], stopped := true, wait := .none }

/-- Every tile that an early end lets run has retired: those with an element below the event (06 R150). -/
def Job.earlyOver (j : Job) : Option Early :=
  j.early.filter fun e =>
    j.threads.isEmpty && decide (min (ceilDiv e.elem (max 1 j.tlen)) j.tiles ≤ j.lowestUnretired)

/-- A group opcode (05 R124). -/
def Job.groupOp (j : Job) : Bool :=
  (match j.queue with | .io _ => true | .adm _ => false) && j.read &&
  [0x05, 0x06, 0x07, 0x08, 0x09, 0x0C].contains (Entry.opcode j.entry)
def Job.groupNo (j : Job) : Nat := u8 j.entry 0x20
def Job.epoch (j : Job) : Nat := u32 j.entry 0x24

/-- A code that leaves the group of a job as it is (11 R261). -/
def groupHarmless (code : Nat) : Bool := code == 0 || decide (1 ≤ code ∧ code ≤ 7) || decide (0xC0 ≤ code ∧ code ≤ 0xC2)

namespace State

def group? (s : State) (p g : Nat) : Option Group := (s.part p).groups.find? (·.g == g)
def modGroup (s : State) (p g : Nat) (f : Group → Group) : State :=
  s.modPart p fun x => { x with groups := x.groups.map fun y => if y.g == g then f y else y }

/-- A job's threads are gone: its reads drain (06 R155), spans left without a thread settle (16 R363), and its queue's status line
follows the halted entries that remain (03 R99). -/
def afterKill (s : State) (uid : Nat) (q : QId) (spans : List Nat) (f : Nat → Bool) : State :=
  (spans.eraseDups.foldl settleRun (s.drainReads uid f)).noteHalts q

/-- What comes about as a committed command completes, also with the code of a reset of its queue, which keeps its effect (20 R468): a
closed window goes (13 R304), a scrub lets Ap go on (R317). -/
def adminEffect (s : State) (j : Job) : State :=
  match j.queue with
  | .io _ => s
  | .adm aq =>
    if j.wait = .none then s else
    let p := if aq = 0 then u8 j.entry 2 else aq
    match u8 j.entry 0 with
    | 0x8B => s.modPart p fun x => { x with windows := x.windows.filter fun w => !(w.closing && w.w == u8 j.entry 0x20) }
    | 0xA5 => s.modPart p fun x => { x with scrubbing := false }
    | _ => s

/-- Give a job an outcome without a further consequence for its group; it waits for its admission or its start no more. -/
def endRaw (s : State) (uid code detail pos : Nat) : State :=
  match s.job? uid with
  | none => s
  | some j =>
    (((s.adminEffect j).modJob uid fun j => j.ended code detail pos).modQueue j.queue fun y =>
      { y with fetched := y.fetched.filter (·.uid != uid) }).afterKill uid j.queue (j.threads.map (·.span)) fun _ => true

/-- Engines of a group's members other than this one. -/
def groupEngines (g : Group) : List MsgSrc := (g.members.filterMap (·.place)).eraseDups

/-- Send a message of a partition to an engine; one of this engine's own group comes straight to its inbox. -/
def sendMsg (s : State) (p : Nat) (dst : Option MsgSrc) (m : Msg) : State :=
  match dst with
  | some d => s.postMsg p d m
  | none => { s with ports := { s.ports with inbox := s.ports.inbox ++ [m] } }

/-- Pending jobs of a group complete with the code of its abort (11 R267). -/
def endGroupJobs (s : State) (p g : Nat) (cause : AbortCause) : State :=
  let code := if cause = .lateCorruption then 0x81 else 0x80
  (s.jobs.filter fun j => j.part == p && j.groupOp && j.groupNo == g && (j.phase == .running || j.phase == .halted)).foldl
    (fun s j => s.endRaw j.uid code g j.stopPosition) s

/-- Abort a group here: letters to every engine, and the pending jobs end (11 R265, R267). Once the coordinator has closed the epoch
no abort ends it (R263). -/
def abortGroup (s : State) (p g : Nat) (cause : AbortCause) : State :=
  match s.group? p g with
  | none => s
  | some x =>
    if x.state = .aborted ∨ x.closing = some x.epoch then s else
    let s1 := s.modGroup p g fun y => { y with state := .aborted, cause }
    let s2 := (groupEngines x).foldl (fun s d => s.postMsg p d (.abort x.tag x.epoch cause)) s1
    s2.endGroupJobs p g cause

/-- Ranks of a group that this engine acts for (11 R245). -/
def localRanks (g : Group) : List Nat :=
  (List.range g.members.length).filter fun r => ((g.members[r]?).map fun m => m.place.isNone) == some true

/-- Place in the order of admission of the last GROUP_BARRIER of the epoch, once every LOCAL rank has posted one (11 R262). -/
def barrierOrder (s : State) (p : Nat) (g : Group) : Option Nat :=
  let bs := s.jobs.filter fun j =>
    j.part == p && j.groupOp && Entry.opcode j.entry == 0x0C && j.groupNo == g.g && j.order != 0 &&
    (j.phase == .running || j.phase == .halted) && j.epoch == g.epoch % 2 ^ 32
  ((localRanks g).mapM fun r =>
    match (bs.filter fun (j : Job) => u16 j.entry 0x22 == r).map Job.order with
    | [] => none
    | os => some (listMinD os 0)).map fun (os : List Nat) => os.foldl max 0

/-- Give a job an outcome; a group job that ends otherwise than with OK or a decode code aborts its group (11 R261), and
one that ends otherwise than with OK keeps its epoch from closing (R262). -/
def endJob (s : State) (uid code detail pos : Nat) : State :=
  match s.job? uid with
  | none => s
  | some j =>
    let s1 := s.endRaw uid code detail pos
    if !j.groupOp || code = 0 then s1
    else if groupHarmless code then
      let late : Bool := match (s.group? j.part j.groupNo).bind fun g => s.barrierOrder j.part g with
        | some (o : Nat) => decide (o < j.order)
        | none => false
      if j.phase = .fetched ∨ late then s1 else s1.modGroup j.part j.groupNo fun g => { g with dirty := true }
    else s1.abortGroup j.part j.groupNo
      (if code = 0x81 then .lateCorruption else if code = 0x82 then .memberTimeout else .groupAbort)

/-! Early events (06 R150-R152). -/

/-- A job meets an early event: tiles above its tile are not handed out, and their threads are killed; an event at a lower
element, or of a lower rank at the same one, replaces the one met before (R150, R151). -/
def noteEarly (s : State) (uid : Nat) (e : Early) : State :=
  match s.job? uid with
  | none => s
  | some j =>
    let keep := match j.early with
      | some d => decide (d.elem < e.elem) || (d.elem == e.elem && decide (d.rank ≤ e.rank))
      | none => false
    if j.phase != .running || j.stopped || keep then s else
    let above := fun (t : Nat) => decide (j.tileOf e.elem < t)
    (s.modJob uid fun j =>
      { j with early := some e, threads := j.threads.filter (fun t => !above t.tile), again := j.again.filter (fun t => !above t) }).afterKill
        uid j.queue ((j.threads.filter fun t => above t.tile).map (·.span)) above

/-- A page fault halts the job at its saved position, and its queue unless that is in ERROR (R152, 03 R100). The tile that holds
the position runs again, or the last tile where the position is the element count (R491, log entry 95); after an access that belongs
to no tile the job is decoded again first (02 R52). It asks for its translations again (log entry 94). -/
def haltJob (s : State) (uid n : Nat) (noTile : Bool) : State :=
  match s.job? uid with
  | none => s
  | some j =>
    let t := min (j.tileOf n) (j.tiles - 1)
    let s0 := s.modJob uid fun j =>
      { j with phase := .halted, saved := n, recheck := noTile, early := none, threads := [], again := [], next := t,
               retired := j.retired.filter (· < t),
               contribs := j.contribs.filter fun c => decide (c.tile < t) || j.ofPass1,
               marks := j.marks.filter (·.tile < t), xlat := [], pass := j.pass.backTo (j.tileStart t) (Entry.rowLen j.entry) }
    let s1 := (j.threads.map (·.span)).eraseDups.foldl settleRun (s0.drainReads uid fun _ => true)
    match s1.live? j.queue with
    | some x =>
      if x.state = .active ∨ x.state = .halted then s1.setQState j.queue .halted else s1
    | none => s1

/-- The closing writes of a job below an element are issued and answered, its redos done (06 R491). -/
def closingsQuiet (s : State) (j : Job) (n : Nat) : Bool :=
  j.pass.due.isEmpty && (j.pass.redo.all fun g => decide (n ≤ 64 * g * Entry.rowLen j.entry)) && j.pass.redoing.isEmpty &&
  !(s.ports.requests.any fun w => !w.late && (match w.owner with | .job u .closing _ => u == j.uid | _ => false))

/-- Once its lower tiles have retired and its closing writes are answered, the lowest early event decides the job's outcome (R150). -/
def settleEarly (s : State) (uid : Nat) : State :=
  match s.job? uid with
  | none => s
  | some j =>
    if j.phase != .running || j.stopped then s else
    match j.earlyOver with
    | none => s
    | some e =>
      if !s.closingsQuiet j e.elem then s
      else if e.halt then s.haltJob uid e.elem e.noTile else s.endJob uid e.code e.detail e.elem

/-- A record for an entry that completes without ever having been fetched (03 R89). -/
def addUnread (s : State) (x : Queue) (idx : Word32) (code detail : Nat) : State :=
  { s with
    uidNext := s.uidNext + 1
    jobs := s.jobs ++ [{ uid := s.uidNext, queue := x.qid, idx, part := x.part, entry := [], read := false,
                         phase := .ending, code, detail, ordered := true }] }

/-- Every pending entry of a queue completes with a code, in index order, and H becomes A (03 R92, R100; 06 R155-R157; 18
R409). An entry that has its own code keeps it, except that a reset replaces a cancel's (18 R413). Entries whose record
is issued complete as they are. A block reset ends its group jobs one by one and tells no engine (11 R268). -/
def endQueue (s : State) (q : QId) (code detail : Nat) : State :=
  match s.queue? q with
  | none => s
  | some x =>
    if x.lost then s else
    let s1 := x.open_.foldl (fun s idx =>
      match s.jobs.find? fun j => j.queue == q && j.idx == idx with
      | none => s.addUnread x idx code detail
      | some j =>
        if j.phase = .ending then
          if j.ordered then s.modJob j.uid fun y => { y with code, detail } else s
        else if j.open_ then
          (if code = 0xA4 then s.endRaw j.uid code detail j.stopPosition else s.endJob j.uid code detail j.stopPosition).modJob j.uid
            fun y => { y with ordered := true }
        else s) s
    s1.modQueue q fun y => { y with head := y.tail, fetched := [] }

/-- Writes of a job that are not answered. -/
def jobWrites (s : State) (uid : Nat) : List Request :=
  s.ports.requests.filter fun w => !w.late && (match w.owner with | .job u _ _ => u == uid | _ => false)

/-- Writes of one thread that are not answered (01 R35). -/
def threadWrites (s : State) (uid tile : Nat) : List Request :=
  s.ports.requests.filter fun w => !w.late && w.owner == .job uid .thread tile

/-! Thread contexts and killed threads (01 R17, R35, R36). -/

/-- The lowest active core of a span with a free thread context, of its 64, other than one; 32 where there is none (01 R19). -/
def freeCore (s : State) (n c : Nat) : Nat :=
  let ts := (s.spanThreads n).map fun t => t.2.core
  (firstBelow 32 fun i => i != c && (s.span n).cores.getD i .spare == .active && decide ((ts.filter (· == i)).length < 64)).getD 32

/-- The core that a swap drains takes no thread (18 R420). -/
def drainingCore (s : State) (n : Nat) : Nat := match (s.span n).swap with | some (.core, c) => c | _ => 32

/-- Forget what killed threads of a job have counted (R37). -/
def forgetTiles (j : Job) (ts : List Nat) : Job :=
  { j with contribs := j.contribs.filter fun c => !ts.contains c.tile || j.ofPass1
           marks := j.marks.filter fun m => !ts.contains m.tile
           pass := { j.pass with maxima := j.pass.maxima.filter fun m => !ts.contains m.1.1 } }

/-- Kill the threads of a span that a test accepts and give them to its other cores: they run again from their first element (R35,
R36), and what they read is fetched again. One for which no context is free waits for one. -/
def rerunThreads (s : State) (n : Nat) (f : Thread → Bool) (busy : Nat) : State × List (Nat × Nat) :=
  let ks := (s.spanThreads n).filter fun t => f t.2
  let s1 := ks.foldl (fun (s : State) k =>
    (s.modJob k.1 fun j =>
      forgetTiles { j with threads := j.threads.map fun t => if t.tile = k.2.tile then { t with ran := false, seen := {}, core := 32 } else t }
        [k.2.tile]).drainReads k.1 (· == k.2.tile)) s
  let s2 := ks.foldl (fun (s : State) k =>
    s.modJob k.1 fun j => { j with threads := j.threads.map fun t => if t.tile = k.2.tile then { t with core := s.freeCore n busy } else t }) s1
  (s2, ks.map fun k => (k.1, k.2.tile))

/-- Reads of passes that a span's prefetcher has in flight drain; a pass that goes on asks again (18 R410). -/
def dropPassReads (s : State) (n : Nat) : State :=
  s.jobs.foldl (fun (s : State) j =>
    if s.ports.requests.any fun r => r.span == some n && r.owner == .fetch j.uid j.tiles then s.drainReads j.uid (· == j.tiles) else s) s

/-- Kill every thread of a span: their tiles are handed out again (R32, R35). -/
def takeThreads (s0 : State) (n : Nat) : State × List (Nat × Nat) :=
  let s := s0.dropPassReads n
  let ks := s.spanThreads n
  (ks.foldl (fun (s : State) k =>
    (s.modJob k.1 fun j =>
      forgetTiles { j with threads := j.threads.filter (fun t => t.tile != k.2.tile), again := insertAsc j.again k.2.tile } [k.2.tile]).drainReads
        k.1 (· == k.2.tile)) s, ks.map fun k => (k.1, k.2.tile))

/-- Active cores and pipes of a span. -/
def coresActive (s : State) (n : Nat) : Nat := activeOf (s.span n).cores
def pipesActive (s : State) (n : Nat) : Nat := activeOf (s.span n).pipes

/-- Table banks of a span that no job holds, ascending (10 R237). -/
def banksFree (s : State) (n : Nat) : List (Nat × Nat) :=
  let used := s.jobs.flatMap (·.banks)
  ((List.range 32).filter fun i => (s.span n).cores.getD i .spare == .active && !used.contains (n, i)).map fun i => (n, i)

/-- The table banks held at the cores that a test names are rebuilt in free banks of their job's partition, job by job, those of the
same span first; without a free bank the job goes on with fewer (10 R238, 01 R42). -/
def rebuildBanks (s : State) (n : Nat) (f : Nat → Bool) : State :=
  (s.jobs.map (·.uid)).foldl (fun (s : State) uid =>
    match s.job? uid with
    | none => s
    | some j =>
      let hit := j.banks.filter fun b => b.1 == n && f b.2
      if hit.isEmpty then s else
      let own := if s.spanFenced n then [] else (s.banksFree n).filter fun b => !f b.2
      let free := (own ++ (((s.unfencedSpans j.part).filter (· != n)).flatMap s.banksFree)).take hit.length
      let kept := (s.store.tables.filter fun b => hit.contains (b.span, b.core)).take 1
      let new := kept.flatMap fun b => free.map fun x => { b with span := x.1, core := x.2 }
      let other := s.store.tables.filter fun b => !free.contains (b.span, b.core)
      ({ s with store := { s.store with tables := other ++ new } }).modJob uid fun j =>
        { j with banks := (j.banks.filter fun b => !hit.contains b) ++ free }) s

/-- Write zero to staging banks of 256 KiB (those that software reaches are the lower four, 01 R22) and codebook cache
sets of a span (14 R323, R324). -/
def clearSpan (s : State) (n : Nat) (banks sets : List Nat) : State :=
  { s with
    store := sets.foldl (fun st k => { st with cbMem := memErase st.cbMem (cbKey n k 0) 16384 })
      (banks.foldl (fun st b => st.zero (locKey (.staging n) (b * 2 ^ 18)) (2 ^ 18)) s.store)
    jobs := s.jobs.map fun j =>
      { j with pass := { j.pass with loaded := j.pass.loaded.filter fun x =>
          !(x.1 == n && sets.contains (Entry.cbSet j.entry + x.2 % 2)) } } }

/-- Write zero to the local RAM of the cores of a span that a test names: working banks and table banks (14 R323, R324). -/
def clearCores (s : State) (n : Nat) (f : Nat → Bool) : State :=
  { s with store := { s.store with tables := s.store.tables.filter fun b => !(b.span == n && f b.core)
                                   work := s.store.work.filter fun b => !(b.1 == n && f b.2) } }

/-- Take a whole span out of service: its tiles are handed to the partition's other spans as those ask for them, and it goes to
DEEP_SLEEP with nothing retained (13 R312, 16 R369). -/
def fenceSpan (s : State) (n : Nat) (by_ : SpanFence) : State × List (Nat × Nat) :=
  let r := s.takeThreads n
  let s1 := r.1.modSpan n fun x => { x with fence := by_, power := .deep, trans := none, wakeAfter := false }
  (((s1.rebuildBanks n fun _ => true).clearCores n fun _ => true).clearSpan n (List.range 4) (List.range 8), r.2)

/-- Fence a core; below 8 active cores the span goes whole (13 R312). -/
def fenceCore (s : State) (n c : Nat) (keeper : Bool) : State × List (Nat × Nat) :=
  let e : Elem := if keeper then .keeperFenced else .fenced
  let s1 := s.modSpan n fun x => { x with cores := modAt x.cores c fun _ => e }
  let r := s1.rerunThreads n (fun t => t.core == c) c
  let s2 := r.1.rebuildBanks n (· == c)
  if s2.coresActive n < 8 ∧ (s2.span n).fence = .none then
    let q := s2.fenceSpan n (if keeper then .byKeeper else .byCount)
    (q.1, r.2 ++ q.2)
  else (s2, r.2)

/-- Outstanding writes of the named threads. -/
def killedQuiet (s : State) (ks : List (Nat × Nat)) : Bool := ks.all fun k => (s.threadWrites k.1 k.2).isEmpty

end State

end Sys2Proof.Machine
end

