-- ==== Sys2Proof/Machine/Faults.lean ====
section
/-! DEFINITION. Reset levels as they start and finish (18 R408-R413), fault counting, SEVERE sources, incidents and their
reactions (17, 18 R414-R419): the shared operations; the commands that call them stand in their own files. -/

namespace Sys2Proof.Machine
namespace State

/-! Scopes. -/

/-- The span lies in the scope of a level. -/
def spanInScope (s : State) (sc : Scope) (n : Nat) : Bool :=
  match sc with
  | .context _ => false
  | .span m => n == m
  | .part p => s.spanOwner n == p
  | .block => true
  | .power => true

/-- Level code of a scope (R408), and the status code of the jobs it ends. -/
def scopeLevel : Scope → Nat
  | .context _ => 2 | .span _ => 3 | .part _ => 4 | .block => 5 | .power => 6
def scopeCode : Scope → Nat
  | .context _ => 0xA1 | .span _ => 0xA2 | .part _ => 0xA3 | .block => 0xA4 | .power => 0xA4

/-- One scope covers another whole, at its level or above (R412). -/
def covers (s : State) (a b : Scope) : Bool :=
  decide (scopeLevel b ≤ scopeLevel a) &&
  match b with
  | .context q => s.inScope a q
  | .span n => s.spanInScope a n
  | .part p => (match a with | .part r => r == p | .block => true | .power => true | _ => false)
  | .block => (match a with | .block => true | .power => true | _ => false)
  | .power => (match a with | .power => true | _ => false)

/-- A span under a running level. -/
def spanHeld (s : State) (n : Nat) : Bool := s.levels.any fun l => s.spanInScope l.scope n

/-- Jobs of a scope that have not completed (R409). -/
def scopePending (s : State) (sc : Scope) : List Job :=
  match sc with
  | .span n => s.jobs.filter fun j => j.phase != .answered && j.code == 0xA2 && j.detail == n && j.phase != .running
  | _ => s.jobs.filter fun j => j.phase != .answered && s.inScope sc j.queue && j.phase != .fetched && j.phase != .running

/-- Return a channel to a state, its run abandoned and its flush cleared (12 R290). -/
def dropChannel (s : State) (c : Nat) (st : ChState) : State :=
  s.modChan c fun x =>
    if st = .free then { x with state := .free, owner := 0, cfg := {}, p := 0, c := 0, flush := false, drained := 0,
                                phase := .draining, disarm := false, flushRun := false, cleared := false, xlat := [] }
    else { x with state := st, flush := false, flushRun := false, cleared := false, drained := 0, phase := .draining, disarm := false, xlat := [] }

/-! A level begins (R410, R411). -/

/-- A span that its partition uses: assigned and not fenced. -/
def spanUsed (s : State) (n : Nat) : Bool := s.spanOwner n != 0 && !s.spanFenced n

/-- The span runs: in RUN or IDLE, in no transition. -/
def spanAwake (s : State) (n : Nat) : Bool := (s.span n).trans.isNone && ((s.span n).power == .run || (s.span n).power == .idle)

/-- A partition or block level that takes a span through DEEP_SLEEP with nothing retained (R410). -/
def spanCycled (s : State) (n : Nat) : Bool :=
  s.levels.any fun l => match l.scope with
    | .part p => s.spanOwner n == p
    | .block => true
    | _ => false

/-- Spans in use go through DEEP_SLEEP and back to IDLE, whatever they did (R410, 16 R363 steps 5 and 6). -/
def cycleSpans (s : State) (l : List Nat) : State :=
  l.foldl (fun s n => if s.spanUsed n then s.modSpan n fun x => { x with trans := some .toDeep, wakeAfter := true } else s) s

/-- Swaps on the spans of a scope wait for its level (R413). -/
def suspendSwaps (s : State) (sc : Scope) : State :=
  (List.range 40).foldl (fun s n =>
    if (s.span n).swap.isSome && s.spanInScope sc n then s.modSpan n fun x => { x with suspended := true } else s) s

/-- An entry of a context reset whose access a span still holds (R408, R409). -/
def resetHeldBy (s : State) (n : Nat) (j : Job) : Bool :=
  j.phase == .ending && j.code == 0xA1 && j.ordered &&
  s.ports.requests.any fun r => r.span == some n && (match r.owner with
    | .job u _ _ => u == j.uid
    | .fetch u _ => u == j.uid
    | _ => false)

def levelBegin (s : State) (sc : Scope) : State :=
  match sc with
  | .context q => s.endQueue q 0xA1 0
  | .span n =>
    let hit := s.jobs.filter fun j => j.threads.any fun t => t.span == n
    let late := (s.jobs.filter (s.resetHeldBy n)).map (·.uid)
    let s1 := hit.foldl (fun s j => (s.endJob j.uid 0xA2 n j.stopPosition).modJob j.uid fun y => { y with ordered := true }) s
    let s2 := late.foldl (fun (s : State) u => s.modJob u fun y => { y with code := 0xA2, detail := n }) s1
    (s2.dropPassReads n).raiseSpan n
  | .part p =>
    let qs := (s.queues.filter fun x => x.state != .destroyed && s.inScope sc x.qid).map (·.qid)
    let s1 := qs.foldl (fun s q => s.endQueue q 0xA3 0) s
    let s2 := (List.range 64).foldl (fun s c =>
      let x := s.chan c
      if x.owner = p ∧ (x.state = .armed ∨ x.state = .running ∨ x.state = .held) then s.dropChannel c .configured else s) s1
    s2.cycleSpans (s2.partSpans p)
  | .block =>
    let qs := (s.queues.filter fun x => x.state != .destroyed).map (·.qid)
    let s1 := qs.foldl (fun s q => s.endQueue q 0xA4 0) s
    let s2 := ((List.range 64).foldl (fun s c => s.dropChannel c .free) s1).cycleSpans (List.range 40)
    { s2 with
      central := { s2.central with trans := some .toDeep, wakeAfter := true }
      keeper := { s2.keeper with frozen := true }
      prof := { s2.prof with loadDue := true, switching := false, loaded := false, failedA := false, failedB := false }
      pacers := List.replicate 8 {}
      block := if s2.block.phase = .stopped then s2.block else { s2.block with phase := .starting, step := 4 } }
  | .power => { s with keeper := { s.keeper with frozen := true } }

/-- Start a level, or let a running one that covers it stand for it (R412). The answer names the level that finishes
it. Lower levels inside its scope are abandoned and finish with it. -/
def startLevel (s : State) (sc : Scope) (units : List Nat) (origin : Option QId) : State × Nat :=
  match s.levels.find? fun l => s.covers l.scope sc with
  | some l =>
    ({ s with levels := s.levels.map fun x => if x.id == l.id then { x with units := x.units ++ units } else x }, l.id)
  | none =>
    let gone := s.levels.filter fun l => s.covers sc l.scope
    let id := s.levelNext
    let l : Level := { id, scope := sc, units := units ++ gone.flatMap (·.units),
                       took := gone.flatMap fun x => x.id :: x.took, origin }
    let s1 := { s with levelNext := id + 1, levels := (s.levels.filter fun (x : Level) => !s.covers sc x.scope) ++ [l] }
    ((s1.suspendSwaps sc).levelBegin sc, id)

/-! Incident records (18 R414-R418). -/

/-- The 16 bytes of a record (R416, R417). -/
def incidentBytes (u : Nat) (x : Incident) (closed : Bool) : List Byte :=
  let flags := (if x.named then 1 else 0) + (if x.noAnswer then 2 else 0) + (if x.escal then 4 else 0) +
    (if x.raised then 8 else 0) + (if closed then 16 else 0)
  let q := match x.queue with | some (.io id) => id | some (.adm p) => 0x1000 + p | none => 0xFFFF
  leBytes 2 x.seq.toNat ++ leBytes 2 (x.source + 16 * x.cause + 256 * x.step) ++ leBytes 1 u ++ leBytes 1 x.level ++
  leBytes 1 x.part ++ leBytes 1 flags ++ leBytes 2 (if x.named then q else 0xFFFF) ++ leBytes 2 0 ++
  leBytes 4 (if x.named then x.job.toNat else 0)

/-- An event slot: the owner's is number 0. -/
def slotOf (s : State) (p : Nat) : Nat := if p = 0 then s.keeper.ownerSlot.toNat else (s.part p).eventSlot.toNat

/-- Queue a record for a slot and pulse its line; a slot that is zero is skipped (20 R465). -/
def slotWrite (s : State) (p : Nat) (bs : List Byte) : State :=
  let s1 := if s.slotOf p = 0 then s else ({ s with keeper := { s.keeper with slotDue := s.keeper.slotDue ++ [(p, bs)] } }).askXlat (.slot p) p 2
    [s.slotOf p]
  s1.emit (.note p)

/-- Write a unit's record to the ring, the owner's slot and the named partition's slot (R418). -/
def writeRecord (s : State) (u : Nat) (closed : Bool) : State :=
  match (s.unit u).incident with
  | none => s
  | some x =>
    let bs := incidentBytes u x closed
    let e := x.seq.toNat % 16
    let s1 := { s with keeper := { s.keeper with
      ring := modAt s.keeper.ring e fun _ => BitVec.ofNat 128 (leNat bs)
      lastSeq := if (x.seq - s.keeper.lastSeq).toNat < 2 ^ 15 then x.seq else s.keeper.lastSeq, anyInc := true } }
    let s2 := s1.slotWrite 0 bs
    if x.part = 0 then s2 else s2.slotWrite x.part bs

def modIncident (s : State) (u : Nat) (f : Incident → Incident) : State :=
  s.modUnit u fun x => { x with incident := x.incident.map f }

/-- Close an incident whose reaction has finished and whose record stands written (17 R397): its vote is withdrawn (16 R369). A fence
waits for a level that touches its span (R413). -/
def tryClose (s : State) (u : Nat) : State :=
  match (s.unit u).incident with
  | none => s
  | some x =>
    if x.reacted && x.written && s.killedQuiet x.killed && !(x.level == 1 && decide (u < 40) && s.spanHeld u) then
      ((s.writeRecord u true).modUnit u fun y => { y with incident := none }).settleRun u
    else s

/-- Fences whose killed threads' writes have been answered meanwhile let their incidents close. -/
def settleFences (s : State) : State :=
  (List.range 96).foldl (fun s u => match (s.unit u).incident with
    | some x => if x.level = 1 ∨ !x.killed.isEmpty then s.tryClose u else s
    | none => s) s

/-! Sparing (18 R419-R421). -/

/-- The lowest spare of a kind at a unit, if any is left. -/
def spareOf (s : State) (u : Nat) (k : SpareKind) : Option Nat :=
  match k with
  | .core => if u < 40 then firstBelow 32 fun i => (s.span u).cores.getD i .fenced == .spare else none
  | .pipe => if u < 40 then firstBelow 5 fun i => (s.span u).pipes.getD i .fenced == .spare else none
  | .lane => if u = 0x32 then firstBelow 18 fun i => s.lanes.lanes.getD i .fenced == .spare else none
  | .sorting => if u = 0x30 ∧ s.lanes.sorting then some 0 else none

/-- The element is active at its unit. -/
def elemActive (s : State) (u : Nat) (k : SpareKind) (n : Nat) : Bool :=
  match k with
  | .core => decide (u < 40) && (s.span u).cores.getD n .fenced == .active
  | .pipe => decide (u < 40) && (s.span u).pipes.getD n .fenced == .active
  | .lane => u == 0x32 && s.lanes.lanes.getD n .fenced == .active
  | .sorting => u == 0x30

/-- Swap an active element for a spare. A core or pipe of a span drains first (R420), so its swap waits for SWAP_COMPLETE: threads on
the core, or for a pipe the span's tiles in progress, run again (R419), and a core's table bank is rebuilt (10 R238); it follows a swap
of the span that has not completed. A lane or the sorting processor is replaced at once. -/
def beginSwap (s : State) (u : Nat) (k : SpareKind) (n : Nat) : State :=
  match s.spareOf u k with
  | none => s
  | some m =>
    match k with
    | .core | .pipe =>
      if (s.span u).swap = some (k, n) ∨ (s.span u).swapsDue.contains (k, n) then s
      else if (s.span u).swap.isSome then s.modSpan u fun x => { x with swapsDue := x.swapsDue ++ [(k, n)] } else
      let s0 := s.modSpan u fun x => { x with swap := some (k, n), suspended := s.spanHeld u }
      let busy := if k = .core then n else 32
      let s1 := (s0.rerunThreads u (fun t => k == .pipe || t.core == n) busy).1
      if k = .core then s1.rebuildBanks u (· == n) else s1
    | .lane =>
      { s with lanes := { s.lanes with
          lanes := modAt (modAt s.lanes.lanes n fun _ => .spare) m fun _ => .active
          logical := s.lanes.logical.map fun l => if l == some n then some m else l } }
    | .sorting => { s with lanes := { s.lanes with sorting := false } }

/-- A span's swap has completed: the keeper begins the next one that waits, where its element still serves and a spare is left (R419). -/
def nextSwap (s : State) (u : Nat) : State :=
  match (s.span u).swapsDue.filter fun x => s.elemActive u x.1 x.2 && (s.spareOf u x.1).isSome with
  | [] => s.modSpan u fun x => { x with swapsDue := [] }
  | y :: l => (s.modSpan u fun x => { x with swapsDue := l }).beginSwap u y.1 y.2

/-! Counting and reactions (17 R390-R397). -/

/-- Spans that a keeper fence of a core would take out, and whether that leaves the partition without one (18 R422). -/
def fenceLeavesNone (s : State) (n c : Nat) : Bool :=
  let low := s.coresActive n - (if (s.span n).cores.getD c .spare == .active then 1 else 0) < 8
  low && decide (s.spanOwner n ≠ 0) && ((s.unfencedSpans (s.spanOwner n)).filter (· != n)).isEmpty

/-- Partition that an event names: a span unit's own, else the one that the unit names, else its queue's (17 R393, 18 R414). -/
def eventPart (s : State) (u : Nat) (c : FaultCtx) : Nat :=
  if u < 40 then s.spanOwner u
  else match c.part, c.queue with
    | some p, _ => p
    | none, some q => s.noteLine q
    | none, none => 0

/-- The reaction that applies to an incident, from a policy's reaction upwards (17 R393, 18 R422). -/
def reactionFor (s : State) (u r : Nat) (c : FaultCtx) : Nat :=
  let part := s.eventPart u c
  let r1 := if r = 1 ∧ !(decide (u < 40) && c.core.isSome) then 2 else r
  let r1 := if r1 = 1 ∧ s.fenceLeavesNone u (c.core.getD 0) then 5 else r1
  let r2 := if r1 = 2 ∧ c.queue.isNone then 3 else r1
  let r3 := if r2 = 3 ∧ 40 ≤ u then 4 else r2
  if r3 = 4 ∧ part = 0 then 5 else r3

/-- Begin a reaction for the incident of a unit. -/
def react (s : State) (u lvl : Nat) (c : FaultCtx) : State :=
  match lvl with
  | 0 => s.modIncident u fun x => { x with reacted := true }
  | 1 =>
    let r := s.fenceCore u (c.core.getD 0) true
    r.1.modIncident u fun x => { x with reacted := true, killed := x.killed ++ r.2 }
  | 2 => match c.queue with
    | some q => (s.startLevel (.context q) [u] none).1
    | none => s
  | 3 => (s.startLevel (.span u) [u] none).1
  | 4 => (s.startLevel (.part (s.eventPart u c)) [u] none).1
  | 5 => (s.startLevel .block [u] none).1
  | _ => (s.startLevel .power [u] none).1

/-- Open an incident (17 R395); one of a span holds the keeper's vote for RUN from then on (16 R366, R367). -/
def openIncident (s : State) (u : Nat) (x : Incident) : State :=
  let y := { x with seq := s.keeper.nextSeq }
  let s0 := s.modUnit u fun z => { z with incident := some y }
  let s1 := { s0 with keeper := { s0.keeper with nextSeq := s0.keeper.nextSeq + 1 } }
  if u < 40 ∧ s.spanOwner u ≠ 0 then s1.voteCommitted 0 [u] else s1

/-- Rewrite the record of an incident that has been written (18 R418). -/
def rewrite (s : State) (u : Nat) : State :=
  match (s.unit u).incident with
  | some x => if x.written then s.writeRecord u false else s
  | none => s

/-- An incident for a source that has become SEVERE. -/
def severe (s : State) (u src : Nat) (c : FaultCtx) : State :=
  let pol := (s.unit u).policy.toNat
  let lvl := s.reactionFor u (if src = 0 then 0 else bitsOf pol 26 24) c
  let s1 := match c.element with
    | some (k, n) => if (src = 0 ∨ src = 11) ∧ s.elemActive u k n then s.beginSwap u k n else s
    | none => s
  match (s1.unit u).incident with
  | some x =>
    if lvl > x.level then
      ((s1.modIncident u fun y => { y with level := lvl, raised := true, reacted := false }).rewrite u).react u lvl c
    else s1
  | none =>
    let named := c.queue.isSome && c.job.isSome
    (s1.openIncident u { seq := 0, source := src, cause := 0, step := 0, level := lvl, part := s.eventPart u c,
                         queue := c.queue, job := BitVec.ofNat 32 (c.job.getD 0), named }).react u lvl c

/-- The threshold and window length a unit's policy gives a source (17 R392). -/
def policyFor (f : FUnit) (src : Nat) : WinPol :=
  { thr := if src = 0 then bitsOf f.policy.toNat 15 8 else bitsOf f.policy.toNat 7 0, log2 := bitsOf f.policy.toNat 20 16 }

/-- One event of a source counted: sticky bit, counter, window, SEVERE (17 R390, R391). -/
def countSource (f : FUnit) (src : Nat) : FUnit :=
  { f with
    sources := modAt f.sources src fun x =>
      let w := match x.window with
        | some w => some w
        | none => if x.count = 0 then some (policyFor f src) else none
      let n := satAdd 8 x.count 1
      match w with
      | some w =>
        if !x.latched ∧ w.thr ≠ 0 ∧ w.thr ≤ n.toNat then
          { x with sticky := true, count := n, severe := true, latched := true, window := none }
        else { x with sticky := true, count := n, window := some w }
      | none => { x with sticky := true, count := n }
    corrected := if src = 0 then satAdd 32 f.corrected 1 else f.corrected
    uncorrected := if src = 1 ∨ src = 2 then satAdd 32 f.uncorrected 1 else f.uncorrected }

/-- The source has turned SEVERE between two states of its unit. -/
def turnedSevere (a b : FUnit) (src : Nat) : Bool :=
  !(a.sources.getD src {}).latched && (b.sources.getD src {}).latched

/-- A checker event of a source at a unit (17 R390); a source the unit lacks has no events. -/
def countEvent (s : State) (u src : Nat) (c : FaultCtx) : State :=
  if !bitOf (presentMask u) src then s else
  let f := s.unit u
  let g := countSource f src
  let s1 := s.modUnit u fun _ => g
  if turnedSevere f g src then s1.severe u src c else s1

/-- The unit whose port answers an access on a route that leads nowhere any more: the transport for a window, the viaduct for a deck
peer (19 R442, R449). -/
def routeUnit (r : Nat) : Option Nat :=
  if 0x40 ≤ r ∧ r ≤ 0xBF then some 0x50 else if 0x30 ≤ r ∧ r ≤ 0x37 then some 0x51 else none

/-- What a failed access counts at the port's unit: RESP_ERROR for an error, RESP_POISON for poison (17 R387, 19 R432). -/
def countRead (s : State) (code : Nat) (u : Option Nat) (c : FaultCtx) : State :=
  match u with
  | some u => s.countEvent u (if code = 0x48 then 4 else 5) c
  | none => s

/-- An incident that a command or a keeper step opens, or a raise of the open one (18 R492, 16 R365, 15 R356). -/
def cause (s : State) (u : Nat) (x : Incident) : State :=
  match (s.unit u).incident with
  | some y =>
    if x.level > y.level then (s.modIncident u fun z => { z with level := x.level, reacted := false }).rewrite u else s
  | none => s.openIncident u x

/-! Level finish and escalation (18 R408, R409). -/

/-- The reaction of the listed units' incidents has finished, except where another level still runs for the incident. -/
def finishUnits (s : State) (us : List Nat) : State :=
  us.foldl (fun s u =>
    if s.levels.any fun l => l.units.contains u then s else (s.modIncident u fun x => { x with reacted := true }).tryClose u) s

/-- Incidents of the listed units rise to a level by a timeout. -/
def escalateUnits (s : State) (us : List Nat) (lvl : Nat) : State :=
  us.foldl (fun s u => match (s.unit u).incident with
    | some x => if lvl > x.level then (s.modIncident u fun y => { y with level := lvl, escal := true }).rewrite u else s
    | none => s) s

/-- What a level leaves behind when it finishes (R410, R411, R100). -/
def levelEnd (s : State) (sc : Scope) : State :=
  match sc with
  | .context q => match s.live? q with
    | some x => if x.state = .reset then s else s.setQState q .reset
    | none => s
  | .span n =>
    (((s.clearSpan n [] (List.range 8)).clearCores n fun _ => true).modSpan n fun x => { x with suspended := false }).settleRun n
  | .part p =>
    let qs := (s.queues.filter fun x => x.state != .destroyed && x.state != .stopped && s.inScope sc x.qid).map (·.qid)
    let s1 := qs.foldl (fun s q => s.setQState q .stopped) s
    (s.partSpans p).foldl (fun s n => (s.modSpan n fun x => { x with suspended := false }).settleRun n) s1
  | .block => s
  | .power => s

end State
end Sys2Proof.Machine
end

