-- ==== Sys2Proof/Machine/Power.lean ====
section
/-! DEFINITION. Power (16): descent and refusal of spans and of the central domain, the retention estimate, entries and exits, and
the keeper tick. -/

namespace Sys2Proof.Machine
namespace State

/-! Retention (R380, R381). -/

def popcount (n : Nat) : Nat := listSum ((List.range 64).map fun i => if bitOf n i then 1 else 0)

/-- Retained units of a span in DEEP_SLEEP: none where it is fenced or unassigned. -/
def spanUnits (s : State) (n : Nat) : Nat :=
  if !s.spanUsed n || s.spanCycled n then 0 else 16 * popcount (s.retStaging n) + popcount (s.retCodebook n)

def centralUnits (s : State) : Nat := (if bitOf s.retCentral 0 then 64 else 0) + (if bitOf s.retCentral 1 then 16 else 0)

/-- Units over the domains that will be in DEEP_SLEEP with the named span or the central domain among them. -/
def deepUnits (s : State) (also : Option Nat) (central : Bool) : Nat :=
  listSum ((List.range 40).map fun n =>
    if (s.span n).power == .deep || (s.span n).trans == some .toDeep || also == some n then s.spanUnits n else 0) +
  (if central || s.central.power == .deep || s.central.trans == some .toDeep then s.centralUnits else 0)

/-- est_ua of R381. -/
def estUa (units : Nat) (t : Int) : Nat :=
  let per := if t ≤ 25 then 1000 else if t ≤ 50 then 2000 else if t ≤ 75 then 4000 else if t ≤ 100 then 8000 else 16000
  40000 + units * per / 16

/-- Units over the domains now in DEEP_SLEEP. -/
def nowUnits (s : State) : Nat :=
  listSum ((List.range 40).map fun n => if (s.span n).power == .deep then s.spanUnits n else 0) +
  (if s.central.power == .deep then s.centralUnits else 0)

/-- RET_EST_MA of R385: the estimate over the domains now in DEEP_SLEEP, 0 while there is none (its reset value). -/
def retEstMa (s : State) : Nat :=
  if s.central.power != .deep && (s.spans.all fun x => x.power != .deep) then 0
  else min 1023 (ceilDiv (estUa s.nowUnits s.central.temp) 1000)

/-! Refusals (R372). -/

def refuseSpan (s : State) (n code : Nat) : State :=
  s.modSpan n fun x => { x with refused := satAdd 32 x.refused 1, lastRefuser := BitVec.ofNat 8 code }

def refuseCentral (s : State) (code : Nat) : State :=
  { s with central := { s.central with refused := satAdd 32 s.central.refused 1, lastRefuser := BitVec.ofNat 8 code } }

/-- Objects or definitions that central DEEP_SLEEP would lose (R370). -/
def centralObjects (s : State) : Bool :=
  (s.parts.any fun x => !x.groups.isEmpty || !x.windows.isEmpty) ||
  (s.chans.any fun c => c.state != .free) || !s.tables.keys.isEmpty ||
  ((s.queues.any fun q => q.state != .destroyed) && !bitOf s.retCentral 0) ||
  ((s.parts.any fun x => !x.regions.isEmpty) && !bitOf s.retCentral 1)

/-- The code that bars central DEEP_SLEEP, if any (R370, R372). -/
def centralBar (s : State) (t : Int) : Option Nat :=
  match s.centralHolder with
  | some h => some h
  | none =>
    if estUa (s.deepUnits none true) t > 480000 then some 0x14
    else if (List.range 40).any fun n => (s.span n).power != .deep || (s.span n).trans.isSome then some 0x16
    else if s.centralObjects then some 0x17
    else if s.ports.vpUp != 0 && s.img 0x0E 1 != 0 then some 0x18
    else none

/-! Entries and exits (R363, R364, R380). -/

/-- What a span loses as it enters DEEP_SLEEP: every bank and set that is not selected, and the local RAM of its cores; all of it
where a reset level takes it there (18 R410). -/
def dropUnretained (s : State) (n : Nat) : State :=
  let all := s.spanCycled n
  (s.clearCores n fun _ => true).clearSpan n ((List.range 4).filter fun b => all || !bitOf (s.retStaging n) b)
    ((List.range 8).filter fun b => all || !bitOf (s.retCodebook n) b)

/-- A SLEEP or DEEP_SLEEP entry of a span completes (R376). -/
def spanEntered (s : State) (n : Nat) : State :=
  let x := s.span n
  match x.trans with
  | some .toSleep =>
    let s1 := s.modSpan n fun y => { y with power := .sleep, trans := none, wakeAfter := false }
    if x.wakeAfter then s1.raiseSpan n else s1
  | some .toDeep =>
    let s1 := (s.dropUnretained n).modSpan n fun y => { y with power := .deep, trans := none, wakeAfter := false }
    if x.wakeAfter then s1.raiseSpan n else s1
  | _ => s

/-- An exit of a span completes in IDLE, and in RUN where work or a RUN floor waits. -/
def spanExited (s : State) (n : Nat) : State :=
  match (s.span n).trans with
  | some .exitSleep => (s.modSpan n fun y => { y with power := .idle, trans := none }).settleRun n
  | some .exitDeep => (s.modSpan n fun y => { y with power := .idle, trans := none }).settleRun n
  | _ => s

/-- What the central domain loses as it enters DEEP_SLEEP besides what R370 forbids to lose: everything but queue context RAM and the
region table (R380): codebook-set claims, deck arrivals and messages that wait, what admission and the ports keep between turns, and
the token counts, which are no shaper settings (DEDUCED, log entry 60). -/
def dropCentral (s : State) : State :=
  { s with
    tables := { s.tables with cbOwner := List.replicate 8 0, adminLast := 8 }
    parts := s.parts.map fun x => { x with arrivals := [], cursor := List.replicate 4 4096, turn := none }
    queues := s.queues.map fun x => { x with deficit := 0, tokens := 0 }
    ports := { s.ports with
      inbox := []
      states := s.ports.states.map fun x => { x with turn := 0, deficit := List.replicate 9 0 } } }

/-- OFF is refused or accepted on these conditions (R383), with the codes of R372. -/
def offBar (s : State) : Option Nat :=
  match s.centralHolder with
  | some h => some h
  | none =>
    if (s.queues.any fun q => q.state != .destroyed && (match q.qid with | .io _ => true | .adm _ => false)) ||
       (s.parts.any fun x => !x.groups.isEmpty || !x.windows.isEmpty) || (s.chans.any fun c => c.state != .free)
    then some 0x17 else none

/-! Register accesses while the central domain sleeps (16 R374, 20 R470). -/

/-- The register window answers: not under RST_N and not in OFF. -/
def regsOpen (s : State) : Bool := s.block.phase != .held && s.block.phase != .off

/-- The registers of chapter 16, whose access wakes nothing. -/
def powerPage (off : Nat) : Bool := decide (0x2000 ≤ off ∧ off < 0x3000) || decide (0x20000 ≤ off ∧ off < 0x20A00)

/-- An access that waits for the central domain: it wakes it and completes after step 8 of R363. -/
def deferAccess (s : State) (off : Nat) (v : Option Word32) : State :=
  (({ s with central := { s.central with deferred := s.central.deferred ++ [(off, v)] } }).wakeBit 4).wakeCentral

/-- A register write with an effect: at once, or after the wake that it causes. -/
def regWrite (s : State) (off : Nat) (v : Word32) (f : State → State) : State :=
  if !s.regsOpen then s
  else if s.centralAsleep && !powerPage off then s.deferAccess off (some v)
  else f s

end State

/-- One keeper tick with no command waiting: the wake timer counts down (16 R385; log entry 1). -/
def keeperTick (s : State) : State :=
  let t := s.central.wakeTimer
  let c := if t = 0 then s.central
           else { s.central with wakeTimer := t - 1, timerFired := s.central.timerFired || t == 1 }
  { s with block := { s.block with ticks := s.block.ticks + 1 }, central := c }

end Sys2Proof.Machine
end

