-- ==== Sys2Proof/Machine/Rings.lean ====
section
/-! DEFINITION. Rings, doorbells and completions (03): DOORBELL, DOORBELL_CAPTURE, ENTRY_FETCH, RING_UNREADABLE,
DONE_WRITE, DONE_ANSWERED, and the record of COMPLETION_RECORD_WRITE, which stands in Threads. -/

namespace Sys2Proof.Machine
namespace State

/-! The doorbell window (R80, R81). -/

/-- The queue whose doorbell word lies at a window offset, if the profile gives the word one. -/
def bellQueue (s : State) (off : Nat) : Option QId :=
  let page := off / 0x10000
  let word := off % 0x10000 / 0x40
  if page = 0 then (if word = 0 then some (.adm 0) else none)
  else if page ≤ 8 then
    if word = 0 then some (.adm page)
    else if s.defined page ∧ word - 1 < s.qidCount page then some (.io (s.qidFirst page + (word - 1))) else none
  else none

/-- A doorbell write that the engine evaluates: 32 bits at byte 0 of a live queue's word. -/
def bellWrite (s : State) (off width : Nat) : Option Queue :=
  if width = 4 ∧ off % 0x40 = 0 then (s.bellQueue off).bind s.live? else none

/-- A queue enters ERROR (R85, R88). -/
def enterError (s : State) (q : QId) (code detail : Nat) (idx : Word32) : State :=
  (s.modQueue q fun x => { x with state := .error, errCode := BitVec.ofNat 8 code, errDetail := BitVec.ofNat 16 detail,
                                  errIndex := idx }).writeStatus q

/-- The earliest pending entry that a tail would overwrite (R84 rule 2). -/
def overwritten (x : Queue) (t : Word32) : Option Word32 :=
  x.open_.find? fun e => decide ((e + BitVec.ofNat 32 (2 ^ x.log2) - x.tail).toNat < (t - x.tail).toNat)

/-- Indices from one tail up to the next. -/
def indicesTo (a t : Word32) : List Word32 := (List.range (t - a).toNat).map fun i => a + BitVec.ofNat 32 i

/-- Evaluate a doorbell against H and A (R84, R85, R101). INDEX is 0 where rule 1 is broken, for which R85 names no index (DESIGN
CHOICE, log entry 78). -/
def evalBell (s : State) (q : QId) (t : Word32) : State :=
  match s.live? q with
  | none => s
  | some x =>
    if x.state = .error ∨ x.lost then s else
    let s1 := s.modQueue q fun y => { y with lastDb := t }
    let d := (t - x.head).toNat
    if d = 0 ∨ 2 ^ x.log2 < d then s1.enterError q 0xF1 1 0
    else if (x.tail - x.head).toNat < d then
      match overwritten x t with
      | some e => s1.enterError q 0xF1 2 e
      | none =>
        (s1.modQueue q fun y => { y with tail := t, open_ := y.open_ ++ indicesTo x.tail t }).voteCommitted 1
          (s.partSpans (queuePart x))
    else s1

/-- What a 32-bit read of the doorbell window returns: the accepted tail at byte 0 of a live queue's word, zero elsewhere (R81). -/
def bellRead (s : State) (off : Nat) : Word32 :=
  if off % 0x40 = 0 then (match (s.bellQueue off).bind s.live? with | some x => x.tail | none => 0) else 0

/-- A doorbell write while the central domain is in DEEP_SLEEP is captured, up to 64 (16 R374, R375). -/
def captureBell (s : State) (q : QId) (t : Word32) : State :=
  if s.central.captured.length < 64 then
    (({ s with central := { s.central with captured := s.central.captured ++ [Captured.mk q t] } }).wakeBit 0).wakeCentral
  else s.emit .withheld

/-! Ring reads (R87, R88). -/

/-- Slot address of an index (R78). -/
def slotAddr (x : Queue) (idx : Word32) : Nat := x.ring.toNat + idx.toNat % 2 ^ x.log2 * 256

/-- The queue may read its next entry (R87); nothing is fetched from A0 before the commit (15 R353). -/
def canFetch (s : State) (x : Queue) : Bool :=
  s.running && !s.centralAsleep && x.state == .active && !x.lost && !s.queueHeld x.qid && x.head != x.tail &&
  decide (x.fetched.length < 32) && s.prof.committed

/-- Opcodes of administrative commands (13 R299). -/
def adminOpcode (o : Nat) : Bool :=
  [0x80, 0x81, 0x82, 0x83, 0x84, 0x85, 0x88, 0x89, 0x8A, 0x8B, 0x8C, 0x8D, 0x90, 0x91, 0x92, 0x93, 0x94, 0x95, 0x96, 0x97,
   0x98, 0xA0, 0xA1, 0xA2, 0xA3, 0xA4, 0xA5, 0xA6].contains o

/-- Codes of a failed ring read (R88). -/
def readFailCode : ReadFail → Nat
  | .busError => 0x48 | .poison => 0x65 | .translation => 0x44

/-- The ring read at H fails: the queue enters ERROR with CODE 0xF2 (R88). -/
def ringFail (s : State) (q : QId) (why : ReadFail) : State :=
  match s.live? q with
  | none => s
  | some x =>
    if s.canFetch x then
      let u := ((s.locate (queuePart x) x.xlat (slotAddr x x.head)).bind fun t => s.portOf t.1).map portUnit
      let s1 := match why, u with
        | .busError, some u => s.countEvent u 4 {}
        | .poison, some u => s.countEvent u 5 {}
        | _, _ => s
      (s1.modQueue q fun y => { y with xlat := [] }).enterError q 0xF2 (readFailCode why) x.head
    else s

/-- Read the next entry of a queue (R87): it becomes a job that waits for admission or, on an administrative queue, for its
command. An opcode without a command completes with BAD_OPCODE (13 R293). -/
def fetchEntry (s : State) (q : QId) : State :=
  match s.live? q with
  | none => s
  | some x =>
    if !s.canFetch x then s else
    match s.keys (queuePart x) x.xlat (slotAddr x x.head) 256 with
    | none => s.askRange (.ring q) (queuePart x) x.xlat 1 (slotAddr x x.head) 256
    | some ks =>
      if (granulesOf ks).any s.store.poison.contains then s.ringFail q .poison else
      let e := ks.map s.store.get
      let j : Job := { uid := s.uidNext, queue := q, idx := x.head, part := queuePart x, entry := e }
      let s1 := { s with uidNext := s.uidNext + 1, jobs := s.jobs ++ [j] }
      let s2 := s1.modQueue q fun y => { y with head := y.head + 1, xlat := [], fetched := y.fetched ++ [⟨x.head, j.uid⟩] }
      match q with
      | .adm _ => if adminOpcode (u8 e 0) then s2 else s2.endRaw j.uid 0x01 (u8 e 0) 0
      | .io _ => s2

/-! The record (R89, R90, R92). -/

/-- Bytes +0x00 to +0x1E of a record. -/
def recordBytes (j : Job) : List Byte :=
  leBytes 8 j.position ++ (if j.read then Entry.cookie j.entry else List.replicate 8 0) ++ leBytes 4 j.count ++
  leBytes 4 j.aux ++ leBytes 2 j.detail ++ leBytes 1 j.code ++ List.replicate 4 0

/-- A job whose record comes before this one's: in index order for the entries of one cancel or reset (R92), and in ring
order on an administrative queue (13 R295). -/
def mustWait (s : State) (j : Job) : Bool :=
  s.jobs.any fun k => k.queue == j.queue && k.uid != j.uid && earlier k.idx j.idx &&
    ((j.ordered && k.ordered) || (match j.queue with | .adm _ => true | .io _ => false))

/-- Write the first 31 bytes once every access of the job is answered; COOKIE's byte enables are clear for an entry that was
never read (R89). -/
def recordWrite (s : State) (uid : Nat) : State :=
  match s.job? uid with
  | none => s
  | some j =>
    match s.queue? j.queue with
    | none => s
    | some x =>
      if j.phase != .ending || j.wait != .none || !j.threads.isEmpty || !(s.jobWrites uid).isEmpty || !j.pass.due.isEmpty || !j.pass.redoing.isEmpty ||
         s.mustWait j || x.lost then s else
      match s.place (queuePart x) (j.xlat ++ x.xlat) (slotAddr x j.idx) (recordBytes j) with
      | none => s.askRange (.ring j.queue) (queuePart x) (j.xlat ++ x.xlat) 2 (slotAddr x j.idx) 31
      | some bs =>
        let bs := if j.read then bs else bs.take 8 ++ bs.drop 16
        let s1 := s.issue (.job uid .record 0) (queuePart x) 0 0 bs []
        (s1.modJob uid fun y => { y with phase := .record }).modQueue j.queue fun y => { y with xlat := [] }

/-- Write byte +0x1F with DONE set, once the first write is answered. -/
def doneByte (s : State) (uid : Nat) : State :=
  match s.job? uid with
  | none => s
  | some j =>
    match s.queue? j.queue with
    | none => s
    | some x =>
      if j.phase != .record || !(s.jobWrites uid).isEmpty || x.lost then s else
      match s.place (queuePart x) (j.xlat ++ x.xlat) (slotAddr x j.idx + 0x1F) [0x80#8] with
      | none => s.askRange (.ring j.queue) (queuePart x) (j.xlat ++ x.xlat) 2 (slotAddr x j.idx + 0x1F) 1
      | some bs =>
        let s1 := s.issue (.job uid .done 0) (queuePart x) 0 0 bs []
        (s1.modJob uid fun y => { y with phase := .done }).modQueue j.queue fun y => { y with xlat := [] }

/-- Erasures of bound slots end once every earlier job that names the slot has completed (14 R329). -/
def settleErase (s : State) (uid : Nat) : State :=
  let w := s.tables.erasing.map fun e => { e with jobs := e.jobs.filter (· != uid) }
  let done := w.filter (·.jobs.isEmpty)
  done.foldl (fun s _ => s.emit (.keyResp 0))
    { s with tables := { s.tables with erasing := w.filter fun e => !e.jobs.isEmpty } }

/-- CANCEL_QUEUE and RESET_QUEUE count the entries of the queue they name that complete with their code (13 R299). -/
def countFor (s : State) (j : Job) : State :=
  { s with jobs := s.jobs.map fun a =>
      let mine := j.queue == .io (u16 a.entry 0x20) && a.phase == .running
      let hit := match a.wait with
        | .cancel _ => j.code == 0xA0 && j.detail == 0
        | .level _ => j.code == 0xA1 && u8 a.entry 0 == 0x84
        | _ => false
      if mine && hit then { a with count := a.count + 1 } else a }

/-- The status line of a state change that completed entries, after the last of their DONE writes (R99). -/
def lineAfter (s : State) (q : QId) (uid : Nat) : State :=
  match s.queue? q with
  | some x =>
    if x.after.contains uid then
      let l := x.after.filter (· != uid)
      let s1 := s.modQueue q fun y => { y with after := l }
      if l.isEmpty then s1.writeStatus q else s1
    else s
  | none => s

/-- The answer to the DONE write, whatever it says: the entry has completed (R79), NOTE pulses with NOTIFY (R96), what the job claimed
is free again (01 R44). An entry that was never read pulses nothing, since its flag is not known (DESIGN CHOICE, log entry 79). -/
def completed (s : State) (uid : Nat) : State :=
  match s.job? uid with
  | none => s
  | some j =>
    if j.phase != .done || !(s.jobWrites uid).isEmpty then s else
    let s1 := (s.dropJob uid).modQueue j.queue fun y =>
      { y with open_ := y.open_.filter (· != j.idx), fetched := y.fetched.filter (·.uid != uid) }
    let s2 := ((s1.settleErase uid).countFor j).lineAfter j.queue uid
    if j.read && Entry.notify j.entry then s2.emit (.note (s.noteLine j.queue)) else s2

end State

/-- DOORBELL (R84): a write that names no live queue's word, or of another width, changes nothing (R81). -/
def execDoorbell (off width : Nat) (value : Word32) (s : State) : Ans :=
  .next (match s.bellWrite off width with
    | none => s
    | some x => if s.centralAsleep then s.captureBell x.qid value else s.evalBell x.qid value)

/-- DOORBELL_CAPTURE (R375): acts while the central domain is in DEEP_SLEEP. -/
def execDoorbellCapture (off width : Nat) (value : Word32) (s : State) : Ans :=
  .next (match s.bellWrite off width with
    | none => s
    | some x => if s.centralAsleep then s.captureBell x.qid value else s)

/-- ENTRY_FETCH (R87). -/
def execEntryFetch (q : QId) (s : State) : Ans := .next (s.fetchEntry q)

/-- RING_UNREADABLE (R88). -/
def execRingUnreadable (q : QId) (why : ReadFail) (s : State) : Ans := .next (s.ringFail q why)

/-- DONE_WRITE (R90). -/
def execDoneWrite (uid : Nat) (s : State) : Ans := .next (s.doneByte uid)

/-- DONE_ANSWERED (R79). -/
def execDoneAnswered (uid : Nat) (s : State) : Ans := .next (s.completed uid)

end Sys2Proof.Machine
end

