-- ==== Sys2Proof/Machine/SelfTest.lean ====
section
/-! DEFINITION. The self-test's inputs and stored results (15 R357, R358), and which elements fail against what a test reports. -/

namespace Sys2Proof.Machine

/-- The next n values of the generator after a state (R357). -/
def genList : Nat → Word32 → List Word32
  | 0, _ => []
  | n + 1, st => genStep st :: genList n (genStep st)

/-- Every value that the self-test draws, in the order of items 1 to 4: 65,536 of the tensor, 2 x 2,048 of the codebooks, 64 x 256
of the payloads, 4,096 of the keystone vector. -/
def testDraws : List Word32 := genList 90112 0x5CEB0001#32

/-- Item 1: the test tensor. -/
def testTensor : List Nat := (testDraws.take 65536).map genTensor

/-- The BF16 value of a codebook from one generator value (R357 item 2). -/
def genBook (v : Word32) : Nat :=
  let n := v.toNat
  Nat.land n 0x807F + (120 + n / 128 % 8) * 128

/-- Item 2: the codebooks of both stages. -/
def testBooks : List Byte := ((testDraws.drop 65536).take 4096).flatMap fun v => leBytes 2 (genBook v)

/-- Item 3: the payloads of 64 leaves of 256 bytes. -/
def testPayloads : List Byte := ((testDraws.drop 69632).take 16384).map fun v => v.setWidth 8

/-- Item 4: the keystone vector. -/
def testVector : List Word32 := (testDraws.drop 86016).map genKeystone

/-- Leaf n of the test tensor. -/
def testLeaf (n : Nat) : List Nat := (testTensor.drop (1024 * n)).take 1024

/-- The codebook of the test tensor (07 R180). -/
def testBook : List Byte := buildCodebook (keptTuples (tupleCounts testTensor))

/-- Payload of leaf n under the reference compressor (07 R181). -/
def testPayload (n : Nat) : List Byte := (ex4Compress (testLeaf n) testBook).1

/-- The stored results of a core: CRC-32C of the codebook, the payloads and the records that it builds (R358). The folio's
CODEBOOK_ID, which no rule gives, is a constant of the implementation (log entry 19). -/
def storedCore : List Word32 :=
  [crc32c testBook, crc32c ((List.range 64).flatMap testPayload),
   crc32c ((List.range 64).flatMap fun n => ex4Record Config.selfTestBook.toNat (testPayload n))]

/-- CRC-32C of the 65,536 weights of a folio of 64 leaves, given each leaf's payload. -/
def testExpand (fmt : Nat) (cb : List Byte) (payload : Nat → List Byte) : Word32 :=
  crc32c ((List.range 64).flatMap fun n =>
    let p := payload n
    (List.range 1024).flatMap fun k => leBytes 2 (leafWeight fmt p cb 127 k).1)

/-- Bytes of item 3's leaf n. -/
def drawnPayload (n len : Nat) : List Byte := (testPayloads.drop (256 * n)).take len

/-- The stored results of a pipe: the built EX4 folio, VQ8x1, VQ8x2, and the test tensor as RAW (R358). -/
def storedPipe : List Word32 :=
  [testExpand 1 testBook testPayload, testExpand 2 (testBooks.take 4096) fun n => drawnPayload n 128,
   testExpand 3 testBooks fun n => drawnPayload n 256, testExpand 0 [] fun n => (testLeaf n).flatMap (leBytes 2)]

/-- The stored sum of the keystone vector (R358; 11 R253): the order of an exact sum does not change it. -/
def storedLane : Word32 := BitVec.ofNat 32 (fp32.cast (keystone (testVector.map fun v => fp32.decode v.toNat))).1

/-- Results of a core or pipe differ from the stored ones; a wrong number of results is a difference at once. -/
def resultsBad (l stored : List Word32) (n : Nat) : Bool := l.length != n || l != stored

/-- The cores of a span that fail. -/
def badCores (o : SelfTest) (span : Nat) : List Nat :=
  (o.cores.filter fun x => x.1 == span && resultsBad x.2.2 storedCore 3).map (·.2.1)

/-- The expander pipes of a span that fail. -/
def badPipes (o : SelfTest) (span : Nat) : List Nat :=
  (o.pipes.filter fun x => x.1 == span && resultsBad x.2.2 storedPipe 4).map (·.2.1)

/-- The keystone lanes that fail: both sums are the stored one (R358). -/
def badLanes (o : SelfTest) : List Nat :=
  (o.lanes.filter fun x => x.2.1 != x.2.2 || x.2.1 != storedLane).map (·.1)

end Sys2Proof.Machine
end

