-- ==== Sys2Proof/Machine/Profile.lean ====
section
/-! DEFINITION. Profiles and start-up (15), VIN and the reset pin (19, 21): the checks of a copy, the two-copy rule, the safe
profile, commit, the self-test's outcome, and the commands PROFILE_LOAD, PROFILE_COPY_READ_FAILURE, COMMIT,
PROFILE_WINDOW_WRITE, RST_N_ASSERT, RST_N_RELEASE, STARTUP_STEP_TIMEOUT, SELF_TEST, VIN_LOW, VIN_RECOVERED. -/

namespace Sys2Proof.Machine

/-! Checks of an image, a list of its bytes (15 R345-R350). -/

/-- Every byte from an offset on for a length is zero. -/
def zeroIn (b : List Byte) (off n : Nat) : Bool := ((b.drop off).take n).all (· == 0)

/-- A fault policy value is legal (17 R392). -/
def policyLegal (v : Nat) : Bool :=
  let w := bitsOf v 20 16
  (w == 0 || decide (8 ≤ w)) && bitsOf v 26 24 != 7 && bitsOf v 23 21 == 0 && bitsOf v 31 27 == 0

/-- Bytes of partition record p of an image. -/
def recBytes (b : List Byte) (p : Nat) : List Byte := (b.drop (0x100 + 64 * (p - 1))).take 64

/-- The limits of a partition record (R348); `cap` is the smallest capacity of a stack present and ready, if any. -/
def recordLimits (r : List Byte) (cap : Option Nat) : Bool :=
  if u8 r 0 = 0 then r.all (· == 0)
  else
    u8 r 0 == 1 && decide (1 ≤ u8 r 1) && decide (u16 r 2 ≤ 1023) && decide (u16 r 4 + u16 r 2 ≤ 4096) &&
    decide (u16 r 6 ≤ 1024) && decide (u16 r 8 + u16 r 6 ≤ 1024) && decide (u16 r 0x0C ≤ 8192) &&
    decide (1 ≤ u16 r 0x0E ∧ u16 r 0x0E ≤ 16384) && isAligned (u64 r 0x10) 4096 && isAligned (u64 r 0x18) 4096 &&
    (match cap with
     | some c => decide (u64 r 0x10 + u64 r 0x18 ≤ c)
     | none => u64 r 0x10 == 0 && u64 r 0x18 == 0) &&
    zeroIn r 0x24 28

/-- MAGIC, FORMAT and PROFILE hold their required values. -/
def headerOk (b : List Byte) (selected : Nat) : Bool :=
  u32 b 0 == 0x5CEB0F11 && u16 b 4 == 1 && u8 b 6 == selected

/-- Every field lies within its limits and every reserved byte is zero (R346-R349). -/
def limitsOk (b : List Byte) (cap : Option Nat) : Bool :=
  u8 b 7 == 0 && decide (u32 b 8 < 4) && decide (u8 b 0x0F < 64) &&
  ((List.range 4).all fun q => decide (u8 b (0x10 + q) ≤ 2)) && decide (38 ≤ u16 b 0x14 ∧ u16 b 0x14 ≤ 215) &&
  decide (256 ≤ u16 b 0x16) && zeroIn b 0x18 40 &&
  ((List.range 40).all fun n => decide (u8 b (0x40 + n) ≤ 8) && (u8 b (0x40 + n) != 0 || u16 b (0x80 + 2 * n) == 0)) &&
  zeroIn b 0x68 24 && decide (u8 b 0xD0 < 4) && zeroIn b 0xD1 47 &&
  ((List.range 8).all fun i => recordLimits (recBytes b (i + 1)) cap) &&
  ((List.range 96).all fun u => if presentMask u = 0 then u32 b (0x300 + 4 * u) == 0 else policyLegal (u32 b (0x300 + 4 * u))) &&
  zeroIn b 0x480 892

/-- Two runs [a, a + n) and [b, b + m) share a number. -/
def runsMeet (a n b m : Nat) : Bool := decide (a < b + m ∧ b < a + n ∧ 0 < n ∧ 0 < m)

/-- R320 and R321: spans name defined partitions, each defined partition holds a span that is not fenced, and no divided
resource overlaps. -/
def divisionOk (b : List Byte) (fenced : Nat → Bool) : Bool :=
  let def_ := (List.range 8).filterMap fun i => if u8 (recBytes b (i + 1)) 0 = 1 then some (i + 1) else none
  ((List.range 40).all fun n => u8 b (0x40 + n) == 0 || def_.contains (u8 b (0x40 + n))) &&
  (def_.all fun p => (List.range 40).any fun n => u8 b (0x40 + n) == p && !fenced n) &&
  (def_.all fun p => def_.all fun q => decide (q ≤ p) ||
    (let x := recBytes b p
     let y := recBytes b q
     !runsMeet (u16 x 4) (u16 x 2) (u16 y 4) (u16 y 2) && !runsMeet (u16 x 8) (u16 x 6) (u16 y 8) (u16 y 6) &&
     !runsMeet (u64 x 0x10) (u64 x 0x18) (u64 y 0x10) (u64 y 0x18) &&
     ((List.range 16).all fun k => !(bitOf (u16 x 0x0A) k && bitOf (u16 y 0x0A) k)))) &&
  decide (listSum (def_.map fun p => u16 (recBytes b p) 0x0C) ≤ 8192) &&
  decide (listSum (def_.map fun p => u16 (recBytes b p) 0x0E) ≤ 16384)

/-- The cells of an image: bytes below +0x7FC that are not zero. -/
def imageCells (b : List Byte) : List Host.Cell :=
  ((List.range 0x7FC).zip b).filter fun c => c.2 != 0

/-- Default fault policies (17 R407). -/
def defaultPolicy (u : Nat) : Nat :=
  if u < 0x28 then 0x01164004
  else if u = 0x30 then 0x05164001
  else if u = 0x31 then 0x06164001
  else if u = 0x32 then 0x04164002
  else if (0x40 ≤ u ∧ u ≤ 0x52) then 0x0016FF10
  else if u = 0x53 then 0x00164001
  else if 0x58 ≤ u ∧ u < 0x60 then 0x00164010
  else 0

namespace State

/-- Stacks that report ready, with their capacities (19 R436). -/
def readyStacks (s : State) : List (Nat × Nat) :=
  ((List.range 8).filter fun n => s.ports.memReady.getLsbD n).map fun n => (n, s.ports.capacity.getD n 0)

/-- Smallest capacity of a stack that a mask marks present and that reported ready at the load (R348). -/
def smallestCap (s : State) (mask : Nat) : Option Nat :=
  match (s.prof.loadCaps.filter fun x => bitOf mask x.1).map (·.2) with
  | [] => none
  | x :: r => some (r.foldl min x)

/-- The self-test fenced the span (R350). -/
def testFenced (s : State) (n : Nat) : Bool := !(s.span n).passed

/-- FAIL_A or FAIL_B of a copy (R354): 0 good, and the lowest code of its faults. -/
def copyFail (s : State) (c : Option (List Byte)) : Nat :=
  match c with
  | none => 5
  | some b =>
    if (crc32c (b.take 0x7FC)).toNat != u32 b 0x7FC then 1
    else if !headerOk b s.prof.selected.toNat then 2
    else if !limitsOk b (s.smallestCap (u8 b 0x0D)) then 3
    else if !divisionOk b s.testFenced then 4
    else 0

/-- The safe profile S, laid out as an image (R352, 20 R462); `attach` are the attach ports that report ready at the load. -/
def safeImage (s : State) (attach : BitVec 8) : List Byte :=
  let cs := ((s.smallestCap 0xFF).getD 0) / 4096 * 4096
  let lanes := listMask ((List.range 16).filter fun i => (s.lanes.logical.getD i none).isSome)
  leBytes 4 0x5CEB0F11 ++ leBytes 2 1 ++ leBytes 1 s.prof.selected.toNat ++ [0] ++ leBytes 4 1 ++ [attach] ++
  leBytes 1 (listMask (s.prof.loadCaps.map (·.1))) ++ [0, 16#8] ++ [2#8, 2#8, 2#8, 2#8] ++ leBytes 2 100 ++ leBytes 2 1024 ++ List.replicate 40 0 ++
  ((List.range 40).map fun n => if s.testFenced n then 0#8 else 1#8) ++ List.replicate 24 0 ++ List.replicate 80 0 ++
  List.replicate 48 0 ++
  (leBytes 1 1 ++ leBytes 1 1 ++ leBytes 2 1023 ++ leBytes 2 0 ++ leBytes 2 1024 ++ leBytes 2 0 ++ leBytes 2 lanes ++
   leBytes 2 8192 ++ leBytes 2 16384 ++ leBytes 8 0 ++ leBytes 8 cs ++ List.replicate 32 0) ++
  List.replicate 448 0 ++ ((List.range 96).flatMap fun u => leBytes 4 (defaultPolicy u)) ++ List.replicate 892 0

/-- The window's bytes +0x000 to +0x7FB. -/
def windowBytes (s : State) : List Byte := (List.range 0x7FC).map fun i => memGet s.prof.image i 0

/-- Write zero to every memory of a span (14 R323, R324). -/
def zeroSpan (s : State) (n : Nat) : State := (s.clearCores n fun _ => true).clearSpan n (List.range 4) (List.range 8)

/-- Every span is where its assignment puts it: a fenced or unassigned span in DEEP_SLEEP with nothing retained (16 R369). -/
def placeSpans (s : State) : State :=
  (List.range 40).foldl (fun s n =>
    if s.spanFenced n ∨ s.spanOwner n = 0 then
      (s.zeroSpan n).modSpan n fun x => { x with power := .deep, trans := none, wakeAfter := false }
    else s.raiseSpan n) s

/-- No quadrant stays above its highest operating point (R346, 21 R481). -/
def lowerClocks (s : State) : State :=
  { s with quads := ((List.range 4).zip s.quads).map fun x => { x.2 with point := max x.2.point (s.clockCeil x.1) } }

/-- The policies of the image become the units' (17 R392). -/
def loadPolicies (s : State) : State :=
  { s with units := (List.range 96).map fun u => { s.unit u with policy := BitVec.ofNat 32 (s.img (0x300 + 4 * u) 4) } }

/-- Write zero to every span whose owner changes between two images (14 R323). -/
def scrubMoved (s : State) (old : State) : State :=
  (List.range 40).foldl (fun s n =>
    if s.spanOwner n ≠ old.spanOwner n then s.zeroSpan n else s) s

/-- Destroy every queue that a test names: the status line is written, the counters stay (03 R100, 20 R475). -/
def destroyQueues (s : State) (f : Queue → Bool) : State :=
  ((s.queues.filter fun x => x.state != .destroyed && f x).map (·.qid)).foldl (fun s q => s.setQState q .destroyed) s

/-- A queue that a load discards: every one but A0, and A0 where its context is lost (03 R92). -/
def notA0 (x : Queue) : Bool := x.qid != .adm 0 || x.lost

/-- What every load discards (R353): keys, queues but A0, regions, groups, windows, channels, bindings, votes and claims.
Counters and registers of the partition pages go only with a block reset or a cold start (20 R475). -/
def discardAll (s : State) (keepCounters : Bool) : State :=
  let s1 := s.destroyQueues notA0
  { s1 with
    tables := { s1.tables with keys := [], erasing := [], cbOwner := List.replicate 8 0 }
    chans := s1.chans.map fun x =>
      if keepCounters then { ({} : Chan) with records := x.records, runs := x.runs, poisoned := x.poisoned, refusedP := x.refusedP } else {}
    parts := ((List.range 9).zip s1.parts).map fun x =>
      if x.1 = 0 then x.2
      else if keepCounters then
        { ({} : Part) with aq := x.2.aq, inflightHolds := x.2.inflightHolds, inboundBytes := x.2.inboundBytes,
                           inboundRefused := x.2.inboundRefused, portBytes := x.2.portBytes }
      else { aq := x.2.aq } }

/-- STEP_TIMEOUT of a stack marked present that is not ready at the load of step 6 (19 R436). -/
def memoryTimeouts (s : State) : State :=
  (List.range 8).foldl (fun s n => if s.mpPresent n && !s.ports.memReady.getLsbD n then s.countEvent (0x40 + n) 8 {} else s) s

/-- A copy that could not be read and whose read has not been reported as failed: TRANSLATION at the keeper (R345, 19 R452). -/
def copyUnread (s : State) (reported : Bool) (copy : Option (List Byte)) : State :=
  if copy.isNone ∧ !reported then s.countEvent 0x31 7 {} else s

/-- The load of the selected profile from two copies (R345, R351-R354); COMMITTED clears as it begins. -/
def loadProfile (s : State) (a b : Option (List Byte)) (attach : BitVec 8) : State :=
  let a := if s.prof.failedA then none else a
  let b := if s.prof.failedB then none else b
  let s1 := (({ s with prof := { s.prof with loadCaps := s.readyStacks } } : State).copyUnread s.prof.failedA a).copyUnread
    s.prof.failedB b
  let fa := s1.copyFail a
  let fb := s1.copyFail b
  let case := if fa = 0 ∧ fb = 0 then (if a = b then 0 else 2) else if fa = 0 ∨ fb = 0 then 1 else 3
  let safe := case == 2 || case == 3
  let img := if safe then s1.safeImage attach else if fa = 0 then a.getD [] else b.getD []
  let p := { s1.prof with
    activeS := safe, committed := false
    oneCopy := s1.prof.oneCopy || case == 1, disagree := s1.prof.disagree || case == 2, bad := s1.prof.bad || case == 3
    failA := BitVec.ofNat 3 fa, failB := BitVec.ofNat 3 fb, image := imageCells img
    crc := if safe then 0 else BitVec.ofNat 32 (u32 img 0x7FC)
    loaded := true, loadDue := false, failedA := false, failedB := false, outcome := case }
  let s2 := ({ (s1.discardAll s1.prof.switching) with prof := p }).scrubMoved s1
  s2.loadPolicies.placeSpans.lowerClocks

/-- The load comes to its end: a commit at once under SWITCH_PROFILE (R353), else step 6, and LOGIC_RDY where the block reaches it
(R355 step 7, 17 R404, R406). -/
def loadFinished (s : State) (logic : Bool) : State :=
  if s.prof.switching then
    ({ s with prof := { s.prof with committed := true, once := true, switching := false } })
  else if !logic then { s.memoryTimeouts with block := { s.memoryTimeouts.block with step := 6 } }
  else
    let s1 := s.memoryTimeouts
    { s1 with
      block := { s1.block with phase := .running, step := 7 }
      keeper := { s1.keeper with ready := s1.keeper.ready ||| 8, frozen := false, lockstepOk := true } }

/-- The conditions of a COMMIT write (R353). -/
def commitOk (s : State) : Bool :=
  let b := s.windowBytes
  headerOk b s.prof.selected.toNat && limitsOk b (s.smallestCap (u8 b 0x0D)) && divisionOk b s.testFenced

/-- A write of COMMIT: ignored while COMMITTED is 1 or no load has finished (R353, R354). -/
def commitWrite (s : State) (v : Word32) : State :=
  if !v.getLsbD 0 || s.prof.committed || !s.prof.loaded || !s.running then s
  else if s.commitOk then
    ({ s with prof := { s.prof with committed := true, once := true } }).loadPolicies.placeSpans.lowerClocks
  else { s with prof := { s.prof with commitFault := true } }

/-- Write four bytes of the profile window before commit (20 R462); +0x7FC on ignores writes. The window takes reserved bytes and bits
as written, and COMMIT refuses them (DESIGN CHOICE, log entry 81). -/
def windowWrite (s : State) (off : Nat) (v : Word32) : State :=
  if s.prof.committed ∨ 0x7FC ≤ off then s else
  { s with prof := { s.prof with image :=
      ((List.range 4).zip (leBytes 4 v.toNat)).foldl (fun m x => memPut m (off + x.1) x.2 0) s.prof.image } }

/-! Reset and start-up (R355, R356, 19 R453, 21 R478). -/

/-- RST_N asserted: the block at reset; memory outside it, the test access port, the fuse once sensed blown, and the model's
own counters stay. DEBUG_ARMED clears only at the release (14 R342). -/
def assertReset (s : State) : State :=
  { State.reset with
    block := { State.reset.block with
      testLock := s.block.testLock, debugArmed := s.block.debugArmed, vinLow := s.block.vinLow, refClk := s.block.refClk,
      ticks := s.block.ticks, free := s.block.free, out := s.block.out }
    store := { s.store with
      mem := s.store.mem.filter fun c => !decide (locKey (.staging 0) 0 ≤ c.1 ∧ c.1 < locKey (.staging 40) 0), cbMem := [], inj := [], tables := [], work := [] }
    tap := s.tap, uidNext := s.uidNext, pending := s.pending }

/-- Step 1 of R355: straps and fuse sampled, the selected profile taken from PSEL (R344, 14 R340). -/
def coldStart (s : State) (psel : BitVec 2) (deckId : BitVec 3) (fuse : Bool) : State :=
  { s with
    block := { s.block with phase := .starting, step := 1, testLock := s.block.testLock || fuse,
                            deckId, pwrcyc := false, offEntry := false }
    keeper := { s.keeper with alive := false, frozen := false, ready := 0 }
    prof := { s.prof with selected := psel, pselSampled := psel, loadDue := true } }

/-- RST_N is released: DEBUG_ARMED clears (14 R342) and the block starts. -/
def released (s : State) (psel : BitVec 2) (deckId : BitVec 3) (fuse : Bool) : State :=
  ({ s with block := { s.block with debugArmed := false } }).coldStart psel deckId fuse

/-- The ready signals of the start-up steps below one: REG_RDY, OSC_RDY and MEM_RDY are steps 2 to 4 (R355). -/
def readyBelow (s : State) (step : Nat) : State :=
  { s with keeper := { s.keeper with ready := s.keeper.ready ||| BitVec.ofNat 4 (2 ^ (min step 5 - 2) - 1) } }

/-- Start-up stops: an incident at the keeper, ALIVE low, PWRCYC_REQ driven (R356). -/
def stopStartup (s : State) (step : Nat) (sticky : Bool) : State :=
  let s1 := s.cause 0x31 { seq := 0, source := 0xF, cause := 3, step, level := 6 }
  let s2 := if sticky then s1.countEvent 0x31 8 {} else s1
  { s2 with block := { s2.block with phase := .stopped, pwrcyc := true }, keeper := { s2.keeper with alive := false } }

/-- Elements that fail and were active: the first of them, as many as spares passed, are replaced (R359). -/
def failedActive (l : List Elem) (fail : List Nat) : List Nat :=
  (List.range l.length).filter fun i => l.getD i .spare == .active && fail.contains i

def passedSpares (l : List Elem) (fail : List Nat) : Nat :=
  ((List.range l.length).filter fun i => l.getD i .fenced == .spare && !fail.contains i).length

/-- Elements after a self-test: of those that fail, the ones that a spare replaces are out of service, the others fenced by the
keeper; of those that pass, the lowest are active up to a count, the rest spare; an owner's fence stays (01 R490, R359). -/
def retest (l : List Elem) (fail : List Nat) (n : Nat) : List Elem :=
  let gone := (failedActive l fail).take (passedSpares l fail)
  (((List.range l.length).zip l).foldl (fun (a : List Elem × Nat) x =>
    if x.2 = .fenced then (a.1 ++ [.fenced], a.2)
    else if fail.contains x.1 then
      (a.1 ++ [if gone.contains x.1 || x.2 == .replaced then .replaced else .keeperFenced], a.2)
    else if a.2 < n then (a.1 ++ [.active], a.2 + 1) else (a.1 ++ [.spare], a.2)) ([], 0)).1

/-- Active elements that fail, with LEVEL 0 for those a passing spare replaced and 1 for the others (R359). -/
def failLevels (l : List Elem) (fail : List Nat) : List Nat :=
  (List.range (failedActive l fail).length).map fun i => if i < passedSpares l fail then 0 else 1

/-- The record of a failed element: its incident closes at once (R359). -/
def selfTestIncident (s : State) (u part lvl : Nat) : State :=
  if (s.unit u).incident.isSome then s else
  ((s.openIncident u { seq := 0, source := 0xF, cause := 4, step := 0, level := lvl, part, written := true,
                       reacted := true }).tryClose u)

/-- Outcome of the self-test on one span. -/
def retestSpan (s : State) (n : Nat) (o : SelfTest) : State :=
  let x := s.span n
  let cf := badCores o n
  let pf := badPipes o n
  let cores := retest x.cores cf 30
  let pipes := retest x.pipes pf 4
  let gone := activeOf cores < 8 || activeOf pipes == 0
  let fence : SpanFence := if x.fence = .byOwner then .byOwner else if !gone then .none else if x.fence = .byCount then .byCount else .byKeeper
  let s1 := s.modSpan n fun y =>
    { y with cores, pipes, fence, passed := fence == .none, power := if fence = .none ∧ (s.block.phase = .starting ∨ s.spanOwner n ≠ 0) then .idle else .deep, trans := none, wakeAfter := false,
             missed := false, swap := none, swapsDue := [], suspended := false }
  (failLevels x.cores cf ++ failLevels x.pipes pf).foldl (fun s l => s.selfTestIncident n (s.spanOwner n) l) s1

/-- Logical lanes filled from the working lanes in ascending order (R359). -/
def fillLanes (l : List Elem) : List (Option Nat) :=
  let work := (List.range 18).filter fun i => l.getD i .fenced == .active
  (List.range 16).map fun i => work[i]?

/-- The keystone lanes after a test (R359). -/
def retestLanes (s : State) (o : SelfTest) : State :=
  let lanes := retest s.lanes.lanes (badLanes o) 16
  let s1 := (failLevels s.lanes.lanes (badLanes o)).foldl (fun s l => s.selfTestIncident 0x32 0 l) s
  { s1 with lanes := { s1.lanes with lanes := lanes, logical := fillLanes lanes } }

/-- The whole self-test on every span and lane (R358, R359). -/
def retestAll (s : State) (o : SelfTest) : State := ((List.range 40).foldl (fun s n => s.retestSpan n o) s).retestLanes o

/-- Steps 2 to 5 of R355: every SRAM zero, the oscillator calibrated, the self-test's outcome applied. Start-up stops when no
span survives (R356). -/
def runSelfTest (s : State) (o : SelfTest) : State :=
  let s1 := (((List.range 40).foldl zeroSpan s).retestAll o).readyBelow 5
  let s3 := { s1 with
    lanes := { s1.lanes with sorting := true }
    units := s1.units.map fun f => { f with corrected := 0, uncorrected := 0 }
    central := { s1.central with power := .run, trans := none, wakeAfter := false, retCut := false, exitReset := false }
    keeper := { s1.keeper with oscTrimmed := s1.keeper.oscTrimmed || s1.block.refClk }
    block := { s1.block with step := 5 } }
  if (List.range 40).all s3.spanFenced then s3.stopStartup 5 false else s3

/-- Before the self-test of a block reset every entry but those of A0 has completed, and every span in use and the central domain are
back from DEEP_SLEEP (18 R410). -/
def resetDrained (s : State) : Bool :=
  (s.jobs.all fun j => j.phase == .answered || j.queue == .adm 0) && !s.centralAsleep &&
  (List.range 40).all fun n => !s.spanUsed n || s.spanAwake n

end State

/-- PROFILE_LOAD (R351): after the self-test of a start-up, or under SWITCH_PROFILE. -/
def execProfileLoad (copies : Option (List Byte) × Option (List Byte)) (ready : LoadReady) (s : State) : Ans :=
  .next (if s.prof.loadDue ∧ (s.prof.switching ∨ (s.block.phase = .starting ∧ s.block.step = 5)) then
    (s.loadProfile copies.1 copies.2 ready.attach).loadFinished ready.logic else s)

/-- PROFILE_COPY_READ_FAILURE (R345): the copy is a read failure, and TRANSLATION is set at the keeper (19 R452). -/
def execProfileCopyReadFailure (copyB : Bool) (s : State) : Ans :=
  .next (if s.prof.loadDue ∧ (if copyB then !s.prof.failedB else !s.prof.failedA) then
    let s1 := s.countEvent 0x31 7 {}
    { s1 with prof := { s1.prof with failedA := s1.prof.failedA || !copyB, failedB := s1.prof.failedB || copyB } }
  else s)

/-- COMMIT (R353). -/
def execCommit (value : Word32) (s : State) : Ans := .next (s.regWrite 0x14 value fun s => s.commitWrite value)

/-- PROFILE_WINDOW_WRITE (20 R462). -/
def execProfileWindowWrite (off : Nat) (value : Word32) (s : State) : Ans :=
  .next (s.regWrite (0x4000 + off) value fun s => s.windowWrite off value)

/-- RST_N_ASSERT (19 R453). -/
def execRstNAssert (s : State) : Ans := .next s.assertReset

/-- RST_N_RELEASE (R355 step 1), with VIN within limits. -/
def execRstNRelease (psel : BitVec 2) (deckId : BitVec 3) (fuse : Bool) (s : State) : Ans :=
  .next (if s.block.phase = .held ∧ !s.block.vinLow then s.released psel deckId fuse else s)

/-- STARTUP_STEP_TIMEOUT (R356): a step that has not been reached. -/
def execStartupStepTimeout (step : Nat) (s : State) : Ans :=
  .next (if s.block.phase = .starting ∧ s.block.step < step then (s.readyBelow step).stopStartup step true else s)

/-- SELF_TEST (R358): steps 2 to 5 of a start-up, or step 5 of a block reset. -/
def execSelfTest (outcome : SelfTest) (s : State) : Ans :=
  .next (if s.block.phase = .starting ∧ s.block.step < 5 ∧ 0 < s.block.step ∧ s.resetDrained then s.runSelfTest outcome else s)

/-- VIN_LOW (21 R478): as an assertion of RST_N. -/
def execVinLow (s : State) : Ans :=
  .next (({ s with block := { s.block with vinLow := true } }).assertReset)

/-- VIN_RECOVERED (21 R478): the block starts again at step 1. -/
def execVinRecovered (psel : BitVec 2) (deckId : BitVec 3) (fuse : Bool) (s : State) : Ans :=
  .next (if s.block.phase = .held ∧ s.block.vinLow then
    ({ s with block := { s.block with vinLow := false } }).released psel deckId fuse else s)

end Sys2Proof.Machine
end

