-- ==== Sys2Proof/Machine/Resets.lean ====
section
/-! DEFINITION. Faults and resets as commands (17, 18): FAULT_EVENT, FAULT_WINDOW_EXPIRY, FAULT_STATUS_CLEAR,
FAULT_SEVERE_CLEAR, FAULT_POLICY_WRITE, FAULT_INJECT, LOCKSTEP, CONTEXT_COLLECTION, ALIVE, RESET_LEVEL_FINISH,
RESET_LEVEL_TIMEOUT, POWER_CYCLE, SWAP_STEP_TIMEOUT, SWAP_COMPLETE. -/

namespace Sys2Proof.Machine
namespace State

/-! Completion of administrative commands and register commands that wait for a level. -/

/-- An administrative command ends with a code (13 R297). -/
def endAdmin (s : State) (uid code detail count aux : Nat) : State :=
  s.modJob uid fun j => { j with phase := .ending, code, detail := detail % 65536, position := 0, count, aux, wait := .none }

/-- The reset level that a command asked for: RESET_QUEUE a context level, RESET its LEVEL (13 R301, R315). -/
def askedLevel (j : Job) : Nat := if u8 j.entry 0 = 0x84 then 2 else u8 j.entry 0x20 + 2

/-- Commands waiting on a level end with OK, or with the code of the level reached (13 R301, R316). -/
def endWaiters (s : State) (l : Level) : State :=
  let ids := l.id :: l.took
  let hit := s.jobs.filter fun j => match j.wait with | .level i => ids.contains i | _ => false
  let s1 := hit.foldl (fun s j =>
    if askedLevel j = scopeLevel l.scope then s.endAdmin j.uid 0 0 j.count 0
    else s.endAdmin j.uid (scopeCode l.scope) (match l.scope with | .span n => n | _ => 0) j.count 0) s
  let code : Byte := match l.scope with | .context _ => 0 | sc => BitVec.ofNat 8 (scopeCode sc)
  { s1 with parts := s1.parts.map fun (x : Part) =>
    if (x.aq.level.map ids.contains) == some true then
      { x with aq := { x.aq with busy := false, level := none, code := code } }
    else x }

/-- Another level still runs for the requesters of this one (a context level that escalated to several spans). -/
def levelShared (s : State) (l : Level) : Bool :=
  s.levels.any fun m => m.id != l.id && (m.took.any fun i => l.took.contains i)

/-- A level can finish: no job of its scope is pending, its spans are back in IDLE, and a block reset has reached LOGIC_RDY (18 R409,
R410). -/
def levelDone (s : State) (l : Level) : Bool :=
  (s.scopePending l.scope).isEmpty &&
  match l.scope with
  | .context _ => true
  | .span n => !s.spanUsed n || s.spanAwake n
  | .part p => (s.unfencedSpans p).all s.spanAwake
  | .block => s.block.phase == .running && !s.prof.loadDue
  | .power => false

/-- A level finishes: queues and spans take their state, its requesters complete, its incidents close (R409). -/
def finishLevel (s : State) (l : Level) : State :=
  let s1 := { s with levels := s.levels.filter fun (m : Level) => m.id != l.id }
  let s2 := s1.levelEnd l.scope
  let s3 := match l.origin with
    | some q => if s2.levels.any fun m => m.origin == some q then s2 else s2.levelEnd (.context q)
    | none => s2
  let s4 := if s.levelShared l then s3 else s3.endWaiters l
  (s4.finishUnits l.units).settleFences

/-- Spans that still hold an outstanding access of a queue (R408). -/
def queueSpans (s : State) (q : QId) : List Nat :=
  (List.range 40).filter fun n => (s.jobs.filter (·.queue == q)).any (s.resetHeldBy n)

/-- The scopes a level escalates to (R408). -/
def escalation (s : State) (l : Level) : List Scope :=
  match l.scope with
  | .context q =>
    match s.queueSpans q with
    | [] => [.part (match s.queue? q with | some x => queuePart x | none => 0)]
    | ns => ns.map .span
  | .span n => if s.spanOwner n = 0 then [.block] else [.part (s.spanOwner n)]
  | .part _ => [.block]
  | .block => [.power]
  | .power => []

/-- A level's timeout expires: the next level takes over (R409); a partition level for A0 is the block's. -/
def escalate (s : State) (l : Level) : State :=
  let s1 := { s with levels := s.levels.filter fun (m : Level) => m.id != l.id }
  (s.escalation l).foldl (fun s sc =>
    let sc := if sc = .part 0 then Scope.block else sc
    let r := s.startLevel sc l.units (match l.scope with | .context q => some q | _ => l.origin)
    let ls := r.1.levels.map fun (m : Level) => if m.id == r.2 then { m with took := m.took ++ (l.id :: l.took) } else m
    let s2 := { r.1 with levels := ls }
    s2.escalateUnits l.units (scopeLevel sc)) s1

/-- The job whose data or control word was lost (17 R389) ends with INTERNAL: one that runs meets an early event at the first element
that depends on the word, one without threads ends at once. The word of a memory port (source 1 at 0x40 to 0x47) is one of the port's
own buffers where the unit names a job: a codeword of pooled memory comes as a poisoned granule and names none (DEDUCED, log entry
89). -/
def internalFault (s : State) (u src : Nat) (c : FaultCtx) : State :=
  if src = 1 ∨ src = 2 ∨ src = 12 then
    match c.queue, c.job with
    | some q, some idx =>
      match s.jobs.find? fun j => j.queue == q && j.idx.toNat == idx with
      | some j =>
        if j.phase = .running ∧ j.tiles ≠ 0 then
          (s.noteEarly j.uid { elem := c.elem.getD 0, code := 0xE0, detail := u }).settleEarly j.uid
        else if j.phase = .running ∨ j.phase = .fetched ∨ j.phase = .halted then s.endJob j.uid 0xE0 u j.stopPosition
        else s
      | none => s
    | _, _ => s
  else s

/-- A bank of a span that an uncorrectable error has hit is written zero (14 R324). -/
def zeroBank (s : State) (n : Nat) (b : Bank) : State :=
  match b with
  | .staging k => s.clearSpan n [k] []
  | .codebook k => s.clearSpan n [] [k]
  | .table c => { s with store := { s.store with tables := s.store.tables.filter fun x => !(x.span == n && x.core == c) } }
  | .work c => { s with store := { s.store with work := s.store.work.filter fun x => x != (n, c) } }

/-- The keeper's processors mismatch: ALIVE holds its level (17 R405). -/
def mismatch (s : State) : State := { s with keeper := { s.keeper with frozen := true, lockstepOk := false } }

/-- The keeper runs: from the release of RST_N to OFF, a stopped start-up among it (15 R356). -/
def keeperRuns (s : State) : Bool := s.block.phase != .held && s.block.phase != .off

/-- A queue's context is lost (03 R92): its entries never complete, and what they held is free. -/
def forgetQueue (s : State) (q : QId) : State :=
  let js := s.jobs.filter (·.queue == q)
  let s1 := js.foldl (fun (s : State) j =>
    (j.threads.map (·.span)).eraseDups.foldl settleRun (((s.drainReads j.uid fun _ => true).dropJob j.uid).settleErase j.uid)) s
  s1.modQueue q fun x => { x with lost := true, open_ := [], fetched := [], due := 0, after := [] }

/-- The loss of queue contexts takes BLOCK at unit 0x30 whatever its policy holds (R92). -/
def loseContexts (s : State) (qs : List QId) (source : Nat) : State :=
  let s1 := (qs.foldl forgetQueue s).cause 0x30 { seq := 0, source, cause := 0, step := 0, level := 5 }
  (s1.startLevel .block [0x30] none).1

/-- A write of 1 to FAULT_STATUS bits: sticky bit, counter and window go (17 R399). -/
def statusClear (s : State) (u : Nat) (v : Word32) : State :=
  s.modUnit u fun f =>
    let l := ((List.range 16).zip f.sources).map fun x =>
      if v.getLsbD x.1 then { x.2 with sticky := false, count := 0, window := none, latched := false } else x.2
    { f with sources := l }

/-- A write of 1 to FAULT_SEVERE bits, ignored while the unit's incident is open (R399). -/
def severeClear (s : State) (u : Nat) (v : Word32) : State :=
  s.modUnit u fun f =>
    if f.incident.isSome then f else
    let l := ((List.range 16).zip f.sources).map fun x => if v.getLsbD x.1 then { x.2 with severe := false } else x.2
    { f with sources := l }

/-- A write of a unit's fault policy; reserved bits read as zero, an illegal value changes nothing (R392, 00 R11). -/
def policyWrite (s : State) (u : Nat) (v : Word32) : State :=
  let w := v.toNat % 2 ^ 21 + bitsOf v.toNat 26 24 * 2 ^ 24
  if presentMask u ≠ 0 ∧ policyLegal w then s.modUnit u fun f => { f with policy := BitVec.ofNat 32 w } else s

/-- Targets that a unit accepts (R489). -/
def injectTargets (u : Nat) : List Nat :=
  if u < 0x28 then [0, 1, 2, 3, 4, 5]
  else if u = 0x30 ∨ u = 0x32 then [4, 5]
  else if 0x40 ≤ u ∧ u < 0x48 then [4, 5, 6]
  else if presentMask u ≠ 0 then [5] else []

/-- The value FAULT_INJECT takes from a write, or none where the write breaks a limit (R402): at most two symbols, PARITY and
RS_MASK exclusive, and a target of the unit; PARITY goes with the control RAM and RS_MASK with the others. -/
def injectValue (u : Nat) (v : Word32) : Option Word32 :=
  let n := v.toNat
  let rs := bitsOf n 3 0
  let par := bitOf n 4
  let tgt := bitsOf n 18 16
  if 2 < listSum ((List.range 4).map fun i => if bitOf rs i then 1 else 0) ∨ (par ∧ rs ≠ 0) ∨ !(injectTargets u).contains tgt then none
  else some (BitVec.ofNat 32 (n % 32 + bitsOf n 15 8 * 256 + tgt * 65536))

def injectWrite (s : State) (u : Nat) (v : Word32) : State :=
  match injectValue u v with
  | some w => s.modUnit u fun f => { f with inject := w }
  | none => s

/-- FAULT_STATUS, FAULT_SEVERE and the counters as registers (R401). -/
def statusReg (f : FUnit) : Nat := listMask ((List.range 16).filter fun i => (f.sources.getD i {}).sticky)
def severeReg (f : FUnit) : Nat := listMask ((List.range 16).filter fun i => (f.sources.getD i {}).severe)
def countReg (f : FUnit) (k : Nat) : Nat :=
  leNat ((List.range 4).map fun i => (f.sources.getD (4 * k + i) {}).count)

/-- IRQ[u] (R398); low from the assertion of RST_N and in OFF (19 R457). -/
def irq (s : State) (u : Nat) : Bool :=
  s.keeperRuns && (Nat.land (statusReg (s.unit u)) (s.unit u).irqEn.toNat != 0 || severeReg (s.unit u) != 0)

/-- An event of a source at a unit (17 R390), with what it does besides counting: the keeper's mismatch, a bank that is written zero
(14 R324), the end of a job (R389), the loss of a queue's context (03 R92). -/
def faultEvent (s : State) (u src : Nat) (c : FaultCtx) : State :=
  if s.keeperRuns ∧ bitOf (presentMask u) src then
    let s0 := if u = 0x31 ∧ src = 9 then s.mismatch else s
    let s1 := match c.bank with
      | some b => if u < 40 ∧ src = 1 then s0.zeroBank u b else s0
      | none => s0
    let s2 := (s1.countEvent u src c).internalFault u src c
    match c.queue with
    | some q => if u = 0x30 ∧ src = 1 ∧ c.job.isNone then s2.loseContexts [q] 1 else s2
    | none => s2
  else s

/-- A hardware event in the clock of a write that clears its bit: it comes after the write, so the bit stays set and its counter
counts it (00 R12). -/
def hwEvent (s : State) (e : Option HwEvent) : State :=
  if !s.keeperRuns then s else
  match e with
  | none => s
  | some (.fault u src c) => s.faultEvent u src c
  | some (.wake i) => if i < 5 then s.wakeBit i else s
  | some (.profile i) =>
    { s with prof := { s.prof with
        oneCopy := s.prof.oneCopy || i == 4, disagree := s.prof.disagree || i == 5, bad := s.prof.bad || i == 6
        commitFault := s.prof.commitFault || i == 7 } }

end State

/-- FAULT_EVENT (17 R390). -/
def execFaultEvent (u src : Nat) (ctx : FaultCtx) (s : State) : Ans := .next (s.faultEvent u src ctx)

/-- FAULT_WINDOW_EXPIRY (17 R390): an open window of a length closes and its counter returns to 0. -/
def execFaultWindowExpiry (u src : Nat) (s : State) : Ans :=
  .next (s.modUnit u fun f =>
    let l := modAt f.sources src fun x =>
      match x.window with
      | some w => if w.log2 = 0 then x else { x with window := none, count := 0 }
      | none => x
    { f with sources := l })

/-- FAULT_STATUS_CLEAR (17 R399). -/
def execFaultStatusClear (u : Nat) (value : RegData 32) (s : State) : Ans :=
  .next ((s.regWrite (0x10000 + 0x40 * u + 0) value.bits fun s => s.statusClear u value.bits).hwEvent value.also)

/-- FAULT_SEVERE_CLEAR (17 R399). -/
def execFaultSevereClear (u : Nat) (value : RegData 32) (s : State) : Ans :=
  .next ((s.regWrite (0x10000 + 0x40 * u + 4) value.bits fun s => s.severeClear u value.bits).hwEvent value.also)

/-- FAULT_POLICY_WRITE (17 R392). -/
def execFaultPolicyWrite (u : Nat) (value : Word32) (s : State) : Ans :=
  .next (s.regWrite (0x10000 + 0x40 * u + 0xC) value fun s => s.policyWrite u value)

/-- FAULT_INJECT (17 R402). -/
def execFaultInject (u : Nat) (value : Word32) (s : State) : Ans :=
  .next (s.regWrite (0x10000 + 0x40 * u + 0x20) value fun s => s.injectWrite u value)

/-- LOCKSTEP (01 R28, 17 R405): a fault of the keeper, and ALIVE holds its level. -/
def execLockstep (s : State) : Ans :=
  .next (if s.keeperRuns then
    s.mismatch.countEvent 0x31 9 {}
  else s)

/-- CONTEXT_COLLECTION (18 R415): the unit has answered or not, and the record is written. -/
def execContextCollection (u : Nat) (answered : Bool) (s : State) : Ans :=
  .next (match (s.unit u).incident with
    | some x =>
      if x.written then s else
      ((s.modIncident u fun y =>
        if answered then { y with written := true }
        else { y with written := true, noAnswer := true, named := false
                      part := if u < 40 ∨ y.cause ≠ 0 then y.part else 0 }).writeRecord u false).tryClose u
    | none => s)

/-- ALIVE (17 R404): inverted unless held (R405) or held low. -/
def execAlive (s : State) : Ans :=
  .next (if s.running ∧ !s.keeper.frozen ∧ !s.block.pwrcyc then
    { s with keeper := { s.keeper with alive := !s.keeper.alive } } else s)

/-- RESET_LEVEL_FINISH (18 R409). -/
def execResetLevelFinish (id : Nat) (s : State) : Ans :=
  .next (match s.levels.find? (·.id == id) with
    | some l => if s.levelDone l then s.finishLevel l else s
    | none => s)

/-- RESET_LEVEL_TIMEOUT (18 R409). -/
def execResetLevelTimeout (id : Nat) (s : State) : Ans :=
  .next (match s.levels.find? (·.id == id) with
    | some l => s.escalate l
    | none => s)

/-- POWER_CYCLE (18 R410): a power-cycle level drives PWRCYC_REQ. -/
def execPowerCycle (s : State) : Ans :=
  .next (if s.levels.any fun l => l.scope == .power then { s with block := { s.block with pwrcyc := true } } else s)

/-- SWAP_STEP_TIMEOUT (18 R420): STEP_TIMEOUT at the span, and a span reset; the swap resumes after it (R413). -/
def execSwapStepTimeout (span : Nat) (s : State) : Ans :=
  .next (if (s.span span).swap.isSome ∧ !(s.span span).suspended then
    let s1 := (s.countEvent span 8 {}).modSpan span fun x => { x with suspended := true }
    (s1.startLevel (.span span) [] none).1
  else s)

/-- Elements after a swap: the spare serves, and the element becomes a spare unless it has been fenced meanwhile (01 R490). -/
def swapElems (l : List Elem) (n m : Nat) : List Elem :=
  modAt (modAt l n fun x => if x = .active then .spare else x) m fun _ => .active

/-- SWAP_COMPLETE (18 R420): the spare serves in the element's place, once the killed threads' writes are answered; a table bank that
a job has taken on the core meanwhile is rebuilt (10 R238). -/
def execSwapComplete (span : Nat) (s : State) : Ans :=
  .next (match (s.span span).swap with
    | some (k, n) =>
      let quiet := s.killedQuiet ((s.spanThreads span).map fun t => (t.1, t.2.tile))
      if (s.span span).suspended ∨ !quiet then s else
      let s1 : State := match s.spareOf span k with
        | some m =>
          if k = .core then
            (s.modSpan span fun x => { x with cores := swapElems x.cores n m, swap := none }).rebuildBanks span (· == n)
          else s.modSpan span fun x => { x with pipes := swapElems x.pipes n m, swap := none }
        | none => s.modSpan span fun x => { x with swap := none }
      s1.nextSwap span
    | none => s)

end Sys2Proof.Machine
end

