-- ==== Sys2Proof/Machine/Keys.lean ====
section
/-! DEFINITION. The key port and the test access port (14, 19 R458): LOAD_XTS, LOAD_GCM, ERASE, EXTEST, SAMPLE_PRELOAD,
IDCODE, BYPASS, DEBUG_ARM, SCAN_ACCESS, STAGING_READ, KEYPATH_TEST, SELFTEST_START, STATUS_READ, TRST_N. -/

namespace Sys2Proof.Machine
namespace State

def keyOf (s : State) (slot : Nat) : Option Key := s.tables.keys.find? (·.slot == slot)

/-- Put a key record in place of its slot's, or take it away. -/
def putKey (s : State) (slot : Nat) (k : Option Key) : State :=
  { s with tables := { s.tables with keys := s.tables.keys.filter (·.slot != slot) ++ k.toList } }

/-- The response of a load (R327, R329, R342); the order among several refusals is the model's (log entry 20). -/
def loadResponse (s : State) (slot : Nat) (check : Word32) (key : List Byte) (gcm : Bool) : Nat :=
  if s.block.debugArmed then 5
  else if gcm ∧ !((key.drop 32).all (· == 0)) then 4
  else if s.slotPart slot = 0 then 2
  else if crc32c key != check then 3
  else if ((s.keyOf slot).bind (·.bound)).isSome then 1
  else 0

/-- A load of key material: the slot holds it when accepted (R326, R329). One operation is outstanding at a time (19 R451). -/
def loadKey (s : State) (slot : Nat) (check : Word32) (key : List Byte) (gcm : Bool) : State :=
  if !s.tables.erasing.isEmpty then s else
  let r := s.loadResponse slot check key gcm
  let s1 := if r = 0 then s.putKey slot (some { slot, gcm, bytes := key }) else s
  s1.emit (.keyResp r)

/-- Admitted jobs that name a key slot and have not completed. -/
def slotJobs (s : State) (slot : Nat) : List Nat :=
  (s.jobs.filter fun j => j.order != 0 && j.read && (match j.queue with | .io _ => true | .adm _ => false) &&
    Entry.cipher j.entry && Entry.keySlot j.entry == slot).map (·.uid)

/-- ERASE of a slot (R327, R329): OP values but 1, 2 and 3 are BAD_OP; a bound slot is answered once every earlier job that names it has completed. -/
def eraseKey (s : State) (op : BitVec 8) (slot : Nat) : State :=
  if !s.tables.erasing.isEmpty then s
  else if op ≠ 3 then s.emit (.keyResp 4)
  else if s.slotPart slot = 0 then s.emit (.keyResp 2)
  else
    let bound := ((s.keyOf slot).bind (·.bound)).isSome
    let js := s.slotJobs slot
    let s1 := s.putKey slot none
    if bound ∧ !js.isEmpty then { s1 with tables := { s1.tables with erasing := s1.tables.erasing ++ [{ slot, jobs := js }] } }
    else s1.emit (.keyResp 0)

/-! The test access port. -/

def setIr (s : State) (code : BitVec 8) : State := { s with tap := { s.tap with ir := code, extest := false } }

/-- Bits of a byte list, least significant first. -/
def toBits (bs : List Byte) : List Bool := bs.flatMap fun b => (List.range 8).map fun i => b.getLsbD i

/-- BYPASS: one bit of delay. -/
def bypass (s : State) (code : BitVec 8) : State := (s.setIr code).emit (.tdo [false])

/-- A debug extension acts only with the fuse intact and after DEBUG_ARM (R341). -/
def debugOpen (s : State) : Bool := !s.block.testLock && s.block.debugArmed

/-- The identity value (19 R458). -/
def idValue : Nat :=
  1 + Config.manufacturer.toNat * 2 + 0x5CEB * 2 ^ 12 + Config.version.toNat * 2 ^ 28

/-- A self-test on request after a commit (15 R360): the spans of no partition whole, elsewhere the spare elements, of which failing ones
are fenced. -/
def retestSpares (s : State) (o : SelfTest) : State :=
  let fence := fun (l : List Elem) (bad : List Nat) =>
    bad.foldl (fun l i => modAt l i fun x => if x = .spare then .keeperFenced else x) l
  let s1 := (List.range 40).foldl (fun s n =>
    if s.spanOwner n = 0 then s.retestSpan n o
    else s.modSpan n fun x => { x with cores := fence x.cores (badCores o n), pipes := fence x.pipes (badPipes o n) }) s
  { s1 with lanes := { s1.lanes with lanes := fence s1.lanes.lanes (badLanes o) } }

end State

/-- LOAD_XTS (14 R327). -/
def execLoadXts (slot : Nat) (check : Word32) (key : List Byte) (s : State) : Ans := .next (s.loadKey slot check key false)

/-- LOAD_GCM (14 R327). -/
def execLoadGcm (slot : Nat) (check : Word32) (key : List Byte) (s : State) : Ans := .next (s.loadKey slot check key true)

/-- ERASE (14 R329), and every other operation that loads nothing (R327). -/
def execErase (req : EraseReq) (s : State) : Ans := .next (s.eraseKey req.op req.slot)

/-- EXTEST (14 R341): the boundary register is captured and shifted, and drives the pins. -/
def execExtest (bits : List Bool) (s : State) : Ans :=
  let s1 := (s.setIr 0x00).emit (.tdo s.tap.boundary)
  .next { s1 with tap := { s1.tap with boundary := bits, extest := true } }

/-- SAMPLE/PRELOAD (14 R341): the boundary register is captured and shifted; the pins stay the block's. -/
def execSamplePreload (bits : List Bool) (s : State) : Ans :=
  let s1 := (s.setIr 0x01).emit (.tdo s.tap.boundary)
  .next { s1 with tap := { s1.tap with boundary := bits } }

/-- IDCODE (19 R458). -/
def execIdcode (s : State) : Ans :=
  .next ((s.setIr 0x02).emit (.tdo ((List.range 32).map fun i => bitOf State.idValue i)))

/-- BYPASS (14 R341): 0xFF and every code that the port does not decode. -/
def execBypass (code : BitVec 8) (s : State) : Ans := .next (s.bypass code)

/-- DEBUG_ARM (14 R342): with the fuse intact, every key slot empties and DEBUG_ARMED is set; else BYPASS. -/
def execDebugArm (s : State) : Ans :=
  .next (if s.block.testLock then s.bypass 0x20 else
    let s1 := s.setIr 0x20
    { s1 with tables := { s1.tables with keys := [] }, block := { s1.block with debugArmed := true } })

/-- SCAN_ACCESS (14 R341). -/
def execScanAccess (s : State) : Ans :=
  .next (if s.debugOpen then
    let s1 := s.setIr 0x21
    { s1 with tap := { s1.tap with scan := true } }
  else s.bypass 0x21)

/-- STAGING_READ (14 R341): the granule of a staging buffer at an offset. -/
def execStagingRead (span off : Nat) (s : State) : Ans :=
  .next (if s.debugOpen then
    (s.setIr 0x22).emit (.tdo (State.toBits (s.store.read (locKey (.staging span) (off / 64 * 64)) 64)))
  else s.bypass 0x22)

/-- KEYPATH_TEST (14 R341): a known-answer vector with a shifted-in key. -/
def execKeypathTest (gcm : Bool) (key tweak data : List Byte) (s : State) : Ans :=
  .next (if s.debugOpen then
    let out := if gcm then
        let c := gcmCrypt key (tweak.take 12) data
        c ++ gcmTag key (tweak.take 12) c
      else xtsUnit true key tweak data
    (s.setIr 0x23).emit (.tdo (State.toBits out))
  else s.bypass 0x23)

/-- SELFTEST_START (15 R360). -/
def execSelftestStart (outcome : SelfTest) (s : State) : Ans :=
  .next (if s.running then
    let s1 := s.setIr 0x24
    if s.prof.once then s1.retestSpares outcome else s1.retestAll outcome
  else s.setIr 0x24)

/-- STATUS_READ (14 R341): a unit's FAULT_STATUS and FAULT_SEVERE and the incident records. -/
def execStatusRead (u : Nat) (s : State) : Ans :=
  .next ((s.setIr 0x25).emit (.tdo
    ((List.range 16).map (fun i => bitOf (State.statusReg (s.unit u)) i) ++
     (List.range 16).map (fun i => bitOf (State.severeReg (s.unit u)) i) ++
     s.keeper.ring.flatMap fun r => (List.range 128).map fun i => r.getLsbD i)))

/-- TRST_N (19 R458): the port's reset state, DEBUG_ARMED unaffected. -/
def execTrstN (s : State) : Ans := .next { s with tap := {} }

end Sys2Proof.Machine
end

