-- ==== Sys2Proof/Machine/Admin.lean ====
section
/-! DEFINITION. Administrative commands (13): service, the checks of R294 in their order, each command's effect at its commit,
and COMMAND_COMPLETES. `aq` is the administrative queue whose head entry the command is. -/

namespace Sys2Proof.Machine
namespace State

/-! Service (13 R295). -/

/-- The oldest entry of an administrative queue that has not completed. -/
def adminFront (s : State) (aq : Nat) : Option Job :=
  let js := s.jobs.filter fun j => j.queue == .adm aq
  (earliest (js.map (·.idx))).bind fun i => js.find? (·.idx == i)

/-- A command of the queue can start: it is the oldest entry, and nothing holds the queue. -/
def canStart (s : State) (aq : Nat) : Option Job :=
  (s.adminFront aq).filter fun j =>
    j.phase == .fetched && s.running && s.prof.committed && !s.centralAsleep && !s.queueHeld (.adm aq) &&
    !(s.part aq).scrubbing

/-- No queue between the one served last and this one has a command to start (R295). -/
def turnOf (s : State) (aq : Nat) : Bool :=
  ((List.range 9).takeWhile fun i => (s.tables.adminLast + 1 + i) % 9 != aq).all fun i =>
    (s.canStart ((s.tables.adminLast + 1 + i) % 9)).isNone

/-! Checks of an entry (00 R7, 13 R293, R294). -/

/-- A named field: offset, width in bytes, and the bits it assigns. -/
structure FieldSpec where
  off  : Nat
  len  : Nat
  mask : Nat := 2 ^ 64 - 1
deriving DecidableEq, Repr

/-- DETAIL of the lowest breach of the reserved bits from an offset on (R7). -/
def reservedFail (e : List Byte) (start : Nat) (fs : List FieldSpec) : Option Nat :=
  let named := (fs.filter fun f => field e f.off f.len != Nat.land (field e f.off f.len) f.mask).map (·.off)
  let rest := ((List.range 256).filter fun i =>
    decide (start ≤ i) && u8 e i != 0 && !(fs.any fun f => decide (f.off ≤ i ∧ i < f.off + f.len)))
  match named ++ rest with
  | [] => none
  | x :: r => some (r.foldl min x)

/-- Header fields of a command (R293). -/
def adminHeader : List FieldSpec := [⟨0, 1, 255⟩, ⟨1, 1, 1⟩, ⟨2, 1, 255⟩, ⟨8, 8, 2 ^ 64 - 1⟩]

/-- The lowest offset whose limit is broken. -/
def lowestBad (l : List (Bool × Nat)) : Option Nat :=
  match (l.filter (·.1)).map (·.2) with
  | [] => none
  | x :: r => some (r.foldl min x)

/-- Which queues accept a command, and whether it acts on a partition (R299). -/
inductive CmdQueues where
  | both | owner | partition
deriving DecidableEq, Repr

inductive CmdScope where
  | part | block | free_
deriving DecidableEq, Repr

/-- PARTITION is legal for the queue and the command's scope (R293). -/
def partitionBad (s : State) (aq : Nat) (sc : CmdScope) (v : Nat) : Bool :=
  if aq ≠ 0 then v != 0
  else match sc with
    | .part => !s.defined v
    | .block => v != 0
    | .free_ => false

/-- Start the front command of a queue: the checks of R294 up to field limits, then the command's own part. -/
def runAdmin (s : State) (aq op : Nat) (qs : CmdQueues) (sc : CmdScope) (fs : List FieldSpec)
    (limits : State → Nat → List Byte → List (Bool × Nat)) (act : State → Job → Nat → State) (detail : Nat → Nat := id) : State :=
  match s.canStart aq with
  | none => s
  | some j =>
    let e := j.entry
    if u8 e 0 ≠ op ∨ !s.turnOf aq then s else
    let p := if aq = 0 then u8 e 2 else aq
    let s0 := { s with tables := { s.tables with adminLast := aq } }
    let s1 := s0.modQueue (.adm aq) fun x => { x with fetched := x.fetched.filter (·.uid != j.uid) }
    if (aq = 0 ∧ qs = .partition) ∨ (aq ≠ 0 ∧ qs = .owner) then s1.endAdmin j.uid 0x01 op 0 0
    else if field e 0x18 8 ≠ 0 then s1.endAdmin j.uid 0x02 0x18 0 0
    else match reservedFail e 0 (adminHeader ++ [⟨0x18, 8, 2 ^ 64 - 1⟩] ++ fs) with
      | some d => s1.endAdmin j.uid 0x02 (detail d) 0 0
      | none =>
        match lowestBad ((s1.partitionBad aq sc (u8 e 2), 2) :: limits s1 p e) with
        | some d => s1.endAdmin j.uid 0x02 d 0 0
        | none => act s1 j p

/-- A committed command that waits (R297). -/
def waitAdmin (s : State) (uid : Nat) (w : Wait) (count aux : Nat) : State :=
  s.modJob uid fun j => { j with phase := .running, wait := w, count, aux }

/-- A command that fails at its entry stays to be read again once a translation has arrived. -/
def retryAdmin (s : State) (j : Job) : State :=
  s.modQueue j.queue fun x => { x with fetched := x.fetched ++ [⟨j.idx, j.uid⟩] }

/-! Ranges checked at creation (02 R65, R62). -/

/-- First failure over ranges named by fields, one kind of R48 at a time: (address, length, needs READ, needs WRITE). -/
def rangesFail (s : State) (p pd : Nat) (l : List (Nat × Nat × Bool × Bool)) : Option (Nat × Nat) :=
  let lo (x : Nat × Nat × Bool × Bool) : Int := (x.1 % 2 ^ 56 : Nat)
  let hi (x : Nat × Nat × Bool × Bool) : Int := (x.1 % 2 ^ 56 : Nat) + (x.2.1 : Int) - 1
  let r (x : Nat × Nat × Bool × Bool) : Nat := x.1 / 2 ^ 56
  match l.find? fun x => s.routeFail p (r x) (lo x) (hi x) with
  | some x => some (0x40, r x)
  | none =>
    match l.find? fun x => s.spanFail p (r x) (lo x) with
    | some x => some (0x42, r x)
    | none =>
      l.findSome? fun x =>
        let rd := if x.2.2.1 then s.accessFail p pd (r x) (lo x) (hi x) false else none
        let wr := if x.2.2.2 then s.accessFail p pd (r x) (lo x) (hi x) true else none
        match rd, wr with
        | some c, _ => some (c, r x)
        | none, some c => some (c, r x)
        | none, none => none

/-- Every range of a list is granted by the regions of the partition, by R60 and R61 alone. -/
def regionsOk (s : State) (p pd : Nat) (l : List (Nat × Nat × Bool × Bool)) : Bool :=
  l.all fun x =>
    let lo : Int := (x.1 % 2 ^ 56 : Nat)
    let hi : Int := (x.1 % 2 ^ 56 : Nat) + (x.2.1 : Int) - 1
    (!x.2.2.1 || (regionFail (s.part p).regions pd (x.1 / 2 ^ 56) lo hi false).isNone) &&
    (!x.2.2.2 || (regionFail (s.part p).regions pd (x.1 / 2 ^ 56) lo hi true).isNone)

/-- Ring and status line of a queue. -/
def queueRanges (ring log2 status : Nat) : List (Nat × Nat × Bool × Bool) :=
  [(ring, 256 * 2 ^ log2, true, true), (status, 64, true, true)]

/-- A ring base and a status line are legal (03 R77, R98). -/
def ringBad (ring : Nat) : Bool :=
  let r := ring / 2 ^ 56
  ring % 4096 != 0 || !(r == 0 || decide (0x20 ≤ r ∧ r ≤ 0x28))
def statusBad (a : Nat) : Bool := a / 2 ^ 56 != 0 || a % 64 != 0

/-- A channel's ranges (12 R277). -/
def chanRanges (c : ChanCfg) : List (Nat × Nat × Bool × Bool) :=
  [(c.src.toNat, 2 ^ c.log2 * c.recKib * 1024, true, false), (c.dst.toNat, 2 ^ c.log2 * c.recKib * 1024, false, true),
   (c.cons.toNat, 4, false, true)]

/-- The ranges of a partition that were checked once and stay protected: live rings and status lines, configured channels,
the event slot (R65, R277, 20 R474). -/
def protectedOk (s : State) (p : Nat) : Bool :=
  ((s.queues.filter fun x => x.state != .destroyed && queuePart x == p).all fun x =>
    s.regionsOk p x.pd (queueRanges x.ring.toNat x.log2 x.status.toNat)) &&
  ((s.chans.filter fun c => c.state != .free && c.owner == p).all fun c => s.regionsOk p c.cfg.pd (chanRanges c.cfg)) &&
  ((s.part p).eventSlot == 0 || s.regionsOk p (s.part p).eventPd.toNat [((s.part p).eventSlot.toNat, 16, false, true)])

/-- The I/O queue ID lies in a partition's allotment (R300). -/
def inRun (s : State) (p q : Nat) : Bool := decide (s.qidFirst p ≤ q ∧ q < s.qidFirst p + s.qidCount p)

/-- The field that names a live queue of the partition in a state that has a row (R301, 03 R100). -/
def queueField (rows : List QState) (s : State) (p : Nat) (e : List Byte) : List (Bool × Nat) :=
  let q := u16 e 0x20
  [(!(s.inRun p q && (match s.live? (.io q) with | some x => rows.contains x.state | none => false)), 0x20)]

/-- Jobs of a partition admitted and not completed. -/
def admitted (s : State) (p : Nat) : List Nat :=
  (s.jobs.filter fun j => j.part == p && j.order != 0).map (·.uid)

/-! Queues. -/

/-- A new queue, and its status line at creation (03 R100). -/
def createQueue_ (s : State) (x : Queue) : State := (s.putQueue x).writeStatus x.qid

def actCreateQueue (s : State) (j : Job) (p : Nat) : State :=
  let e := j.entry
  let q := QId.io (u16 e 0x20)
  match s.rangesFail p (u8 e 0x24) (queueRanges (u64 e 0x28) (u8 e 0x22) (u64 e 0x30)) with
  | some (c, r) => s.endAdmin j.uid c r 0 0
  | none =>
    if (s.live? q).isSome then s.endAdmin j.uid 0xC2 0 0 0 else
    (s.createQueue_ { qid := q, part := p, ring := BitVec.ofNat 64 (u64 e 0x28), log2 := u8 e 0x22,
                      status := BitVec.ofNat 64 (u64 e 0x30), recovery := bitOf (u8 e 0x23) 0, pd := u8 e 0x24 }).endAdmin j.uid 0 0 0 0

def actDestroyQueue (s : State) (j : Job) (_p : Nat) : State :=
  let q := QId.io (u16 j.entry 0x20)
  match s.live? q with
  | some x => if x.open_.isEmpty then (s.setQState q .destroyed).endAdmin j.uid 0 0 0 0 else s.endAdmin j.uid 0xC2 0 0 0
  | none => s

/-- CANCEL_QUEUE at its commit (06 R155): the pending entries end, and a HALTED queue is ACTIVE (R100); the line of that change comes
after the last entry's DONE write (03 R99; DEDUCED, log entry 88). -/
def actCancelQueue (s : State) (j : Job) (_p : Nat) : State :=
  let q := QId.io (u16 j.entry 0x20)
  let js := (s.jobs.filter (·.queue == q)).map (·.uid)
  let halted := ((s.live? q).map (·.state)) == some .halted
  let s1 := if halted then s.modQueue q fun x => { x with state := .active } else s
  let s2 := s1.endQueue q 0xA0 0
  let all := (s2.jobs.filter (·.queue == q)).map (·.uid)
  (if halted then s2.modQueue q fun x => { x with after := x.after ++ js } else s2).waitAdmin j.uid (.cancel all) 0 0

/-- Halted jobs go on from their saved positions; one halted on an access of no tile is decoded again (02 R52, 06 R153). -/
def resumeQ (s : State) (q : QId) : State :=
  let js := s.jobs.map fun (j : Job) =>
    if j.queue == q && j.phase == .halted then { j with phase := if j.order = 0 then .fetched else .running } else j
  let s1 : State := { s with jobs := js }
  s1.setQState q .active

def actResumeQueue (s : State) (j : Job) (_p : Nat) : State := (s.resumeQ (.io (u16 j.entry 0x20))).endAdmin j.uid 0 0 0 0

def actResetQueue (s : State) (j : Job) (_p : Nat) : State :=
  let r := s.startLevel (.context (.io (u16 j.entry 0x20))) [] none
  r.1.waitAdmin j.uid (.level r.2) 0 0

def actSetShaper (s : State) (j : Job) (_p : Nat) : State :=
  let e := j.entry
  (s.modQueue (.io (u16 e 0x20)) fun x =>
    { x with newShaper := some { quantum := u32 e 0x24, rate := u32 e 0x28, burst := u32 e 0x2C } }).endAdmin j.uid 0 0 0 0

/-! Regions and windows. -/

/-- The limits of a region entry at an offset (02 R59). -/
def regionLimits (s : State) (p : Nat) (e : List Byte) (o : Nat) : List (Bool × Nat) :=
  let base := u64 e o
  let len := u64 e (o + 8)
  let r := base / 2 ^ 56
  let off := base % 2 ^ 56
  let win := if 0x40 ≤ r ∧ r ≤ 0xBF then s.window? p (r - 0x40) else none
  let spanOk := decide (off / 2 ^ 21 % 64 < 40) && s.spanOwner (off / 2 ^ 21 % 64) == p && !bitOf off 20 && decide (off < 2 ^ 27)
  let bound := if r = 0x20 ∨ (0x30 ≤ r ∧ r ≤ 0x37) then 8 * s.cs p
    else if 0x21 ≤ r ∧ r ≤ 0x28 then s.cs p
    else if r = 0xF0 then off / 2 ^ 20 * 2 ^ 20 + 2 ^ 20
    else match win with | some w => w.len | none => 2 ^ 56
  [(base % 4096 != 0 || !routeDefined r || !s.hasTarget p r || (r == 0xF0 && !spanOk), o),
   (len == 0 || len % 4096 != 0 || decide (2 ^ 56 < off + len) || decide (bound < off + len), o + 8),
   (u8 e (o + 0x11) % 4 == 0, o + 0x11)]

def actCreateRegion (s : State) (j : Job) (p : Nat) : State :=
  let e := j.entry
  let used := (s.part p).regions.map (·.id)
  let id := lowestFree used
  if s.regionMax p ≤ used.length then s.endAdmin j.uid 0xC0 0 0 0 else
  (s.modPart p fun x => { x with regions := x.regions ++
      [{ id, base := BitVec.ofNat 64 (u64 e 0x20), len := u64 e 0x28, pd := u8 e 0x30, rights := BitVec.ofNat 3 (u8 e 0x31) }] }).endAdmin
    j.uid 0 0 id 0

def actDestroyRegion (s : State) (j : Job) (p : Nat) : State :=
  let s1 := s.modPart p fun x => { x with regions := x.regions.filter (·.id != u16 j.entry 0x20) }
  if !s1.protectedOk p then s.endAdmin j.uid 0xC2 0 0 0 else s1.waitAdmin j.uid (.jobs (s.admitted p)) 0 0

def actOpenWindow (s : State) (j : Job) (p : Nat) : State :=
  let e := j.entry
  if (s.part p).windows.any (·.w == u8 e 0x20) then s.endAdmin j.uid 0xC2 0 0 0 else
  ((s.modPart p fun x => { x with windows := x.windows ++
      [{ w := u8 e 0x20, conn := u32 e 0x24, base := BitVec.ofNat 64 (u64 e 0x28), len := u64 e 0x30 }] }).voteCommitted 1
    (s.partSpans p)).endAdmin j.uid 0 0 0 0

/-- A group member or a configured channel uses a window (R304). -/
def windowUsed (s : State) (p w : Nat) : Bool :=
  ((s.part p).groups.any fun g => g.members.any fun m => m.win == some w) ||
  (s.chans.any fun c => c.owner == p && c.state != .free && c.cfg.dst.toNat / 2 ^ 56 == 0x40 + w)

def actCloseWindow (s : State) (j : Job) (p : Nat) : State :=
  let w := u8 j.entry 0x20
  if s.windowUsed p w then s.endAdmin j.uid 0xC2 0 0 0 else
  let onIt := fun (x : Region) => x.base.toNat / 2 ^ 56 == 0x40 + w
  let n := ((s.part p).regions.filter onIt).length
  let conn := ((s.window? p w).map (·.conn)).getD 0
  let s1 := s.modPart p fun x =>
    { x with regions := x.regions.filter fun r => !onIt r
             windows := x.windows.map fun y => if y.w == w then { y with closing := true, ready := false } else y }
  (s1.emit (.winClosed conn w)).waitAdmin j.uid (.jobs (s.admitted p)) n 0

/-! Groups (11 R244-R247, R305). -/

/-- One member record of a table, with the sender it stands for; none where a field breaks its limit or a reserved bit is set. R305
gives DETAIL for a table without a LOCAL rank only; the model gives 0x0040, the table's field, for every bad record (DESIGN CHOICE,
log entry 80). -/
def memberOf (s : State) (p : Nat) (r : List Byte) (need : Nat) : Option Member :=
  let route := u64 r 0 / 2 ^ 56
  let recv := BitVec.ofNat 64 (u64 r 0)
  if !(route == 0 || decide (0x10 ≤ route ∧ route ≤ 0x17) || decide (0x20 ≤ route ∧ route ≤ 0x28)) || u64 r 0 % 64 != 0 ||
     u32 r 8 % 64 != 0 || decide (u32 r 8 < need) || u16 r 0x0E != 0 then none
  else match u8 r 0x0C with
    | 0 => if u8 r 0x0D = 0 then some { recv, recvLen := u32 r 8, place := none } else none
    | 1 => if u8 r 0x0D < 8 ∧ u8 r 0x0D ≠ s.block.deckId.toNat ∧ s.reached (u8 r 0x0D) then
        some { recv, recvLen := u32 r 8, place := some (.deck (u8 r 0x0D)) } else none
    | 2 => (s.window? p (u8 r 0x0D)).map fun w => { recv, recvLen := u32 r 8, place := some (.conn w.conn), win := some w.w }
    | _ => none

def typeBytes (t : Nat) : Nat := typeBits t / 8
/-- CB and RB of R246, and a part P of the slot area (R247). -/
def chunkBytes (g : Group) : Nat := g.chunkElems * typeBytes g.inT
def resultBytes (g : Group) : Nat := 64 + g.chunkElems * typeBytes g.outT
def slotPartBytes (g : Group) : Nat := g.m * g.slotDepth * chunkBytes g + ceilDiv g.epochChunks g.m * resultBytes g

def actCreateGroup (s : State) (j : Job) (p : Nat) : State :=
  let e := j.entry
  let pd := u8 e 0x32
  let g0 : Group := { g := u8 e 0x20, tag := u32 e 0x24, m := u16 e 0x22, inT := u8 e 0x21 % 16, outT := u8 e 0x21 / 16,
                      chunkElems := u32 e 0x28, epochChunks := u16 e 0x2C, slotDepth := u8 e 0x2E, timeout := u16 e 0x30, pd,
                      slotArea := BitVec.ofNat 64 (u64 e 0x38), members := [] }
  let tbl := u64 e 0x40
  match s.rangesFail p pd [(tbl, 16 * g0.m, true, false)] with
  | some (c, r) => s.endAdmin j.uid c r 0 0
  | none =>
    match s.keys p j.xlat tbl (16 * g0.m) with
    | none => (s.askRange (.admin j.part) p j.xlat 1 tbl (16 * g0.m)).retryAdmin j
    | some ks =>
      if (granulesOf ks).any s.store.poison.contains then s.endAdmin j.uid 0x65 (tbl / 2 ^ 56) 0 0 else
      let b := ks.map s.store.get
      match (List.range g0.m).mapM fun i => s.memberOf p ((b.drop (16 * i)).take 16) (g0.epochChunks * resultBytes g0) with
      | none => s.endAdmin j.uid 0x02 0x40 0 0
      | some ms =>
        let own := ms.filter fun m => m.place.isNone
        if own.isEmpty then s.endAdmin j.uid 0x02 0x40 0 0 else
        match s.rangesFail p pd ((g0.slotArea.toNat, own.length * slotPartBytes g0, true, true) ::
            own.map fun m => (m.recv.toNat, m.recvLen, true, true)) with
        | some (c, r) => s.endAdmin j.uid c r 0 0
        | none =>
          if 256 ≤ (s.part p).groups.length then s.endAdmin j.uid 0xC0 0 0 0
          else if (s.part p).groups.any (·.g == g0.g) then s.endAdmin j.uid 0xC2 0 0 0
          else (s.modPart p fun x => { x with groups := x.groups ++ [{ g0 with members := ms }] }).endAdmin j.uid 0 0 0 0

def actDestroyGroup (s : State) (j : Job) (p : Nat) : State :=
  let g := u8 j.entry 0x20
  if s.jobs.any fun k => k.part == p && k.groupOp && k.groupNo == g then s.endAdmin j.uid 0xC2 0 0 0
  else (s.modPart p fun x => { x with groups := x.groups.filter (·.g != g) }).endAdmin j.uid 0 0 0 0

/-! Keys and codebook sets. -/

def actBindKey (s : State) (j : Job) (_p : Nat) : State :=
  let e := j.entry
  match s.keyOf (u16 e 0x20) with
  | none => s.endAdmin j.uid 0xC1 (u16 e 0x20) 0 0
  | some k =>
    if k.bound.isSome then s.endAdmin j.uid 0xC2 0 0 0
    else (s.putKey k.slot (some { k with bound := some (u8 e 0x22, u8 e 0x24, u8 e 0x25) })).endAdmin j.uid 0 0 0 0

/-- UNBIND_KEY of a slot that is not bound is KEY_INVALID (log entry 21). -/
def actUnbindKey (s : State) (j : Job) (_p : Nat) : State :=
  let slot := u16 j.entry 0x20
  match s.keyOf slot with
  | none => s.endAdmin j.uid 0xC1 slot 0 0
  | some k =>
    if k.bound.isNone then s.endAdmin j.uid 0xC1 slot 0 0
    else (s.putKey slot (some { k with bound := none })).waitAdmin j.uid (.jobs (s.slotJobs slot)) 0 0

def actClaim (s : State) (j : Job) (p : Nat) : State :=
  let n := u8 j.entry 0x20
  let o := s.tables.cbOwner.getD n 0
  if o ≠ 0 ∧ o ≠ p then s.endAdmin j.uid 0xC2 0 0 0
  else ({ s with tables := { s.tables with cbOwner := modAt s.tables.cbOwner n fun _ => p } }).endAdmin j.uid 0 0 0 0

/-- A set that passes to none is written zero in every span of the partition first (14 R323). -/
def actRelease (s : State) (j : Job) (p : Nat) : State :=
  let n := u8 j.entry 0x20
  let o := s.tables.cbOwner.getD n 0
  let used := s.jobs.any fun k => k.part == p && (match k.cbSet with | some c => c == n || c + 1 == n | none => false)
  if o = 0 then s.endAdmin j.uid 0 0 0 0
  else if o ≠ p ∨ used then s.endAdmin j.uid 0xC2 0 0 0
  else
    let s1 : State := { s with tables := { s.tables with cbOwner := modAt s.tables.cbOwner n fun _ => 0 } }
    ((s1.partSpans p).foldl (fun s k => s.clearSpan k [] [n]) s1).endAdmin j.uid 0 0 0 0

/-! Paced channels (12 R276-R278, R290). -/

/-- The configuration record at +0x40. -/
def cfgOf (e : List Byte) : ChanCfg :=
  let r := e.drop 0x40
  { src := BitVec.ofNat 64 (u64 r 0), dst := BitVec.ofNat 64 (u64 r 8), cons := BitVec.ofNat 64 (u64 r 0x10), log2 := u8 r 0x18,
    recKib := u8 r 0x19, pd := u8 r 0x1A, shufOp := u8 r 0x1B, shufF := u8 r 0x1C, shufUnit := u8 r 0x1D, shufType := u8 r 0x1E,
    high := u32 r 0x20, low := u32 r 0x24, runLimit := u32 r 0x28 }

/-- The fields of SETUP_CHANNEL: the record's reserved bits are those of R276. -/
def setupFields : List FieldSpec :=
  [⟨0x20, 1, 0xFF⟩, ⟨0x40, 8, 2 ^ 64 - 1⟩, ⟨0x48, 8, 2 ^ 64 - 1⟩, ⟨0x50, 8, 2 ^ 64 - 1⟩, ⟨0x58, 1, 0xFF⟩, ⟨0x59, 1, 0xFF⟩, ⟨0x5A, 1, 0x3F⟩,
   ⟨0x5B, 1, 0xFF⟩, ⟨0x5C, 1, 0xFF⟩, ⟨0x5D, 1, 0xFF⟩, ⟨0x5E, 1, 0x0F⟩, ⟨0x60, 4, 2 ^ 32 - 1⟩, ⟨0x64, 4, 2 ^ 32 - 1⟩,
   ⟨0x68, 4, 2 ^ 32 - 1⟩]

/-- Limits of the record, with its own offsets (R276, R278). -/
def cfgLimits (c : ChanCfg) (ch : Nat) : List (Bool × Nat) :=
  let p := ch / 8
  let d := c.dst.toNat / 2 ^ 56
  let shuf := c.shufOp == 1 || c.shufOp == 2
  let n := 2 ^ c.log2
  [(c.src.toNat / 2 ^ 56 != 0x10 + p || c.src.toNat % 4096 != 0, 0),
   (!(d == 0 || decide (0x10 ≤ d ∧ d ≤ 0x17) || decide (0x20 ≤ d ∧ d ≤ 0x28) || decide (0x30 ≤ d ∧ d ≤ 0x37) || decide (0x40 ≤ d ∧ d ≤ 0xBF)), 8),
   (c.cons.toNat / 2 ^ 56 != 0x10 + p, 0x10),
   (decide (c.log2 < 4 ∨ 16 < c.log2), 0x18), (decide (c.recKib = 0 ∨ 64 < c.recKib), 0x19),
   (decide (4 < c.shufOp), 0x1B), (if shuf then decide (c.shufF = 0 ∨ 4 < c.shufF) else c.shufF != 0, 0x1C),
   (if shuf then decide (6 < c.shufUnit) || (c.recKib * 1024 / 2 ^ c.shufF * 8) % (2 ^ c.shufUnit * max 1 (typeBits (c.shufType % 16))) != 0
    else c.shufUnit != 0, 0x1D),
   ((c.shufOp == 0 && c.shufType != 0) || (c.shufOp != 0 && typeReserved (c.shufType % 16)), 0x1E),
   (decide (c.high = 0 ∨ n < c.high), 0x20), (decide (c.high ≤ c.low), 0x24), (decide (c.runLimit = 0 ∨ n < c.runLimit), 0x28)]

def actSetupChannel (s : State) (j : Job) (p : Nat) : State :=
  let e := j.entry
  let ch := u8 e 0x20
  let c := cfgOf e
  let x := s.chan ch
  match lowestBad (cfgLimits c ch) with
  | some d => s.endAdmin j.uid 0x02 d 0 0
  | none =>
    if (c.shufOp = 3 ∨ c.shufOp = 4) ∧ typeBits c.shufType ≠ 4 ∧ typeBits c.shufType ≠ 8 then
      s.endAdmin j.uid 0x06 (c.shufType * 16 + c.shufType) 0 0
    else if c.dst.toNat % 64 ≠ 0 then s.endAdmin j.uid 0x04 8 0 0
    else if c.cons.toNat % 16 ≠ 0 then s.endAdmin j.uid 0x04 0x10 0 0
    else match s.rangesFail p c.pd (chanRanges c) with
      | some (k, r) => s.endAdmin j.uid k r 0 0
      | none =>
        if (x.state ≠ .free ∧ x.owner ≠ p) ∨ chanArmed x then s.endAdmin j.uid 0xC2 0 0 0
        else (s.modChan ch fun y => { y with state := .configured, owner := p, cfg := c }).endAdmin j.uid 0 0 0 0

/-- A channel of another partition is RESOURCE_HELD, a state without a row BAD_FIELD (R308). -/
def chanCheck (s : State) (j : Job) (p : Nat) (rows : List ChState) (f : State → Nat → State) : State :=
  let ch := u8 j.entry 0x20
  let x := s.chan ch
  if x.state ≠ .free ∧ x.owner ≠ p then s.endAdmin j.uid 0xC2 0 0 0
  else if !rows.contains x.state then s.endAdmin j.uid 0x02 0x20 0 0
  else f s ch

def actArm (s : State) (j : Job) (p : Nat) : State :=
  s.chanCheck j p [.configured] fun s ch =>
    ((s.modChan ch fun x => { x with state := .armed, p := 0, c := 0, buffer := s.bufferSpan p }).voteCommitted 1
      [s.bufferSpan p]).endAdmin j.uid 0 0 0 0

def actDisarm (s : State) (j : Job) (p : Nat) : State :=
  s.chanCheck j p [.armed, .running, .held] fun s ch =>
    if (s.chan ch).state = .running then
      (s.modChan ch fun x => { x with disarm := true }).waitAdmin j.uid (.channel ch) 0 0
    else (s.dropChannel ch .configured).endAdmin j.uid 0 0 0 0

def actReleaseChannel (s : State) (j : Job) (p : Nat) : State :=
  s.chanCheck j p [.configured] fun s ch => (s.dropChannel ch .free).endAdmin j.uid 0 0 0 0

/-- The owner's re-arm (12 R289): HELD channels of the pacer are ARMED again. -/
def actRearm (s : State) (j : Job) (_p : Nat) : State :=
  let n := u8 j.entry 0x20
  let s1 := s.modPacer n fun x => { x with stopped := false, cause := 0 }
  ((List.range 8).foldl (fun s i =>
    if (s.chan (8 * n + i)).state = .held then s.modChan (8 * n + i) fun x => { x with state := .armed } else s) s1).endAdmin j.uid 0 0 0 0

/-! Votes, health, sparing, resets (R310-R316). -/

/-- A vote of a holder takes the place of its last one; the spans of a withdrawn floor settle (16 R366, R369). -/
def actVote (s : State) (j : Job) (p : Nat) : State :=
  let e := j.entry
  let h := u8 e 0x20
  let mask := BitVec.ofNat 64 (u64 e 0x28)
  let old := ((s.part p).votes.filter (·.holder == h)).flatMap fun v => maskList 40 v.mask.toNat
  let s1 := s.modPart p fun x => { x with votes := x.votes.filter (·.holder != h) }
  if u8 e 0x21 = 0 then (old.foldl settleRun s1).endAdmin j.uid 0 0 0 0 else
  let s2 := s1.modPart p fun x => { x with votes := x.votes ++ [{ holder := h, floor := u8 e 0x22, mask }] }
  ((old.foldl settleRun s2).voteCommitted (u8 e 0x22) (maskList 40 mask.toNat)).waitAdmin j.uid (.floor mask (u8 e 0x22)) 0 0

def sparesOf (l : List Elem) : Nat := (l.filter (· == .spare)).length
def fencedOf (l : List Elem) : Nat := (l.filter fun x => x == .fenced || x == .keeperFenced).length

/-- CONDITION of R311: 2 FENCED, 1 DEGRADED with an element fenced or no spare left, 0 SERVING. -/
def condition (s : State) (u : Nat) : Nat :=
  if u < 40 then
    let x := s.span u
    if x.fence != .none then 2
    else if fencedOf x.cores + fencedOf x.pipes != 0 || sparesOf x.cores == 0 || sparesOf x.pipes == 0 then 1 else 0
  else if u = 0x32 then (if fencedOf s.lanes.lanes != 0 || sparesOf s.lanes.lanes == 0 then 1 else 0)
  else if s.lanes.sorting then 0 else 1

/-- The 32 bytes of a health record (R311); MARGIN is a measurement the spec does not fix: a free value (log entry 7). -/
def healthBytes (s : State) (u : Nat) : List Byte :=
  let x := s.span u
  let f := s.unit u
  let b (n : Nat) : List Byte := leBytes 1 n
  b u ++ b (s.condition u) ++
  b (if u < 40 then activeOf x.cores else if u = 0x32 then activeOf s.lanes.lanes else 1) ++
  b (if u < 40 then sparesOf x.cores else if u = 0x32 then sparesOf s.lanes.lanes else if s.lanes.sorting then 1 else 0) ++
  b (if u < 40 then fencedOf x.cores else 0) ++ b (if u < 40 then activeOf x.pipes else 0) ++
  b (if u < 40 then sparesOf x.pipes else 0) ++ [0] ++ leBytes 4 f.corrected.toNat ++ leBytes 4 f.uncorrected.toNat ++
  leBytes 2 s.freeNat ++ List.replicate 14 0

def actReadHealth (s : State) (j : Job) (_p : Nat) : State :=
  let e := j.entry
  let dst := u64 e 0x28
  let aq := j.part
  match (if aq = 0 then none else s.rangesFail aq (u8 e 0x21) [(dst, 32, false, true)]) with
  | some (c, r) => s.endAdmin j.uid c r 0 0
  | none =>
    match s.place aq j.xlat dst (s.healthBytes (u8 e 0x20)) with
    | none => (s.askRange (.admin aq) aq j.xlat 2 dst 32).retryAdmin j
    | some bs => ((s.issue (.admin aq) aq 0 (dst / 2 ^ 56) bs []).useFree).waitAdmin j.uid .writes 0 0

/-- A command's incident (18 R492), and the level it names. -/
def cmdIncident (s : State) (u lvl part : Nat) : State :=
  s.cause u { seq := 0, source := 0xF, cause := 1, step := 0, level := lvl, part }

/-- A fence would leave its partition with no unfenced span (R312). -/
def lastSpan (s : State) (n : Nat) : Bool :=
  decide (s.spanOwner n ≠ 0) && ((s.unfencedSpans (s.spanOwner n)).filter (· != n)).isEmpty

/-- A fence has killed the threads `ks` of span n; the command waits for their writes (R314). -/
def fenceDone (s : State) (j : Job) (n : Nat) (ks : List (Nat × Nat)) : State :=
  (s.modIncident n fun x => { x with reacted := true, killed := x.killed ++ ks }).waitAdmin j.uid
    (.fence n (if u8 j.entry 0x21 = 0xFF then none else some (u8 j.entry 0x21))) 0 0

def actFenceOn (s : State) (j : Job) (n c : Nat) : State :=
  if c = 0xFF then
    if s.spanFenced n then
      (if (s.span n).fence = .byCount then s.modSpan n fun x => { x with fence := .byOwner } else s).endAdmin j.uid 0 0 0 0
    else if s.lastSpan n then s.endAdmin j.uid 0xC2 0 0 0
    else
      let r := (s.cmdIncident n 1 (s.spanOwner n)).fenceSpan n .byOwner
      r.1.fenceDone j n r.2
  else
    let el := (s.span n).cores.getD c .spare
    if el = .fenced ∨ el = .keeperFenced then s.endAdmin j.uid 0 0 0 0
    else if !s.spanFenced n ∧ s.fenceLeavesNone n c then s.endAdmin j.uid 0xC2 0 0 0
    else
      let r := (s.cmdIncident n 1 (s.spanOwner n)).fenceCore n c false
      r.1.fenceDone j n r.2

/-- The span joins service again once it reaches IDLE. -/
def joinSpan (s : State) (j : Job) (n : Nat) : State :=
  let s1 := (s.modSpan n fun x => { x with fence := .none, power := .deep, trans := none, wakeAfter := false }).raiseSpan n
  if s.spanOwner n = 0 then s1.endAdmin j.uid 0 0 0 0
  else s1.waitAdmin j.uid (.floor (BitVec.ofNat 64 (2 ^ n)) 1) 0 0

def actUnfence (s : State) (j : Job) (n c : Nat) : State :=
  if c = 0xFF then
    match (s.span n).fence with
    | .none => s.endAdmin j.uid 0 0 0 0
    | .byKeeper => s.endAdmin j.uid 0xC2 0 0 0
    | _ => s.joinSpan j n
  else
    match (s.span n).cores.getD c .spare with
    | .keeperFenced => s.endAdmin j.uid 0xC2 0 0 0
    | .fenced =>
      let e : Elem := if s.coresActive n < 30 then .active else .spare
      let s1 := s.modSpan n fun x => { x with cores := modAt x.cores c fun _ => e }
      if (s1.span n).fence = .byCount ∧ 8 ≤ s1.coresActive n then s1.joinSpan j n else s1.endAdmin j.uid 0 0 0 0
    | _ => s.endAdmin j.uid 0 0 0 0

def actFence (s : State) (j : Job) (_p : Nat) : State :=
  let e := j.entry
  let n := u8 e 0x20
  let c := u8 e 0x21
  if u8 e 0x22 = 0 then s.actFenceOn j n c else s.actUnfence j n c

def kindOf (k : Nat) : SpareKind := match k with | 0 => .core | 1 => .pipe | 2 => .lane | _ => .sorting

def actSwap (s : State) (j : Job) (_p : Nat) : State :=
  let e := j.entry
  let u := u8 e 0x20
  let k := kindOf (u8 e 0x21)
  if (s.spareOf u k).isNone then s.endAdmin j.uid 0xC2 0 0 0
  else if u < 40 then
    if (s.span u).swap.isSome then s.retryAdmin j else (s.beginSwap u k (u8 e 0x22)).waitAdmin j.uid (.swap u k (u8 e 0x22)) 0 0
  else (s.beginSwap u k (u8 e 0x22)).endAdmin j.uid 0 0 0 0

def actReset (s : State) (j : Job) (p : Nat) : State :=
  let e := j.entry
  let n := u8 e 0x21
  let r := match u8 e 0x20 with
    | 1 => ((s.cmdIncident n 3 (s.spanOwner n)).waitAdmin j.uid .commit 0 0).startLevel (.span n) [n] none
    | 2 => ((s.cmdIncident 0x30 4 p).waitAdmin j.uid .commit 0 0).startLevel (.part p) [0x30] none
    | _ => ((s.cmdIncident 0x30 5 0).waitAdmin j.uid .commit 0 0).startLevel .block [0x30] none
  r.1.modJob j.uid fun y => if y.wait = .commit then { y with wait := .level r.2 } else y

/-! Scrub and switch (R317, R318). -/

/-- What a scrub does to a partition, with the counts of slots erased and regions destroyed; the zeros of a stack's carve-out go out as
one request (log entry 90). -/
def scrubPart (s : State) (p : Nat) (carveout : Bool) : State × Nat × Nat :=
  let ks := s.tables.keys.filter fun k => s.slotPart k.slot == p
  let nr := (s.part p).regions.length
  let s1 := { s with tables := { s.tables with
    keys := s.tables.keys.filter fun k => s.slotPart k.slot != p
    cbOwner := s.tables.cbOwner.map fun o => if o == p then 0 else o } }
  let s2 := s1.modPart p fun x => { x with regions := [], votes := [] }
  let s3 := (s.partSpans p).foldl zeroSpan s2
  let reqs := ((List.range 8).filter fun k => carveout && s.stackReady k && decide (0 < s.cs p)).map fun k =>
    ({ port := .mp k, owner := .admin 0, body := .zero (locKey (.stack k) (s.cb p)) (s.cs p) } : Request)
  (s3.addRequests reqs, ks.length, nr)

def actScrub (s : State) (j : Job) (p : Nat) : State :=
  let held := (s.queues.any fun x => x.state != .destroyed && x.part == p && (match x.qid with | .io _ => true | .adm _ => false)) ||
    !(s.part p).groups.isEmpty || !(s.part p).windows.isEmpty || (s.chans.any fun c => c.state != .free && c.owner == p)
  if held then s.endAdmin j.uid 0xC2 0 0 0 else
  let r := s.scrubPart p (bitOf (u8 j.entry 0x20) 0)
  (r.1.modPart p fun x => { x with scrubbing := true }).waitAdmin j.uid .writes r.2.1 r.2.2

def actSwitch (s : State) (j : Job) (_p : Nat) : State :=
  let held := (s.queues.any fun x => x.state != .destroyed && (match x.qid with | .io _ => true | .adm k => k != 0 && !x.open_.isEmpty)) ||
    (s.parts.any fun x => !x.groups.isEmpty) || (s.chans.any fun c => c.state != .free)
  if held then s.endAdmin j.uid 0xC2 0 0 0 else
  let s1 := (List.range 9).foldl (fun s p => if s.defined p then (s.scrubPart p false).1 else s) s
  let s2 := s1.destroyQueues notA0
  ({ s2 with prof := { s2.prof with
      selected := BitVec.ofNat 2 (u8 j.entry 0x20), committed := false, loaded := false, loadDue := true, switching := true
      failedA := false, failedB := false } }).waitAdmin j.uid .profile 0 0

/-! Completion of a waiting command (R297, R299). -/

/-- Every span of a mask is at a floor or shallower; a fenced span meets any floor (16 R368). -/
def floorMet (s : State) (mask : Word64) (floor : Nat) : Bool :=
  (maskList 40 mask.toNat).all fun n =>
    let x := s.span n
    x.fence != .none ||
    (match floor with
     | 0 => x.trans.isNone && x.power == .run
     | 1 => x.trans.isNone && (x.power == .run || x.power == .idle)
     | _ => x.power != .deep && x.trans != some .toDeep)

/-- None of the listed jobs is left. -/
def jobsGone (s : State) (l : List Nat) : Bool := l.all fun u => (s.job? u).isNone

def waitMet (s : State) (aq : Nat) (j : Job) : Bool :=
  match j.wait with
  | .none => false
  | .commit => false
  | .level _ => false
  | .cancel l => s.jobsGone l
  | .jobs l => s.jobsGone l
  | .channel ch => (s.chan ch).state == .configured || (s.chan ch).state == .free
  | .floor m f => s.floorMet m f
  | .writes => s.ports.requests.all fun w => w.late || w.owner != .admin aq
  | .fence n _ => !s.spanHeld n && (match (s.unit n).incident with | some x => s.killedQuiet x.killed | none => true)
  | .swap n k m => (s.span n).swap != some (k, m) && !s.spanHeld n
  | .profile => s.prof.committed && !s.prof.loadDue

def completeAdmin (s : State) (aq : Nat) : State :=
  match s.adminFront aq with
  | none => s
  | some j =>
    if j.phase != .running || !s.waitMet aq j then s else
    (s.adminEffect j).endAdmin j.uid 0 0 j.count
      (if u8 j.entry 0 = 0xA6 then s.prof.outcome else if u8 j.entry 0 = 0xA5 then j.aux else 0)

end State

open State in
/-- CREATE_QUEUE (R300). -/
def execCreateQueue (aq : Nat) (s : State) : Ans :=
  .next (s.runAdmin aq 0x80 .both .part [⟨0x20, 2, 0xFFFF⟩, ⟨0x22, 1, 0xFF⟩, ⟨0x23, 1, 1⟩, ⟨0x24, 1, 0x3F⟩, ⟨0x28, 8, 2 ^ 64 - 1⟩, ⟨0x30, 8, 2 ^ 64 - 1⟩]
    (fun s p e => [(!s.inRun p (u16 e 0x20), 0x20), (decide (u8 e 0x22 < 4 ∨ 16 < u8 e 0x22), 0x22),
      (bitOf (u8 e 0x23) 0 && !bitOf s.features 0, 0x23), (ringBad (u64 e 0x28), 0x28), (statusBad (u64 e 0x30), 0x30)])
    actCreateQueue)

open State in
/-- DESTROY_QUEUE (R301). -/
def execDestroyQueue (aq : Nat) (s : State) : Ans :=
  .next (s.runAdmin aq 0x81 .both .part [⟨0x20, 2, 0xFFFF⟩]
    (queueField [.active, .halted, .stopped, .error, .reset]) actDestroyQueue)

open State in
/-- CANCEL_QUEUE (06 R155). -/
def execCancelQueue (aq : Nat) (s : State) : Ans :=
  .next (s.runAdmin aq 0x82 .both .part [⟨0x20, 2, 0xFFFF⟩] (queueField [.active, .halted]) actCancelQueue)

open State in
/-- RESUME_QUEUE (06 R153). -/
def execResumeQueue (aq : Nat) (s : State) : Ans :=
  .next (s.runAdmin aq 0x83 .both .part [⟨0x20, 2, 0xFFFF⟩] (queueField [.halted, .reset, .stopped]) actResumeQueue)

open State in
/-- RESET_QUEUE (R301). -/
def execResetQueue (aq : Nat) (s : State) : Ans :=
  .next (s.runAdmin aq 0x84 .both .part [⟨0x20, 2, 0xFFFF⟩] (queueField [.active, .halted, .error, .stopped]) actResetQueue)

open State in
/-- SET_SHAPER (R302, 04 R109, R111). -/
def execSetShaper (aq : Nat) (s : State) : Ans :=
  .next (s.runAdmin aq 0x85 .both .part [⟨0x20, 2, 0xFFFF⟩, ⟨0x24, 4, 2 ^ 32 - 1⟩, ⟨0x28, 4, 2 ^ 32 - 1⟩, ⟨0x2C, 4, 2 ^ 32 - 1⟩]
    (fun s p e => queueField [.active, .halted, .stopped, .error, .reset] s p e ++
      [(decide (u32 e 0x24 = 0 ∨ 4096 < u32 e 0x24), 0x24), (decide (625000 < u32 e 0x28), 0x28),
       (decide (u32 e 0x2C = 0 ∨ 16384 < u32 e 0x2C), 0x2C)]) actSetShaper)

open State in
/-- CREATE_REGION (R303, 02 R59). -/
def execCreateRegion (aq : Nat) (s : State) : Ans :=
  .next (s.runAdmin aq 0x88 .both .part [⟨0x20, 8, 2 ^ 64 - 1⟩, ⟨0x28, 8, 2 ^ 64 - 1⟩, ⟨0x30, 1, 0x3F⟩, ⟨0x31, 1, 7⟩]
    (fun s p e => s.regionLimits p e 0x20) actCreateRegion)

open State in
/-- DESTROY_REGION (R303, 02 R66). -/
def execDestroyRegion (aq : Nat) (s : State) : Ans :=
  .next (s.runAdmin aq 0x89 .both .part [⟨0x20, 2, 0xFFFF⟩]
    (fun s p e => [(!((s.part p).regions.any fun x => x.id == u16 e 0x20), 0x20)]) actDestroyRegion)

open State in
/-- OPEN_WINDOW (R304). -/
def execOpenWindow (aq : Nat) (s : State) : Ans :=
  .next (s.runAdmin aq 0x8A .both .part [⟨0x20, 1, 0xFF⟩, ⟨0x24, 4, 2 ^ 32 - 1⟩, ⟨0x28, 8, 2 ^ 64 - 1⟩, ⟨0x30, 8, 2 ^ 64 - 1⟩]
    (fun s p e => [(decide (127 < u8 e 0x20), 0x20),
      (!(s.ports.conns.any fun c => c.conn == u32 e 0x24 && c.part == p && c.isOpen), 0x24), (u64 e 0x28 % 4096 != 0, 0x28),
      (u64 e 0x30 == 0 || u64 e 0x30 % 4096 != 0 || decide (2 ^ 56 < u64 e 0x30), 0x30)]) actOpenWindow)

open State in
/-- CLOSE_WINDOW (R304). -/
def execCloseWindow (aq : Nat) (s : State) : Ans :=
  .next (s.runAdmin aq 0x8B .both .part [⟨0x20, 1, 0xFF⟩]
    (fun s p e => [((s.window? p (u8 e 0x20)).isNone, 0x20)]) actCloseWindow)

open State in
/-- CREATE_GROUP (R305, 11 R244, R245). -/
def execCreateGroup (aq : Nat) (s : State) : Ans :=
  .next (s.runAdmin aq 0x8C .both .part
    [⟨0x20, 1, 0xFF⟩, ⟨0x21, 1, 0xFF⟩, ⟨0x22, 2, 0xFFFF⟩, ⟨0x24, 4, 2 ^ 32 - 1⟩, ⟨0x28, 4, 2 ^ 32 - 1⟩, ⟨0x2C, 2, 0xFFFF⟩,
     ⟨0x2E, 1, 0xFF⟩, ⟨0x30, 2, 0xFFFF⟩, ⟨0x32, 1, 0x3F⟩, ⟨0x38, 8, 2 ^ 64 - 1⟩, ⟨0x40, 8, 2 ^ 64 - 1⟩]
    (fun _ _ e => [(decide (2 < u8 e 0x21 % 16 ∨ 2 < u8 e 0x21 / 16), 0x21), (decide (u16 e 0x22 < 2 ∨ 4096 < u16 e 0x22), 0x22),
      (decide (u32 e 0x28 < 32 ∨ 262144 < u32 e 0x28) || u32 e 0x28 % 32 != 0, 0x28),
      (decide (u16 e 0x2C = 0 ∨ 4096 < u16 e 0x2C), 0x2C), (decide (u8 e 0x2E = 0 ∨ 16 < u8 e 0x2E), 0x2E),
      (decide (u16 e 0x30 = 0 ∨ 10000 < u16 e 0x30), 0x30),
      (!decide (0x20 ≤ u64 e 0x38 / 2 ^ 56 ∧ u64 e 0x38 / 2 ^ 56 ≤ 0x28) || u64 e 0x38 % 64 != 0, 0x38)]) actCreateGroup)

open State in
/-- DESTROY_GROUP (11 R268). -/
def execDestroyGroup (aq : Nat) (s : State) : Ans :=
  .next (s.runAdmin aq 0x8D .both .part [⟨0x20, 1, 0xFF⟩]
    (fun s p e => [((s.group? p (u8 e 0x20)).isNone, 0x20)]) actDestroyGroup)

open State in
/-- BIND_KEY (R306). -/
def execBindKey (aq : Nat) (s : State) : Ans :=
  .next (s.runAdmin aq 0x90 .partition .part [⟨0x20, 2, 0xFFFF⟩, ⟨0x22, 1, 0x3F⟩, ⟨0x24, 1, 0xFF⟩, ⟨0x25, 1, 0xFF⟩]
    (fun s p e => [(s.slotPart (u16 e 0x20) != p, 0x20),
      (decide (u8 e 0x25 < u8 e 0x24) ||
        (List.range 256).any fun r => decide (u8 e 0x24 ≤ r ∧ r ≤ u8 e 0x25) && !routeDefined r, 0x24)]) actBindKey)

open State in
/-- UNBIND_KEY (R306). -/
def execUnbindKey (aq : Nat) (s : State) : Ans :=
  .next (s.runAdmin aq 0x91 .partition .part [⟨0x20, 2, 0xFFFF⟩]
    (fun s p e => [(s.slotPart (u16 e 0x20) != p, 0x20)]) actUnbindKey)

open State in
/-- CLAIM_CBSET (R307). -/
def execClaimCbset (aq : Nat) (s : State) : Ans :=
  .next (s.runAdmin aq 0x92 .both .part [⟨0x20, 1, 0xFF⟩] (fun _ _ e => [(decide (7 < u8 e 0x20), 0x20)]) actClaim)

open State in
/-- RELEASE_CBSET (R307). -/
def execReleaseCbset (aq : Nat) (s : State) : Ans :=
  .next (s.runAdmin aq 0x93 .both .part [⟨0x20, 1, 0xFF⟩] (fun _ _ e => [(decide (7 < u8 e 0x20), 0x20)]) actRelease)

open State in
/-- SETUP_CHANNEL (R308, 12 R276). -/
def execSetupChannel (aq : Nat) (s : State) : Ans :=
  .next (s.runAdmin aq 0x94 .both .part setupFields
    (fun _ _ e => [(decide (63 < u8 e 0x20), 0x20)]) actSetupChannel fun d => if d < 0x40 then d else d - 0x40)

open State in
/-- ARM_CHANNEL (12 R290). -/
def execArmChannel (aq : Nat) (s : State) : Ans :=
  .next (s.runAdmin aq 0x95 .both .part [⟨0x20, 1, 0xFF⟩] (fun _ _ e => [(decide (63 < u8 e 0x20), 0x20)]) actArm)

open State in
/-- DISARM_CHANNEL (12 R290). -/
def execDisarmChannel (aq : Nat) (s : State) : Ans :=
  .next (s.runAdmin aq 0x96 .both .part [⟨0x20, 1, 0xFF⟩] (fun _ _ e => [(decide (63 < u8 e 0x20), 0x20)]) actDisarm)

open State in
/-- RELEASE_CHANNEL (12 R290). -/
def execReleaseChannel (aq : Nat) (s : State) : Ans :=
  .next (s.runAdmin aq 0x97 .both .part [⟨0x20, 1, 0xFF⟩] (fun _ _ e => [(decide (63 < u8 e 0x20), 0x20)]) actReleaseChannel)

open State in
/-- REARM_PACER (R309, 12 R289). -/
def execRearmPacer (aq : Nat) (s : State) : Ans :=
  .next (s.runAdmin aq 0x98 .owner .block [⟨0x20, 1, 0xFF⟩]
    (fun s _ e => [(decide (7 < u8 e 0x20) || !(s.pacer (u8 e 0x20)).stopped, 0x20)]) actRearm)

open State in
/-- VOTE (R310). -/
def execVote (aq : Nat) (s : State) : Ans :=
  .next (s.runAdmin aq 0xA0 .partition .part [⟨0x20, 1, 0xFF⟩, ⟨0x21, 1, 0xFF⟩, ⟨0x22, 1, 0xFF⟩, ⟨0x28, 8, 2 ^ 40 - 1⟩]
    (fun s p e => [(decide (15 < u8 e 0x20), 0x20), (decide (1 < u8 e 0x21), 0x21),
      (if u8 e 0x21 = 1 then decide (2 < u8 e 0x22) else u8 e 0x22 != 0, 0x22),
      (if u8 e 0x21 = 1 then u64 e 0x28 == 0 || (maskList 40 (u64 e 0x28)).any fun n => s.spanOwner n != p
       else u64 e 0x28 != 0, 0x28)]) actVote)

open State in
/-- READ_HEALTH (R311). -/
def execReadHealth (aq : Nat) (s : State) : Ans :=
  .next (s.runAdmin aq 0xA1 .both .block [⟨0x20, 1, 0xFF⟩, ⟨0x21, 1, 0x3F⟩, ⟨0x28, 8, 2 ^ 64 - 1⟩]
    (fun s p e =>
      if aq = 0 then [(!(decide (u8 e 0x20 < 40) || u8 e 0x20 == 0x30 || u8 e 0x20 == 0x32), 0x20), (u8 e 0x21 != 0, 0x21),
        (u64 e 0x28 % 32 != 0 || u64 e 0x28 / 2 ^ 56 != 0, 0x28)]
      else [(!(decide (u8 e 0x20 < 40) && s.spanOwner (u8 e 0x20) == p), 0x20), (u64 e 0x28 % 32 != 0, 0x28)]) actReadHealth)

open State in
/-- FENCE (R312). -/
def execFence (aq : Nat) (s : State) : Ans :=
  .next (s.runAdmin aq 0xA2 .owner .block [⟨0x20, 1, 0xFF⟩, ⟨0x21, 1, 0xFF⟩, ⟨0x22, 1, 0xFF⟩]
    (fun _ _ e => [(decide (39 < u8 e 0x20), 0x20), (decide (31 < u8 e 0x21) && u8 e 0x21 != 0xFF, 0x21),
      (decide (1 < u8 e 0x22), 0x22)]) actFence)

open State in
/-- SWAP_SPARE (R313): the combination of UNIT, KIND and an active ELEMENT is legal. -/
def execSwapSpare (aq : Nat) (s : State) : Ans :=
  .next (s.runAdmin aq 0xA3 .owner .block [⟨0x20, 1, 0xFF⟩, ⟨0x21, 1, 0xFF⟩, ⟨0x22, 1, 0xFF⟩]
    (fun s _ e => [(decide (3 < u8 e 0x21), 0x21),
      (match u8 e 0x21 with
       | 0 => decide (39 < u8 e 0x20) | 1 => decide (39 < u8 e 0x20) | 2 => u8 e 0x20 != 0x32 | 3 => u8 e 0x20 != 0x30
       | _ => false, 0x20),
      (!s.elemActive (u8 e 0x20) (kindOf (u8 e 0x21)) (u8 e 0x22) || (u8 e 0x21 == 3 && u8 e 0x22 != 0), 0x22)]) actSwap)

open State in
/-- RESET (R315, R316). -/
def execReset (aq : Nat) (s : State) : Ans :=
  .next (s.runAdmin aq 0xA4 .owner .free_ [⟨0x20, 1, 0xFF⟩, ⟨0x21, 1, 0xFF⟩]
    (fun s _ e => [(if u8 e 0x20 = 2 then !s.defined (u8 e 2) else u8 e 2 != 0, 2),
      (decide (u8 e 0x20 = 0 ∨ 3 < u8 e 0x20), 0x20),
      (if u8 e 0x20 = 1 then decide (39 < u8 e 0x21) else u8 e 0x21 != 0, 0x21)]) actReset)

open State in
/-- SCRUB_PARTITION (R317). -/
def execScrubPartition (aq : Nat) (s : State) : Ans :=
  .next (s.runAdmin aq 0xA5 .owner .part [⟨0x20, 1, 1⟩] (fun _ _ _ => []) actScrub)

open State in
/-- SWITCH_PROFILE (R318). -/
def execSwitchProfile (aq : Nat) (s : State) : Ans :=
  .next (s.runAdmin aq 0xA6 .owner .block [⟨0x20, 1, 0xFF⟩] (fun _ _ e => [(decide (3 < u8 e 0x20), 0x20)]) actSwitch)

/-- COMMAND_COMPLETES (R297). -/
def execCommandCompletes (aq : Nat) (s : State) : Ans := .next (s.completeAdmin aq)

end Sys2Proof.Machine
end

