-- ==== Sys2Proof/Machine/Entries.lean ====
section
/-! DEFINITION. The checks of an I/O-queue entry that need the entry alone (04 R104 steps 2 to 4): its assigned fields (00 R7,
05 R119-R131, R493), the field limits of each opcode, the type pairs of 05 R128 and the geometry of 05 R134-R136. A check
answers the code and DETAIL of its first breach. -/

namespace Sys2Proof.Machine
namespace Entry

/-! Assigned fields (R7, R124, R126, R493). -/

/-- A field whose every bit is assigned, and one that is reserved whole. -/
def full (off len : Nat) : State.FieldSpec := ⟨off, len, 256 ^ len - 1⟩
def none_ (off len : Nat) : State.FieldSpec := ⟨off, len, 0⟩
def whenSet (b : Bool) (off len : Nat) : State.FieldSpec := if b then full off len else none_ off len

/-- Header (R120, R123). -/
def headerFields : List State.FieldSpec := [full 0 1, ⟨1, 1, 7⟩, ⟨2, 2, 0xFF⟩, full 4 2, full 8 8, ⟨0x10, 4, 0xFFFFFF03⟩]

/-- The source view is used: not by FILL, and not under EXPAND (R124, 07 R167). -/
def srcUsed (e : Entry) : Bool := hasSrc e && !expand e

/-- Geometry area and view header (R129, R131). -/
def viewFields (e : Entry) : List State.FieldSpec :=
  (List.range 6).map (fun d => full (0x20 + 4 * d) 4) ++
  (List.range 6).map (fun d => whenSet (srcUsed e) (0x38 + 6 * d) 6) ++
  (List.range 6).map (fun d => whenSet (hasDst e) (0x5C + 6 * d) 6) ++
  [whenSet (srcUsed e) 0x80 8, whenSet (hasDst e) 0x88 8,
   ⟨0x90, 1, (if hasSrc e then 0x0F else 0) + (if hasDst e then 0xF0 else 0)⟩,
   ⟨0x91, 1, (if srcUsed e then 0x07 else 0) + (if hasDst e then 0x70 else 0)⟩, ⟨0x92, 1, 7⟩,
   whenSet (srcUsed e) 0x94 1, whenSet (srcUsed e) 0x95 1, whenSet (hasDst e) 0x96 1, whenSet (hasDst e) 0x97 1, full 0x98 4]

/-- Sub-area +0xA0 (06 R137, 07 R167, R178). -/
def areaA0 (e : Entry) : List State.FieldSpec :=
  if opcode e = 0x10 then [full 0xA0 8, full 0xA8 8, full 0xB0 1, full 0xB2 2, full 0xB4 4, full 0xB8 8]
  else if indexed e && expand e then [full 0xA0 32]
  else if indexed e then [full 0xA0 8, full 0xA8 4, ⟨0xAC, 1, 0x0F⟩, ⟨0xAD, 1, 0x77⟩, ⟨0xAE, 1, 1⟩, full 0xB0 4, full 0xB4 4]
  else if expand e then [full 0xA0 8, full 0xA8 8, full 0xB0 4, full 0xB4 1, ⟨0xB5, 1, 7⟩]
  else []

/-- Sub-area +0xC0 (08 R184, R205, 07 R178). -/
def areaC0 (e : Entry) : List State.FieldSpec :=
  if opcode e = 0x10 then [full 0xC0 8, full 0xC8 8, full 0xD0 8]
  else if convert e then [full 0xC0 8, full 0xC8 8, ⟨0xD0, 1, 3⟩, full 0xD1 1, full 0xD2 1, full 0xD3 1]
  else if opcode e = 0x04 then [full 0xC0 8, full 0xC8 8]
  else []

/-- Sub-area +0xD8: a field that the operation does not use is reserved (09 R211). -/
def areaD8 (e : Entry) : List State.FieldSpec :=
  if !layout e then [] else
  let pads := fun (b : Bool) => (List.range 8).map fun i => whenSet b (0xE0 + 2 * i) 2
  match layoutOp e with
  | 0 => [full 0xD8 1, ⟨0xD9, 1, 1⟩, none_ 0xDA 1, none_ 0xDB 1, whenSet (bitOf (u8 e 0xD9) 0) 0xDC 4] ++ pads true
  | 1 => [full 0xD8 1, none_ 0xD9 1, ⟨0xDA, 1, 7⟩, ⟨0xDB, 1, 7⟩, none_ 0xDC 4] ++ pads false
  | 2 => [full 0xD8 1, none_ 0xD9 1, ⟨0xDA, 1, 7⟩, ⟨0xDB, 1, 7⟩, none_ 0xDC 4] ++ pads false
  | 3 => [full 0xD8 1, none_ 0xD9 1, none_ 0xDA 1, none_ 0xDB 1, full 0xDC 4] ++ pads false
  | 4 => [full 0xD8 1, none_ 0xD9 1, none_ 0xDA 1, none_ 0xDB 1, full 0xDC 4] ++ pads false
  | _ => [full 0xD8 24]

/-- Sub-area +0xF0 (09 R220, 14 R331). -/
def areaF0 (e : Entry) : List State.FieldSpec :=
  if !sealing e && !cipher e then [] else
  let m := fun (b : Bool) (v : Nat) => if b then v else 0
  [whenSet (sealing e) 0xF0 8, ⟨0xF8, 1, m (sealing e) 3⟩, ⟨0xF9, 1, m (sealing e) 3⟩, whenSet (sealing e) 0xFA 2,
   ⟨0xFC, 1, m (cipher e) 0x0F⟩, whenSet (cipher e) 0xFD 3]

/-- GROUP, RANK, EPOCH and the two counts of a group operand (11 R248, R269). -/
def groupFields : List State.FieldSpec := [full 0x20 1, full 0x22 2, full 0x24 4, full 0x28 4, full 0x2C 4]

/-- A signed stride of 48 bits in a 64-bit field. -/
def strideField (off : Nat) : State.FieldSpec := ⟨off, 8, 2 ^ 48 - 1⟩

/-- Every assigned field of an entry. -/
def fields (e : Entry) : List State.FieldSpec :=
  headerFields ++
  if isView e then viewFields e ++ areaA0 e ++ areaC0 e ++ areaD8 e ++ areaF0 e
  else match opcode e with
  | 0x05 | 0x06 | 0x07 | 0x0C => groupFields ++ [full 0x30 8]
  | 0x08 | 0x09 => groupFields ++ [full 0x30 1, full 0x31 1, full 0x32 2, full 0x34 4, full 0x38 4, full 0x40 8, full 0x48 8,
      full 0x50 8, strideField 0x58, full 0x60 8, full 0x68 8, full 0x70 8]
  | 0x0A => [full 0x20 4, full 0x24 4, full 0x28 1, full 0x29 1, full 0x2A 1, ⟨0x2B, 1, 1⟩, full 0x2C 1, full 0x30 8,
      strideField 0x38, full 0x40 8, full 0x48 8, strideField 0x50, full 0x58 8, strideField 0x60, full 0x68 8, full 0x70 8,
      full 0x78 4, full 0x7C 1]
  | 0x0B => [full 0x20 1, full 0x21 1, full 0x24 4]
  | _ => []

/-! Field limits: (broken, offset, code); DETAIL is the offset. -/

/-- The breach at the lowest offset (05 R136). -/
def lowest (l : List (Bool × Nat × Nat)) : Option (Nat × Nat) :=
  (l.filter (·.1)).foldl (fun (a : Option (Nat × Nat)) x => match a with
    | none => some (x.2.2, x.2.1)
    | some b => if x.2.1 < b.2 then some (x.2.2, x.2.1) else a) none

/-- Required and permitted stages (05 R124). -/
def stageRule (e : Entry) : Nat × Nat :=
  match opcode e with
  | 0x01 => (0x81, 0x7C)
  | 0x02 => (0x83, 0x78)
  | 0x03 => (0x83, 0x78)
  | 0x04 => (0x01, 0x22)
  | 0x0D => (0x80, 0x70)
  | 0x0E => (0x41, 0x00)
  | 0x10 => (0x01, 0x00)
  | _ => (0, 0)

def stagesBad (e : Entry) : Bool :=
  let r := stageRule e
  decide (Nat.land (stages e) r.1 ≠ r.1) || decide (Nat.lor (Nat.lor r.1 r.2) (stages e) ≠ Nat.lor r.1 r.2) ||
  (indexed e && expand e)

/-- Limits of the header (R120, R124). -/
def headerLimits (e : Entry) : List (Bool × Nat × Nat) :=
  [((exact_ e && opcode e != 0x06) || (resend e && !(convert e && mode e == 2)), 1, 2),
   (stagesBad e, 2, 2),
   (!cipher e && keySlot e != 0, 4, 2)]

/-- Limits of a view's contiguous dimension and skips (R131). -/
def sideLimits (v : View) (head : Nat) : List (Bool × Nat × Nat) :=
  let skip := fun (x : Nat) => (v.c == 7 && x != 0) || decide (128 ≤ x * v.w ∧ x ≠ 0)
  [(v.c == 6 || (v.c == 7 && v.w == 4), 0x91, 2), (skip v.head, head, 2), (skip v.tail, head + 1, 2)]

/-- The width that bounds FILL: the destination's, or the source's where there is none (R131). -/
def fillWidth (e : Entry) : Nat := if hasDst e then typeBits (dstType e) else typeBits (srcType e)

/-- Zero strides (R129, 06 R139, 09 R216). -/
def strideLimits (e : Entry) : List (Bool × Nat × Nat) :=
  let onDst := indexed e && idxOnDst e
  let onSrc := indexed e && !idxOnDst e
  (if hasDst e then (List.range 6).map fun d =>
    let v := dst e
    let zero := v.stride.getD d 0 == 0 && d != v.c && !(isInter e && d == ldim e)
    (zero && ((onDst && d == idxDim e) || (decide (v.ext.getD d 1 > 1) && !(onDst && d == idxOuter e))), 0x5C + 6 * d, 2)
   else []) ++
  [(onSrc && decide (idxDim e < 6) && idxDim e != srcContig e && srcStride e (idxDim e) == 0, 0x38 + 6 * idxDim e, 2)]

/-- The index operand (06 R137, R145). -/
def indexLimits (e : Entry) : List (Bool × Nat × Nat) :=
  if !indexed e then [] else
  let x := idxDim e
  let y := idxOuter e
  let c := if idxOnDst e then dstContig e else srcContig e
  [(if y = 7 then idxPitch e != 0 else decide (x < 6 ∧ idxPitch e < extent e x), 0xA8, 2),
   (!(u8 e 0xAC % 16 == 0xB || u8 e 0xAC % 16 == 0xC), 0xAC, 2),
   (decide (6 ≤ x) || y == 6 || y == x || x == c, 0xAD, 2),
   (decide (idxMax e < idxMin e), 0xB4, 2),
   (idxOnDst e && decide (65536 < winnerEntries e), 0xB0, 7)]

/-- The EXPAND operand (07 R167). -/
def expandLimits (e : Entry) : List (Bool × Nat × Nat) :=
  if !expand e then [] else
  [(!tensorRoute (tensorBase e), 0xA0, 2), (folioCount e == 0, 0xB4, 2), (decide (17 ≤ folioCount e), 0xB4, 7),
   (cbSet e % 2 == 1, 0xB5, 2)]
where
  tensorRoute (a : Nat) : Bool :=
    let r := a / 2 ^ 56
    decide (0x20 ≤ r ∧ r ≤ 0x28) || decide (0x30 ≤ r ∧ r ≤ 0x37)

/-- Type of the quantised side (08 R183). -/
def quantSide (e : Entry) : Nat :=
  match convClass (srcType e) (dstType e) with
  | some 1 => dstType e
  | some 2 => srcType e
  | _ => 0

/-- The scale streams as byte ranges (08 R185). -/
def streamBytes (e : Entry) : Nat := 48 * groups e

/-- The CONVERT operand (08 R183-R185); `overlap` says that the streams overlap. -/
def convertLimits (e : Entry) (overlap : Bool) : List (Bool × Nat × Nat) :=
  if !convert e then [] else
  let m := mode e
  let z := zeroPoint e
  let q := quantSide e
  let inUsed := m == 2 || m == 3
  let outUsed := m == 1 || m == 2
  [(match convClass (srcType e) (dstType e) with | some c => !modeAllowed c m | none => false, 0xD0, 2),
   (!inUsed && scaleIn e != 0, 0xC0, 2), (!outUsed && scaleOut e != 0, 0xC8, 2),
   (if q = 7 then false else if q = 9 then decide (15 < z) else z != 0, 0xD1, 2),
   (!inUsed && pmIn e != 0, 0xD2, 2), (!outUsed && pmOut e != 0, 0xD3, 2),
   (m != 0 && ((List.range (rowDim e)).any fun d => extent e d != 1), 0x92, 2),
   (m == 2 && overlap, 0xC8, 2)]

/-- Opcodes on which a layout operation is legal (09 R212). -/
def layoutLegal (e : Entry) : Bool :=
  match layoutOp e with
  | 0 => [0x01, 0x02, 0x0D].contains (opcode e) && mode e == 0
  | 1 => [0x01, 0x02].contains (opcode e)
  | 2 => [0x01, 0x03].contains (opcode e) && !expand e
  | 3 => [0x01, 0x02].contains (opcode e)
  | 4 => [0x01, 0x03].contains (opcode e) && !expand e
  | _ => false

/-- The LAYOUT operand (09 R211, R212, R217; a planed view without a contiguous dimension breaks R219, log entry 24). -/
def layoutLimits (e : Entry) : List (Bool × Nat × Nat) :=
  if !layout e then [] else
  let onDst := layoutOp e == 1 || layoutOp e == 3
  let c := if onDst then dstContig e else srcContig e
  let w := typeBits (dstType e)
  let k := ldim e
  let inter := layoutOp e == 1 || layoutOp e == 2
  let plane := layoutOp e == 3 || layoutOp e == 4
  [(!layoutLegal e, 0xD8, 2),
   (layoutOp e == 0 && bitOf (u8 e 0xD9) 0 && decide (2 ^ w ≤ u32 e 0xDC), 0xDC, 2),
   (inter && (decide (6 ≤ k) || k == c || (indexed e && k == idxDim e) || !([2, 4, 8, 16].contains (extent e k))), 0xDA, 2),
   (inter && (lunit e == 7 || (decide (c < 6) && extent e c % 2 ^ lunit e != 0)), 0xDB, 2),
   ((inter || plane) && c == 7, 0x91, 2),
   (plane && decide (8 * planePitch e < extent e c), 0xDC, 2)]

/-- The SEAL and CIPHER operand (09 R210, R220, R222, R225, 14 R331); `overlap` says that the seals overlap the destination. -/
def sealLimits (e : Entry) (overlap : Bool) : List (Bool × Nat × Nat) :=
  let driven := fun (onDst : Bool) => indexed e && idxOnDst e == onDst
  let srcDense := srcUsed e && denseInOrder e (src e) (driven false)
  let dstDense := hasDst e && denseInOrder e (dst e) (driven true)
  [(sealing e && !(sealMode e == 1 || sealMode e == 2), 0xF8, 2),
   (sealChk e && expand e, 0xF8, 2),
   (opcode e == 0x0E && !sealChk e, 0xF8, 2),
   (sealing e && decide (2 ≤ u8 e 0xF9 % 4), 0xF9, 2),
   (sealing e && (u16 e 0xFA == 0 || decide (4096 < u16 e 0xFA)), 0xFA, 2),
   (sealGen e && overlap, 0xF0, 2),
   ((sealGen e && !dstDense) || (sealChk e && !expand e && !srcDense), 0xF8, 2),
   ((cipherWrite e && !dstDense) || (cipherRead e && !expand e && !srcDense), 0xF8, 2),
   (cipher e && decide (4 ≤ u8 e 0xFC / 2 % 8), 0xFC, 2),
   (cipherWrite e && expand e, 0xFC, 2)]

/-- HISTOGRAM_BUILD (07 R178, R179). -/
def histLimits (e : Entry) : List (Bool × Nat × Nat) :=
  if opcode e ≠ 0x10 then [] else
  let md := u8 e 0xB0
  let n := dataElems e
  [(decide (2 ≤ md), 0xB0, 2), (n % 1024 != 0 || (md == 1 && decide (n < 65536)), 0x20, 7),
   (md == 0 && u64 e 0xB8 != 0, 0xB8, 2), (md == 0 && u64 e 0xC0 != 0, 0xC0, 2), (md == 0 && u64 e 0xC8 != 0, 0xC8, 2),
   (md == 0 && u64 e 0xD0 != 0, 0xD0, 2),
   (md == 1 && !expandLimits.tensorRoute (u64 e 0xC0), 0xC0, 2),
   (md == 1 && (decide (2 ^ 48 ≤ u64 e 0xC8) || u64 e 0xC8 % 16 != 0), 0xC8, 2),
   (md == 1 && (decide (2 ^ 48 ≤ u64 e 0xD0) || u64 e 0xD0 % 16 != 0), 0xD0, 2)]

/-- Limits of a view opcode. -/
def viewLimits (e : Entry) (streams seals : Bool) : List (Bool × Nat × Nat) :=
  [((hasSrc e && typeReserved (srcType e)) || (hasDst e && typeReserved (dstType e)), 0x90, 2), (decide (6 ≤ rowDim e), 0x92, 2),
   (decide (2 ^ fillWidth e ≤ fill e) && fillWidth e != 0, 0x98, 2)] ++
  (if srcUsed e then sideLimits (src e) 0x94 else []) ++ (if hasDst e then sideLimits (dst e) 0x96 else []) ++
  strideLimits e ++ indexLimits e ++ expandLimits e ++ convertLimits e streams ++ layoutLimits e ++ sealLimits e seals ++ histLimits e

/-! TARIFF (10 R226). -/

def tN (e : Entry) : Nat := u32 e 0x20
def tK (e : Entry) : Nat := u32 e 0x24
def tB (e : Entry) : Nat := u8 e 0x28
def tAct (e : Entry) : Nat := u8 e 0x29 % 16
def tOut (e : Entry) : Nat := u8 e 0x29 / 16
def tZero (e : Entry) : Nat := u8 e 0x2A
def tPartial (e : Entry) : Bool := bitOf (u8 e 0x2B) 0
def tPm (e : Entry) : Nat := u8 e 0x2C
def tActBase (e : Entry) : Nat := u64 e 0x30
def tScale (e : Entry) : Nat := u64 e 0x40
def tDst (e : Entry) : Nat := u64 e 0x48
def tCarry (e : Entry) : Nat := u64 e 0x58
def tStride (e : Entry) (off : Nat) : Int := signed 48 (field e off 6)
def tActW (e : Entry) : Nat := if tAct e = 2 then 2 else 1
def tOutW (e : Entry) : Nat := if tOut e = 2 then 2 else 4
/-- A shift is read for integer activations with PARTIAL clear. -/
def tScaled (e : Entry) : Bool := (tAct e == 6 || tAct e == 7) && !tPartial e

/-- Lowest byte and length of `rows` runs of `len` bytes, `stride` apart. -/
def runsRange (base : Nat) (stride : Int) (rows len : Nat) : Int × Int :=
  let o : Int := (base % 2 ^ 56 : Nat)
  let t := ((rows : Int) - 1) * stride
  (if rows ≤ 1 then o else min o (o + t), (if rows ≤ 1 then o else max o (o + t)) + len - 1)

def tariffLimits (e : Entry) (overlap : Bool) : List (Bool × Nat × Nat) :=
  let small := fun (off need : Nat) => decide (1 < tB e) && decide ((tStride e off).natAbs < need)
  [(decide (2 ^ 24 < tN e), 0x20, 7), (tK e % 64 != 0, 0x24, 2), (decide (65536 < tK e), 0x24, 7), (decide (4 < tB e), 0x28, 7),
   (typeReserved (tAct e) || typeReserved (tOut e), 0x29, 2), (tAct e != 7 && tZero e != 0, 0x2A, 2), (tScale e == 0 && tPm e != 0, 0x2C, 2),
   (small 0x38 (tK e * tActW e), 0x38, 2), (!tScaled e && tScale e != 0, 0x40, 2),
   (small 0x50 (tN e * tOutW e), 0x50, 2), (tCarry e != 0 && overlap, 0x58, 2),
   (if tCarry e = 0 then u64 e 0x60 != 0 else small 0x60 (4 * tN e), 0x60, 2),
   (!expandLimits.tensorRoute (tensorBase e), 0x68, 2), (folioCount e == 0, 0x7C, 2), (decide (17 ≤ folioCount e), 0x7C, 7)]

/-! Groups (11 R248, R269). -/

def rankOf (e : Entry) : Nat := u16 e 0x22
def epochOf (e : Entry) : Nat := u32 e 0x24
def chunkOf (e : Entry) : Nat := u32 e 0x28
def elemsOf (e : Entry) : Nat := u32 e 0x2C
def dataAddr (e : Entry) : Nat := u64 e 0x30
/-- DISPATCH and COMBINE. -/
def xT (e : Entry) : Nat := u32 e 0x28
def xH (e : Entry) : Nat := u32 e 0x2C
def xKR (e : Entry) : Nat := u8 e 0x30
def xRowType (e : Entry) : Nat := u8 e 0x31 % 16
def xOutType (e : Entry) : Nat := u8 e 0x31 / 16
def xEPM (e : Entry) : Nat := u16 e 0x32
def xX (e : Entry) : Nat := u32 e 0x34
def xC (e : Entry) : Nat := u32 e 0x38
def xRoute (e : Entry) : Nat := u64 e 0x40
def xMap (e : Entry) : Nat := u64 e 0x48
def xRows (e : Entry) : Nat := u64 e 0x50
def xDrop (e : Entry) : Nat := u64 e 0x60
def xGate (e : Entry) : Nat := u64 e 0x68
def xBuf (e : Entry) : Nat := u64 e 0x70
/-- Width in bytes of the slot rows: row type of a DISPATCH, expert output type of a COMBINE. -/
def xW (e : Entry) : Nat := typeBits (xRowType e) / 8
/-- Width of the rows at ROWS_ADDR. -/
def xRowW (e : Entry) : Nat := if opcode e = 0x08 then xW e else typeBits (xOutType e) / 8
def xSB (e : Entry) : Nat := 64 + xC e * xH e * xW e
def isCombine (e : Entry) : Bool := opcode e == 0x09

/-- The limits that need only the entry and the group; `g` is none where GROUP names no group of the partition. -/
def groupLimits (e : Entry) (g : Option Group) : List (Bool × Nat × Nat) :=
  match g with
  | none => [(true, 0x20, 2)]
  | some g =>
    let op := opcode e
    let loc := ((g.members[rankOf e]?).map fun m => m.place.isNone) == some true
    let ep := epochOf e
    let common := [(!loc || (op == 0x06 && decide (rankOf e ≠ chunkOf e % max 1 g.m)), 0x22, 2),
      (!(ep == g.epoch % 2 ^ 32 || ep == (g.epoch + 1) % 2 ^ 32), 0x24, 2)]
    if op = 0x08 ∨ op = 0x09 then
      common ++
      [(decide (65536 < xT e), 0x28, 7),
       (xH e != 0 && (xH e * xW e % 64 != 0 || decide (16384 < xH e * xW e)), 0x2C, 7),
       (xKR e == 0 || decide (8 < xKR e), 0x30, 2), (typeReserved (xRowType e) || (op == 0x09 && typeReserved (xOutType e)), 0x31, 2),
       (xEPM e == 0 || decide (256 < xEPM e), 0x32, 2),
       (xX e == 0 || decide (65536 < xX e), 0x34, 2), (xC e == 0 || decide (65536 < xC e), 0x38, 2),
       (decide ((tStride e 0x58).natAbs < xH e * xW e), 0x58, 2),
       (op == 0x09 && xDrop e != 0, 0x60, 2), (op == 0x08 && xGate e != 0, 0x68, 2),
       (xBuf e % 64 != 0 || (g.members.any fun m => decide (m.recvLen < xBuf e + g.m * xEPM e * xSB e)), 0x70, 2)]
    else
      common ++
      [(if op = 0x0C then chunkOf e != 0 else decide (g.epochChunks ≤ chunkOf e), 0x28, 2),
       (op == 0x0C && elemsOf e != 0, 0x2C, 2), (op != 0x0C && decide (g.chunkElems < elemsOf e), 0x2C, 7),
       ((op == 0x06 || op == 0x0C) && dataAddr e != 0, 0x30, 2)]

/-! BARRIER (02 R72); `reach` says that every named device is reached, and `own` is the engine's own DECK_ID. -/

def barScope (e : Entry) : Nat := u8 e 0x20
def barMask (e : Entry) : Nat := u8 e 0x21
def barId (e : Entry) : Nat := u32 e 0x24

def barrierLimits (e : Entry) (own : Nat) (reach : Nat → Bool) : List (Bool × Nat × Nat) :=
  [(decide (3 ≤ barScope e), 0x20, 2),
   (if barScope e = 2 then !bitOf (barMask e) own || ((maskList 8 (barMask e)).any fun d => !reach d) else barMask e != 0, 0x21, 2),
   (barScope e != 2 && barId e != 0, 0x24, 2)]

/-! Type pairs (05 R128, 07 R178, 08 R205, 09 R219, 10 R226, 11 R269). -/

def wideGroup (t : Nat) : Bool := t == 0 || t == 1 || t == 2

/-- The pair is illegal. -/
def typeBad (e : Entry) : Bool :=
  let s := srcType e
  let d := dstType e
  match opcode e with
  | 0x04 => !isWide s
  | 0x10 => s != 2
  | 0x0A => !(([2, 6, 7].contains (tAct e)) && (tOut e == 0 || tOut e == 2)) || (tPartial e && tOut e == 2)
  | 0x08 => !([0, 1, 2, 3, 4, 6, 7].contains (xRowType e) && xOutType e == 0)
  | 0x09 => !(wideGroup (xRowType e) && wideGroup (xOutType e))
  | 0x0D => false
  | 0x0E => false
  | op =>
    ([0x01, 0x02, 0x03].contains op) &&
    ((if expand e then s != 2 || (if convert e then (convClass s d).isNone else d != 2)
      else if convert e then (convClass s d).isNone
      else s != d) ||
     (isSplit e && !(typeBits d == 4 || typeBits d == 8)) || (isMerge e && !(typeBits s == 4 || typeBits s == 8)))

/-- BAD_TYPE_PAIR and its DETAIL (03 R103). -/
def typeFail (e : Entry) : Option (Nat × Nat) :=
  if !typeBad e then none
  else some (6, match opcode e with
    | 0x0A => tAct e * 16 + tOut e
    | 0x08 => xRowType e * 16 + xOutType e
    | 0x09 => xRowType e * 16 + xOutType e
    | _ => srcType e * 16 + (if hasDst e then dstType e else 0))

/-! Geometry (05 R134-R136, 09 R213, R219, 14 R334). -/

def mis (b : Bool) (off : Nat) : Bool × Nat × Nat := (b, off, 4)

/-- Elements of the run that carry data (R134, 09 R216). -/
def runData (v : View) : Nat := v.runLen - v.head - v.tail

/-- Alignment of one view: base, strides, run (R134), with the offsets of its fields; `x` is an indexed dimension. -/
def viewAligned (v : View) (baseOff strideOff headOff : Nat) (x : Option Nat) : List (Bool × Nat × Nat) :=
  [mis (v.addr % 16 != 0) baseOff] ++
  ((List.range 6).map fun d =>
    mis ((v.strided d || (x == some d && d != v.c)) && v.stride.getD d 0 % 16 != 0) (strideOff + 6 * d)) ++
  (match v.plane with
   | some p => [mis (v.head != 0 || v.tail != 0) 0x94, mis (v.ext.getD v.c 1 % 128 != 0) (0x20 + 4 * v.c), mis (p % 16 != 0) 0xDC]
   | none => [mis (v.c != 7 && v.runLen * v.w % 128 != 0) headOff])

def misalignments (e : Entry) : List (Bool × Nat × Nat) :=
  let xs := if indexed e then some (idxDim e) else none
  let a16 := fun (a off : Nat) => mis (a % 16 != 0) off
  let cipherOff := fun (v : View) => (v.range none).1 % (cipherUnit e : Int) != 0
  (if srcUsed e then viewAligned (src e) 0x80 0x38 0x94 (if idxOnDst e then none else xs) else []) ++
  (if hasDst e then viewAligned (dst e) 0x88 0x5C 0x96 (if idxOnDst e then xs else none) ++
    [mis ((dst e).w == 4 && (dst e).c != 7 && ((dst e).head % 2 != 0 || runData (dst e) % 2 != 0)) 0x96] else []) ++
  (if indexed e then [a16 (idxBase e) 0xA0, mis (idxOuter e != 7 && idxPitch e % 4 != 0) 0xA8] else []) ++
  (if expand e then [a16 (tensorBase e) 0xA0, mis (folioIndex e % 64 != 0) 0xA8] else []) ++
  (if convert e then [a16 (scaleIn e) 0xC0, a16 (scaleOut e) 0xC8] else []) ++
  (if opcode e = 0x04 then [a16 (u64 e 0xC0) 0xC0, a16 (u64 e 0xC8) 0xC8] else []) ++
  (if sealing e then [mis (sealAddr e % 4 != 0) 0xF0] else []) ++
  (if cipherWrite e && hasDst e then [mis (cipherOff (dst e)) 0x88] else []) ++
  (if cipherRead e && srcUsed e then [mis (cipherOff (src e)) 0x80] else []) ++
  (if opcode e = 0x10 then
    [mis (u64 e 0xA0 % 64 != 0) 0xA0, mis (u64 e 0xA8 % 4096 != 0) 0xA8, mis (u64 e 0xB8 % 64 != 0) 0xB8,
     a16 (u64 e 0xC0) 0xC0] else [])

/-- GEOMETRY_OVERFLOW: element count, source, destination (R135, 06 R140, 09 R213). -/
def overflow (e : Entry) : Option (Nat × Nat) :=
  let big := fun (r : Int × Int) => decide ((2 : Int) ^ 48 < r.2 - r.1 + 1)
  let n := if hasDst e then prodOf (outExts e) else dataElems e
  if 2 ^ 40 < n then some (5, 0)
  else if srcUsed e && big (srcRange e) then some (5, 1)
  else if hasDst e && (big (dstRange e) || (outExts e).any fun x => decide (0xFFFFFFFF < x)) then some (5, 2)
  else none

/-- Zero extents, by dimension (R129, 10 R226, 11 R248, R269). -/
def zeroExtent (e : Entry) : Option (Nat × Nat) :=
  let dims : List Nat :=
    if isView e then exts e
    else match opcode e with
    | 0x0A => [tN e, tK e, tB e]
    | 0x08 => [xT e, xH e]
    | 0x09 => [xT e, xH e]
    | 0x05 => [elemsOf e]
    | 0x06 => [elemsOf e]
    | 0x07 => [elemsOf e]
    | _ => []
  (((List.range dims.length).zip dims).find? fun x => x.2 == 0).map fun x => (3, x.1)

/-- Alignment of the opcodes with an operand of their own. -/
def ownAlignment (e : Entry) : List (Bool × Nat × Nat) :=
  let a16 := fun (a off : Nat) => mis (a % 16 != 0) off
  let st := fun (off : Nat) => mis (decide (1 < tB e) && tStride e off % 16 != 0) off
  match opcode e with
  | 0x0A => [a16 (tActBase e) 0x30, st 0x38, a16 (tScale e) 0x40, a16 (tDst e) 0x48, st 0x50, a16 (tCarry e) 0x58, st 0x60,
      a16 (tensorBase e) 0x68, mis (folioIndex e % 64 != 0) 0x70]
  | 0x05 => [a16 (dataAddr e) 0x30]
  | 0x07 => [a16 (dataAddr e) 0x30]
  | 0x08 => [a16 (xRows e) 0x50, mis (tStride e 0x58 % 16 != 0) 0x58]
  | 0x09 => [a16 (xRows e) 0x50, mis (tStride e 0x58 % 16 != 0) 0x58]
  | _ => []

/-- The geometry step (R136). -/
def geometryFail (e : Entry) : Option (Nat × Nat) :=
  match zeroExtent e with
  | some f => some f
  | none =>
    match lowest (if isView e then misalignments e else ownAlignment e) with
    | some f => some f
    | none => if isView e then overflow e else none

/-! Cost (04 R106, 08 R198, 10 R242, 11 R250, R273). -/

/-- Bytes of `n` elements of `w` bits. -/
def packed (n w : Nat) : Nat := ceilDiv (n * w) 8

/-- Bytes of the index stream: one read per position. -/
def indexBytes (e : Entry) : Nat :=
  if indexed e then 4 * extent e (idxDim e) * (if idxOuter e = 7 then 1 else extent e (idxOuter e)) else 0

/-- Bytes read and written by a view opcode; `leafBytes` is what its folios make it read. A FIRST_PASS job counts its whole source
twice, under EXPAND the folio entries and codebooks too (08 R198 says "the source"; DESIGN CHOICE, log entry 87). -/
def viewCost (e : Entry) (leafBytes : Nat) : Nat :=
  let twice := if mode e = 1 then 2 else 1
  let m := mode e
  let tags := if cipher e && !expand e && gcmRoute then 16 * cipherUnits e else 0
  let source := if expand e then leafBytes else if hasSrc e then packed (dataElems e) (typeBits (srcType e)) else 0
  let passes := if opcode e = 0x10 then 1 + u8 e 0xB0 else twice
  let reads := passes * (source + indexBytes e) + (if m = 2 ∨ m = 3 then streamBytes e else 0) +
    (if sealChk e then 4 * sealBlocks e else 0) + (if cipherRead e then tags else 0)
  let writes := (if hasDst e then packed (prodOf (outExts e)) (typeBits (dstType e)) else 0) +
    (if m = 1 ∨ m = 2 then streamBytes e else 0) + (if sealGen e then 4 * sealBlocks e else 0) +
    (if cipherWrite e then tags else 0) +
    (if opcode e = 0x04 then 4 * rows e + (if u64 e 0xC8 = 0 then 0 else 4) else 0) +
    (if opcode e = 0x10 then 16384 + u8 e 0xB0 * (dataElems e / 1024 * 1424 + 64) else 0)
  max reads writes
where
  /-- The cipher-side route is a remote one, which only GCM slots serve (14 R330). -/
  gcmRoute : Bool := let r := (cipherView e).route; decide (0x40 ≤ r ∧ r ≤ 0xBF)

def tariffCost (e : Entry) (leafBytes : Nat) : Nat :=
  max (tB e * tK e * tActW e + (if tScaled e then 48 else 0) + (if tCarry e = 0 then 0 else 4 * tN e * tB e) + leafBytes)
    (tN e * tB e * tOutW e)

def groupCost (e : Entry) (g : Group) : Nat :=
  let win := State.typeBytes g.inT
  let wout := State.typeBytes g.outT
  let n := elemsOf e
  let routes := 4 * xT e * xKR e
  match opcode e with
  | 0x05 => n * win
  | 0x06 => max (g.m * n * win) (g.m * (64 + n * wout))
  | 0x07 => 64 + n * wout
  | 0x08 => max (routes + 4 * xX e + xT e * xH e * xW e) (g.m * xEPM e * xSB e + ceilDiv (xT e * xKR e) 8)
  | 0x09 => max (routes + 4 * xX e + routes + xT e * xKR e * xH e * xW e) (xT e * xH e * xRowW e)
  | _ => 0

/-- Elements of a tile (01 R33, 10 R236, 11 R250, R273). -/
def tileLen (e : Entry) (g : Option Group) : Nat :=
  let w := fun (t : Nat) => tileElems (max 1 (typeBits t))
  match opcode e with
  | 0x05 => g.elim 1 fun g => w g.inT
  | 0x06 => g.elim 1 fun g => w g.outT
  | 0x07 => g.elim 1 fun g => w g.outT
  | 0x08 => w (xRowType e)
  | 0x09 => w (xOutType e)
  | 0x0A => 1024 * tB e
  | _ => viewTile e

/-- Element count of a job (Operands), with DISPATCH and COMBINE counting T x H. -/
def jobElems (e : Entry) : Nat := elemCount e

end Entry
end Sys2Proof.Machine
end

