-- ==== Sys2Proof/Machine/Fetch.lean ====
section
/-! DEFINITION. What a read of a job answers: bytes, reads that have to be made first, a translation that has not arrived, or the
code it ends with (02 R48 items 4 and 5, 06 R147, R150, R177). -/

namespace Sys2Proof.Machine

/-- A job at work for one of its tiles or passes, with what the reads of that tile or pass have brought. None stands for a reader
whose data has been read before: it looks at the memories as they stand. -/
structure Work extends Job where
  seen : Option Seen := none
deriving DecidableEq, Repr

/-- The answer of a read, or of work that reads: a value; pages whose translation is still to come and granules that are still to be
read, each a target and a number there; or a code with its DETAIL and, for what no port has counted yet, the unit it came through. -/
inductive Got (α : Type) where
  | ok (a : α)
  | wait (as : List Nat) (gs : List (Target × Nat))
  | bad (code detail : Nat) (unit : Option Nat)
deriving DecidableEq, Repr

def Got.bind {α β : Type} (x : Got α) (f : α → Got β) : Got β :=
  match x with
  | .ok a => f a
  | .wait as gs => .wait as gs
  | .bad c d u => .bad c d u

def Got.map {α β : Type} (f : α → β) (x : Got α) : Got β := x.bind fun a => .ok (f a)

/-- Two answers that do not depend on each other: what both still wait for is asked for together. -/
def Got.both {α β : Type} (x : Got α) (y : Got β) : Got (α × β) :=
  match x, y with
  | .ok a, .ok b => .ok (a, b)
  | .bad c d u, _ => .bad c d u
  | _, .bad c d u => .bad c d u
  | .wait a g, .wait b h => .wait (a ++ b) (g ++ h)
  | .wait a g, .ok _ => .wait a g
  | .ok _, .wait b h => .wait b h

/-- The answers of a list of reads: all of them, or the first that failed. -/
def Got.all {α : Type} : List (Got α) → Got (List α)
  | [] => .ok []
  | x :: r => (x.both (Got.all r)).map fun y => y.1 :: y.2

/-- The value, if the answer is one. -/
def Got.val? {α : Type} : Got α → Option α
  | .ok a => some a
  | _ => none

namespace State

/-- Places as a reader sees them: BUS_ERROR or POISON_READ where a read has been answered so, reads still to be made where a port
serves the place and its granule has not come, else the bytes. Staging is read in place (01 R22). DETAIL is the route. -/
def look (s : State) (seen : Option Seen) (route : Nat) (ts : List (Target × Nat)) : Got (List Byte) :=
  let ks := ts.map fun t => locKey t.1 t.2
  let bad : Option Nat := seen.bind fun v => (v.bad.find? fun b => ks.any fun k => granuleOf k == b.1).map (·.2)
  let miss := (seen.map fun v => ts.filter fun t =>
    (s.portOf t.1).isSome && !v.has.contains (granuleOf (locKey t.1 t.2))).getD []
  match bad with
  | some c => .bad c route none
  | none =>
    if !miss.isEmpty then .wait [] ((miss.map fun t => (t.1, t.2 / 64)).eraseDups)
    else match ts.find? fun t => s.store.isPoisoned (locKey t.1 t.2) with
      | some t => .bad 0x65 route (if seen.isNone then (s.portOf t.1).map portUnit else none)
      | none => .ok (ks.map s.store.get)

/-- Read bytes at an address of a partition: BUS_ERROR on a route that leads nowhere any more (02 R56). -/
def gotAs (s : State) (seen : Option Seen) (p : Nat) (xl : List Xlat) (a n : Nat) : Got (List Byte) :=
  let r := a / 2 ^ 56
  if s.routeLost p r then .bad 0x48 r (routeUnit r)
  else match (List.range n).mapM fun i => s.locate p xl (a + i) with
    | none => .wait (s.unplaced p xl ((List.range n).map fun i => a + i)) []
    | some ts => s.look seen r ts

/-- The same for a job at work. -/
def got (s : State) (j : Work) (a n : Nat) : Got (List Byte) := s.gotAs j.seen j.part j.xlat a n

/-- The job as its passes see it. -/
def passWork (j : Job) : Work := { j with seen := some j.pass.seen }

end State
end Sys2Proof.Machine
end

