-- ==== Sys2Proof/Machine/Admission.lean ====
section
/-! DEFINITION. Decode of an entry against the state (04 R104 steps 5 to 7, 02 R62, 07 R169, 14 R330, 01 R43), admission by
priority and deficit round robin (04 R107-R116), token buckets (R111-R114), tile requests (01 R32) and descriptor timeouts
(05 R121, R122): ADMIT_JOB, TOKEN_REFILL, JOB_TIMEOUT. -/

namespace Sys2Proof.Machine

/-- A range that a descriptor field names: the field's offset, an address on its route, lowest and highest byte, rights. -/
structure NRange where
  off  : Nat
  addr : Nat
  lo   : Int
  hi   : Int
  rd   : Bool
  wr   : Bool
deriving DecidableEq, Repr

/-- What decode answers for an entry: a failure; a read that waits for the translation of pages; or what admission needs. -/
inductive Verdict where
  | fail (code detail : Nat) (unit : Option Nat)
  | wait (as : List Nat)
  | ok (cost elems tlen : Nat) (decoded : List Byte)
deriving DecidableEq, Repr

namespace Entry

def nrange (off addr : Nat) (r : Int × Int) (rd wr : Bool) : NRange := ⟨off, addr, r.1, r.2, rd, wr⟩

/-- A range of `n` bytes from an address on. -/
def bytesAt (off addr n : Nat) (rd wr : Bool) : NRange :=
  ⟨off, addr, (addr % 2 ^ 56 : Nat), (addr % 2 ^ 56 : Nat) + (n : Int) - 1, rd, wr⟩

/-- The tag area behind a ciphered view (14 R337). -/
def tagArea (e : Entry) (off : Nat) (v : View) (r : Int × Int) (on wr : Bool) : List NRange :=
  if on then [⟨off, v.addr, r.2 + 1, r.2 + (16 * cipherUnits e : Nat), !wr, wr⟩] else []

/-- Ranges that a view opcode names, in ascending order of their fields (02 R62, 06 R140, 07 R178, 08 R185, R205, 09 R222). -/
def viewRanges (e : Entry) (gcm : Bool) : List NRange :=
  (if srcUsed e && !(indexed e && !idxOnDst e) then
    nrange 0x80 (srcBase e) (srcRange e) true false :: tagArea e 0x80 (src e) (srcRange e) (gcm && cipherRead e) false else []) ++
  (if hasDst e && !(indexed e && idxOnDst e) then
    nrange 0x88 (dstBase e) (dstRange e) false true :: tagArea e 0x88 (dst e) (dstRange e) (gcm && cipherWrite e) true else []) ++
  (if indexed e then [bytesAt 0xA0 (idxBase e) (4 * (idxLast e + 1)) true false] else []) ++
  (if opcode e = 0x10 then
    [bytesAt 0xA0 (u64 e 0xA0) 16384 false true, bytesAt 0xA8 (u64 e 0xA8) (2 ^ 23) true true] ++
    (if u8 e 0xB0 = 1 then
      let l := dataElems e / 1024
      let b := u64 e 0xC0
      [bytesAt 0xB8 (u64 e 0xB8) 64 false true,
       ⟨0xC8, b, (b % 2 ^ 56 + u64 e 0xC8 : Nat), (b % 2 ^ 56 + u64 e 0xC8 + 1408 * l : Nat) - 1, false, true⟩,
       ⟨0xD0, b, (b % 2 ^ 56 + u64 e 0xD0 : Nat), (b % 2 ^ 56 + u64 e 0xD0 + 16 * l : Nat) - 1, false, true⟩]
     else []) else []) ++
  (if mode e = 2 ∨ mode e = 3 then [bytesAt 0xC0 (scaleIn e) (streamBytes e) true (resend e)] else []) ++
  (if mode e = 1 ∨ mode e = 2 then [bytesAt 0xC8 (scaleOut e) (streamBytes e) false true] else []) ++
  (if opcode e = 0x04 then
    bytesAt 0xC0 (u64 e 0xC0) (4 * rows e) false true ::
    (if u64 e 0xC8 = 0 then [] else [bytesAt 0xC8 (u64 e 0xC8) 4 false true]) else []) ++
  (if sealing e then [bytesAt 0xF0 (sealAddr e) ((sealBlocks e - 1) * sealPitch e + 4) (sealChk e) (sealGen e)] else [])

/-- Ranges of the opcodes with an operand of their own (10 R227, 11 R248, R269). -/
def ownRanges (e : Entry) (g : Option Group) : List NRange :=
  let win := g.elim 0 fun g => State.typeBytes g.inT
  let wout := g.elim 0 fun g => State.typeBytes g.outT
  match opcode e with
  | 0x0A =>
    [nrange 0x30 (tActBase e) (runsRange (tActBase e) (tStride e 0x38) (tB e) (tK e * tActW e)) true false] ++
    (if tScaled e then [bytesAt 0x40 (tScale e) 48 true false] else []) ++
    [nrange 0x48 (tDst e) (runsRange (tDst e) (tStride e 0x50) (tB e) (tN e * tOutW e)) false true] ++
    (if tCarry e = 0 then [] else
      [nrange 0x58 (tCarry e) (runsRange (tCarry e) (tStride e 0x60) (tB e) (4 * tN e)) true false])
  | 0x05 => [bytesAt 0x30 (dataAddr e) (elemsOf e * win) true false]
  | 0x07 => [bytesAt 0x30 (dataAddr e) (elemsOf e * wout) false true]
  | 0x08 =>
    [bytesAt 0x40 (xRoute e) (4 * xT e * xKR e) true false, bytesAt 0x48 (xMap e) (4 * xX e) true false,
     nrange 0x50 (xRows e) (runsRange (xRows e) (tStride e 0x58) (xT e) (xH e * xW e)) true false,
     bytesAt 0x60 (xDrop e) (ceilDiv (xT e * xKR e) 8) false true]
  | 0x09 =>
    [bytesAt 0x40 (xRoute e) (4 * xT e * xKR e) true false, bytesAt 0x48 (xMap e) (4 * xX e) true false,
     nrange 0x50 (xRows e) (runsRange (xRows e) (tStride e 0x58) (xT e) (xH e * xRowW e)) false true,
     bytesAt 0x68 (xGate e) (4 * xT e * xKR e) true false]
  | _ => []

def namedRanges (e : Entry) (g : Option Group) (gcm : Bool) : List NRange :=
  if isView e then viewRanges e gcm else ownRanges e g

end Entry

/-! Overlap (02 R488). -/

/-- Lowest stack offset of stack k whose canonical offset is at least `a`. -/
def stackFrom (k a : Nat) : Nat :=
  let t := a / 2 ^ 12 % 8
  if t = k then a / 2 ^ 15 * 2 ^ 12 + a % 2 ^ 12
  else if t < k then a / 2 ^ 15 * 2 ^ 12
  else (a / 2 ^ 15 + 1) * 2 ^ 12

/-- An interleaved range shares a byte with a range of stack k. -/
def stripeMeets (k a b lo hi : Nat) : Bool :=
  let s := max (stackFrom k a) lo
  decide (s ≤ hi) && decide (s / 2 ^ 12 * 2 ^ 15 + k * 2 ^ 12 + s % 2 ^ 12 ≤ b)

namespace State

/-- The pooled alias of a route: none for another route, else none or the stack it stays on. -/
def pooled (s : State) (r : Nat) : Option (Option Nat) :=
  if r = 0x20 ∨ r = 0x30 + s.block.deckId.toNat then some none
  else if 0x21 ≤ r ∧ r ≤ 0x28 then some (some (r - 0x21)) else none

/-- Two ranges overlap (R488). -/
def overlap (s : State) (a b : NRange) : Bool :=
  let ra := a.addr / 2 ^ 56
  let rb := b.addr / 2 ^ 56
  let cross := decide (a.lo ≤ b.hi) && decide (b.lo ≤ a.hi)
  match s.pooled ra, s.pooled rb with
  | some none, some none => cross
  | some (some j), some (some k) => j == k && cross
  | some none, some (some k) => stripeMeets k a.lo.toNat a.hi.toNat b.lo.toNat b.hi.toNat
  | some (some k), some none => stripeMeets k b.lo.toNat b.hi.toNat a.lo.toNat a.hi.toNat
  | _, _ => ra == rb && cross

/-! Step 5, round 1: the kinds of R48 over all named ranges (R62). -/

def namedFail (s : State) (p pd : Nat) (l : List NRange) : Option (Nat × Nat) :=
  let r := fun (x : NRange) => x.addr / 2 ^ 56
  match l.find? fun x => s.routeFail p (r x) x.lo x.hi with
  | some x => some (0x40, r x)
  | none =>
    match l.find? fun x => s.spanFail p (r x) x.lo with
    | some x => some (0x42, r x)
    | none =>
      l.findSome? fun x =>
        let rd := if x.rd then s.accessFail p pd (r x) x.lo x.hi false else none
        let wr := if x.wr then s.accessFail p pd (r x) x.lo x.hi true else none
        (rd.orElse fun _ => wr).map fun c => (c, r x)

/-! Round 2: folio entries, one at a time (07 R169). -/

/-- Leaves [from, till) of a folio that a job reads, by tensor leaf number. -/
def leafSpan (f : Folio) (first count : Nat) : Nat × Nat := (max f.first first, min (f.first + f.count) (first + count))

/-- Payload bytes that the job reads in a folio: widened to data units under CIPHER, within the payload range (14 R335). -/
def payloadRange (e : Entry) (f : Folio) (ls : Nat × Nat) : Nat × Nat :=
  let size := if f.placement = 0 then payloadBytes f.fmt else 2048
  let a := (ls.1 - f.first) * size
  let b := (ls.2 - 1 - f.first) * size + payloadBytes f.fmt
  let u := Entry.cipherUnit e
  if Entry.cipher e then (f.payOff + a / u * u, f.payOff + min (roundUp b u) (f.count * size)) else (f.payOff + a, f.payOff + b)

/-- The three ranges of one folio. -/
def folioRanges (e : Entry) (f : Folio) (ls : Nat × Nat) : List NRange :=
  let t := Entry.tensorBase e
  let o := t % 2 ^ 56
  let pr := payloadRange e f ls
  [⟨0, t, (o + pr.1 : Nat), (o + pr.2 : Nat) - 1, true, false⟩,
   ⟨1, t, (o + f.tabOff + (ls.1 - f.first) * 16 : Nat), (o + f.tabOff + (ls.2 - f.first) * 16 : Nat) - 1, true, false⟩] ++
  (if codebookBytes f.fmt = 0 then [] else [Entry.bytesAt 2 f.cbAddr (codebookBytes f.fmt) true false])

/-- What one folio makes the job read, with its entry (10 R242); a TARIFF counts its codebook once. -/
def folioBytes (e : Entry) (f : Folio) (ls : Nat × Nat) (first : Bool) : Nat :=
  64 + (ls.2 - ls.1) * (payloadBytes f.fmt + 16) + (if Entry.opcode e = 0x0A ∧ !first then 0 else codebookBytes f.fmt)

/-- The limits that an entry of the job adds to R165: R228 for TARIFF, 14 R334 and R336 under CIPHER. -/
def folioExtra (e : Entry) (f : Folio) (first : Option Folio) : Option (Nat × Nat) :=
  let own : Bool := match first with
    | some q => f.fmt != q.fmt || f.cbAddr != q.cbAddr
    | none => false
  if Entry.opcode e = 0x0A ∧ (f.fmt < 2 ∨ own) then some (2, 0x70)
  else if Entry.cipher e ∧ f.placement ≠ 0 then some (2, 0xFC)
  else if Entry.cipher e ∧ (Entry.tensorBase e + f.payOff) % Entry.cipherUnit e ≠ 0 then some (4, 0xA0)
  else none

/-- Walk the folio entries from number k on: `n` leaves from `first`, of which those below `done` are covered. -/
def folioWalk (s : State) (p pd : Nat) (xl : List Xlat) (e : Entry) (first n : Nat) :
    Nat → Nat → Nat → Option Folio → Option Folio → List Byte → Nat → Got (List Byte × Nat)
  | 0, _, _, _, _, _, _ => .bad 7 (if Entry.opcode e = 0x0A then 0x7C else 0xB4) none
  | fuel + 1, k, done, head, prev, acc, bytes =>
    let entryOff := if Entry.opcode e = 0x0A then 0x70 else 0xA8
    if first + n ≤ done ∧ k ≠ 0 then .ok (acc, bytes)
    else if Entry.folioCount e ≤ k then .bad 7 (if Entry.opcode e = 0x0A then 0x7C else 0xB4) none
    else
      let a := Entry.folioIndex e + 64 * k
      match s.namedFail p pd [Entry.bytesAt 0 (Entry.folioIndex e + 64 * k) 64 true false] with
      | some (c, d) => .bad c d none
      | none =>
        (s.gotAs none p xl a 64).bind fun b =>
          let f := Folio.parse b
          if !Folio.ok b prev then .bad 2 entryOff none
          else match folioExtra e f head with
            | some (c, d) => .bad c d none
            | none =>
              if k = 0 ∧ !decide (f.first ≤ first ∧ first < f.first + f.count) then
                .bad 2 (if Entry.opcode e = 0x0A then 0x78 else 0xB0) none
              else
                let ls := leafSpan f first n
                match s.namedFail p pd (folioRanges e f ls) with
                | some (c, d) => .bad c d none
                | none => s.folioWalk p pd xl e first n fuel (k + 1) (f.first + f.count) (head.orElse fun _ => some f) (some f)
                    (acc ++ b) (bytes + folioBytes e f ls (k == 0))

/-! The expert map (11 R269). -/

/-- Rank and local expert of entry x of a map. -/
def mapEntry (b : List Byte) (x : Nat) : Nat × Nat := (u16 b (4 * x), u8 b (4 * x + 2))

def mapOk (e : Entry) (m : Nat) (b : List Byte) : Bool :=
  let es := (List.range (Entry.xX e)).map fun x => u32 b (4 * x)
  (es.all fun v => decide (v % 65536 < m) && decide (v / 65536 % 256 < Entry.xEPM e) && decide (v < 2 ^ 24)) &&
  decide (es.eraseDups.length = es.length)

/-! Steps 6 and 7. -/

/-- Route of the cipher side (14 R330). -/
def cipherRoute (e : Entry) : Nat :=
  (if Entry.cipherWrite e then Entry.dstBase e else if Entry.expand e then Entry.tensorBase e else Entry.srcBase e) / 2 ^ 56

/-- The slot admits the job (R330); a slot belongs to the partition whose run contains it (R326). -/
def keyOk (s : State) (p : Nat) (e : Entry) : Bool :=
  match s.keyOf (Entry.keySlot e) with
  | none => false
  | some k =>
    let r := cipherRoute e
    let remote := decide (0x40 ≤ r ∧ r ≤ 0xBF)
    s.slotPart (Entry.keySlot e) == p && k.gcm == remote &&
    match k.bound with
    | some (pd, lo, hi) => pd == Entry.pd e && decide (lo ≤ r ∧ r ≤ hi)
    | none => false

/-- Free table banks of a partition (10 R237), ascending. -/
def freeBanks (s : State) (p : Nat) : List (Nat × Nat) := (s.unfencedSpans p).flatMap s.banksFree

/-- Banks that a TARIFF job claims (10 R237). -/
def bankCount (e : Entry) : Nat :=
  let rb := if Entry.tB e = 1 then 4 else if Entry.tB e = 2 then 2 else 1
  ceilDiv (Entry.tK e / 64) rb

/-- Code of the jobs that an aborted group ends (11 R267). -/
def abortCode (g : Group) : Nat := if g.cause = .lateCorruption then 0x81 else 0x80

/-- Lanes allotted to a partition behind which a lane works (01 R25, 15 R359, 18 R421). -/
def keystoneLanes (s : State) (p : Nat) : List Nat :=
  (List.range 16).filter fun n => bitOf (s.keystoneMask p) n && (s.lanes.logical.getD n none).isSome

/-- Step 7 (01 R43, 07 R170, 10 R237, 11 R253, R267). -/
def claimFail (s : State) (p : Nat) (e : Entry) (g : Option Group) : Option (Nat × Nat) :=
  let op := Entry.opcode e
  let aborted := match g with
    | some g => if g.state = .aborted then some (abortCode g, g.g) else none
    | none => none
  match aborted with
  | some f => some f
  | none =>
    if Entry.isView e && Entry.expand e then
      let o := [s.tables.cbOwner.getD (Entry.cbSet e) 0, s.tables.cbOwner.getD (Entry.cbSet e + 1) 0]
      if o.any fun x => x != 0 && x != p then some (0xC2, 0)
      else if o.contains 0 then some (2, 0xB5) else none
    else if op = 0x0A then (if (s.freeBanks p).length < bankCount e then some (0xC0, 0) else none)
    else if op = 0x06 ∧ Entry.exact_ e ∧ (s.keystoneLanes p).isEmpty then some (0xC2, 0)
    else none

/-! The order of R104. -/

/-- The group that a group entry names. -/
def entryGroup (s : State) (p : Nat) (e : Entry) : Option Group :=
  if [0x05, 0x06, 0x07, 0x08, 0x09, 0x0C].contains (Entry.opcode e) then s.group? p (u8 e 0x20) else none

def isGroupEntry (e : Entry) : Bool := [0x05, 0x06, 0x07, 0x08, 0x09, 0x0C].contains (Entry.opcode e)

/-- Field limits of an entry in its partition. -/
def limitFail (s : State) (p : Nat) (e : Entry) : Option (Nat × Nat) :=
  let streams := s.overlap (Entry.bytesAt 0 (Entry.scaleIn e) (Entry.streamBytes e) true false)
    (Entry.bytesAt 0 (Entry.scaleOut e) (Entry.streamBytes e) false true)
  let seals := s.overlap (Entry.bytesAt 0 (Entry.sealAddr e) ((Entry.sealBlocks e - 1) * Entry.sealPitch e + 4) false true)
    (Entry.nrange 0 (Entry.dstBase e) (Entry.dstRange e) false true)
  let carry := s.overlap
    (Entry.nrange 0 (Entry.tCarry e) (Entry.runsRange (Entry.tCarry e) (Entry.tStride e 0x60) (Entry.tB e) (4 * Entry.tN e)) true false)
    (Entry.nrange 0 (Entry.tDst e)
      (Entry.runsRange (Entry.tDst e) (Entry.tStride e 0x50) (Entry.tB e) (Entry.tN e * Entry.tOutW e)) false true)
  Entry.lowest (Entry.headerLimits e ++
    (if Entry.isView e then Entry.viewLimits e streams seals
     else if isGroupEntry e then Entry.groupLimits e (s.entryGroup p e)
     else if Entry.opcode e = 0x0A then Entry.tariffLimits e carry
     else if Entry.opcode e = 0x0B then Entry.barrierLimits e s.block.deckId.toNat s.reached
     else []))

/-- Steps 1 to 4. -/
def formFail (s : State) (p : Nat) (e : Entry) (recovery : Bool) : Option (Nat × Nat) :=
  let op := Entry.opcode e
  if op = 0 ∨ 0x10 < op ∨ (op = 0x10 ∧ !recovery) then some (1, op)
  else if field e 0x18 8 ≠ 0 then some (2, 0x18)
  else match reservedFail e 0 (⟨0x18, 8, 2 ^ 64 - 1⟩ :: Entry.fields e) with
    | some d => some (2, d)
    | none =>
      match s.limitFail p e with
      | some f => some f
      | none =>
        match Entry.typeFail e with
        | some f => some f
        | none => Entry.geometryFail e

/-- What decode reads: folio entries or the map, and the bytes that they make the job read. -/
def decodeReads (s : State) (p : Nat) (xl : List Xlat) (e : Entry) (g : Option Group) : Got (List Byte × Nat) :=
  if (Entry.isView e && Entry.expand e) || Entry.opcode e == 0x0A then
    s.folioWalk p (Entry.pd e) xl e (Entry.firstLeaf e) (Entry.leaves e) 17 0 0 none none [] 0
  else if Entry.opcode e = 0x08 ∨ Entry.opcode e = 0x09 then
    (s.gotAs none p xl (Entry.xMap e) (4 * Entry.xX e)).bind fun b =>
      if mapOk e (g.elim 0 (·.m)) b then .ok (b, 0) else .bad 2 0x48 none
  else .ok ([], 0)

/-- Steps 1 to 6 of the decode of an entry (R104). -/
def decodeForm (s : State) (x : Queue) (j : Job) : Verdict :=
  let e := j.entry
  let p := x.part
  match s.formFail p e x.recovery with
  | some (c, d) => .fail c d none
  | none =>
    let g := s.entryGroup p e
    let gcm := ((s.keyOf (Entry.keySlot e)).map (·.gcm)) == some true
    match s.namedFail p (Entry.pd e) (Entry.namedRanges e g gcm) with
    | some (c, d) => .fail c d none
    | none =>
      match s.decodeReads p j.xlat e g with
      | .bad c d u => .fail c d u
      | .wait as _ => .wait as
      | .ok (b, leafBytes) =>
        if Entry.cipher e && !s.keyOk p e then .fail 0xC1 (Entry.keySlot e) none
        else
          let cost := roundUp (if Entry.isView e then Entry.viewCost e leafBytes
            else if Entry.opcode e = 0x0A then Entry.tariffCost e leafBytes
            else g.elim 0 (Entry.groupCost e)) 64
          .ok cost (Entry.jobElems e) (Entry.tileLen e g) b

/-- Decode an entry (R104): its claims come last. -/
def decode (s : State) (x : Queue) (j : Job) : Verdict :=
  match s.decodeForm x j with
  | .ok cost elems tlen b =>
    match s.claimFail x.part j.entry (s.entryGroup x.part j.entry) with
    | some (c, d) => .fail c d none
    | none => .ok cost elems tlen b
  | v => v

/-! Admission (R105-R110, R116). -/

/-- I/O queues of a partition, in ascending ID order. -/
def ioQueues (s : State) (p : Nat) : List Queue :=
  (List.range 4096).filterMap fun i =>
    match s.queue? (.io i) with
    | some x => if x.part = p ∧ x.state ≠ .destroyed then some x else none
    | none => none

def qidNum : QId → Nat
  | .io i => i
  | .adm p => 4096 + p

/-- The queue's fetched entries go on to admission: ACTIVE or ERROR (03 R100), and no level holds it. -/
def admits (s : State) (x : Queue) : Bool := (x.state == .active || x.state == .error) && !x.lost && !s.queueHeld x.qid

/-- The oldest decoded, unadmitted entry of a queue. -/
def headJob (s : State) (x : Queue) : Option Job :=
  (x.fetched.head?).bind fun f => (s.job? f.uid).filter fun j => j.phase == .fetched

/-- The fetched entries of a queue from place k on, decoded in ring order (R104): those that fail complete at once (R105). The claims
of an entry are judged once it is the oldest (01 R43). -/
def dropFails (q : QId) : Nat → Nat → State → State
  | 0, _, s => s
  | n + 1, k, s =>
    match s.queue? q with
    | none => s
    | some x =>
      if !s.admits x then s else
      match (x.fetched[k]?).bind fun f => (s.job? f.uid).filter fun j => j.phase == .fetched with
      | none => s
      | some j =>
        match (if k = 0 then s.decode x j else s.decodeForm x j) with
        | .fail c d u =>
          let s1 := (s.countRead c u { queue := some q, job := some j.idx.toNat }).endJob j.uid c d 0
          dropFails q n k (s1.modQueue q fun y => { y with decodeFails := y.decodeFails + 1 })
        | .ok _ _ _ _ => dropFails q n (k + 1) s
        | .wait as => s.askXlat (.job j.uid) x.part 1 as

/-- A job halted on an access of no tile is decoded again from its first check, without its own claims, before it goes on (02 R52). -/
def recheckJob (s : State) (uid : Nat) : State :=
  match s.job? uid with
  | none => s
  | some j =>
    match s.queue? j.queue with
    | none => s
    | some x =>
      if !j.recheck ∨ j.phase ≠ .running then s else
      match (s.modJob uid fun y => { y with banks := [], cbSet := none }).decode x j with
      | .fail c d u => (s.countRead c u { queue := some j.queue, job := some j.idx.toNat }).endJob uid c d 0
      | .wait as => s.askXlat (.job uid) x.part 1 as
      | .ok _ _ _ b => s.modJob uid fun y => { y with recheck := false, decoded := b, xlat := [] }

/-- A head entry that has decoded. -/
structure Head where
  queue : Queue
  job   : Job
  cost  : Nat
  elems : Nat
  tlen  : Nat
  decoded : List Byte
deriving DecidableEq, Repr

def heads (s : State) (p : Nat) : List Head :=
  (s.ioQueues p).filterMap fun x =>
    if s.admits x then
      (s.headJob x).bind fun j =>
        match s.decode x j with
        | .ok cost elems tlen decoded => some ⟨x, j, cost, elems, tlen, decoded⟩
        | _ => none
    else none

/-- What holds a head entry back (R74, R110, R112, R116, 07 R170, 11 R249). -/
inductive Hold where
  | none | inflight | bucket | other
deriving DecidableEq, Repr

def admittedOf (s : State) (f : Job → Bool) : Nat := (s.jobs.filter fun j => j.order != 0 && f j).length

/-- What holds a head back, the in-flight limits tested before the token bucket: a turn at which both hold it counts in INFLIGHT_HOLDS
alone (DESIGN CHOICE, log entry 84). -/
def holdOf (s : State) (h : Head) : Hold :=
  let e := h.job.entry
  let q := h.queue
  if s.jobs.any fun j => j.order != 0 && j.queue == q.qid && Entry.opcode j.entry == 0x0B then .other
  else if 256 ≤ s.admittedOf (fun j => j.queue == q.qid) ∨ s.inflightMax q.part ≤ s.admittedOf (fun j => j.part == q.part) ∨
      16384 ≤ s.admittedOf (fun _ => true) then .inflight
  else if q.shaper.rate ≠ 0 ∧ q.tokens < 0 then .bucket
  else if Entry.isView e && Entry.expand e &&
      (s.jobs.any fun j => j.order != 0 && j.part == q.part && j.cbSet == some (Entry.cbSet e)) then .other
  else match s.entryGroup q.part e with
    | some g => if Entry.epochOf e ≠ g.epoch % 2 ^ 32 then .other else .none
    | none => .none

/-- Count the turns at which a limit or the bucket held an entry back (R117). -/
def countHold (s : State) (h : Head) (n : Nat) : State :=
  match s.holdOf h with
  | .bucket => s.modQueue h.queue.qid fun x => { x with bucketHolds := x.bucketHolds + BitVec.ofNat 64 n }
  | .inflight => s.modPart h.queue.part fun x => { x with inflightHolds := x.inflightHolds + BitVec.ofNat 64 n }
  | _ => s

/-- Turns that a queue needs before its head fits its deficit (R108). -/
def turnsFor (h : Head) : Nat :=
  if h.cost = 0 then 1 else max 1 (ceilDiv (h.cost - h.queue.deficit) (h.queue.shaper.quantum * 4096))

/-- Place of a queue in the round that resumes after `last`. -/
def roundPos (last : Nat) (q : QId) : Nat := if last < qidNum q then qidNum q - last else qidNum q + 8192

/-- What a job holds from its admission on: its order, its key as it stands, its codebook sets and table banks. -/
def admitInto (s : State) (h : Head) : State :=
  let e := h.job.entry
  let n := s.orderNext + 1
  let tl := max 1 h.tlen
  let uid := h.job.uid
  let q := h.queue.qid
  let banks := if Entry.opcode e = 0x0A then (s.freeBanks h.queue.part).take (bankCount e) else []
  let s1 := { s with orderNext := n }
  let s2 := s1.modJob uid fun j =>
    { j with phase := .running, order := n, elems := h.elems, tiles := ceilDiv h.elems tl, tlen := tl, decoded := h.decoded,
             key := if Entry.cipher e then s.keyOf (Entry.keySlot e) else none,
             cbSet := if Entry.isView e && Entry.expand e then some (Entry.cbSet e) else none, banks }
  s2.modQueue q fun x =>
    { x with
      fetched := x.fetched.drop 1
      deficit := x.deficit - h.cost
      tokens := if x.shaper.rate = 0 then x.tokens
                else max (x.tokens - 25 * (h.cost : Int)) (-(25 * x.shaper.burst * 4096 : Nat) : Int)
      admittedJobs := x.admittedJobs + 1
      admittedBytes := x.admittedBytes + BitVec.ofNat 64 h.cost }

/-- The queue has no decoded entry (R110). A queue whose fetched entries may not go on, HALTED or held by a reset level, is neither case
of R110: its deficit stays (DESIGN CHOICE, log entry 86). -/
def undecoded (s : State) (live : List Head) (x : Queue) : Bool :=
  x.fetched.isEmpty || (s.admits x && !(live.any fun h => h.queue.qid == x.qid))

/-- The turns of a round pass: queues of the level gain quanta or count a hold, and a queue without a decoded entry loses its
deficit (R108, R110). `rounds` is the number of turns the winner takes; queues before it in the round take as many, those
after it one fewer. -/
def passTurns (s : State) (p : Nat) (live ring : List Head) (last rounds : Nat) (winner : QId) : State :=
  let turns := fun (q : QId) => if roundPos last q ≤ roundPos last winner then rounds else rounds - 1
  let s1 := ring.foldl (fun s h =>
    let n := turns h.queue.qid
    if s.holdOf h = .none then s.modQueue h.queue.qid fun x => { x with deficit := x.deficit + n * x.shaper.quantum * 4096 }
    else s.countHold h n) s
  ((s.ioQueues p).filter fun x => s.undecoded live x && decide (0 < turns x.qid)).foldl
    (fun s x => s.modQueue x.qid fun y => { y with deficit := 0 }) s1

/-- Highest level of a list of heads. -/
def topLevel (l : List Head) : Nat := l.foldl (fun a h => max a (Entry.prio h.job.entry)) 0

/-- The head with the fewest turns, the first in the round among equals. -/
def nextHead (last : Nat) (l : List Head) : Option Head :=
  l.foldl (fun (a : Option Head) h => match a with
    | none => some h
    | some b =>
      if turnsFor h < turnsFor b ∨ (turnsFor h = turnsFor b ∧ roundPos last h.queue.qid < roundPos last b.queue.qid) then some h
      else a) none

/-- One decision of the sorting processor for a partition (R107, R108, R110). Where no head can be admitted, every queue's turn passes;
heads above the level that is served are held at a turn of their own (R117). -/
def admitOne (s : State) (p : Nat) : State :=
  let s0 := (s.ioQueues p).foldl (fun s x => dropFails x.qid 65 0 s) s
  let live := s0.heads p
  let ready := live.filter fun h => s0.holdOf h == .none
  if ready.isEmpty then
    let s1 := live.foldl (fun s h => s.countHold h 1) s0
    (((s1.ioQueues p).filter fun x => s.undecoded live x).foldl (fun s x => s.modQueue x.qid fun y => { y with deficit := 0 }) s1).modPart p
      fun x => { x with turn := none }
  else
    let lvl := topLevel ready
    let last := (s0.part p).cursor.getD lvl 4096
    let atLevel := fun (h : Head) => Entry.prio h.job.entry == lvl
    let open_ := (ready.filter atLevel).find? fun h =>
      (s0.part p).turn == some lvl && qidNum h.queue.qid == last && (h.cost == 0 || decide (h.cost ≤ h.queue.deficit))
    match open_ with
    | some h => s0.admitInto h
    | none =>
      match nextHead last (ready.filter atLevel) with
      | none => s0
      | some h =>
        let above := live.filter fun h => decide (lvl < Entry.prio h.job.entry)
        let s1 := (above.foldl (fun s h => s.countHold h 1) s0).passTurns p live (live.filter atLevel) last (turnsFor h) h.queue.qid
        let s2 := s1.modPart p fun x =>
          { x with cursor := modAt x.cursor lvl fun _ => qidNum h.queue.qid, turn := some lvl }
        s2.admitInto h

/-! Token buckets (R111-R114). -/

def bucketCap (x : Shaper) : Int := (25 * x.burst * 4096 : Nat)

/-- One refill of a queue: a pending shaper change first clips the count (R114). At the refill where a change to RATE 0 takes effect, the
count is the full one that R111 sets at each refill at RATE 0 (DESIGN CHOICE, log entry 85). -/
def refill (x : Queue) : Queue :=
  let sh := x.newShaper.getD x.shaper
  let t := if x.newShaper.isSome then max (min x.tokens (bucketCap sh)) (-(bucketCap sh)) else x.tokens
  { x with shaper := sh, newShaper := none,
           tokens := if sh.rate = 0 then bucketCap sh else min (t + 512 * sh.rate) (bucketCap sh) }

/-! Descriptor timeouts (05 R121, R122, 02 R75, 06 R154, 11 R264). -/

/-- DETAIL of a barrier that times out: its phase and what it waited for (02 R75). A barrier whose conditions hold already and whose
command has not come names phase 2 and device 0 (DESIGN CHOICE, log entry 83). -/
def barrierDetail (s : State) (j : Job) : Nat :=
  let earlierIdx := (s.queue? j.queue).elim [] fun x => x.open_.filter fun i => earlier i j.idx
  match earliest earlierIdx with
  | some i => i.toNat % 2 ^ 14
  | none =>
    let before := s.jobs.filter fun k => k.part == j.part && k.order != 0 && decide (k.order < j.order) && k.uid != j.uid
    if Entry.barScope j.entry = 1 ∧ !before.isEmpty then
      2 ^ 14 + listMinD (before.map fun k => qidNum k.queue) 0
    else
      2 * 2 ^ 14 + (((maskList 8 (Entry.barMask j.entry)).filter fun d => !j.pass.arrived.contains d).headD 0)

/-- The descriptor timeout of a job expires while it runs. -/
def timeoutJob (s : State) (uid : Nat) : State :=
  match s.job? uid with
  | none => s
  | some j =>
    let halted : Bool := match s.queue? j.queue with | some x => x.state == .halted | none => true
    let op := Entry.opcode j.entry
    let past := op == 0x0C && (match s.group? j.part j.groupNo with | some g => g.state == .ready && !(localRanks g).contains 0 | none => false)
    if j.order = 0 ∨ j.phase ≠ .running ∨ j.stopped ∨ halted ∨ Entry.timeout j.entry = 0 ∨ past then s
    else if op = 0x0B then s.endJob uid 0x82 (s.barrierDetail j) 0
    else s.endJob uid 0xA0 1 j.stopPosition

end State

/-- ADMIT_JOB (R108). -/
def execAdmitJob (p : Nat) (s : State) : Ans :=
  .next (if s.running && s.prof.committed && !s.centralAsleep then s.admitOne p else s)

/-- TOKEN_REFILL (R113). -/
def execTokenRefill (s : State) : Ans :=
  .next { s with queues := s.queues.map fun x => match x.qid with | .io _ => State.refill x | .adm _ => x }

/-- JOB_TIMEOUT (R122). -/
def execJobTimeout (uid : Nat) (s : State) : Ans := .next (s.timeoutJob uid)

end Sys2Proof.Machine
end

