-- ==== Sys2Proof/Machine/Channels.lean ====
section
/-! DEFINITION. Paced channels (12): PRODUCER, FLUSH_SET, RUN_START, RECORD_DRAINED, RUN_END, EVT_OUT_PULSE, the reshuffles of
R286, and the stop of a pacer (R287). -/

namespace Sys2Proof.Machine

/-- The bit of the source record that a bit of the destination record comes from (R286, 09 R216, R218). -/
def shuffleBit (c : ChanCfg) (b : Nat) : Nat :=
  let w := max 1 (typeBits c.shufType)
  let n := c.recKib * 1024
  let f := 2 ^ c.shufF
  let u := 2 ^ c.shufUnit
  let plane := 8 * (n / w)
  match c.shufOp with
  | 1 =>
    let pos := b / w
    (pos / u % f) * (n / f * 8) + (pos / (f * u) * u + pos % u) * w + b % w
  | 2 =>
    let stream := b / (n / f * 8)
    let r := b % (n / f * 8)
    let e := r / w
    (e / u * f * u + stream * u + e % u) * w + r % w
  | 3 => b % plane * w + b / plane
  | 4 => b % w * plane + b / w
  | _ => b

/-- The destination record of a source record (R286). -/
def reshuffle (c : ChanCfg) (bs : List Byte) : List Byte :=
  if c.shufOp = 0 then bs else
  let v := leNat bs
  (List.range bs.length).map fun i =>
    BitVec.ofNat 8 (listMask ((List.range 8).filter fun k => bitOf v (shuffleBit c (8 * i + k))))

/-- Fill of a channel (R279). -/
def Chan.fill (x : Chan) : Nat := (x.p - x.c).toNat

/-- A channel that a run can start on (R282). -/
def Chan.eligible (x : Chan) : Bool :=
  x.state == .armed && (decide (x.cfg.high ≤ x.fill) || (x.flush && decide (1 ≤ x.fill)))

/-- The run ends after the record just drained (R283). -/
def Chan.runOver (x : Chan) : Bool :=
  x.drained == x.cfg.runLimit || (if x.flushRun then x.fill == 0 else decide (x.fill ≤ x.cfg.low))

namespace State

/-- A write to a producer register (R280). -/
def producerWrite (s : State) (ch : Nat) (v : Word32) : State :=
  let x := s.chan ch
  if chanArmed x ∧ (v - x.c).toNat ≤ 2 ^ x.cfg.log2 then s.modChan ch fun y => { y with p := v }
  else (s.modChan ch fun y => { y with refusedP := y.refusedP + 1 }).countEvent (0x58 + ch / 8) 13 {}

/-- A write to a flush register (R291). -/
def flushWrite (s : State) (ch : Nat) (v : Word32) : State :=
  if v.getLsbD 0 ∧ chanArmed (s.chan ch) then s.modChan ch fun y => { y with flush := true } else s

/-- The channel of a pacer whose run is in progress. -/
def runningChan (s : State) (p : Nat) : Option Nat :=
  ((List.range 8).map fun i => 8 * p + i).find? fun ch => (s.chan ch).state == .running

/-- Writes of a channel that are not answered. -/
def chanWrites (s : State) (ch : Nat) : List Request :=
  s.ports.requests.filter fun w => !w.late && (w.owner == .chanData ch || w.owner == .chanCons ch)

/-- The first eligible channel after the one served last (R282). -/
def nextChan (s : State) (p : Nat) : Option Nat :=
  ((List.range 8).map fun i => 8 * p + ((s.pacer p).last + 1 + i) % 8).find? fun ch => (s.chan ch).eligible

/-- The pacers run: the block serves and the central domain is in RUN. -/
def pacerServes (s : State) (p : Nat) : Bool := s.running && !s.centralAsleep && !(s.pacer p).stopped

/-- A run starts (R282); a fenced buffer span gives way to the lowest unfenced one first (16 R367). -/
def startRun (s : State) (p : Nat) : State :=
  if !s.pacerServes p ∨ (s.runningChan p).isSome then s else
  match s.nextChan p with
  | none => s
  | some ch =>
    let b := if s.spanFenced (s.chan ch).buffer then s.bufferSpan (s.chan ch).owner else (s.chan ch).buffer
    let s1 := s.modChan ch fun x =>
      { x with state := .running, flushRun := x.flush, drained := 0, phase := .draining, buffer := b, xlat := [] }
    (s1.modPacer p fun y => { y with last := ch % 8 }).raiseSpan b

/-- A pacer stops (R287): its armed channels are HELD, a run in progress is abandoned and will be drained again from its
first record under the flush it had, and a disarm that waited takes effect (log entry 22). -/
def stopPacer (s : State) (p cause : Nat) : State :=
  if (s.pacer p).stopped then s else
  let s1 := (s.modPacer p fun y => { y with stopped := true, cause }).countEvent (0x58 + p) (if cause = 0x48 then 4 else 7) {}
  (List.range 8).foldl (fun s i =>
    let ch := 8 * p + i
    let x := s.chan ch
    if x.state = .armed ∨ x.state = .running then
      let back := if x.state = .running then x.drained else 0
      let s2 := s.modChan ch fun y =>
        { y with state := .held, c := y.c - BitVec.ofNat 32 back, drained := 0, phase := .draining, flush := y.flush || y.cleared,
                 flushRun := false, cleared := false, xlat := [] }
      if x.disarm then s2.dropChannel ch .configured else s2
    else s) s1

/-- Drain the next record of the run (R279, R283, R286, R288). -/
def drainRecord (s : State) (p : Nat) : State :=
  match s.runningChan p with
  | none => s
  | some ch =>
    let x := s.chan ch
    if !s.pacerServes p ∨ x.phase ≠ .draining then s else
    let c := x.cfg
    let n := c.recKib * 1024
    let slot := x.c.toNat % 2 ^ c.log2 * n
    let own := x.owner
    match [c.src.toNat / 2 ^ 56, c.dst.toNat / 2 ^ 56].find? fun r => s.routeLost own r with
    | some r => (s.countRead 0x48 (routeUnit r) { part := some own }).stopPacer p 0x48
    | none =>
    match s.keys own x.xlat (c.src.toNat + slot) n with
    | none => s.askRange (.channel ch) own x.xlat 1 (c.src.toNat + slot) n
    | some ks =>
      let bad := (granulesOf ks).any s.store.poison.contains
      match s.place own x.xlat (c.dst.toNat + slot) (reshuffle c (ks.map s.store.get)) with
      | none => s.askRange (.channel ch) own x.xlat 2 (c.dst.toNat + slot) n
      | some bs =>
        let pois := if bad then granulesOf (bs.map fun b => locKey b.1 b.2.1) else []
        let s1 := s.issue (.chanData ch) own 0 (c.dst.toNat / 2 ^ 56) bs pois
        let s2 := if bad then s1.countEvent (0x58 + p) 5 {} else s1
        s2.modChan ch fun y =>
          let z := { y with c := y.c + 1, drained := y.drained + 1, records := y.records + 1,
                            poisoned := if bad then y.poisoned + 1 else y.poisoned }
          if z.runOver then { z with phase := .ended, flush := z.flush && z.fill != 0, cleared := z.flush && z.fill == 0 } else z

/-- Write C to the consumer word once every destination write of the run is acknowledged (R284). -/
def endRun (s : State) (p : Nat) : State :=
  match s.runningChan p with
  | none => s
  | some ch =>
    let x := s.chan ch
    if x.phase ≠ .ended ∨ !(s.chanWrites ch).isEmpty ∨ !s.pacerServes p then s else
    match s.place x.owner x.xlat x.cfg.cons.toNat (leBytes 4 x.c.toNat) with
    | none => s.askRange (.channel ch) x.owner x.xlat 2 x.cfg.cons.toNat 4
    | some bs =>
      (s.issue (.chanCons ch) x.owner 0 (x.cfg.cons.toNat / 2 ^ 56) bs []).modChan ch fun y => { y with phase := .consumer }

/-- Pulse the line once the consumer write is acknowledged; the channel is ARMED again, or CONFIGURED after a disarm (R284,
R290). -/
def pulseRun (s : State) (p : Nat) : State :=
  match s.runningChan p with
  | none => s
  | some ch =>
    let x := s.chan ch
    if x.phase ≠ .consumer ∨ !(s.chanWrites ch).isEmpty then s else
    let s1 := (s.modChan ch fun y =>
      { y with state := .armed, drained := 0, phase := .draining, flushRun := false, cleared := false, runs := y.runs + 1, xlat := [] }).emit (.evt ch)
    if x.disarm then s1.dropChannel ch .configured else s1

end State

/-- PRODUCER (R280). -/
def execProducer (ch : Nat) (value : Word32) (s : State) : Ans :=
  .next (s.regWrite (0x30000 + 0x1000 * (ch / 8) + 0x40 * (ch % 8)) value fun s => s.producerWrite ch value)

/-- FLUSH_SET (R291). -/
def execFlushSet (ch : Nat) (value : Word32) (s : State) : Ans :=
  .next (s.regWrite (0x30000 + 0x1000 * (ch / 8) + 0x40 * (ch % 8) + 8) value fun s => s.flushWrite ch value)

/-- RUN_START (R282). -/
def execRunStart (pacer : Nat) (s : State) : Ans := .next (s.startRun pacer)

/-- RECORD_DRAINED (R283). -/
def execRecordDrained (pacer : Nat) (s : State) : Ans := .next (s.drainRecord pacer)

/-- RUN_END (R284). -/
def execRunEnd (pacer : Nat) (s : State) : Ans := .next (s.endRun pacer)

/-- EVT_OUT_PULSE (R284). -/
def execEvtOutPulse (pacer : Nat) (s : State) : Ans := .next (s.pulseRun pacer)

end Sys2Proof.Machine
end

