-- ==== Sys2Proof/Machine/Registers.lean ====
section
/-! DEFINITION. The register window (20): the value of every register, the access codes of 00 R10, latches and shadows of 64-bit
registers, the administrative queue block, event slots, and the commands that write and read registers. -/

namespace Sys2Proof.Machine
namespace State

/-! Administrative queues (R466-R468). -/

def aqState (s : State) (p : Nat) : Nat := match s.queue? (.adm p) with | some x => stateCode x.state | none => 0

/-- Give a command of an administrative queue block its outcome. -/
def aqDone (s : State) (p cmd code : Nat) : State :=
  s.modPart p fun x => { x with aq := { x.aq with cmd, code := BitVec.ofNat 8 code, busy := false, level := none } }

/-- The outcome of CREATE, before the queue is made; the commit rule is taken before the region checks (log entry 23). -/
def aqCreateCode (s : State) (p : Nat) : Nat :=
  let a := (s.part p).aq
  let k := a.log2.toNat
  let pd := a.pd.toNat
  let ring := a.ring.toNat
  let st := a.status.toNat
  if k < 4 ∨ 16 < k ∨ ringBad ring ∨ (p = 0 ∧ ring / 2 ^ 56 ≠ 0) ∨ statusBad st then 0x02
  else if p ≠ 0 ∧ !s.prof.committed then 0xC2
  else match (if p = 0 then none else s.rangesFail p pd (queueRanges ring k st)) with
    | some (c, _) => c
    | none => if (s.live? (.adm p)).isSome then 0xC2 else 0

/-- CREATE (R467): the queue stands ACTIVE with H = A = 0 and writes its status line. -/
def aqCreate (s : State) (p : Nat) : State :=
  let a := (s.part p).aq
  let c := s.aqCreateCode p
  if c ≠ 0 then s.aqDone p 1 c else
  (s.createQueue_ { qid := .adm p, part := p, ring := a.ring, log2 := a.log2.toNat, status := a.status,
                    pd := if p = 0 then 0 else a.pd.toNat }).aqDone p 1 0

/-- CONTEXT_RESET (R467, 18 R408): BUSY stands until the level finishes (R468). -/
def aqReset (s : State) (p : Nat) : State :=
  match s.live? (.adm p) with
  | none => s.aqDone p 2 0x02
  | some x =>
    if x.state = .reset then s.aqDone p 2 0x02 else
    let r := s.startLevel (.context (.adm p)) [] none
    r.1.modPart p fun y => { y with aq := { y.aq with cmd := 2, busy := true, level := some r.2 } }

/-- RESUME (R467). -/
def aqResume (s : State) (p : Nat) : State :=
  match s.live? (.adm p) with
  | none => s.aqDone p 3 0x02
  | some x =>
    if x.state = .reset ∨ x.state = .stopped then (s.setQState (.adm p) .active).aqDone p 3 0 else s.aqDone p 3 0x02

/-- DESTROY (R467); a queue that does not exist has no row of 03 R100. -/
def aqDestroy (s : State) (p : Nat) : State :=
  match s.live? (.adm p) with
  | none => s.aqDone p 4 0x02
  | some x =>
    if !x.open_.isEmpty ∨ (p = 0 ∧ (s.queues.any fun y => y.state != .destroyed && notA0 y)) then s.aqDone p 4 0xC2
    else (s.setQState (.adm p) .destroyed).aqDone p 4 0

/-- A write of AQ_CMD: ignored while BUSY is 1, and for a partition the profile does not define (R466, R468, R473). -/
def aqCommand (s : State) (p cmd : Nat) : State :=
  if (s.part p).aq.busy ∨ (p ≠ 0 ∧ !s.defined p) then s else
  match cmd with
  | 1 => s.aqCreate p
  | 2 => s.aqReset p
  | 3 => s.aqResume p
  | 4 => s.aqDestroy p
  | _ => s

/-- Offset of an administrative queue block, less its +0x10 (R466). -/
def aqBase (p : Nat) : Nat := if p = 0 then 0x3000 else 0x100000 + (p - 1) * 0x10000

/-! Event slots (R465, R474). -/

/-- The check of a partition's event slot under a domain. -/
def slotCheck (s : State) (p slot pd : Nat) : Bool :=
  slot / 2 ^ 56 == 0 && slot % 16 == 0 && (s.rangesFail p pd [(slot, 16, false, true)]).isNone

/-- The upper-word write of EVENT_SLOT (R474). -/
def setEventSlot (s : State) (p : Nat) (v : Word64) : State :=
  if v = 0 ∨ s.slotCheck p v.toNat (s.part p).eventPd.toNat then
    s.modPart p fun x => { x with eventSlot := v, slotRefused := false }
  else s.modPart p fun x => { x with slotRefused := true }

/-- A write of EVENT_PD (R474). -/
def setEventPd (s : State) (p : Nat) (v : Word32) : State :=
  let x := s.part p
  let pd := v.toNat % 64
  if x.eventSlot = 0 then s.modPart p fun y => { y with eventPd := BitVec.ofNat 6 pd }
  else if s.slotCheck p x.eventSlot.toNat pd then
    s.modPart p fun y => { y with eventPd := BitVec.ofNat 6 pd, slotRefused := false }
  else s.modPart p fun y => { y with slotRefused := true }

/-- A write of OWNER_EVENT_SLOT (R465). -/
def setOwnerSlot (s : State) (v : Word64) : State :=
  if v.toNat / 2 ^ 56 = 0 ∧ v.toNat % 16 = 0 then { s with keeper := { s.keeper with ownerSlot := v } } else s

/-! OFF (16 R383). -/

def offRequest (s : State) : State :=
  match s.offBar with
  | some c => s.refuseCentral c
  | none => { s with block := { s.block with offEntry := true } }

/-! Values (R461-R473). -/

def b2n (b : Bool) : Nat := if b then 1 else 0

/-- DECK_SIZE (R461). -/
def deckSize (s : State) : Nat :=
  if s.ports.deckFault ∨ s.ports.vpUp = 0 then 1 else ((List.range 8).filter s.reached).length

def profStatus (s : State) : Nat :=
  let p := s.prof
  p.selected.toNat + 4 * b2n p.activeS + 8 * b2n p.committed + 16 * b2n p.oneCopy + 32 * b2n p.disagree + 64 * b2n p.bad +
  128 * b2n p.commitFault + 256 * p.pselSampled.toNat + 2 ^ 16 * p.failA.toNat + 2 ^ 20 * p.failB.toNat

def pstate : PState → Nat | .run => 0 | .idle => 1 | .sleep => 2 | .deep => 3

def chState : ChState → Nat | .free => 0 | .configured => 1 | .armed => 2 | .running => 3 | .held => 4

def identityReg (s : State) (o : Nat) : Nat :=
  match o with
  | 0x00 => 0x5CEB + 2 ^ 16 * Config.majorLevel.toNat + 2 ^ 24 * Config.minorLevel.toNat
  | 0x04 => s.block.deckId.toNat + 256 * s.deckSize
  | 0x08 => b2n s.block.testLock + 2 * b2n s.block.debugArmed
  | 0x10 => s.profStatus
  | 0x18 => s.regs.ownerCtx.toNat
  | _ => 0

def keeperReg (s : State) (o : Nat) : Nat :=
  let k := s.keeper
  match o with
  | 0x00 => b2n k.alive + 2 * b2n k.frozen + 4 * b2n k.lockstepOk + 8 * b2n k.oscRc + 16 * b2n k.oscTrimmed + 256 * k.ready.toNat
  | 0x08 => k.lastSeq.toNat + 2 ^ 16 * b2n k.anyInc
  | _ => 0

def centralReg (s : State) (o : Nat) : Nat :=
  let c := s.central
  match o with
  | 0x00 => pstate c.power + 4 * b2n c.deepEnable + 256 * c.lastRefuser.toNat + 2 ^ 16 * c.dwell.toNat
  | 0x08 => c.refused.toNat
  | 0x0C => c.aborted.toNat
  | 0x10 => c.wakeCause.toNat
  | 0x20 => c.wakeTimer.toNat
  | 0x30 => s.retEstMa + 2 ^ 16 * (max 0 (min 255 c.temp)).toNat
  | 0x34 => s.leThresh + 256 * b2n c.leArmed
  | _ => 0

/-- The administrative queue block of a partition, 0 for A0. -/
def aqReg (s : State) (p o : Nat) : Nat :=
  let a := (s.part p).aq
  match o with
  | 0x20 => a.log2.toNat + 256 * a.pd.toNat
  | 0x28 => a.code.toNat + 256 * b2n a.busy + 2 ^ 16 * s.aqState p
  | _ => 0

def faultReg (s : State) (u o : Nat) : Nat :=
  let f := s.unit u
  if presentMask u = 0 then 0 else
  match o with
  | 0x00 => statusReg f
  | 0x04 => severeReg f
  | 0x08 => f.irqEn.toNat
  | 0x0C => f.policy.toNat
  | 0x10 => countReg f 0
  | 0x14 => countReg f 1
  | 0x18 => countReg f 2
  | 0x1C => countReg f 3
  | 0x20 => f.inject.toNat
  | _ => 0

def spanReg (s : State) (n o : Nat) : Nat :=
  let x := s.span n
  match o with
  | 0x00 => pstate x.power + 4 * b2n x.deepEnable + 256 * x.lastRefuser.toNat
  | 0x04 => x.sleepDwell.toNat + 2 ^ 16 * x.deepDwell.toNat
  | 0x08 => x.refused.toNat
  | 0x0C => x.aborted.toNat
  | 0x10 => s.condition n + 4 * activeOf x.cores + 2 ^ 8 * fencedOf x.cores + 2 ^ 16 * activeOf x.pipes + 2 ^ 24 * s.spanOwner n
  | _ => 0

def pacerReg (s : State) (p o : Nat) : Nat :=
  if o = 0x800 then b2n (s.pacer p).stopped + 256 * (s.pacer p).cause
  else if 0x200 ≤ o then 0 else
  let x := s.chan (8 * p + o / 0x40)
  match o % 0x40 with
  | 0x00 => x.p.toNat
  | 0x04 => x.c.toNat
  | 0x08 => 2 * b2n x.flush
  | 0x0C => chState x.state
  | _ => 0

/-- PORT_STATUS (R471). -/
def portStatus (s : State) : Nat :=
  s.ports.memReady.toNat + 2 ^ 8 * s.img 0x0C 1 + 2 ^ 16 * s.ports.vpUp.toNat + 2 ^ 18 * b2n s.ports.deckFault +
  2 ^ 24 * listMask ((List.range 8).filter s.reached)

/-- The 64-bit register whose lower word lies at an offset, if one does (R460). -/
def reg64? (s : State) (off : Nat) : Option Nat :=
  if off = 0x1010 then some s.keeper.ownerSlot.toNat
  else if off = 0x2018 then some s.central.wakeSpans.toNat
  else if off = 0x2028 then some s.central.timerSpans.toNat
  else if off = 0x3010 then some (s.part 0).aq.ring.toNat
  else if off = 0x3018 then some (s.part 0).aq.status.toNat
  else if off = 0x40008 then some s.ports.leRise.toNat
  else if off = 0x40010 then some s.ports.leFall.toNat
  else if 0x30000 ≤ off ∧ off < 0x38000 ∧ off % 0x1000 < 0x200 then
    let x := s.chan (8 * ((off - 0x30000) / 0x1000) + off % 0x1000 / 0x40)
    match off % 0x40 with
    | 0x10 => some x.records.toNat
    | 0x18 => some x.runs.toNat
    | 0x20 => some x.poisoned.toNat
    | 0x28 => some x.refusedP.toNat
    | _ => none
  else if 0x100000 ≤ off ∧ off < 0x180000 then
    let p := off / 0x10000 - 0xF
    let o := off % 0x10000
    if !s.defined p then none
    else if o = 0x008 then some (listMask (s.partSpans p))
    else if o = 0x010 then some (s.part p).aq.ring.toNat
    else if o = 0x018 then some (s.part p).aq.status.toNat
    else if o = 0x040 then some (s.part p).eventSlot.toNat
    else if o = 0x100 then some (s.part p).inflightHolds.toNat
    else if o = 0x108 then some (s.part p).inboundBytes.toNat
    else if o = 0x110 then some (s.part p).inboundRefused.toNat
    else if 0x400 ≤ o ∧ o < 0x400 + 16 * 35 ∧ o % 8 = 0 then some (((s.part p).portBytes.getD ((o - 0x400) / 8) 0).toNat)
    else if 0x8000 ≤ o ∧ o < 0x8000 + 32 * s.qidCount p ∧ o % 8 = 0 then
      match s.queue? (.io (s.qidFirst p + (o - 0x8000) / 32)) with
      | some q => some (match o % 32 / 8 with
        | 0 => q.admittedJobs.toNat | 1 => q.admittedBytes.toNat | 2 => q.decodeFails.toNat | _ => q.bucketHolds.toNat)
      | none => some 0
    else none
  else none

/-- The value of a 32-bit register; 0 at an offset that no table names (R459). -/
def reg32 (s : State) (off : Nat) : Nat :=
  if off < 0x1000 then s.identityReg off
  else if off < 0x2000 then s.keeperReg (off - 0x1000)
  else if off < 0x3000 then s.centralReg (off - 0x2000)
  else if off < 0x4000 then s.aqReg 0 (off - 0x3000)
  else if off < 0x47FC then s.img (off - 0x4000) 4
  else if off = 0x47FC then s.prof.crc.toNat
  else if 0x10000 ≤ off ∧ off < 0x11800 then s.faultReg ((off - 0x10000) / 0x40) (off % 0x40)
  else if 0x20000 ≤ off ∧ off < 0x20A00 then s.spanReg ((off - 0x20000) / 0x40) (off % 0x40)
  else if 0x30000 ≤ off ∧ off < 0x38000 then s.pacerReg ((off - 0x30000) / 0x1000) (off % 0x1000)
  else if off = 0x40000 then s.portStatus
  else if 0x100000 ≤ off ∧ off < 0x180000 then
    let p := off / 0x10000 - 0xF
    let o := off % 0x10000
    if !s.defined p then 0
    else if o = 0 then p + 2 ^ 8 * s.qidFirst p + 2 ^ 20 * s.qidCount p
    else if o = 0x20 ∨ o = 0x28 then s.aqReg p o
    else if o = 0x48 then (s.part p).eventPd.toNat + 256 * b2n (s.part p).slotRefused
    else 0
  else 0

/-! Reads (R460, R464). -/

/-- Word k of an incident entry. -/
def incWord (r : BitVec 128) (k : Nat) : Word32 := BitVec.ofNat 32 (r.toNat / 2 ^ (32 * k))

/-- A 32-bit read: the value, and the latches it sets. -/
def readWord (s : State) (off : Nat) : State × Word32 :=
  if 0x1100 ≤ off ∧ off < 0x1200 then
    let e := (off - 0x1100) / 16
    if off % 16 = 0 then
      ({ s with keeper := { s.keeper with ringLatch := modAt s.keeper.ringLatch e fun _ => s.keeper.ring.getD e 0 } },
       incWord (s.keeper.ring.getD e 0) 0)
    else (s, incWord (s.keeper.ringLatch.getD e 0) (off % 16 / 4))
  else match s.reg64? off with
    | some v => ({ s with regs := { s.regs with latch := assocPut s.regs.latch off (BitVec.ofNat 32 (v / 2 ^ 32)) } }, BitVec.ofNat 32 v)
    | none =>
      if (s.reg64? (off - 4)).isSome ∧ 4 ≤ off then (s, lookupD s.regs.latch (off - 4) 0)
      else (s, BitVec.ofNat 32 (s.reg32 off))

def doRead (s : State) (off : Nat) : State :=
  let r := s.readWord off
  r.1.emit (.regData off r.2)

/-- A 32-bit host read: at once, or after the wake it causes (16 R374). -/
def hostRead (s : State) (off : Nat) : State :=
  if !s.regsOpen then s
  else if s.centralAsleep && !powerPage off then s.deferAccess off none
  else s.doRead off

/-! Writes (00 R10, R460). -/

/-- The value of a 64-bit register that software sets; the register's own rule applies. Offsets name lower words. -/
def write64 (s : State) (off : Nat) (v : Word64) : State :=
  if off = 0x1010 then s.setOwnerSlot v
  else if off = 0x2018 then { s with central := { s.central with wakeSpans := BitVec.ofNat 64 (v.toNat % 2 ^ 40) } }
  else if off = 0x2028 then { s with central := { s.central with timerSpans := BitVec.ofNat 64 (v.toNat % 2 ^ 40) } }
  else if off = 0x3010 then s.modPart 0 fun x => { x with aq := { x.aq with ring := v } }
  else if off = 0x3018 then s.modPart 0 fun x => { x with aq := { x.aq with status := v } }
  else
    let p := off / 0x10000 - 0xF
    match off % 0x10000 with
    | 0x010 => s.modPart p fun x => { x with aq := { x.aq with ring := v } }
    | 0x018 => s.modPart p fun x => { x with aq := { x.aq with status := v } }
    | 0x040 => s.setEventSlot p v
    | _ => s

/-- A 64-bit register that software may write, and that takes writes now (R466, R473). -/
def writable64 (s : State) (off : Nat) : Bool :=
  off == 0x1010 || off == 0x2018 || off == 0x2028 ||
  ((off == 0x3010 || off == 0x3018) && s.aqState 0 == 0) ||
  (decide (0x100000 ≤ off ∧ off < 0x180000) && s.defined (off / 0x10000 - 0xF) &&
    (off % 0x10000 == 0x040 || ((off % 0x10000 == 0x010 || off % 0x10000 == 0x018) && s.aqState (off / 0x10000 - 0xF) == 0)))

/-- A write of the lower word goes to the shadow; one of the upper word sets the register (R460). -/
def writeLower (s : State) (off : Nat) (v : Word32) : State :=
  { s with regs := { s.regs with shadow := assocPut s.regs.shadow off v } }
def writeUpper (s : State) (off : Nat) (v : Word32) : State :=
  s.write64 off (v ++ lookupD s.regs.shadow off 0)

/-- W1C on a number of width 32. -/
def w1c (cur v : Word32) : Word32 := cur &&& ~~~v

def writeAqBlock (s : State) (p o : Nat) (v : Word32) : State :=
  match o with
  | 0x20 => if s.aqState p ≠ 0 then s else
      s.modPart p fun x => { x with aq := { x.aq with log2 := BitVec.ofNat 5 v.toNat, pd := BitVec.ofNat 6 (bitsOf v.toNat 13 8) } }
  | 0x24 => s.aqCommand p (v.toNat % 8)
  | _ => s

/-- A W1C write of the profile status (15 R354). -/
def profStatusWrite (s : State) (v : Word32) : State :=
  { s with prof := { s.prof with
      oneCopy := s.prof.oneCopy && !v.getLsbD 4, disagree := s.prof.disagree && !v.getLsbD 5, bad := s.prof.bad && !v.getLsbD 6,
      commitFault := s.prof.commitFault && !v.getLsbD 7 } }

/-- A write of WAKE_TIMER (16 R385). -/
def wakeTimerWrite (s : State) (v : Word32) : State :=
  { s with central := { s.central with wakeTimer := v, timerFired := false } }

def centralWrite (s : State) (o : Nat) (v : Word32) : State :=
  match o with
  | 0x00 =>
    let s1 := { s with central := { s.central with deepEnable := v.getLsbD 2, dwell := BitVec.ofNat 16 (v.toNat / 2 ^ 16) } }
    if v.getLsbD 3 then s1.offRequest else s1
  | 0x10 => { s with central := { s.central with wakeCause := w1c s.central.wakeCause v } }
  | 0x20 => s.wakeTimerWrite v
  | 0x34 => if s.prof.committed then s else
      { s with prof := { s.prof with image := memPut s.prof.image 0x0F (BitVec.ofNat 8 (v.toNat % 64)) 0 } }
  | _ => s

def faultWrite (s : State) (u o : Nat) (v : Word32) : State :=
  match o with
  | 0x00 => s.statusClear u v
  | 0x04 => s.severeClear u v
  | 0x08 => s.modUnit u fun f => { f with irqEn := BitVec.ofNat 32 (Nat.land v.toNat (presentMask u)) }
  | 0x0C => s.policyWrite u v
  | 0x20 => s.injectWrite u v
  | _ => s

def spanWrite (s : State) (n o : Nat) (v : Word32) : State :=
  match o with
  | 0x00 => s.modSpan n fun x => { x with deepEnable := v.getLsbD 2 }
  | 0x04 => s.modSpan n fun x => { x with sleepDwell := BitVec.ofNat 16 v.toNat, deepDwell := BitVec.ofNat 16 (v.toNat / 2 ^ 16) }
  | _ => s

/-- A 32-bit register write, whatever the register (R459). -/
def writeWord (s : State) (off : Nat) (v : Word32) : State :=
  if s.writable64 off then s.writeLower off v
  else if 4 ≤ off ∧ s.writable64 (off - 4) then s.writeUpper (off - 4) v
  else if off = 0x10 then s.profStatusWrite v
  else if off = 0x14 then s.commitWrite v
  else if off = 0x18 then { s with regs := { s.regs with ownerCtx := v } }
  else if 0x2000 ≤ off ∧ off < 0x3000 then s.centralWrite (off - 0x2000) v
  else if 0x3000 ≤ off ∧ off < 0x4000 then s.writeAqBlock 0 (off - 0x3000) v
  else if 0x4000 ≤ off ∧ off < 0x4800 then s.windowWrite (off - 0x4000) v
  else if 0x10000 ≤ off ∧ off < 0x11800 then s.faultWrite ((off - 0x10000) / 0x40) (off % 0x40) v
  else if 0x20000 ≤ off ∧ off < 0x20A00 then s.spanWrite ((off - 0x20000) / 0x40) (off % 0x40) v
  else if 0x30000 ≤ off ∧ off < 0x38000 ∧ off % 0x1000 < 0x200 then
    let ch := 8 * ((off - 0x30000) / 0x1000) + off % 0x1000 / 0x40
    if off % 0x40 = 0 then s.producerWrite ch v else if off % 0x40 = 8 then s.flushWrite ch v else s
  else if 0x100000 ≤ off ∧ off < 0x180000 then
    let p := off / 0x10000 - 0xF
    if !s.defined p then s
    else if off % 0x10000 = 0x48 then s.setEventPd p v
    else s.writeAqBlock p (off % 0x10000) v
  else s

/-- A 32-bit host write: at once, or after the wake it causes (16 R374). -/
def hostWrite (s : State) (off : Nat) (v : Word32) : State := s.regWrite off v fun s => s.writeWord off v

/-- The register accesses that waited for the central domain, in order of arrival. -/
def runDeferred (s : State) : State :=
  s.central.deferred.foldl (fun s d => match d.2 with | some v => s.writeWord d.1 v | none => s.doRead d.1)
    { s with central := { s.central with deferred := [] } }

end State

/-- CREATE (R467): AQ_CMD 1. -/
def execCreate (p : Nat) (s : State) : Ans := .next (s.regWrite (State.aqBase p + 0x24) 1 fun s => s.aqCommand p 1)

/-- CONTEXT_RESET (R467): AQ_CMD 2. -/
def execContextReset (p : Nat) (s : State) : Ans := .next (s.regWrite (State.aqBase p + 0x24) 2 fun s => s.aqCommand p 2)

/-- RESUME (R467): AQ_CMD 3. -/
def execResume (p : Nat) (s : State) : Ans := .next (s.regWrite (State.aqBase p + 0x24) 3 fun s => s.aqCommand p 3)

/-- DESTROY (R467): AQ_CMD 4. -/
def execDestroy (p : Nat) (s : State) : Ans := .next (s.regWrite (State.aqBase p + 0x24) 4 fun s => s.aqCommand p 4)

/-- OFF_REQ (16 R383): the bit of a write that requests OFF. -/
def execOffReq (value : Word32) (s : State) : Ans :=
  .next (s.regWrite 0x2000 value fun s => s.centralWrite 0 value)

/-- WAKE_TIMER (16 R385). -/
def execWakeTimer (value : Word32) (s : State) : Ans := .next (s.regWrite 0x2020 value fun s => s.wakeTimerWrite value)

/-- LOWER_WORD_READ (R460): acts on the lower word of a 64-bit register. -/
def execLowerWordRead (off : Nat) (s : State) : Ans := .next (if (s.reg64? off).isSome then s.hostRead off else s)

/-- UPPER_WORD_WRITE (R460): acts on the upper word of a 64-bit register that takes writes. -/
def execUpperWordWrite (off : Nat) (value : Word32) (s : State) : Ans :=
  .next (if 4 ≤ off ∧ s.writable64 (off - 4) then s.regWrite off value fun s => s.writeUpper (off - 4) value else s)

/-- INCIDENT_WORD0_READ (R464). -/
def execIncidentWord0Read (e : Nat) (s : State) : Ans := .next (s.hostRead (0x1100 + 16 * e))

/-- EVENT_SLOT (R474): the upper-word write. -/
def execEventSlot (p : Nat) (value : Word32) (s : State) : Ans :=
  .next (if s.defined p then s.hostWrite (State.aqBase p + 0x44) value else s)

/-- EVENT_PD (R474). -/
def execEventPd (p : Nat) (value : Word32) (s : State) : Ans :=
  .next (if s.defined p then s.regWrite (State.aqBase p + 0x48) value fun s => s.setEventPd p value else s)

/-- OWNER_EVENT_SLOT (R465): the upper-word write. -/
def execOwnerEventSlot (value : Word32) (s : State) : Ans :=
  .next (s.regWrite 0x1014 value fun s => s.writeUpper 0x1010 value)

/-- REGISTER_WRITE (00 R10, 19 R437): 32 bits, or 64 bits as two accesses at the lower offset first; a hardware event of its clock comes
after it (00 R12). -/
def execRegisterWrite (off width : Nat) (value : RegData 64) (s : State) : Ans :=
  .next ((if off % max 1 width ≠ 0 ∨ 0x400000 ≤ off then s
    else if width = 4 then s.hostWrite off (value.bits.setWidth 32)
    else if width = 8 then
      (s.hostWrite off (value.bits.setWidth 32)).hostWrite (off + 4) ((value.bits >>> 32).setWidth 32)
    else s).hwEvent value.also)

/-- REGISTER_READ (16 R374, 19 R437, 03 R81): an access of another width or alignment reads zero, and one of 64 bits is two of
32 bits at the lower offset first; offsets of 0x40_0000 and above stand for the doorbell window, whose reads wake nothing (log
entry 4). -/
def execRegisterRead (off width : Nat) (s : State) : Ans :=
  .next (if !s.regsOpen then s
    else if off % max 1 width ≠ 0 ∨ (width ≠ 4 ∧ width ≠ 8) then s.emit (.regData off 0)
    else if 0x400000 ≤ off then
      let s1 := s.emit (.regData off (s.bellRead (off - 0x400000)))
      if width = 4 then s1 else s1.emit (.regData (off + 4) (s.bellRead (off + 4 - 0x400000)))
    else if width = 4 then s.hostRead off
    else (s.hostRead off).hostRead (off + 4))

end Sys2Proof.Machine
end

