-- ==== Sys2Proof/Machine/Domains.lean ====
section
/-! DEFINITION. Power domains, wake sources, OFF, supply and clocks (16, 21): TIMER_WAKE, SLEEP_DWELL_EXPIRY,
DEEP_DWELL_EXPIRY, CENTRAL_DWELL_EXPIRY, POWER_ENTRY_DONE, DOMAIN_EXIT, POWER_STEP_TIMEOUT, WAKE_N, LINK_ENERGY, BROWNOUT,
OFF_ENTRY_DONE, POWER_CAP_CHECK, OPERATING_POINT_DONE, OSC_CALIBRATION, REF_CLK_LOSS, REF_CLK_RETURN, REF_CLK_LOSS_TIMEOUT. -/

namespace Sys2Proof.Machine
namespace State

/-- An admitted job of the span's partition has a tile that no thread has taken (16 R369). -/
def tileWaiting (s : State) (n : Nat) : Bool :=
  s.jobs.any fun j => j.part == s.spanOwner n && j.phase == .running && !j.stopped && j.early.isNone && (!j.again.isEmpty || decide (j.next < j.tiles))

/-- A span in a state from which its dwell leads on: in service, assigned, not fenced, not in transition, with no work. -/
def canDescend (s : State) (n : Nat) (from_ : PState) : Bool :=
  let x := s.span n
  s.inService && x.power == from_ && x.trans.isNone && x.fence == .none && s.spanOwner n != 0 && !s.spanBusy n &&
  !s.tileWaiting n && !s.spanHeld n

def setTemp (s : State) (t : Int) : State := { s with central := { s.central with temp := t } }

/-- The sleep dwell of a span completes (16 R369, R372). -/
def sleepEntry (s : State) (n : Nat) : State :=
  if !s.canDescend n .idle ∨ (s.span n).sleepDwell = 0 then s else
  match s.floorOn n with
  | some (f, h) => if f ≤ 1 then s.refuseSpan n h else s.modSpan n fun x => { x with trans := some .toSleep }
  | none => s.modSpan n fun x => { x with trans := some .toSleep }

/-- The deep dwell of a span completes; `t` and `load` are what the keeper measures (16 R369, R372, R373, R381). -/
def deepEntry (s : State) (n : Nat) (t : Int) (load : Nat) : State :=
  if !s.canDescend n .sleep ∨ (s.span n).deepDwell = 0 ∨ !(s.span n).deepEnable then s else
  let s1 := s.setTemp t
  match s1.floorOn n with
  | some (_, h) => s1.refuseSpan n h
  | none =>
    if 480000 < estUa (s1.deepUnits (some n) false) t then s1.refuseSpan n 0x14
    else if 480 < load then s1.modSpan n fun x => { x with aborted := satAdd 32 x.aborted 1 }
    else s1.modSpan n fun x => { x with trans := some .toDeep }

/-- The central dwell completes (16 R370, R372, R373). -/
def centralEntry (s : State) (t : Int) (load : Nat) : State :=
  let c := s.central
  if !s.running ∨ c.power ≠ .run ∨ c.trans.isSome ∨ !c.deepEnable ∨ c.dwell = 0 then s else
  let s1 := s.setTemp t
  match s1.centralBar t with
  | some k => s1.refuseCentral k
  | none =>
    if 480 < load then { s1 with central := { s1.central with aborted := satAdd 32 s1.central.aborted 1 } }
    else { s1 with central := { s1.central with trans := some .toDeep } }

/-- A central entry completes, and a wake that arrived during it begins the exit at once (16 R376). -/
def centralEntered (s : State) : State :=
  if s.central.trans = some .toDeep then
    let s0 := s.dropCentral
    let s1 := { s0 with central := { s0.central with power := .deep, trans := none, wakeAfter := false } }
    if s.central.wakeAfter then s1.wakeCentral else s1
  else s

/-- Doorbells captured while the central domain slept, in capture order (16 R375). -/
def runCaptured (s : State) : State :=
  s.central.captured.foldl (fun s c => s.evalBell c.qid c.tail) { s with central := { s.central with captured := [] } }

/-- Doorbells captured before a block compute-part reset: only A0 outlives it (16 R375, 18 R408). -/
def runKept (s : State) : State :=
  ({ s with central := { s.central with captured := s.central.captured.filter fun (c : Captured) => c.qid == QId.adm 0 } }).runCaptured

/-- The central domain reaches RUN; after a loss of retained queue or region context its exit is a block compute-part reset, for a
lost queue context the BLOCK reaction at unit 0x30 (16 R375, R382, 03 R92). -/
def centralExited (s : State) : State :=
  if s.central.trans = some .exitDeep then
    let s1 := { s with central := { s.central with power := .run, trans := none } }
    if s.central.exitReset then
      let s2 := { s1 with central := { s1.central with exitReset := false } }
      let lost := (s.queues.filter (·.lost)).map (·.qid)
      let s3 := if lost.isEmpty then (s2.startLevel .block [] none).1 else s2.loseContexts lost 0xF
      (({ s3 with central := { s3.central with trans := none, wakeAfter := false } }).runKept).runDeferred
    else if s.levels.any fun l => l.scope == .block then s1.runKept.runDeferred
    else s1.runCaptured.runDeferred
  else s

/-- A span misses a step of R363 or R364: the first time an incident and a span reset, the second time, before a block
compute-part reset, a keeper fence (16 R365). A fence that would leave the partition with no span is BLOCK (18 R422). -/
def spanMissed (s : State) (n step : Nat) : State :=
  let s1 := s.countEvent n 8 {}
  let part := s.spanOwner n
  if (s.span n).missed then
    if part ≠ 0 ∧ s.lastSpan n then
      ((s1.cause n { seq := 0, source := 8, cause := 2, step, level := 5, part }).startLevel .block [n] none).1
    else
      let r := (s1.cause n { seq := 0, source := 8, cause := 2, step, level := 1, part }).fenceSpan n .byKeeper
      r.1.modIncident n fun x => { x with reacted := true, killed := x.killed ++ r.2 }
  else
    let s2 := (s1.cause n { seq := 0, source := 8, cause := 2, step, level := 3, part }).modSpan n fun x => { x with missed := true }
    (s2.startLevel (.span n) [n] none).1

/-- The central domain misses a step: a block compute-part reset (16 R365), which takes the domain through DEEP_SLEEP to RUN; what
waits for RUN goes on there. -/
def centralMissed (s : State) (step : Nat) : State :=
  let s1 := (s.countEvent 0x31 8 {}).cause 0x31 { seq := 0, source := 8, cause := 2, step, level := 5 }
  (({ s1 with block := { s1.block with offEntry := false } }).startLevel .block [0x31] none).1

/-- Steps of R363 and R364 that a span's state or transition can miss. -/
def spanSteps (x : Span) : List Nat :=
  match x.trans with
  | some .toSleep => [3]
  | some .toDeep => [5]
  | some .exitSleep => [1, 2, 3, 4]
  | some .exitDeep => [5, 6, 7, 8]
  | none => match x.power with | .idle => [1] | .run => [2] | _ => []

/-- The same for the central domain, whose exit follows the DEEP_SLEEP rows, and for an entry to OFF. -/
def centralSteps (s : State) : List Nat :=
  (if s.block.offEntry then [9] else []) ++
  match s.central.trans with
  | some .toDeep => [7]
  | some .exitDeep => [5, 6, 7, 8]
  | _ => []

/-- Wakes of LINK_ENERGY, WAKE_N and the timer (16 R374). -/
def wakeBy (s : State) (bit : Nat) (mask : Word64) : State :=
  ((s.wakeBit bit).wakeCentral).raiseSpans (maskList 40 mask.toNat)

/-- The comparator's input has stood at a level for 4 keeper ticks: an event at or above V_T when armed, a rearm at or below the larger
of V_T - 25 mV and 0 otherwise; V_T is LE_THRESH x 12.5 mV (16 R377). -/
def comparator (s : State) (mv : Nat) : State :=
  let rise := s.central.leArmed
  let vt := 25 * s.leThresh
  if s.leThresh = 0 ∨ (rise ∧ 2 * mv < vt) ∨ (!rise ∧ vt - 50 < 2 * mv) then s else
  let s1 := { s with central := { s.central with leArmed := !rise } }
  if s.leOwner then
    let p := s1.ports
    let s2 := { s1 with ports := { p with leRise := if rise then p.leRise + 1 else p.leRise,
                                          leFall := if rise then p.leFall else p.leFall + 1 } }
    s2.countEvent 0x50 14 {}
  else if rise then s1.wakeBy 1 s1.central.wakeSpans else s1

/-- A retention brown-out: every retained bank is lost (16 R382), and with queue context RAM the context of every queue (03 R92) but
A0's, which R382's example keeps (DEDUCED, log entry 91). -/
def retentionLost (s : State) : State :=
  let s1 := (List.range 40).foldl (fun s n =>
    if (s.span n).power = .deep then s.clearSpan n (List.range 4) (List.range 8) else s) s
  let held := s.central.power == .deep && s.retCentral != 0
  let s1 := if s.central.power == .deep && bitOf s.retCentral 0 then
      { s1 with queues := s1.queues.map fun x => if x.state == .destroyed || x.qid == .adm 0 then x else { x with lost := true } } else s1
  let s2 := { s1 with central := { s1.central with retCut := true, exitReset := s1.central.exitReset || held } }
  let s3 := (s2.wakeBit 8).countEvent 0x31 10 {}
  if (s3.unit 0x31).incident.isSome then s3
  else (s3.openIncident 0x31 { seq := 0, source := 10, cause := 0, step := 0, level := 0 }).react 0x31 0 {}

/-- An always-on brown-out (16 R382). -/
def aonLost (s : State) : State :=
  let s1 := (s.wakeBit 9).countEvent 0x31 10 {}
  { s1 with keeper := { s1.keeper with alive := false }, block := { s1.block with pwrcyc := true } }

/-- A domain that the retention regulator serves. -/
def someDeep (s : State) : Bool := s.central.power == .deep || s.spans.any fun x => x.power == .deep

/-! Operating points (21 R481-R483). -/

/-- Quadrant of a span: two of the eight columns (01 R15 R16). -/
def quadOf (n : Nat) : Nat := n % 8 / 2

/-- Every span of a quadrant is in SLEEP or deeper. -/
def quadAsleep (s : State) (q : Nat) : Bool :=
  (List.range 40).all fun n => quadOf n != q || (s.span n).power == .sleep || (s.span n).power == .deep

def quadPoint (s : State) (q : Nat) : Nat := (s.quads.getD q {}).point

/-- The fastest quadrant that can be lowered, the highest number among equals. -/
def lowerable (s : State) : Option Nat :=
  ([0, 1].findSome? fun pt => [3, 2, 1, 0].find? fun q => !s.quadAsleep q && s.quadPoint q == pt)

/-- The slowest quadrant below its ceiling, the lowest number among equals. -/
def raisable (s : State) : Option Nat :=
  ([2, 1].findSome? fun pt => [0, 1, 2, 3].find? fun q =>
    !s.quadAsleep q && s.quadPoint q == pt && decide (s.clockCeil q < pt))

def setQuad (s : State) (q : Nat) (f : Quad → Quad) : State := { s with quads := modAt s.quads q f }

/-- The keeper's check of POWER_CAP: `mean` in mW over the last 4,096 ticks (R483). -/
def powerCheck (s : State) (mean : Nat) (below : Bool) : State :=
  if !s.running ∨ s.quads.any (·.change.isSome) then s
  else if s.powerCap * 1000 < mean then
    match s.lowerable with
    | some q => s.setQuad q fun x => { x with change := some (x.point + 1) }
    | none => s
  else if below ∧ mean < s.powerCap * 900 then
    match s.raisable with
    | some q => s.setQuad q fun x => { x with change := some (x.point - 1) }
    | none => s
  else s

end State

/-- TIMER_WAKE (16 R374, R385): the countdown reaches 0, once. -/
def execTimerWake (s : State) : Ans :=
  .next (if s.inService ∧ (s.central.timerFired ∨ s.central.wakeTimer ≠ 0) then
    let s1 := { s with central := { s.central with wakeTimer := 0, timerFired := false } }
    s1.wakeBy 3 s1.central.timerSpans
  else s)

/-- SLEEP_DWELL_EXPIRY (R369). -/
def execSleepDwellExpiry (span : Nat) (s : State) : Ans := .next (s.sleepEntry span)

/-- DEEP_DWELL_EXPIRY (R369). -/
def execDeepDwellExpiry (span : Nat) (tempC : Int) (loadMa : Nat) (s : State) : Ans := .next (s.deepEntry span tempC loadMa)

/-- CENTRAL_DWELL_EXPIRY (R370). -/
def execCentralDwellExpiry (tempC : Int) (loadMa : Nat) (s : State) : Ans := .next (s.centralEntry tempC loadMa)

/-- POWER_ENTRY_DONE (R363, R376). -/
def execPowerEntryDone (d : Domain) (s : State) : Ans :=
  .next (match d with
    | .span n => s.spanEntered n
    | .central => s.centralEntered)

/-- DOMAIN_EXIT (R364): waits for OSC_RDY while REF_CLK is absent (21 R485). -/
def execDomainExit (d : Domain) (s : State) : Ans :=
  .next (if s.block.refClk then
    (match d with
     | .span n => s.spanExited n
     | .central => s.centralExited)
  else s)

/-- POWER_STEP_TIMEOUT (R365): of a step that the domain's state or transition can miss. -/
def execPowerStepTimeout (d : Domain) (step : Nat) (s : State) : Ans :=
  .next (match d with
    | .span n => if (State.spanSteps (s.span n)).contains step && !s.spanFenced n then s.spanMissed n step else s
    | .central => if (s.centralSteps).contains step then s.centralMissed step else s)

/-- WAKE_N (R374, R383): from OFF a cold start, else a wake. -/
def execWakeN (psel : BitVec 2) (deckId : BitVec 3) (fuse : Bool) (s : State) : Ans :=
  .next (if s.block.phase = .off then s.coldStart psel deckId fuse
    else if s.inService then s.wakeBy 2 s.central.wakeSpans
    else s)

/-- LINK_ENERGY (R377). -/
def execLinkEnergy (mv : Nat) (s : State) : Ans := .next (if s.inService then s.comparator mv else s)

/-- BROWNOUT (R382). -/
def execBrownout (aon : Bool) (s : State) : Ans :=
  .next (if aon then (if s.central.power = .deep ∨ s.block.phase = .off then s.aonLost else s)
    else if s.someDeep ∧ s.inService then s.retentionLost else s)

/-- OFF_ENTRY_DONE (R383): every key slot empties, all content is lost, ALIVE stops low. -/
def execOffEntryDone (s : State) : Ans :=
  .next (if s.block.offEntry then
    let s1 := s.assertReset
    { s1 with block := { s1.block with phase := .off } }
  else s)

/-- POWER_CAP_CHECK (21 R483). -/
def execPowerCapCheck (meanMw : Nat) (stayedBelow : Bool) (s : State) : Ans := .next (s.powerCheck meanMw stayedBelow)

/-- OPERATING_POINT_DONE (21 R482). -/
def execOperatingPointDone (quadrant : Nat) (s : State) : Ans :=
  .next (s.setQuad quadrant fun x => match x.change with
    | some p => { x with point := p, change := none }
    | none => x)

/-- OSC_CALIBRATION (21 R484). -/
def execOscCalibration (s : State) : Ans :=
  .next (if s.block.refClk ∧ s.inService then { s with keeper := { s.keeper with oscTrimmed := true } } else s)

/-- REF_CLK_LOSS (21 R485): in DEEP_SLEEP the block stays asleep; in RUN an incident opens at level BLOCK. -/
def execRefClkLoss (s : State) : Ans :=
  .next (if !s.block.refClk then s else
    let s1 := { s with block := { s.block with refClk := false } }
    if !s.inService then s1 else
    let s2 := { s1 with keeper := { s1.keeper with oscRc := true } }
    if s.central.power = .deep then s2 else
    let s3 := s2.cause 0x31 { seq := 0, source := 8, cause := 2, step := 2, level := 5 }
    { s3 with keeper := { s3.keeper with frozen := true }, block := { s3.block with refLoss := true } })

/-- REF_CLK_RETURN (21 R485): the block compute-part reset of the loss starts. -/
def execRefClkReturn (s : State) : Ans :=
  .next (if s.block.refClk then s else
    let s1 := { s with block := { s.block with refClk := true, refLoss := false }, keeper := { s.keeper with oscRc := false } }
    if s.block.refLoss then (s1.startLevel .block [0x31] none).1 else s1)

/-- REF_CLK_LOSS_TIMEOUT (21 R485): the level escalates to power cycle. -/
def execRefClkLossTimeout (s : State) : Ans :=
  .next (if s.block.refLoss ∧ !s.block.refClk then
    let s1 := { s with block := { s.block with refLoss := false } }
    ((s1.escalateUnits [0x31] 6).startLevel .power [0x31] none).1
  else s)

end Sys2Proof.Machine
end

