-- ==== Sys2Proof/Machine/Stages.lean ====
section
/-! DEFINITION. The stages of a view opcode, element by element (09 R207): the index read (06 R138, R141, R144), the source read
with SEAL CHECK, CIPHER READ and EXPAND (09 R224, 14 R335-R338, 07 R158-R177), CONVERT (08 R188-R191), PAD (09 R213) and the
place in the destination. What an element becomes is a function of the descriptor, the sources and the tables (01 R40). -/

namespace Sys2Proof.Machine

/-- The answer of an element's work: a value, translations and reads still to come, or an early event (06 R150) with the unit that
counts it. -/
inductive Res (α : Type) where
  | ok (a : α)
  | wait (as : List Nat) (gs : List (Target × Nat))
  | early (e : Early) (unit : Option Nat)
deriving DecidableEq, Repr

def Res.bind {α β : Type} (x : Res α) (f : α → Res β) : Res β :=
  match x with
  | .ok a => f a
  | .wait as gs => .wait as gs
  | .early e u => .early e u

def Res.map {α β : Type} (f : α → β) (x : Res α) : Res β := x.bind fun a => .ok (f a)

/-- A failed read as an early event at an element (R150), of a rank of R151: 0 index, 1 source, 2 destination. -/
def Got.at {α : Type} (x : Got α) (elem rank : Nat) : Res α :=
  match x with
  | .ok a => .ok a
  | .wait as gs => .wait as gs
  | .bad c d u => .early { elem, code := c, detail := d, rank } u

/-- Two answers that do not depend on each other: of two events the first stands, and what both wait for is asked for together. -/
def Res.both {α β : Type} (x : Res α) (y : Res β) : Res (α × β) :=
  match x, y with
  | .ok a, .ok b => .ok (a, b)
  | .early e u, _ => .early e u
  | _, .early e u => .early e u
  | .wait a g, .wait b h => .wait (a ++ b) (g ++ h)
  | .wait a g, .ok _ => .wait a g
  | .ok _, .wait b h => .wait b h

/-- A list of answers: all values, or the first event. -/
def Res.all {α : Type} : List (Res α) → Res (List α)
  | [] => .ok []
  | x :: r => (x.both (Res.all r)).map fun y => y.1 :: y.2

/-- What the read side hands to CONVERT for a data element (R207 places 1 to 4). -/
inductive Src where
  /-- A source encoding; `sat` is 1 where expansion saturated it (07 R160). -/
  | code (c sat : Nat)
  /-- No source value: FILL, and a poisoned granule (07 R175, 09 R224, 14 R338). -/
  | filled
  /-- Index out of range under RANGE_FILL (06 R141). -/
  | ranged
  /-- A duplicate that SCATTER discards (06 R144). -/
  | discarded
deriving DecidableEq, Repr

namespace Entry

/-- Output index vector of an output element, and the shared index it carries, if it is no pad element (09 R213). -/
def outIndex (e : Entry) (n : Nat) : List Nat := unrank (outExts e) n
def isPadAt (e : Entry) (v : List Nat) : Bool :=
  (List.range 6).any fun d => decide (v.getD d 0 < padLo e d) || decide (padLo e d + extent e d ≤ v.getD d 0)
def sharedAt (e : Entry) (v : List Nat) : List Nat := (List.range 6).map fun d => v.getD d 0 - padLo e d

/-- Linear output index of data element m: its row for STATS, else its padded place (08 R206, 09 R214). -/
def firstOut (e : Entry) (m : Nat) : Nat :=
  let i := unrank (exts e) m
  if opcode e = 0x04 then
    rank ((exts e).set (rowDim e) 1) (i.set (rowDim e) 0)
  else rank (outExts e) ((List.range 6).map fun d => i.getD d 0 + padLo e d)

/-- Row of a shared index (08 R187). -/
def rowOf (e : Entry) (i : List Nat) : Nat := rank ((exts e).set (rowDim e) 1) (i.set (rowDim e) 0)

/-- Shared index of place k in row r. -/
def inRow (e : Entry) (r k : Nat) : List Nat := (unrank ((exts e).set (rowDim e) 1) r).set (rowDim e) k

/-- Byte k of a dense view's sealed block or data unit b of `size` bytes: its range of offsets. -/
def pieceRange (r : Int × Int) (size b : Nat) : Int × Nat :=
  let a := r.1 + (size * b : Nat)
  (a, (min (size : Int) (r.2 + 1 - a)).toNat)

/-- First data element of a dense view whose bytes lie in a piece that starts `o` bytes into the view. -/
def firstElem (v : View) (o : Nat) : Nat := 8 * o / max 1 v.w

/-- Lowest linear output index of the data elements that lie in piece k of `size` bytes of a dense source: rows of a STATS do not
rise with its elements, every other opcode's output index does. -/
def pieceFirst (e : Entry) (size k : Nat) : Nat :=
  let v := src e
  let a := firstElem v (size * k)
  if opcode e = 0x04 then
    listMinD ((List.range (min (ceilDiv (8 * size * (k + 1)) (max 1 v.w)) (dataElems e) - a)).map fun i => firstOut e (a + i)) (firstOut e a)
  else firstOut e a

/-- Lowest linear output index of job leaf jl. -/
def leafFirst (e : Entry) (jl : Nat) : Nat :=
  if opcode e = 0x04 then
    listMinD ((List.range (min 1024 (dataElems e - 1024 * jl))).map fun i => firstOut e (1024 * jl + i)) 0
  else firstOut e (1024 * jl)

/-- Folio entries held by a job. -/
def folios (b : List Byte) : List Folio := (List.range (b.length / 64)).map fun i => Folio.parse ((b.drop (64 * i)).take 64)

/-- The folio that holds a tensor leaf, with its number in the job. -/
def folioOf (b : List Byte) (leaf : Nat) : Option (Nat × Folio) :=
  let fs := folios b
  ((List.range fs.length).zip fs).find? fun x => decide (x.2.first ≤ leaf ∧ leaf < x.2.first + x.2.count)

/-- FILL as an encoding of the source type (06 R141): the low bits of FILL, as many as the source type has. DESIGN CHOICE (log entry
76): the spec bounds FILL by the destination's width only (05 R131) and does not say which bits a narrower source type takes. -/
def fillSrc (e : Entry) : Nat := fill e % 2 ^ typeBits (srcType e)

end Entry

/-- The bytes that hold a list of bit offsets, each once. -/
def byteOffs (bits : List Int) : List Int := (bits.map (· / 8)).eraseDups

/-- The encoding whose bits, least significant first, lie at the given bit offsets. -/
def codeFrom (bits : List Int) (bytes : List (Int × Byte)) : Nat :=
  let at_ := fun (o : Int) => ((bytes.find? fun x => x.1 == o).map (·.2)).getD 0
  listSum (((List.range bits.length).zip bits).map fun x => if (at_ (x.2 / 8)).getLsbD (x.2 % 8).toNat then 2 ^ x.1 else 0)

namespace State

/-- Read at an offset of a view's route. -/
def gotOff (s : State) (j : Work) (route : Nat) (o : Int) (n : Nat) : Got (List Byte) :=
  s.got j (route * 2 ^ 56 + o.toNat) n

/-- Read the encoding at bit offsets of a route. -/
def readBits (s : State) (j : Work) (route : Nat) (bits : List Int) : Got Nat :=
  (Got.all ((byteOffs bits).map fun o => (s.gotOff j route o 1).map fun b => (o, b.headD 0))).map (codeFrom bits)

/-- The check of one access of an indexed view (R47, R60, R61), at an element. -/
def accessAt (s : State) (j : Work) (route : Nat) (bits : List Int) (wr : Bool) (elem rank : Nat) : Res Unit :=
  let os := byteOffs bits
  let lo := os.foldl min (os.headD 0)
  let hi := os.foldl max (os.headD 0)
  match s.rangeFail j.part (Entry.pd j.entry) route lo hi wr with
  | some c => .early { elem, code := c, detail := route, rank } none
  | none => .ok ()

/-! The index stream. -/

/-- What the index of an element says: no index stream; the indexed dimension and its value; out of range. -/
inductive Idx where
  | affine
  | value (x : Nat) (v : Int)
  | out
deriving DecidableEq, Repr

/-- Read and check the index of a shared index vector (R138, R141). -/
def indexAt (s : State) (j : Work) (i : List Nat) (elem : Nat) : Res Idx :=
  let e := j.entry
  if !Entry.indexed e then .ok .affine else
  let p := Entry.idxPos e i
  ((s.got j (Entry.idxBase e + 4 * p) 4).at elem 0).bind fun b =>
    let v := Entry.idxVal e (leNat b)
    if decide (Entry.idxMin e ≤ v) && decide (v ≤ Entry.idxMax e) then .ok (.value (Entry.idxDim e) v)
    else if Entry.rangeFill e then .ok .out
    else .early { elem, code := 0x43, detail := p % 65536, rank := 0 } none

def Idx.force : Idx → Option (Nat × Int)
  | .value x v => some (x, v)
  | _ => none

/-! SEAL CHECK and CIPHER READ of a dense source (09 R224, 14 R335, R338). -/

/-- Block b is sound: the CRC-32C of its stored bytes is the seal value. -/
def blockSound (s : State) (j : Work) (b : Nat) : Got Bool :=
  let e := j.entry
  let r := Entry.pieceRange (Entry.srcRange e) (Entry.sealBlock e) b
  ((s.got j (Entry.sealAddr e + b * Entry.sealPitch e) 4).both (s.gotOff j (Entry.src e).route r.1 r.2)).map fun x =>
    (crc32c x.2).toNat == leNat x.1

/-- Data unit u of a stored range in the clear; none where its tag does not verify (R333, R337, R338). -/
def unitPlain (s : State) (j : Work) (addr : Nat) (r : Int × Int) (u : Nat) : Got (Option (List Byte)) :=
  let e := j.entry
  let route := addr / 2 ^ 56
  let q := Entry.pieceRange r (Entry.cipherUnit e) u
  match j.key with
  | none => .ok none
  | some k =>
    let iv := unitValue (canonical (route * 2 ^ 56 + q.1.toNat)) (Entry.cipherId e)
    let d := s.gotOff j route q.1 q.2
    if k.gcm then
      (d.both (s.gotOff j route (r.2 + 1 + (16 * u : Nat)) 16)).map fun x =>
        if gcmTag k.bytes (iv.take 12) x.1 == x.2 then some (gcmCrypt k.bytes (iv.take 12) x.1) else none
    else d.map fun d => some (xtsUnit false k.bytes iv d)

/-- Number of the block or unit that a byte of the source lies in. -/
def pieceOf (r : Int × Int) (size : Nat) (o : Int) : Nat := ((o - r.1).toNat) / max 1 size

/-- The stored encoding of a source element, through SEAL CHECK and CIPHER READ where they are enabled. -/
def storedSource (s : State) (j : Work) (bits : List Int) (elem : Nat) : Res Src :=
  let e := j.entry
  let r := Entry.srcRange e
  let o := bits.headD 0 / 8
  let b := pieceOf r (Entry.sealBlock e) o
  let first := fun (size k : Nat) => Entry.pieceFirst e size k
  let checked : Res Bool :=
    if Entry.sealChk e then (s.blockSound j b).at (first (Entry.sealBlock e) b) 1 else .ok true
  checked.bind fun sound =>
    if !sound then .ok .filled
    else if Entry.cipherRead e then
      let u := pieceOf r (Entry.cipherUnit e) o
      ((s.unitPlain j (Entry.srcBase e) r u).at (first (Entry.cipherUnit e) u) 1).bind fun d =>
        match d with
        | none => .ok .filled
        | some d =>
          let base := r.1 + (Entry.cipherUnit e * u : Nat)
          .ok (.code (codeFrom bits ((byteOffs bits).map fun x => (x, d.getD (x - base).toNat 0))) 0)
    else ((s.readBits j (Entry.src e).route bits).at elem 1).map fun c => .code c 0

/-! EXPAND (07). -/

/-- Record and stored payload of a tensor leaf. -/
def leafRead (s : State) (j : Work) (f : Folio) (leaf : Nat) : Got (List Byte × List Byte) :=
  let t := Entry.tensorBase j.entry
  (s.got j (t + f.recordAt leaf) 16).both (s.got j (t + f.payloadAt leaf) (payloadBytes f.fmt))

/-- Payload of a leaf after decryption: the whole units that hold it, within the folio's payload range (14 R335, R336). -/
def leafPlain (s : State) (j : Work) (f : Folio) (leaf : Nat) (stored : List Byte) : Got (List Byte) :=
  let e := j.entry
  if !Entry.cipher e then .ok stored else
  let t := Entry.tensorBase e
  let size := payloadBytes f.fmt
  let u := Entry.cipherUnit e
  let r : Int × Int := ((t % 2 ^ 56 + f.payOff : Nat), (t % 2 ^ 56 + f.payOff + f.count * size : Nat) - 1)
  let a := (leaf - f.first) * size
  let us := (List.range ((a + size - 1) / u + 1 - a / u)).map fun k => a / u + k
  (Got.all (us.map fun k => s.unitPlain j t r k)).map fun ds =>
    (((ds.map fun d => d.getD []).flatten).drop (a % u)).take size

/-- Class of job leaf `jl`, with the folio it lies in. -/
def leafClass (s : State) (j : Work) (jl : Nat) : Got (LeafClass × Nat) :=
  let e := j.entry
  match Entry.folioOf j.decoded (Entry.firstLeaf e + jl) with
  | none => .ok (.seal_, 0)
  | some (_, f) =>
    (s.leafRead j f (Entry.firstLeaf e + jl)).map fun x =>
      (classifyLeaf x.1 x.2 f (leafNeed (Entry.leafData e) jl), leafElements x.1)

/-- The expanded weight of data element m, given the codebook of each folio (07 R159-R161, R174, R175). -/
def expandElem (s : State) (j : Work) (book : Nat → Folio → Got (List Byte)) (m : Nat) : Res Src :=
  let e := j.entry
  let jl := m / 1024
  let leaf := Entry.firstLeaf e + jl
  let first := Entry.leafFirst e jl
  match Entry.folioOf j.decoded leaf with
  | none => .ok .filled
  | some (k, f) =>
    ((s.leafRead j f leaf).at first 1).bind fun x =>
      let need := leafNeed (Entry.leafData e) jl
      let c := classifyLeaf x.1 x.2 f need
      if leafFilled c x.1 need ≤ m % 1024 then .ok .filled
      else
        ((s.leafPlain j f leaf x.2).at first 1).bind fun p =>
          ((book k f).at (Entry.leafFirst e (max f.first (Entry.firstLeaf e) - Entry.firstLeaf e)) 1).map fun cb =>
            let w := leafWeight f.fmt p cb (u8 x.1 1) (m % 1024)
            .code w.1 w.2

/-- Codebook of folio k of a job at a span: from the span's set once the span has loaded it, else read to be loaded (01 R21, 07
R170, R171). -/
def bookAt (s : State) (j : Work) (span k : Nat) (f : Folio) : Got (List Byte) :=
  if codebookBytes f.fmt = 0 then .ok []
  else if j.pass.loaded.contains (span, k) then
    .ok (s.store.codebook span (Entry.cbSet j.entry + k % 2) (codebookBytes f.fmt))
  else s.got j f.cbAddr (codebookBytes f.fmt)

/-- Load into a span's sets the codebooks of the listed folios that it does not hold, in order; folio k takes the place of k - 2
(R171). -/
def loadBooks (s : State) (w : Work) (span : Nat) (fs : List (Nat × Folio)) : State :=
  fs.foldl (fun (s : State) f =>
    match (s.job? w.uid).map fun y => y.pass.loaded with
    | none => s
    | some l =>
      if codebookBytes f.2.fmt = 0 || l.contains (span, f.1) then s else
      match s.got w f.2.cbAddr (codebookBytes f.2.fmt) with
      | .ok b =>
        ({ s with store := s.store.loadCodebook span (Entry.cbSet w.entry + f.1 % 2) b }).modJob w.uid fun y =>
          { y with pass := { y.pass with loaded := (l.filter fun (x : Nat × Nat) => !(x.1 == span && x.2 % 2 == f.1 % 2)) ++ [(span, f.1)] } }
      | _ => s) s

/-! The read side of a data element. -/

/-- What the read side hands on for a shared index (R207 places 1 to 4), with what its index says. -/
def readElem (s : State) (j : Work) (book : Nat → Folio → Got (List Byte)) (i : List Nat) (elem : Nat) : Res (Src × Idx) :=
  let e := j.entry
  (s.indexAt j i elem).bind fun ix =>
    match ix with
    | .out => .ok (.ranged, ix)
    | _ =>
      let win := match ix with
        | .value x v =>
          Entry.idxOnDst e && !(j.pass.winners.contains ((v, if Entry.idxOuter e = 7 then 0 else i.getD (Entry.idxOuter e) 0), i.getD x 0))
        | _ => false
      if win then .ok (.discarded, ix)
      else if Entry.opcode e = 0x0D then .ok (.code (Entry.fill e) 0, ix)
      else if Entry.expand e then
        (s.expandElem j book (rank (Entry.exts e) i)).map fun c => (c, ix)
      else
        let v := Entry.src e
        let force := if Entry.idxOnDst e then none else ix.force
        let bits := v.bits i force
        let access : Res Unit :=
          if Entry.indexed e && !Entry.idxOnDst e then s.accessAt j v.route bits false elem 1 else .ok ()
        access.bind fun _ => (s.storedSource j bits elem).map fun c => (c, ix)

/-! CONVERT. -/

/-- Effective shift of a row, from the records the job's mode uses (08 R186, R197, R199, R200). -/
def rowShift (j : Job) (r : Nat) : Int :=
  let recs := if Entry.mode j.entry = 1 then j.pass.scales else j.pass.matched
  if Entry.mode j.entry = 0 then 0
  else match recs.find? fun x => x.group == r / 64 with
    | some x => effShift x.base (x.offs.getD (r % 64) 0)
    | none => 0

/-- The encoding an element receives under a shift, with COUNT and AUX of expansion and conversion (R191, 07 R176). -/
def convertAt (e : Entry) (shift : Int) (c sat : Nat) : Nat × Nat × Nat :=
  if Entry.convert e then
    let r := convertElem (Entry.srcType e) (Entry.dstType e) c shift (Entry.zeroPoint e)
    (r.1, r.2, sat)
  else (c, 0, sat)

/-! One output element (R207 places 5, 6 and 9). -/

/-- A source value of an element for a row's max-abs: none where it has none (R192). -/
def sourceValue (e : Entry) (x : Src) : Option Num :=
  match x with
  | .code c _ => some (elemNum (if Entry.expand e then 2 else Entry.srcType e) c (Entry.zeroPoint e))
  | .ranged => some (elemNum (Entry.srcType e) (Entry.fillSrc e) (Entry.zeroPoint e))
  | _ => none

/-- What faulted in the read of a source element at a shared index: its leaf, its seal block, its data unit (07 R174, 09 R224, 14
R338). Its reads have been made. -/
def faultsOf (s : State) (j : Job) (i : List Nat) : List (MarkKind × Nat) :=
  let e := j.entry
  let w : Work := { toJob := j }
  let m := rank (Entry.exts e) i
  if !Entry.hasSrc e then []
  else if Entry.expand e then
    match s.leafClass w (m / 1024) with
    | .ok (.seal_, _) => [(.leafSeal, Entry.firstLeaf e + m / 1024)]
    | .ok (.under, _) => [(.leafUnder, Entry.firstLeaf e + m / 1024)]
    | .ok (.over, _) => [(.leafOver, Entry.firstLeaf e + m / 1024)]
    | _ => []
  else
    let r := Entry.srcRange e
    let o := ((Entry.src e).bits i none).headD 0 / 8
    let b := pieceOf r (Entry.sealBlock e) o
    let u := pieceOf r (Entry.cipherUnit e) o
    if Entry.sealChk e && s.blockSound w b == .ok false then [(.block, b)]
    else if Entry.cipherRead e && s.unitPlain w (Entry.srcBase e) r u == .ok none then [(.unit, u)] else []

/-- What an output element puts into the destination: its bits and encoding, whether it is a fill with poison, what it adds to
COUNT and AUX, what of COUNT the CONVERT stage counted, the source value it read (08 R192), and what faulted in its read. -/
structure Put where
  bits   : List Int
  code   : Nat
  poison : Bool := false
  cnt    : Nat := 0
  conv   : Nat := 0
  aux    : Nat := 0
  value  : Option Num := none
  faults : List (MarkKind × Nat) := []
deriving DecidableEq, Repr

/-- The work of output element n under a shift rule (R207). SEAL_CHECK has no destination: its elements are read and checked, and
write nothing (09 R225). -/
def elemPut (s : State) (j : Work) (book : Nat → Folio → Got (List Byte)) (shift : Nat → Int) (n : Nat) : Res Put :=
  let e := j.entry
  let o := Entry.outIndex e n
  let v := Entry.dst e
  if Entry.isPadAt e o then .ok { bits := v.bits o none, code := Entry.padValue e }
  else
    let i := Entry.sharedAt e o
    (s.readElem j book i n).bind fun x =>
      let place := if Entry.hasDst e then v.bits o (if Entry.idxOnDst e then x.2.force else none) else []
      let access : Res Unit :=
        if Entry.idxOnDst e && x.2.force.isSome && x.1 != .discarded then s.accessAt j v.route place true n 2 else .ok ()
      match x.1 with
      | .discarded => .ok { bits := [], code := 0, cnt := 1 }
      | .ranged =>
        if Entry.idxOnDst e then .ok { bits := [], code := 0, cnt := 1 }
        else
          let c := convertAt e (shift (Entry.rowOf e i)) (Entry.fillSrc e) 0
          .ok { bits := place, code := c.1, cnt := 1, conv := c.2.1, value := sourceValue e x.1 }
      | .filled => access.map fun _ => { bits := place, code := Entry.fill e, poison := true, faults := s.faultsOf j.toJob i }
      | .code c sat =>
        let r := convertAt e (shift (Entry.rowOf e i)) c sat
        access.map fun _ =>
          { bits := place, code := r.1, conv := r.2.1, aux := r.2.2, value := sourceValue e x.1,
            faults := if Entry.expand e then s.faultsOf j.toJob i else [] }

/-! Rows (08 R192). -/

/-- The source values of row r, in order of its elements; events fall at the element, or at `elem` where one is given. -/
def rowValues (s : State) (j : Work) (book : Nat → Folio → Got (List Byte)) (r : Nat) (elem : Option Nat) : Res (List (Option Num)) :=
  let e := j.entry
  Res.all ((List.range (Entry.rowLen e)).map fun k =>
    let i := Entry.inRow e r k
    (s.readElem j book i (elem.getD (rank (Entry.exts e) i))).map fun x => sourceValue e x.1)

/-- qmax as the job's destination gives it. -/
def jobQmax (e : Entry) : Nat := qmax (Entry.dstType e) (Entry.zeroPoint e)

/-- m of a row (R192). -/
def rowMaxAbs (l : List (Option Num)) : Nat × Int := maxAbs (l.filterMap id)

/-- Needed shift of a row. -/
def rowNeed (e : Entry) (m : Nat × Int) : Int := sNeed m.1 m.2 (jobQmax e)

/-- Rows of group g (R187). -/
def groupRows (e : Entry) (g : Nat) : List Nat := (List.range (min 64 (Entry.rows e - 64 * g))).map fun k => 64 * g + k

/-- A record from its rows' shifts; none marks a faulted row (R193, R201). -/
def formRecord (g : Nat) (shifts : List (Option Int)) (dflt : Nat) : ScaleRec :=
  let b := formBase shifts dflt
  { group := g, base := b, offs := shifts.map (formOff b) }

/-- Bytes of a scale record (R194). -/
def recordOf (x : ScaleRec) (pm flags : Nat) : List Byte :=
  let valid := x.offs.length
  let offs := leBytes 32 (listSum ((List.range valid).map fun k => x.offs.getD k 0 * 16 ^ k))
  let head := leBytes 1 x.base ++ leBytes 1 (pm + x.group) ++ leBytes 1 flags ++ leBytes 1 valid ++ leBytes 4 0 ++ offs
  head ++ leBytes 4 (crc32c head).toNat ++ leBytes 4 0

/-- An input record matches (R195); the offsets of its rows. -/
def matchRecord (g pm rows : Nat) (b : List Byte) : Option ScaleRec :=
  if (crc32c (b.take 40)).toNat = u32 b 0x28 ∧ u8 b 1 = (pm + g) % 256 ∧ u8 b 3 = rows ∧ u8 b 0 ≤ 254 then
    some { group := g, base := u8 b 0, offs := (List.range rows).map fun k => u8 b (8 + k / 2) / 16 ^ (k % 2) % 16, flags := u8 b 2 }
  else none

/-- The outcome of a row in CARRIED mode: its next shift, or none for a scale fault (R200). -/
def carriedNext (e : Entry) (sIn : Int) (m : Nat × Int) : Option Int :=
  let need := rowNeed e m
  let low := !magLe (jobQmax e) (sIn - 2) m.1 m.2
  if m.1 = 0 then some sIn
  else if need > sIn + 6 then none
  else if need > sIn then some need
  else if low && decide (sIn - need > 8) then none
  else if low then some (max (sIn - 1) (-127))
  else some sIn

end State
end Sys2Proof.Machine
end

