-- ==== Sys2Proof/Machine/Threads.lean ====
section
/-! DEFINITION. Threads of the view opcodes (01 R31-R38, 06, 08, 09): handing tiles to spans, running a thread's elements and
landing its writes, retirement, closing writes (06 R491), the outcome of a job whose tiles have all retired; the passes of
SCATTER, FIRST_PASS and RESEND. TILE_REQUEST, THREAD_RETIRE, MOVE, GATHER, SCATTER, FILL, SEAL_CHECK, NOP, STATS, INDEX_PASS,
CONVERSION_PASS, RESEND_REDO. -/

namespace Sys2Proof.Machine

/-- Bytes of a destination as elements fill them: the bits set, their values, the lowest element, a fill with poison, and
whether two elements claim one bit (05 R130). -/
structure Cell where
  off    : Int
  mask   : Nat
  val    : Nat
  elem   : Nat
  poison : Bool := false
  shared : Bool := false
deriving DecidableEq, Repr

/-- Insert a byte into a list in descending order of offsets, merging the bits of one byte. -/
def mergeCell : List Cell → Cell → List Cell
  | [], c => [c]
  | x :: r, c =>
    if x.off < c.off then c :: x :: r
    else if x.off = c.off then
      { off := c.off, mask := Nat.lor x.mask c.mask, val := Nat.lor x.val c.val, elem := min x.elem c.elem,
        poison := x.poison || c.poison, shared := x.shared || c.shared || Nat.land x.mask c.mask != 0 } :: r
    else x :: mergeCell r c

/-- The bytes of one element. -/
def cellsOf (n : Nat) (p : State.Put) : List Cell :=
  let bs := (List.range p.bits.length).zip p.bits
  (byteOffs p.bits).map fun o =>
    let mine := bs.filter fun x => x.2 / 8 == o
    { off := o, mask := listSum (mine.map fun x => 2 ^ (x.2 % 8).toNat),
      val := listSum (mine.map fun x => if bitOf p.code x.1 then 2 ^ (x.2 % 8).toNat else 0), elem := n, poison := p.poison }

/-- The bytes of a thread's elements, in ascending order. -/
def cellsOfAll (l : List (Nat × State.Put)) : List Cell :=
  ((l.flatMap fun x => cellsOf x.1 x.2).foldl mergeCell []).reverse

namespace Entry

/-- No two elements of the destination can share a byte: each stride spans everything that smaller strides reach (05 R130;
sufficient, not necessary). -/
def apart (e : Entry) : Bool :=
  let v := dst e
  let dims := (List.range 6).filterMap fun d =>
    if indexed e && idxOnDst e && d == idxDim e then some ((v.stride.getD d 0).natAbs, (idxMax e - idxMin e + 1).toNat)
    else if v.strided d then some ((v.stride.getD d 0).natAbs, v.ext.getD d 1) else none
  let run := match v.plane with
    | some p => (v.w - 1) * p + v.ext.getD v.c 1 / 8
    | none => if v.c = 7 then v.w / 8 else v.runLen * v.w / 8
  let sorted := dims.foldl insertDim []
  (sorted.foldl (fun (a : Bool × Nat) d => (a.1 && (decide (d.2 ≤ 1) || decide (a.2 ≤ d.1)), a.2 + (d.2 - 1) * d.1)) (true, run)).1
where
  insertDim : List (Nat × Nat) → Nat × Nat → List (Nat × Nat)
    | [], a => [a]
    | x :: r, a => if a.1 < x.1 then a :: x :: r else x :: insertDim r a

end Entry

namespace State

/-! Bytes that the spec leaves open (05 R130, 01 R39). -/

/-- Destination bits of an output element: none where it writes nothing. -/
def putBits (s : State) (j : Job) (n : Nat) : List Int :=
  let e := j.entry
  let o := Entry.outIndex e n
  if !Entry.idxOnDst e || Entry.isPadAt e o then (Entry.dst e).bits o none
  else
    let i := Entry.sharedAt e o
    match s.indexAt { toJob := j } i n with
    | .ok (.value x v) =>
      if j.pass.winners.contains ((v, if Entry.idxOuter e = 7 then 0 else i.getD (Entry.idxOuter e) 0), i.getD x 0) then
        (Entry.dst e).bits o (some (x, v)) else []
    | _ => []

/-- An element of the job other than those that land now claims a bit of a byte (R130). -/
def claimed (s : State) (j : Job) (mine : Nat → Bool) (c : Cell) : Bool :=
  (List.range j.elems).any fun n =>
    !mine n && (s.putBits j n).any fun b => b / 8 == c.off && bitOf c.mask (b % 8).toNat

/-- Keys of the bytes of a range that have a place. -/
def rangeKeys (s : State) (j : Job) (r : NRange) : List Nat :=
  (List.range (r.hi + 1 - r.lo).toNat).filterMap fun i => s.key j.part j.xlat (r.addr / 2 ^ 56 * 2 ^ 56 + (r.lo.toNat + i))

/-- Keys of `n` bytes at an address. -/
def bytesKeys (s : State) (j : Job) (a n : Nat) : List Nat := s.rangeKeys j (Entry.bytesAt 0 a n true false)

/-- Keys of the source bytes that the element of a shared index reads: its index, its source encoding with the seal block and the
data unit it lies in, its leaf and codebook, the scale record of its row (R39). -/
def sourceKeys (s : State) (j : Job) (i : List Nat) : List Nat :=
  let e := j.entry
  if !Entry.hasSrc e then [] else
  let idx := if Entry.indexed e then s.bytesKeys j (Entry.idxBase e + 4 * Entry.idxPos e i) 4 else []
  let ix := match s.indexAt { toJob := j } i 0 with | .ok x => x | _ => .out
  let scale := if Entry.mode e = 2 ∨ Entry.mode e = 3 then s.bytesKeys j (Entry.scaleIn e + 48 * (Entry.rowOf e i / 64)) 48 else []
  idx ++ scale ++
  (if Entry.expand e then
    let jl := rank (Entry.exts e) i / 1024
    match Entry.folioOf j.decoded (Entry.firstLeaf e + jl) with
    | some (_, f) => s.bytesKeys j (Entry.tensorBase e + f.payloadAt (Entry.firstLeaf e + jl)) (payloadBytes f.fmt) ++
        s.bytesKeys j (Entry.tensorBase e + f.recordAt (Entry.firstLeaf e + jl)) 16 ++ s.bytesKeys j f.cbAddr (codebookBytes f.fmt)
    | none => []
  else if ix = .out then []
  else
    let v := Entry.src e
    let r := Entry.srcRange e
    let bits := v.bits i (if Entry.idxOnDst e then none else ix.force)
    let o := bits.headD 0 / 8
    let piece := fun (size : Nat) =>
      let q := Entry.pieceRange r size (pieceOf r size o)
      s.bytesKeys j (v.route * 2 ^ 56 + q.1.toNat) q.2
    (byteOffs bits).flatMap (fun b => s.bytesKeys j (v.route * 2 ^ 56 + b.toNat) 1) ++
    (if Entry.sealChk e then
      piece (Entry.sealBlock e) ++ s.bytesKeys j (Entry.sealAddr e + pieceOf r (Entry.sealBlock e) o * Entry.sealPitch e) 4 else []) ++
    (if Entry.cipherRead e then piece (Entry.cipherUnit e) else []))

/-- Ranges that the job writes besides its elements, by their fields; RESEND may rewrite an input record (08 R203). -/
def writeRanges (j : Job) : List NRange :=
  (Entry.namedRanges j.entry none (j.key.any fun k => k.gcm)).filter fun r => r.wr && !r.rd && r.off != 0x88

/-- The job's source and destination ranges keep apart, so no tile can read a byte that the job writes. -/
def rangesApart (s : State) (j : Job) : Bool :=
  let e := j.entry
  let reads := (Entry.namedRanges e none false).filter (·.rd) ++
    (if Entry.expand e then
      (Entry.folios j.decoded).flatMap fun f => folioRanges e f (leafSpan f (Entry.firstLeaf e) (Entry.leaves e)) else []) ++
    (if Entry.indexed e && !Entry.idxOnDst e then [Entry.nrange 0 (Entry.srcBase e) (Entry.srcRange e) true false] else [])
  let writes := (if Entry.hasDst e then [Entry.nrange 0 (Entry.dstBase e) (Entry.dstRange e) false true] else []) ++ writeRanges j
  !(reads.any fun r => writes.any fun d => s.overlap r d)

/-- Keys of everything that a job of a view opcode writes. -/
def writtenKeys (s : State) (j : Job) : List Nat :=
  (writeRanges j).flatMap (s.rangeKeys j) ++
  (if Entry.hasDst j.entry then
    (List.range j.elems).flatMap fun n =>
      (byteOffs (s.putBits j n)).flatMap fun b => s.bytesKeys j ((Entry.dst j.entry).route * 2 ^ 56 + b.toNat) 1
   else [])

/-- Source elements of an output element of a view opcode: its own, or the elements of its row for STATS. -/
def elemSources (j : Job) (n : Nat) : List (List Nat) :=
  let e := j.entry
  if Entry.opcode e = 0x04 then (List.range (Entry.rowLen e)).map (Entry.inRow e n)
  else
    let o := Entry.outIndex e n
    if Entry.isPadAt e o then [] else [Entry.sharedAt e o]

/-- A tile reads a source byte that the job itself writes, or that another party has written since the job was admitted (R39). -/
def tileMeets (s : State) (j : Job) (ns : List Nat) : Bool :=
  let apart := s.rangesApart j
  if apart && j.touched.isEmpty then false else
  let others := j.touched ++ if apart then [] else s.writtenKeys j
  ns.any fun n => (elemSources j n).any fun i => (s.sourceKeys j i).any others.contains

/-! Cipher on the WRITE side (14 R334, log entry 25). -/

/-- Encrypt a thread's bytes, whole data units at a time: under XTS only the 16-byte blocks that are whole, under GCM every
whole byte. -/
def encryptCells (j : Job) (cs : List Cell) : List Cell :=
  let e := j.entry
  if !Entry.cipherWrite e then cs else
  match j.key with
  | none => cs
  | some k =>
    let r := Entry.dstRange e
    let size := Entry.cipherUnit e
    let us := (cs.map fun c => pieceOf r size c.off).eraseDups
    us.flatMap fun u =>
      let q := Entry.pieceRange r size u
      let mine := cs.filter fun c => pieceOf r size c.off == u && c.mask == 255
      let plain := (List.range q.2).map fun (i : Nat) =>
        BitVec.ofNat 8 (((mine.find? fun c => c.off == q.1 + (i : Int)).map (·.val)).getD 0)
      let iv := unitValue (canonical ((Entry.dst e).route * 2 ^ 56 + q.1.toNat)) (Entry.cipherId e)
      let out := if k.gcm then gcmCrypt k.bytes (iv.take 12) plain else xtsUnit true k.bytes iv plain
      let whole := fun (c : Cell) =>
        let b := (c.off - q.1) / 16
        k.gcm || decide ((mine.filter fun x => (x.off - q.1) / 16 == b).length = 16)
      (mine.filter whole).map fun c => { c with val := (out.getD (c.off - q.1).toNat 0).toNat }

/-! Landing a thread's writes. -/

/-- What landing answers: the state; pages whose translation is still to come; a destination that leads nowhere at an element, with its route. -/
inductive Land where
  | done (s : State)
  | wait (as : List Nat)
  | lost (elem route : Nat)
deriving DecidableEq, Repr

/-- A placed byte of a destination: the bits of its elements, or bits of a free byte where the spec leaves them open. -/
def cellPut (s : State) (c : Cell) (t : Target × Nat) (free : Bool) : Put8 :=
  let val := if free then Nat.land (Config.freeByte s.block.free (locKey t.1 t.2)).toNat c.mask else c.val
  { target := t.1, addr := t.2, mask := c.mask, val, elem := c.elem }

/-- Land the bytes of a job's destination: free bits where the spec leaves them open, the elements' bits elsewhere, poison on every
granule that holds a filled element (07 R175). `mine` names the elements that land together. -/
def landCells (s : State) (j : Job) (own : Owner) (route : Nat) (cs : List Cell) (free : Bool) (mine : Nat → Bool) (span : Option Nat) :
    Land :=
  match cs.find? fun c => (s.locate j.part j.xlat (route * 2 ^ 56 + c.off.toNat)).isNone with
  | some c =>
    if s.routeLost j.part route then .lost c.elem route
    else .wait (s.unplaced j.part j.xlat (cs.map fun c => route * 2 ^ 56 + c.off.toNat))
  | none =>
    let ls := cs.filterMap fun c => (s.locate j.part j.xlat (route * 2 ^ 56 + c.off.toNat)).map fun t => (c, t)
    match ls.find? fun l => (s.portOf l.2.1).isNone && (match l.2.1 with | .staging _ => false | _ => true) with
    | some l => .lost l.1.elem route
    | none =>
      let clash := Entry.hasDst j.entry && !Entry.apart j.entry
      let bs := ls.map fun l => (l.1, s.cellPut l.1 l.2 (free || l.1.shared || (clash && s.claimed j mine l.1)))
      let fresh := ((ls.filter fun l => l.1.poison).map fun l => granuleOf (locKey l.2.1 l.2.2)).eraseDups
      let poison := j.pass.poisoned ++ fresh
      let s1 := s.issueElems own j.part route (bs.map (·.2)) poison span
      let keep := Entry.sealGen j.entry || Entry.cipherWrite j.entry
      let out := fun (m : List Host.Cell) (x : Cell × Put8) =>
        let old := (memGet m x.1.off.toNat 0).toNat
        memPut m x.1.off.toNat (BitVec.ofNat 8 (Nat.lor (old - Nat.land old x.2.mask) x.2.val)) 0
      let outs := if keep then bs.foldl out j.pass.outs else j.pass.outs
      .done ((s1.modJob j.uid fun y => { y with pass := { y.pass with outs, poisoned := poison } }).useFree)

/-! The reads of passes. -/

/-- The span whose prefetcher serves the reads of a job that belong to no tile: the lowest span of the partition in service that
is awake (DESIGN CHOICE, log entry 10: the spec names none). -/
def passSpan (s : State) (p : Nat) : Option Nat :=
  (s.unfencedSpans p).find? fun n =>
    !s.spanHeld n && (s.span n).trans.isNone && ((s.span n).power == .run || (s.span n).power == .idle)

/-- A read of a pass asks for granules; where no span of its partition is awake, the lowest one rises (16 R376). -/
def askPass (s : State) (j : Job) (gs : List (Target × Nat)) : State :=
  match s.passSpan j.part with
  | some n => s.fetchGranules j.uid j.tiles j.part n gs
  | none => match (s.unfencedSpans j.part).head? with
    | some n => s.raiseSpan n
    | none => s

/-- A pass waits: it asks for translations and for reads. -/
def passWait (s : State) (j : Job) (as : List Nat) (gs : List (Target × Nat)) : State :=
  let s1 := s.askXlat (.job j.uid) j.part 1 as
  if gs.isEmpty then s1 else s1.askPass j gs

/-- A write of a job finds its route lost: it is answered with ERROR (19 R442, R449), an early event at its element. -/
def lostWrite (s : State) (j : Job) (elem route : Nat) : State :=
  let c : FaultCtx := { part := some j.part, queue := some j.queue, job := some j.idx.toNat, elem := some elem }
  (s.countRead 0x48 (routeUnit route) c).noteEarly j.uid { elem, code := 0x48, detail := route, rank := 2 }

/-! Handing out tiles (01 R32, 06 R150, 07 R171, 08 R195). -/

/-- Read and match input records of a CARRIED, APPLY or TARIFF job up to group g through a span's prefetcher (R195, R196, 10 R231);
false where a translation or a read is still to come. -/
def matchTo (span uid g : Nat) : Nat → State → State × Bool
  | 0, s => (s, true)
  | n + 1, s =>
    match s.job? uid with
    | none => (s, false)
    | some j =>
      let k := j.pass.matched.length
      if g < k || j.early.isSome then (s, true) else
      let tariff := Entry.opcode j.entry == 0x0A
      let a := if tariff then Entry.tScale j.entry else Entry.scaleIn j.entry + 48 * k
      let pm := if tariff then Entry.tPm j.entry else Entry.pmIn j.entry
      let rows := if tariff then Entry.tB j.entry else (groupRows j.entry k).length
      let elem := if tariff then 0 else 64 * k * Entry.rowLen j.entry
      match s.got (passWork j) a 48 with
      | .wait as gs => ((s.askXlat (.job uid) j.part 1 as).fetchGranules uid j.tiles j.part span gs, false)
      | .bad c d u =>
        ((s.countRead c u { queue := some j.queue, job := some j.idx.toNat, elem := some elem }).noteEarly uid
          { elem, code := c, detail := d }, true)
      | .ok b =>
        match matchRecord k pm rows b with
        | some r => matchTo span uid g n (s.modJob uid fun y => { y with pass := { y.pass with matched := y.pass.matched ++ [r] } })
        | none => (s.noteEarly uid { elem, code := 0x63, detail := (pm + k) % 256 }, true)

/-- Elements of a tile. -/
def tileElems (j : Job) (t : Nat) : List Nat := (List.range (j.tileStart (t + 1) - j.tileStart t)).map fun k => j.tileStart t + k

/-- Folios that a tile of an EXPAND job touches, by number. -/
def tileFolios (j : Job) (t : Nat) : List (Nat × Folio) :=
  let e := j.entry
  let leaves := (((tileElems j t).filterMap fun n =>
    let o := Entry.outIndex e n
    if Entry.isPadAt e o then none else some (rank (Entry.exts e) (Entry.sharedAt e o) / 1024))).eraseDups
  (leaves.filterMap fun l => Entry.folioOf j.decoded (Entry.firstLeaf e + l)).eraseDups

/-- Folios of which one would take the place of another that a thread of the job on a span still needs (R171). -/
def folioClash (j : Job) (span : Nat) (mine : List (Nat × Folio)) (t : Nat) : Bool :=
  let others := (j.threads.filter fun x => x.span == span && x.tile != t).flatMap fun x => tileFolios j x.tile
  mine.any fun f => others.any fun g => g.1 != f.1 && g.1 % 2 == f.1 % 2

/-- What has to come before the tiles of a job: its index pass, its conversion pass, its codebook build, its tables (10 R240), the
acceptance of every contribution, the arrival of a result, the index pass of an exchange (11 R252, R255, R270). -/
def tilesOpen (j : Job) : Bool :=
  let e := j.entry
  !j.recheck && match Entry.opcode e with
  | 0x03 => j.pass.indexed && (Entry.mode e != 1 || j.pass.converting)
  | 0x10 => j.pass.built && u8 e 0xB0 == 1
  | 0x0A => j.pass.built
  | 0x06 => j.pass.accepted
  | 0x07 => j.pass.accepted
  | 0x08 => j.pass.indexed
  | 0x09 => j.pass.indexed
  | _ => !Entry.isView e || Entry.mode e != 1 || j.pass.converting

/-- The lowest tile of a job that is to be handed out: one whose span has gone, else the next (01 R32). -/
def nextTile (j : Job) : Option Nat :=
  match j.again with
  | t :: _ => some t
  | [] => if j.next < j.tiles then some j.next else none

/-- The job's next tile may be handed out. -/
def tileDue (j : Job) : Bool :=
  j.phase == .running && !j.stopped && j.order != 0 && tilesOpen j &&
  (nextTile j).any fun t => match j.early with | some e => decide (j.tileStart t < e.elem) | none => true

/-- Hand the next tile of a job to a thread context of a span; the Bool says whether it was handed. A tile handed out before waits
for the answers of its earlier writes (R35). -/
def handTile (s : State) (span uid : Nat) : State × Bool :=
  match (s.job? uid).bind fun j => (nextTile j).map fun t => (j, t) with
  | none => (s, false)
  | some (j, t) =>
    let e := j.entry
    let core := s.freeCore span (s.drainingCore span)
    if !tileDue j || core == 32 || !(s.threadWrites uid t).isEmpty ||
       (Entry.isView e && Entry.expand e && folioClash j span (tileFolios j t) t) then (s, false) else
    let needs := Entry.isView e && decide (2 ≤ Entry.mode e)
    let g := (j.tileStart (t + 1) - 1) / (64 * max 1 (Entry.rowLen e))
    let m := if needs then matchTo span uid g (g + 2) s else (s, true)
    if !m.2 || !((m.1.job? uid).any tileDue) then (m.1, false)
    else (m.1.modJob uid fun y =>
      { y with next := if y.again.isEmpty then t + 1 else y.next, again := y.again.filter (· != t),
               threads := y.threads ++ [{ tile := t, span, core }] }, true)

def handTiles (span uid : Nat) : Nat → State → State
  | 0, s => s
  | n + 1, s => let r := s.handTile span uid; if r.2 then handTiles span uid n r.1 else r.1

/-- A span sequencer asks for tiles of a job of its partition (R31, R32); a span that does not run rises first (16 R376). A job that is
handed a tile of a span under a span reset ends with it (18 R408). -/
def requestTiles (s : State) (span uid n : Nat) : State :=
  match s.job? uid with
  | none => s
  | some j =>
    if s.spanOwner span ≠ j.part ∨ j.part = 0 ∨ s.spanFenced span ∨ !s.running ∨ s.centralAsleep then s
    else if s.spanHeld span then
      (if tileDue j ∧ s.levels.any fun l => l.scope == .span span then
        (s.endJob uid 0xA2 span j.stopPosition).modJob uid fun y => { y with ordered := true } else s)
    else if (s.span span).trans.isSome ∨ ((s.span span).power ≠ .run ∧ (s.span span).power ≠ .idle) then
      (if tileDue j then s.raiseSpan span else s)
    else ((handTiles span uid (min n 64) s).settleEarly uid).settleRun span

/-! Running a thread. -/

/-- Elements that a thread of a tile still runs: those below an early event (R150). -/
def liveElems (j : Job) (tile : Nat) : List Nat :=
  let limit := match j.early with | some x => x.elem | none => j.elems
  (tileElems j tile).filter (· < limit)

/-- A job's thread of a tile that is to run, whose last attempt's writes are all answered (01 R35), seated in a thread context. -/
def readyThread (s : State) (uid tile : Nat) : Option (State × Work × Thread) :=
  (s.job? uid).bind fun j =>
    if j.phase != .running || j.stopped || !(s.threadWrites uid tile).isEmpty then none
    else (j.threads.find? fun t => t.tile == tile && !t.ran).bind fun t =>
      let w : Work := { toJob := j, seen := some t.seen }
      if t.core < 32 then some (s, w, t)
      else
        let c := s.freeCore t.span (s.drainingCore t.span)
        if c = 32 then none else
        some (s.modJob uid fun y => { y with threads := y.threads.map fun x => if x.tile = tile then { x with core := c } else x },
              w, { t with core := c })

/-- What a run over elements or rows answers: the values in order, the translations and the reads that are still to come, and how it
stopped. -/
structure Run (α : Type) where
  done : List (Nat × α) := []
  need : List Nat := []
  miss : List (Target × Nat) := []
  stop : Res Unit := .ok ()

/-- Elements in order until one meets an event; what the others wait for is gathered. -/
def runElems {α : Type} (f : Nat → Res α) : List Nat → Run α
  | [] => {}
  | n :: r =>
    match f n with
    | .ok a => let x := runElems f r; { x with done := (n, a) :: x.done }
    | .wait as gs => let x := runElems f r; { x with need := as ++ x.need, miss := gs ++ x.miss }
    | .early e u => { stop := .early e u }

/-- What the CONVERT stage counted at an element: in COUNT, or in AUX of a GATHER or SCATTER (06 R142, 08 R191). -/
def convContrib (e : Entry) (tile n conv : Nat) : List Contrib :=
  if conv = 0 then []
  else if Entry.opcode e = 0x02 ∨ Entry.opcode e = 0x03 then [{ tile, elem := n, cnt := 0, aux := conv, conv := true }]
  else [{ tile, elem := n, cnt := conv, aux := 0, conv := true }]

/-- Contributions of an element's put. -/
def contribsOf (e : Entry) (tile n : Nat) (p : Put) : List Contrib :=
  (if p.cnt = 0 ∧ p.aux = 0 then [] else [{ tile, elem := n, cnt := p.cnt, aux := p.aux }]) ++ convContrib e tile n p.conv

/-- What faulted in the reads of a tile's elements, each at the lowest element that met it. -/
def marksOf (tile : Nat) (l : List (Nat × Put)) : List Mark :=
  (l.flatMap fun x => x.2.faults.map fun f => ({ kind := f.1, tile, elem := x.1, num := f.2 } : Mark)).foldl (fun (a : List Mark) m =>
    if a.any fun y => y.kind == m.kind && y.num == m.num then a else a ++ [m]) []

/-- Max-abs of what a tile's elements read in each row (08 R192), for CARRIED mode. -/
def tileMaxima (j : Job) (tile : Nat) (l : List (Nat × Put)) : List ((Nat × Nat) × (Nat × Int)) :=
  let e := j.entry
  if !(Entry.isView e && Entry.mode e == 2) then [] else
  let vs := l.filterMap fun x => x.2.value.map fun v => (Entry.rowOf e (Entry.sharedAt e (Entry.outIndex e x.1)), v)
  ((vs.map (·.1)).eraseDups).map fun r => ((tile, r), maxAbs ((vs.filter (·.1 == r)).map (·.2)))

/-- The context that a job's element names with an event (17 R393). -/
def ctxOf (j : Job) (n : Nat) : FaultCtx := { part := some j.part, queue := some j.queue, job := some j.idx.toNat, elem := some n }

/-- Note an event met by a thread, and count the poison it met. -/
def threadEvent (s : State) (j : Job) (r : Res Unit) : State :=
  match r with
  | .early e u => (s.countRead e.code u (ctxOf j e.elem)).noteEarly j.uid e
  | _ => s

/-- Mark a thread as run, with its contributions, marks and maxima; its core's working bank holds its data. -/
def threadRan (s : State) (uid tile : Nat) (cs : List Contrib) (ms : List Mark) (xs : List ((Nat × Nat) × (Nat × Int)) := []) : State :=
  let at_ := ((s.job? uid).bind fun j => j.threads.find? fun t => t.tile == tile).map fun t => (t.span, t.core)
  let work := match at_ with
    | some x => if s.store.work.contains x then s.store.work else x :: s.store.work
    | none => s.store.work
  let s1 : State := { s with store := { s.store with work } }
  s1.modJob uid fun y =>
    { y with threads := y.threads.map fun t => if t.tile = tile then { t with ran := true } else t
             contribs := (y.contribs.filter fun c => c.tile != tile) ++ cs
             marks := (y.marks.filter fun m => m.tile != tile) ++ ms
             pass := { y.pass with maxima := (y.pass.maxima.filter fun m => m.1.1 != tile) ++ xs } }

/-- A run that has no place to look. -/
def idleRun {α : Type} : Run α := { stop := .wait [] [] }

/-- Run a thread: it asks for the translations and, through its span's prefetcher, for the reads it still needs; once nothing is missing its writes land and
it notes the event that it met (R147, R150). -/
def runThread {α : Type} (s : State) (uid tile : Nat) (work : State → Work → Thread → Run α)
    (finish : State → Work → Thread → List (Nat × α) → Land) : State :=
  match s.readyThread uid tile with
  | none => s
  | some (s0, w, t) =>
    let r := work s0 w t
    let event := fun (x : State) => x.threadEvent w.toJob r.stop
    if !r.miss.isEmpty || !r.need.isEmpty then
      (event ((s0.askXlat (.job uid) w.part 1 r.need).fetchGranules uid tile w.part t.span r.miss)).settleEarly uid
    else if r.stop = .wait [] [] then s0
    else
      let limit := match r.stop with | .early e _ => e.elem | _ => w.elems
      match finish s0 w t (r.done.filter fun x => decide (x.1 < limit)) with
      | .wait as => s0.askXlat (.job uid) w.part 2 as
      | .lost n route => ((event s0).lostWrite w.toJob n route).settleEarly uid
      | .done s1 => (event s1).settleEarly uid

/-- Note the event that a thread has met in what its reads brought so far; its work is not done. -/
def probeThread {α : Type} (s : State) (uid tile : Nat) (work : State → Work → Thread → Run α) : State :=
  match s.readyThread uid tile with
  | none => s
  | some (_, w, t) => (s.threadEvent w.toJob (work s w t).stop).settleEarly uid

/-- Codewords in staging that stand under injection and that a job's reads meet are corrected, counted once and written back (17 R389,
R403). `ks` holds the keys read. -/
def correctStaging (s : State) (c : FaultCtx) (ks : List Nat) : State :=
  let hit := s.store.inj.filter fun x => decide (x.1 < 0x28) && ks.any fun k => granuleOf k == x.2
  hit.eraseDups.foldl (fun (s : State) x =>
    ({ s with store := { s.store with inj := s.store.inj.filter (· != x) } }).countEvent x.1 0 c) s

/-- Keys of the source bytes of output elements of a view opcode. -/
def elemKeys (s : State) (j : Job) (ns : List Nat) : List Nat := ns.flatMap fun n => (elemSources j n).flatMap (s.sourceKeys j)

/-- The elements of a tile of a view opcode (R207). -/
def viewWork (s : State) (w : Work) (t : Thread) : Run Put :=
  runElems (fun n => s.elemPut w (s.bookAt w t.span) (rowShift w.toJob) n) (liveElems w.toJob t.tile)

/-- Land what a tile of a view opcode computed. -/
def viewFinish (s : State) (w : Work) (t : Thread) (l : List (Nat × Put)) : Land :=
  let e := w.entry
  let j := w.toJob
  let s0 := if Entry.expand e then s.loadBooks w t.span (tileFolios j t.tile) else s
  match s0.landCells j (.job w.uid .thread t.tile) (Entry.dst e).route (encryptCells j (cellsOfAll l))
      (s.tileMeets j (l.map (·.1))) (fun n => w.tileOf n == t.tile) (some t.span) with
  | .done s1 =>
    .done ((s1.correctStaging (ctxOf j (w.tileStart t.tile)) (s.elemKeys j (l.map (·.1)))).threadRan w.uid t.tile
      (l.flatMap fun x => contribsOf e t.tile x.1 x.2) (marksOf t.tile l) (tileMaxima j t.tile l))
  | x => x

/-- Run the thread of a tile of a view opcode (R150 item 4, R207). -/
def runTile (s : State) (op uid tile : Nat) : State :=
  match s.job? uid with
  | none => s
  | some j => if Entry.opcode j.entry ≠ op ∨ !tilesOpen j then s else s.runThread uid tile viewWork viewFinish

/-! Closing writes (06 R491). -/

/-- Elements [a, b) have retired whole and lie below the job's end. -/
def spanRetired (j : Job) (a b : Nat) : Bool :=
  let limit := match j.early with | some x => x.elem | none => j.elems
  decide (b ≤ limit) &&
  (List.range (j.tileOf (b - 1) + 1 - j.tileOf a)).all fun k => j.retired.contains (j.tileOf a + k)

/-- First and last bound of a piece of `size` bytes of the dense destination, in elements. -/
def pieceElems (j : Job) (size b : Nat) : Nat × Nat :=
  let w := max 1 (Entry.dst j.entry).w
  (8 * size * b / w, min (ceilDiv (8 * size * (b + 1)) w) j.elems)

/-- Pieces of `size` bytes that elements [a, b) touch. -/
def piecesOf (j : Job) (size a b : Nat) : List Nat :=
  let w := max 1 (Entry.dst j.entry).w
  let first := a * w / (8 * max 1 size)
  let last := (b * w - 1) / (8 * max 1 size)
  (List.range (last + 1 - first)).map fun k => first + k

/-- The WRITE side runs under GCM. -/
def gcmWrite (j : Job) : Bool := Entry.cipherWrite j.entry && (j.key.map (·.gcm)) == some true

/-- Groups that elements [a, b) touch. -/
def groupsOf (j : Job) (a b : Nat) : List Nat :=
  let l := 64 * max 1 (Entry.rowLen j.entry)
  (List.range ((b - 1) / l + 1 - a / l)).map fun k => a / l + k

/-- Every group of elements [a, b) has its final data: its record is formed and no redo waits or runs (R203, 09 R223). -/
def groupsFinal (j : Job) (a b : Nat) : Bool :=
  !(Entry.isView j.entry && Entry.mode j.entry == 2 && Entry.resend j.entry) ||
  (groupsOf j a b).all fun g => j.pass.closed.contains (64 * g * max 1 (Entry.rowLen j.entry), 2) && !j.pass.redo.contains g

/-- Output records that the retirement of elements [a, b) makes due (R201). -/
def newRecords (j : Job) (a b : Nat) : List (Nat × Nat) :=
  let l := max 1 (Entry.rowLen j.entry)
  if !(Entry.isView j.entry && Entry.mode j.entry == 2) || b ≤ a then [] else
  ((groupsOf j a b).filterMap fun g =>
    if spanRetired j (64 * g * l) (min (64 * (g + 1) * l) j.elems) then some (64 * g * l, 2) else none).filter fun x =>
      !j.pass.closed.contains x && !j.pass.due.contains x

/-- Other closing writes that the retirement of elements [a, b) makes due (R206, 09 R223, 14 R337). -/
def newClosings (j : Job) (a b : Nat) : List (Nat × Nat) :=
  let e := j.entry
  let pieceKind := fun (size kind : Nat) =>
    ((piecesOf j size a b).filter fun k =>
      let q := pieceElems j size k
      spanRetired j q.1 q.2 && groupsFinal j q.1 q.2).map fun k => ((pieceElems j size k).1, kind)
  let all := (if a < b ∧ Entry.sealGen e then pieceKind (Entry.sealBlock e) 0 else []) ++
    (if a < b ∧ gcmWrite j then pieceKind (Entry.cipherUnit e) 1 else []) ++
    (if Entry.opcode e = 0x04 ∧ u64 e 0xC8 ≠ 0 ∧ j.early.isNone ∧ j.lowestUnretired = j.tiles then [(j.elems, 3)] else [])
  all.filter fun x => !j.pass.closed.contains x && !j.pass.due.contains x

/-- Address and bytes of a closing write. -/
def closingBytes (j : Job) (c : Nat × Nat) : Nat × List Byte :=
  let e := j.entry
  let out := fun (r : Int × Nat) => (List.range r.2).map fun i => memGet j.pass.outs (r.1.toNat + i) 0
  let w := max 1 (Entry.dst e).w
  match c.2 with
  | 0 =>
    let b := c.1 * w / (8 * max 1 (Entry.sealBlock e))
    (Entry.sealAddr e + b * Entry.sealPitch e, leBytes 4 (crc32c (out (Entry.pieceRange (Entry.dstRange e) (Entry.sealBlock e) b))).toNat)
  | 1 =>
    let u := c.1 * w / (8 * max 1 (Entry.cipherUnit e))
    let q := Entry.pieceRange (Entry.dstRange e) (Entry.cipherUnit e) u
    let route := (Entry.dst e).route
    let iv := (unitValue (canonical (route * 2 ^ 56 + q.1.toNat)) (Entry.cipherId e)).take 12
    (route * 2 ^ 56 + ((Entry.dstRange e).2 + 1).toNat + 16 * u, (j.key.map fun k => gcmTag k.bytes iv (out q)).getD [])
  | 2 =>
    let g := c.1 / (64 * max 1 (Entry.rowLen e))
    let shifts := (groupRows e g).map fun r => lookupD j.pass.nexts r none
    let dflt := ((j.pass.matched.find? fun x => x.group == g).map (·.base)).getD 0
    let x := formRecord g shifts dflt
    (Entry.scaleOut e + 48 * g, recordOf x (Entry.pmOut e) (1 + if shifts.any Option.isNone then 2 else 0))
  | _ => (u64 e 0xC8, leBytes 4 (j.pass.rowMax.foldl (fun a x => max a x.2.toNat) 0))

/-- A closing write of a job that a cancel, a timeout or a reset has ended fails: POSITION falls to it, and the counts with it
(R491). -/
def lowerPos (s : State) (uid elem : Nat) : State :=
  s.modJob uid fun y =>
    if y.phase == .ending && decide (elem < y.position) then
      { y with position := elem, count := (y.countsBelow elem).1, aux := (y.countsBelow elem).2 }
    else y

/-- Issue one closing write, or leave it due until its translation has arrived. -/
def closeOne (s : State) (uid : Nat) (c : Nat × Nat) : State :=
  match s.job? uid with
  | none => s
  | some j =>
    let x := closingBytes j c
    match s.place j.part j.xlat x.1 x.2 with
    | none =>
      if s.routeLost j.part (x.1 / 2 ^ 56) then
        ((s.modJob uid fun y => { y with pass := { y.pass with due := y.pass.due.filter (· != c) } }).lostWrite j c.1 (x.1 / 2 ^ 56)).lowerPos
          uid c.1
      else (s.modJob uid fun y => { y with pass := { y.pass with due := y.pass.due.filter (· != c) ++ [c] } }).askRange (.job uid) j.part
        j.xlat 2 x.1 x.2.length
    | some bs =>
      let g := c.1 / (64 * max 1 (Entry.rowLen j.entry))
      let redo := c.2 == 2 && Entry.resend j.entry && (groupRows j.entry g).any fun r => lookupD j.pass.nexts r (some 0) == none
      (s.issue (.job uid .closing c.1) j.part c.1 (x.1 / 2 ^ 56) bs []).modJob uid fun y =>
        { y with pass := { y.pass with due := y.pass.due.filter (· != c), closed := y.pass.closed ++ [c],
                                       redo := if redo then y.pass.redo ++ [g] else y.pass.redo } }

/-- Issue the closing writes that wait, where their places are known now. -/
def flushClosings (s : State) (uid : Nat) : State :=
  match s.job? uid with
  | none => s
  | some j => j.pass.due.foldl (fun (s : State) c => s.closeOne uid c) s

/-- Issue the closing writes that elements [a, b) make due: output records first, since a redo holds seals back. -/
def closeRange (s : State) (uid a b : Nat) : State :=
  let s1 := match s.job? uid with
    | some k => (newRecords k a b).foldl (fun (s : State) c => s.closeOne uid c) s
    | none => s
  match s1.job? uid with
  | some k => (newClosings k a b).foldl (fun (s : State) c => s.closeOne uid c) s1
  | none => s1

/-- A job that a cancel, a timeout or a reset ended while redos waited: redos that have not written their data do not run, and the
closing writes that they held back are issued (R491). -/
def finalClosings (s : State) (uid : Nat) : State :=
  match s.job? uid with
  | none => s
  | some j =>
    let ahead := j.pass.redo.filter fun g => !(j.pass.redoing.any fun x => x.group == g)
    if j.phase != .ending || !j.stopped || ahead.isEmpty then s else
    (s.modJob uid fun y =>
      { y with pass := { y.pass with redo := y.pass.redo.filter fun g => !ahead.contains g, redoAt := none,
                                     cancelled := y.pass.cancelled ++ ahead } }).closeRange uid 0 j.elems

/-! Rows in CARRIED mode (08 R200-R202). -/

/-- Measure row r from what its tiles read, once every tile that it touches has retired. -/
def measureRow (s : State) (uid r : Nat) : State :=
  match s.job? uid with
  | none => s
  | some j =>
    let e := j.entry
    let l := Entry.rowLen e
    if (j.pass.nexts.any fun x => x.1 == r) || !spanRetired j (r * l) ((r + 1) * l) then s else
    let ms := (j.pass.maxima.filter fun x => x.1.2 == r).map fun x => Num.fin false x.2.1 x.2.2
    let next := carriedNext e (rowShift j r) (maxAbs ms)
    let tile := j.tileOf ((r + 1) * l - 1)
    s.modJob uid fun y =>
      { y with pass := { y.pass with nexts := y.pass.nexts ++ [(r, next)] },
               contribs := if next.isNone then y.contribs ++ [{ tile, elem := r * l, cnt := 0, aux := 1 }] else y.contribs,
               marks := if next.isNone then y.marks ++ [{ kind := .row, tile, elem := r * l, num := r }] else y.marks }

/-- Rows that elements [a, b) touch. -/
def measureRows (s : State) (uid a b : Nat) : State :=
  match s.job? uid with
  | none => s
  | some j =>
    if !(Entry.isView j.entry && Entry.mode j.entry == 2) || b ≤ a then s else
    let l := max 1 (Entry.rowLen j.entry)
    ((List.range ((b - 1) / l + 1 - a / l)).map fun k => a / l + k).foldl (fun (s : State) r => s.measureRow uid r) s

/-! The outcome of a job whose tiles have all retired. -/

/-- The mark of the lowest number among those of the given kinds: the lowest leaf, block, unit or row. -/
def lowestMark (j : Job) (ks : List MarkKind) : Option Mark :=
  (j.marks.filter fun m => ks.contains m.kind).foldl (fun (a : Option Mark) m => match a with
    | none => some m
    | some b => if m.num < b.num then some m else some b) none

/-- Code and DETAIL (07 R176, 08 R202, 09 R224, 14 R338). -/
def finalCode (j : Job) : Nat × Nat :=
  match lowestMark j [.leafSeal, .leafUnder, .leafOver] with
  | some m => (match m.kind with | .leafSeal => 0x60 | .leafUnder => 0x62 | _ => 0x61, m.num % 65536)
  | none =>
    match lowestMark j [.block] with
    | some m => (0x60, m.num % 65536)
    | none =>
      match lowestMark j [.unit] with
      | some m => (0x60, m.num % 65536)
      | none =>
        match lowestMark j [.row] with
        | some m => (0x64, m.num % 65536)
        | none => (0, 0)

/-- Opcodes that complete when their tiles have retired and their closing writes are answered. -/
def tileOpcode (op : Nat) : Bool := [0x01, 0x02, 0x03, 0x04, 0x09, 0x0A, 0x0D, 0x0E].contains op

/-- A job whose tiles have all retired completes (01 R38). -/
def settleJob (s : State) (uid : Nat) : State :=
  match s.job? uid with
  | none => s
  | some j =>
    if j.phase != .running || j.stopped || j.order = 0 || j.early.isSome || !j.threads.isEmpty || j.lowestUnretired < j.tiles ||
       !tileOpcode (Entry.opcode j.entry) || !tilesOpen j || !s.closingsQuiet j j.elems || !(s.jobWrites uid).isEmpty then s else
    let c := finalCode j
    s.endJob uid c.1 c.2 j.elems

/-- Both outcomes a job can reach once something of it has been answered. -/
def settle (s : State) (uid : Nat) : State := (s.settleEarly uid).settleJob uid

/-- The thread of a tile retires once every write it issued is answered (01 R35, R37). -/
def retireThread (s : State) (uid tile : Nat) : State :=
  match s.job? uid with
  | none => s
  | some j =>
    match j.threads.find? fun t => t.tile == tile && t.ran with
    | none => s
    | some t =>
      if j.phase != .running || j.stopped || !(s.threadWrites uid tile).isEmpty then s else
      let s1 := (s.modJob uid fun y =>
        { y with retired := insertAsc y.retired tile, threads := y.threads.filter (·.tile != tile) }).drainReads uid (· == tile)
      let a := j.tileStart tile
      let b := j.tileStart (tile + 1)
      (((s1.measureRows uid a b).closeRange uid a b).settle uid).settleRun t.span

/-! STATS (08 R205, R206). -/

/-- Max-abs of a row for STATS as FP32 bits, with its NaN elements and whether it is infinite. -/
def statsRow (l : List (Option Num)) : Word32 × Nat × Bool :=
  let xs := l.filterMap id
  let infinite := xs.any Num.isInf
  let m := maxAbs xs
  (BitVec.ofNat 32 (if infinite then fp32.infCode false else f32bits (.fin false m.1 m.2)), (xs.filter Num.isNan).length, infinite)

/-- The rows of a STATS tile. -/
def statsWork (s : State) (w : Work) (t : Thread) : Run Put :=
  let e := w.entry
  let base : Int := (u64 e 0xC0 % 2 ^ 56 : Nat)
  runElems (fun r =>
    (s.rowValues w (s.bookAt w t.span) r (some r)).map fun l =>
      let x := statsRow l
      let faults := (List.range (Entry.rowLen e)).flatMap fun k => s.faultsOf w.toJob (Entry.inRow e r k)
      { bits := (List.range 32).map fun (k : Nat) => (base + (4 * r : Nat)) * 8 + (k : Int), code := x.1.toNat, cnt := x.2.1,
        aux := if x.2.2 then 1 else 0, faults }) (liveElems w.toJob t.tile)

/-- Land the row values of a STATS tile. -/
def statsFinish (s : State) (w : Work) (t : Thread) (l : List (Nat × Put)) : Land :=
  let e := w.entry
  match s.landCells w.toJob (.job w.uid .thread t.tile) (u64 e 0xC0 / 2 ^ 56) (cellsOfAll l) (s.tileMeets w.toJob (l.map (·.1)))
      (fun _ => true) (some t.span) with
  | .done s1 =>
    let s2 := (s1.correctStaging (ctxOf w.toJob (w.tileStart t.tile)) (s.elemKeys w.toJob (l.map (·.1)))).modJob w.uid fun y =>
      { y with pass := { y.pass with rowMax := (y.pass.rowMax.filter fun m => !(l.any fun x => x.1 == m.1)) ++
                                               l.map fun x => (x.1, BitVec.ofNat 32 x.2.code) } }
    .done (s2.threadRan w.uid t.tile (l.flatMap fun x => contribsOf e t.tile x.1 x.2) (marksOf t.tile l))
  | x => x

/-- Run the thread of a STATS tile: rows in order until one meets an event. -/
def runStats (s : State) (uid tile : Nat) : State :=
  match s.job? uid with
  | none => s
  | some j => if Entry.opcode j.entry ≠ 0x04 then s else s.runThread uid tile statsWork statsFinish

/-! Passes. -/

/-- A running job whose pass may go on: one that is to be decoded again has been (02 R52). -/
def passJob (s : State) (uid : Nat) : Option Job :=
  (s.job? uid).filter fun j => j.phase == .running && !j.stopped && j.order != 0 && !j.recheck

/-- Set the winning place of a (value, outer index) pair; places come in ascending order (06 R144). -/
def putWinner : List ((Int × Nat) × Nat) → Int × Nat → Nat → List ((Int × Nat) × Nat)
  | [], k, x => [(k, x)]
  | (a, y) :: r, k, x => if a = k then (k, x) :: r else (a, y) :: putWinner r k x

/-- Lowest shared index that uses a place of the stream, its index in the outer dimension and in the indexed one; and its address. -/
def indexVec (e : Entry) (p : Nat × Nat) : List Nat :=
  let y := Entry.idxOuter e
  ((List.replicate 6 0).set (Entry.idxDim e) p.2).set (if y = 7 then 6 else y) p.1
def indexAddr (e : Entry) (p : Nat × Nat) : Nat := Entry.idxBase e + 4 * Entry.idxPos e (indexVec e p)

/-- What an index pass reads: each place of the stream with its pair of indices and the lowest element that uses it. -/
def indexReads (s : State) (j : Job) : List ((Nat × Nat) × Nat × Got (List Byte)) :=
  let e := j.entry
  let x := Entry.idxDim e
  let y := Entry.idxOuter e
  let outer := if y = 7 then 1 else Entry.extent e y
  let places := (List.range outer).flatMap fun iy => (List.range (Entry.extent e x)).map fun ix => (iy, ix)
  places.map fun p => (p, rank (Entry.exts e) (indexVec e p), s.got (passWork j) (indexAddr e p) 4)

/-- The winning places among index reads that have been answered, in order. -/
def winnersOf (e : Entry) (l : List ((Nat × Nat) × Nat × Got (List Byte))) : List ((Int × Nat) × Nat) :=
  l.foldl (fun w r => match r.2.2 with
    | .ok b =>
      let v := Entry.idxVal e (leNat b)
      if Entry.idxMin e ≤ v ∧ v ≤ Entry.idxMax e then putWinner w (v, r.1.1) r.1.2 else w
    | _ => w) []

/-- Translations and reads that a list of reads still waits for. -/
def awaited {α : Type} (l : List (Got α)) : List Nat × List (Target × Nat) :=
  l.foldr (fun r a => match r with | .wait as gs => (as ++ a.1, gs ++ a.2) | _ => a) ([], [])

/-- Read the whole index stream and record the winner of every pair (R144). A read that fails is an early event at the lowest element
that uses it, at 0 in FIRST_PASS (08 R197); of the elements below the lowest event, which still run, each pair's last one wins
(DESIGN CHOICE, log entry 77: the spec does not say which elements an early end in the pass leaves as duplicates). -/
def indexPass (s0 : State) (uid : Nat) : State :=
  let s := s0.recheckJob uid
  match s.passJob uid with
  | none => s
  | some j =>
    let e := j.entry
    if Entry.opcode e ≠ 0x03 ∨ j.pass.indexed then s else
    let reads := s.indexReads j
    let s1 := reads.foldl (fun s r => match r.2.2 with
      | .bad c d u =>
        let elem := if Entry.mode e = 1 then 0 else r.2.1
        (s.countRead c u (ctxOf j elem)).noteEarly uid { elem, code := c, detail := d, rank := 0 }
      | _ => s) s
    let limit := (((s1.job? uid).bind (·.early)).map (·.elem)).getD j.elems
    let below := reads.filter fun r => decide (r.2.1 < limit)
    let more := awaited (below.map (·.2.2))
    if !more.1.isEmpty || !more.2.isEmpty then (s1.passWait j more.1 more.2).settleEarly uid
    else
      let s2 := s1.correctStaging (ctxOf j 0) (below.flatMap fun r => s.bytesKeys j (indexAddr e r.1) 4)
      (s2.modJob uid fun k => { k with pass := { k.pass with indexed := true, winners := winnersOf e below, seen := {} } }).settleEarly uid

/-- Folios that the rows of a group of an EXPAND job touch. -/
def rowFolios (j : Job) (rows : List Nat) : List (Nat × Folio) :=
  let e := j.entry
  if !Entry.expand e then [] else
  let leaves := (rows.flatMap fun r => (List.range (Entry.rowLen e)).map fun k => rank (Entry.exts e) (Entry.inRow e r k) / 1024).eraseDups
  (leaves.filterMap fun l => Entry.folioOf j.decoded (Entry.firstLeaf e + l)).eraseDups

/-- Keys of the source bytes of a row. -/
def rowKeys (s : State) (j : Job) (r : Nat) : List Nat :=
  (List.range (Entry.rowLen j.entry)).flatMap fun k => s.sourceKeys j (Entry.inRow j.entry r k)

/-- The scale pass of FIRST_PASS forms and writes the record of the next group (08 R197); an event in it ends the job at 0. -/
def scalePass (s0 : State) (op uid g : Nat) : State :=
  let s := s0.recheckJob uid
  match s.passJob uid with
  | none => s
  | some j =>
    let e := j.entry
    if Entry.opcode e ≠ op ∨ j.early.isSome ∨ j.pass.converting ∨
       g ≠ j.pass.scales.length ∨ Entry.groups e ≤ g ∨ (op = 0x03 ∧ !j.pass.indexed) then s else
    match s.passSpan j.part with
    | none => s.askPass j []
    | some span =>
      match Res.all ((groupRows e g).map fun r => s.rowValues (passWork j) (s.bookAt (passWork j) span) r (some 0)) with
      | .early x u => ((s.countRead x.code u (ctxOf j 0)).noteEarly uid { x with elem := 0 }).settleEarly uid
      | .wait as gs => s.passWait j as gs
      | .ok rows =>
        let rec_ := formRecord g (rows.map fun l => some (rowNeed e (rowMaxAbs l))) 0
        let a := Entry.scaleOut e + 48 * g
        match s.place j.part j.xlat a (recordOf rec_ (Entry.pmOut e) 0) with
        | none =>
          if s.routeLost j.part (a / 2 ^ 56) then (s.lostWrite j 0 (a / 2 ^ 56)).settleEarly uid
          else s.askRange (.job uid) j.part j.xlat 2 a 48
        | some bs =>
          let s1 := s.correctStaging (ctxOf j 0) ((groupRows e g).flatMap (s.rowKeys j))
          ((s1.loadBooks (passWork j) span (rowFolios j (groupRows e g))).issue (.job uid .scale g) j.part 0 (a / 2 ^ 56) bs []).modJob uid
            fun y => { y with pass := { y.pass with scales := y.pass.scales ++ [rec_], seen := {} } }

/-- A view opcode's command: its scale pass while FIRST_PASS has not begun to convert, else its tile. -/
def viewStep (s : State) (op uid tile : Nat) : State :=
  match s.job? uid with
  | none => s
  | some j => if Entry.mode j.entry = 1 ∧ !j.pass.converting then s.scalePass op uid tile else s.runTile op uid tile

/-- The conversion pass begins once every scale record is acknowledged (R197). -/
def conversionPass (s : State) (uid : Nat) : State :=
  match s.job? uid with
  | none => s
  | some j =>
    let e := j.entry
    let quiet := !((s.jobWrites uid).any fun w => match w.owner with | .job _ .scale _ => true | _ => false)
    if Entry.isView e ∧ Entry.mode e = 1 ∧ j.phase = .running ∧ !j.stopped ∧ j.order ≠ 0 ∧ j.early.isNone ∧ !j.pass.converting ∧
       j.pass.scales.length = Entry.groups e ∧ quiet then
      s.modJob uid fun y => { y with pass := { y.pass with converting := true } }
    else s

/-! RESEND (R203, R204). -/

/-- Give up the redo of a group: it keeps its records (R204), and the seals it held back are due. -/
def cancelRedo (s : State) (uid g : Nat) : State :=
  match s.job? uid with
  | none => s
  | some j =>
    if !j.pass.redo.contains g then s else
    let l := Entry.rowLen j.entry
    (s.modJob uid fun y =>
      { y with pass := { y.pass with redo := y.pass.redo.filter (· != g), cancelled := y.pass.cancelled ++ [g],
                                     redoAt := y.pass.redoAt.filter fun x => x.group != g,
                                     redoing := y.pass.redoing.filter fun x => x.group != g } }).closeRange uid
        (64 * g * l) (min (64 * (g + 1) * l) j.elems)

/-- Step 1 of a redo: the rows of the group are read again and its shifts formed. A read that fails cancels the redo. -/
def redoMeasure (s : State) (j : Job) (g span : Nat) : State :=
  let e := j.entry
  match Res.all ((groupRows e g).map fun r => s.rowValues (passWork j) (s.bookAt (passWork j) span) r none) with
  | .early x u => ((s.cancelRedo j.uid g).countRead x.code u (ctxOf j (64 * g * Entry.rowLen e))).settle j.uid
  | .wait as gs => s.passWait j as gs
  | .ok rows =>
    let flags := ((j.pass.matched.find? fun x => x.group == g).map (·.flags)).getD 0
    let rec_ := { formRecord g (rows.map fun v => some (rowNeed e (rowMaxAbs v))) 0 with flags }
    let s1 := s.correctStaging (ctxOf j (64 * g * Entry.rowLen e)) ((groupRows e g).flatMap (s.rowKeys j))
    (s1.loadBooks (passWork j) span (rowFolios j (groupRows e g))).modJob j.uid fun y =>
      { y with pass := { y.pass with redoAt := some rec_, seen := {} } }

/-- Step 2 of a redo: every row is read once more and converted with the new shifts, and its elements are written again. A read that
fails is an early event at its element. -/
def redoConvert (s : State) (j : Job) (rec_ : ScaleRec) (span : Nat) : State :=
  let e := j.entry
  let uid := j.uid
  let g := rec_.group
  let a := 64 * g * Entry.rowLen e
  let b := min (64 * (g + 1) * Entry.rowLen e) j.elems
  let matched := j.pass.matched.map fun x => if x.group == g then rec_ else x
  let w : Work := { toJob := { j with pass := { j.pass with matched } }, seen := some j.pass.seen }
  let u := max 1 (Entry.dst e).w
  let a1 := if Entry.cipherWrite e then a * u / 128 * 128 / u else a
  let b1 := if Entry.cipherWrite e then min (ceilDiv (roundUp (b * u) 128) u) j.elems else b
  let r := runElems (fun n => s.elemPut w (s.bookAt w span) (rowShift w.toJob) n) ((List.range (b1 - a1)).map fun k => a1 + k)
  if !r.miss.isEmpty || !r.need.isEmpty then s.passWait j r.need r.miss else
  match r.stop with
  | .early x u => (((s.countRead x.code u (ctxOf j x.elem)).noteEarly uid x).cancelRedo uid g).settle uid
  | .ok _ =>
    match s.landCells j (.job uid .other a) (Entry.dst e).route (encryptCells j (cellsOfAll r.done)) (s.tileMeets j (r.done.map (·.1)))
        (fun n => decide (a1 ≤ n ∧ n < b1)) none with
    | .wait as => s.askXlat (.job uid) j.part 2 as
    | .lost n route => ((s.lostWrite j n route).cancelRedo uid g).settle uid
    | .done s1 =>
      let within := fun (n : Nat) => decide (a ≤ n) && decide (n < b)
      (s1.loadBooks w span (rowFolios j (groupRows e g))).modJob uid fun y =>
        { y with
          pass := { y.pass with redoAt := none, redoing := y.pass.redoing ++ [rec_], seen := {} }
          contribs := (y.contribs.filter fun c => !(c.conv && within c.elem)) ++
            (r.done.filter fun x => within x.1).flatMap fun x => convContrib e (y.tileOf x.1) x.1 x.2.conv }
  | _ => s

/-- Redo a group that holds a faulted row, as far as its reads have come (08 R203). A codebook that a thread still uses is not
replaced (07 R171). -/
def redoGroup (s : State) (uid g : Nat) : State :=
  match s.job? uid with
  | none => s
  | some j =>
    if j.phase ≠ .running ∨ j.stopped ∨ !j.pass.redo.contains g ∨ (j.pass.redoing.any fun x => x.group == g) then s else
    match s.passSpan j.part with
    | none => s.askPass j []
    | some span =>
      if folioClash j span (rowFolios j (groupRows j.entry g)) j.tiles then s else
      match j.pass.redoAt with
      | none => s.redoMeasure j g span
      | some rec_ => if rec_.group = g then s.redoConvert j rec_ span else s

/-- Step 3 of a redo, once the data writes of step 2 are answered: the input record is rewritten and the output record written, and
then the seals that the redo held back (R203, 09 R223). -/
def finishRedo (s : State) (uid : Nat) (rec_ : ScaleRec) : State :=
  match s.job? uid with
  | none => s
  | some j =>
    let e := j.entry
    let g := rec_.group
    let l := Entry.rowLen e
    let a := 64 * g * l
    let b := min (64 * (g + 1) * l) j.elems
    if !(j.phase == .running || j.phase == .ending) || (s.jobWrites uid).any fun w => w.owner == .job uid .other a then s else
    let rin := Entry.scaleIn e + 48 * g
    let rout := Entry.scaleOut e + 48 * g
    match [rin, rout].find? fun x => s.routeLost j.part (x / 2 ^ 56) with
    | some x =>
      (((s.lostWrite j a (x / 2 ^ 56)).cancelRedo uid g).lowerPos uid a).settle uid
    | none =>
      match s.place j.part j.xlat rin (recordOf rec_ (Entry.pmIn e) (rec_.flags % 2 + 4)),
            s.place j.part j.xlat rout (recordOf rec_ (Entry.pmOut e) 5) with
      | some bi, some bo =>
        let s1 := (s.issue (.job uid .closing a) j.part a (rin / 2 ^ 56) bi []).issue (.job uid .closing a) j.part a (rout / 2 ^ 56) bo []
        let s2 := s1.modJob uid fun y =>
          { y with
            pass := { y.pass with redo := y.pass.redo.filter (· != g), redone := y.pass.redone ++ [g],
                                  redoing := y.pass.redoing.filter fun x => x.group != g,
                                  matched := y.pass.matched.map fun x => if x.group == g then rec_ else x }
            marks := y.marks.filter fun m => !(m.kind == .row && decide (a ≤ m.elem) && decide (m.elem < b)) }
        s2.closeRange uid a b
      | _, _ => (s.askRange (.job uid) j.part j.xlat 3 rin 48).askRange (.job uid) j.part j.xlat 2 rout 48

/-- Redos whose data writes are answered go on. -/
def flushRedos (s : State) (uid : Nat) : State :=
  match s.job? uid with
  | none => s
  | some j => j.pass.redoing.foldl (fun (s : State) r => s.finishRedo uid r) s

/-- NOP completes with OK (05 R125). -/
def nop_ (s : State) (uid : Nat) : State :=
  match s.job? uid with
  | none => s
  | some j =>
    if Entry.opcode j.entry = 0x0F ∧ j.phase = .running ∧ !j.stopped ∧ j.order ≠ 0 then s.endJob uid 0 0 0 else s

end State

/-- TILE_REQUEST (01 R32). -/
def execTileRequest (span uid n : Nat) (s : State) : Ans := .next (s.requestTiles span uid n)

/-- COMPLETION_RECORD_WRITE (03 R90), after the last closing writes (06 R491). -/
def execCompletionRecordWrite (uid : Nat) (s : State) : Ans := .next (((s.finalClosings uid).flushRedos uid).recordWrite uid)

/-- THREAD_RETIRE (01 R37). -/
def execThreadRetire (uid tile : Nat) (s : State) : Ans := .next (s.retireThread uid tile)

/-- MOVE (05 R125). -/
def execMove (uid tile : Nat) (s : State) : Ans := .next (s.viewStep 0x01 uid tile)

/-- GATHER (06 R143). -/
def execGather (uid tile : Nat) (s : State) : Ans := .next (s.viewStep 0x02 uid tile)

/-- SCATTER (06 R144). -/
def execScatter (uid tile : Nat) (s : State) : Ans := .next (s.viewStep 0x03 uid tile)

/-- INDEX_PASS (06 R144). -/
def execIndexPass (uid : Nat) (s : State) : Ans := .next (s.indexPass uid)

/-- STATS (08 R206). -/
def execStats (uid tile : Nat) (s : State) : Ans := .next (s.runStats uid tile)

/-- FILL (05 R125). -/
def execFill (uid tile : Nat) (s : State) : Ans := .next (s.viewStep 0x0D uid tile)

/-- SEAL_CHECK (09 R225). -/
def execSealCheck (uid tile : Nat) (s : State) : Ans := .next (s.viewStep 0x0E uid tile)

/-- NOP (05 R125). -/
def execNop (uid : Nat) (s : State) : Ans := .next (s.nop_ uid)

/-- CONVERSION_PASS (08 R197). -/
def execConversionPass (uid : Nat) (s : State) : Ans := .next (s.conversionPass uid)

/-- RESEND_REDO (08 R203). -/
def execResendRedo (uid group : Nat) (s : State) : Ans := .next (((s.redoGroup uid group).flushRedos uid).settle uid)

end Sys2Proof.Machine
end

