-- ==== Sys2Proof/Machine/Tariff.lean ====
section
/-! DEFINITION. TARIFF (10): activations, table entries, raw sums and outputs of a near-memory matrix-vector job. -/

namespace Sys2Proof.Machine

namespace Entry

/-- Stages of the weight format: VQ8x1 has one, VQ8x2 two (R228). -/
def tStages (fmt : Nat) : Nat := if fmt = 3 then 2 else 1

/-- Bytes of token b's activations, of its outputs and of its carry, as ranges (R227). -/
def tRun (off base : Nat) (stride : Int) (b lo len : Nat) (wr : Bool) : NRange :=
  let o : Int := (base % 2 ^ 56 : Nat) + (b : Int) * stride + lo
  ⟨off, base, o, o + len - 1, !wr, wr⟩

/-- Rows [first, last) of tile t (R236). -/
def tRows (e : Entry) (t : Nat) : Nat × Nat := (1024 * t, min (1024 * (t + 1)) (tN e))

/-- Leaves that rows [a, b) draw on (R228). -/
def tLeaves (e : Entry) (a b : Nat) : List Nat :=
  let first := a * tK e / 1024
  (List.range ((b * tK e - 1) / 1024 + 1 - first)).map fun k => first + k

/-- An activation value α[b][k] (R230). -/
def tAlpha (e : Entry) (bytes : List Byte) (k : Nat) : Num :=
  elemNum (tAct e) (field bytes (k * tActW e) (tActW e)) (tZero e)

end Entry

/-- A table entry T_t[b][v][c] (R232). -/
def tableEntry (cb : List Byte) (alpha : Nat → Num) (t v c : Nat) : Num :=
  chain8 ((List.range 8).map (vq8Value cb t c)) ((List.range 8).map fun i => alpha (8 * v + i))

/-- The look-ups of one sub-vector, summed over the stages (R233). -/
def lookUp (cb : List Byte) (alpha : Nat → Num) (stages v : Nat) (code : Nat → Nat) : Num :=
  let u := tableEntry cb alpha 0 v (code 0)
  if stages = 2 then f32add u (tableEntry cb alpha 1 v (code 1)) else u

/-- The partial of one range of 8 sub-vectors, in ascending order (R233). -/
def rangePartial (f : Nat → Num) (r : Nat) : Num :=
  ((List.range 7).map fun j => f (8 * r + (j + 1))).foldl f32add (f (8 * r))

/-- y_raw: the carry if there is one, then the partials in ascending order (R233). -/
def rawSum (carry : Option Num) (f : Nat → Num) (ranges : Nat) : Num :=
  match carry with
  | some c => ((List.range ranges).map (rangePartial f)).foldl f32add c
  | none => ((List.range (ranges - 1)).map fun r => rangePartial f (r + 1)).foldl f32add (rangePartial f 0)

/-- The output encoding and whether a finite value saturates (R234). -/
def tariffOut (e : Entry) (shift : Int) (y : Num) : Nat × Nat :=
  let f := if Entry.tOut e = 2 then bf16 else fp32
  if Entry.tPartial e then f.cast y else f.cast (numScale y shift)

namespace State

/-- The job reads a byte of its own destination, or one that another party has written since it was admitted (01 R39). -/
def rangesMeet (s : State) (j : Job) (reads writes : List NRange) : Bool :=
  reads.any fun r => writes.any (s.overlap r) || (!j.touched.isEmpty && (s.rangeKeys j r).any j.touched.contains)

/-! Building the tables (R232, R238, R240). -/

/-- Token b's activations, as bytes; a failed read falls at linear index 0 (R240). -/
def tActs (s : State) (j : Work) (b : Nat) : Res (List Byte) :=
  let e := j.entry
  let r := Entry.tRun 0x30 (Entry.tActBase e) (Entry.tStride e 0x38) b 0 (Entry.tK e * Entry.tActW e) false
  (s.gotOff j (Entry.tActBase e / 2 ^ 56) r.lo (Entry.tK e * Entry.tActW e)).at 0 1

/-- The codebook of the job (R228); a failed read falls at linear index 0 (R240). -/
def tBook (s : State) (j : Work) : Res (List Byte) :=
  match Entry.folioOf j.decoded (Entry.firstLeaf j.entry) with
  | some (_, f) => (s.got j f.cbAddr (codebookBytes f.fmt)).at 0 1
  | none => .ok []

/-- The tables of a job, in whichever of its banks holds them. -/
def tablesOf (s : State) (j : Job) : Option TableBank := s.store.tables.find? fun b => j.banks.contains (b.span, b.core)

/-- Put the tables into every bank that the job holds; a job that has lost all of its banks takes one that is free (R238). -/
def storeTables (s : State) (j : Job) (book : List Byte) (acts : List (List Byte)) : State :=
  let banks := if j.banks.isEmpty then (s.freeBanks j.part).take 1 else j.banks
  let other := s.store.tables.filter fun b => !banks.contains (b.span, b.core)
  let new := banks.map fun b => ({ span := b.1, core := b.2, book, acts } : TableBank)
  let s1 : State := { s with store := { s.store with tables := other ++ new } }
  s1.modJob j.uid fun y => { y with banks, pass := { y.pass with built := !banks.isEmpty, seen := {} } }

/-- The table-building step, before any tile is handed out: the scale record is matched, the codebook and the activations are read,
and the job's banks hold the tables (R230-R232, R240). -/
def buildTables (s0 : State) (uid : Nat) : State :=
  let s := s0.recheckJob uid
  match s.passJob uid with
  | none => s
  | some j0 =>
    if Entry.opcode j0.entry ≠ 0x0A ∨ j0.early.isSome then s else
    match s.passSpan j0.part with
    | none => s.askPass j0 []
    | some span =>
      let m := if Entry.tScaled j0.entry then matchTo span uid 0 2 s else (s, true)
      match m.1.passJob uid with
      | none => m.1
      | some j =>
        if !m.2 then m.1 else if j.early.isSome then m.1.settleEarly uid else
        let w := passWork j
        match (m.1.tBook w).both (Res.all ((List.range (Entry.tB j.entry)).map fun b => m.1.tActs w b)) with
        | .ok x => m.1.storeTables j x.1 x.2
        | .early x u => ((m.1.countRead x.code u (ctxOf j 0)).noteEarly uid x).settleEarly uid
        | .wait as gs => m.1.passWait j as gs

/-! The tiles (R233-R236). -/

/-- Shift of token b (R230): the matched record's effective shift, or 0. -/
def tShift (j : Job) (b : Nat) : Int :=
  if !Entry.tScaled j.entry then 0 else
  match j.pass.matched.head? with
  | some x => effShift x.base (x.offs.getD b 0)
  | none => 0

/-- The carry C[n, b] (R227, R240). -/
def tCarryAt (s : State) (j : Work) (n b : Nat) : Res (Option Num) :=
  let e := j.entry
  if Entry.tCarry e = 0 then .ok none else
  let r := Entry.tRun 0x58 (Entry.tCarry e) (Entry.tStride e 0x60) b (4 * n) 4 false
  ((s.gotOff j (Entry.tCarry e / 2 ^ 56) r.lo 4).at (n * Entry.tB e) 1).map fun x => some (fp32.decode (leNat x))

/-- Class and payload of job leaf jl; a failed read falls at the index of its first row (R239, R240). -/
def tLeaf (s : State) (j : Work) (jl : Nat) : Res (LeafClass × List Byte) :=
  let e := j.entry
  match Entry.folioOf j.decoded (Entry.firstLeaf e + jl) with
  | none => .ok (.seal_, [])
  | some (_, f) =>
    ((s.leafRead j f (Entry.firstLeaf e + jl)).at (1024 * jl / Entry.tK e * Entry.tB e) 1).map fun x =>
      (classifyLeaf x.1 x.2 f (leafNeed (Entry.leafData e) jl), x.2)

/-- The mark of a leaf's class. -/
def leafMark : LeafClass → Option MarkKind
  | .sound => none
  | .seal_ => some .leafSeal
  | .under => some .leafUnder
  | .over => some .leafOver

/-- The work of output element n B + b, with the codebook and the token's activations from the tables (R232-R234, R239). -/
def tariffPut (s : State) (j : Work) (cb acts : List Byte) (n b : Nat) : Res Put :=
  let e := j.entry
  let stages := Entry.tStages ((Folio.parse j.decoded).fmt)
  let js := Entry.tLeaves e n (n + 1)
  let o := (Entry.tRun 0x48 (Entry.tDst e) (Entry.tStride e 0x50) b (n * Entry.tOutW e) (Entry.tOutW e) true).lo
  let bits := (List.range (8 * Entry.tOutW e)).map fun (k : Nat) => 8 * o + (k : Int)
  ((Res.all (js.map fun l => s.tLeaf j l)).both (s.tCarryAt j n b)).map fun x =>
    let faults := (js.zip x.1).filterMap fun l => (leafMark l.2.1).map fun k => (k, Entry.firstLeaf e + l.1)
    if !faults.isEmpty then { bits, code := (tariffOut e 0 .nan).1, poison := true, faults }
    else
      let first := js.headD 0
      let code := fun (v t : Nat) =>
        let m := n * Entry.tK e + 8 * v
        byteAt ((x.1.map (·.2)).getD (m / 1024 - first) []) (128 * t + m % 1024 / 8)
      let y := rawSum x.2 (fun v => lookUp cb (Entry.tAlpha e acts) stages v (code v)) (Entry.tK e / 64)
      let r := tariffOut e (tShift j.toJob b) y
      { bits, code := r.1, cnt := r.2 }

/-- What tile t reads, as ranges (R227, R228). -/
def tariffReads (j : Job) (t : Nat) : List NRange :=
  let e := j.entry
  let rs := Entry.tRows e t
  let tokens := List.range (Entry.tB e)
  let tb := Entry.tensorBase e
  tokens.map (fun b => Entry.tRun 0x30 (Entry.tActBase e) (Entry.tStride e 0x38) b 0 (Entry.tK e * Entry.tActW e) false) ++
  (if Entry.tScaled e then [Entry.bytesAt 0x40 (Entry.tScale e) 48 true false] else []) ++
  (if Entry.tCarry e = 0 then [] else
    tokens.map fun b => Entry.tRun 0x58 (Entry.tCarry e) (Entry.tStride e 0x60) b (4 * rs.1) (4 * (rs.2 - rs.1)) false) ++
  (Entry.tLeaves e rs.1 rs.2).flatMap fun jl =>
    match Entry.folioOf j.decoded (Entry.firstLeaf e + jl) with
    | some (_, f) =>
      [Entry.bytesAt 0 (tb + f.payloadAt (Entry.firstLeaf e + jl)) (payloadBytes f.fmt) true false,
       Entry.bytesAt 0 (tb + f.recordAt (Entry.firstLeaf e + jl)) 16 true false, Entry.bytesAt 0 f.cbAddr (codebookBytes f.fmt) true false]
    | none => []

/-- What the job writes, token by token. -/
def tariffWrites (e : Entry) : List NRange :=
  (List.range (Entry.tB e)).map fun b =>
    Entry.tRun 0x48 (Entry.tDst e) (Entry.tStride e 0x50) b 0 (Entry.tN e * Entry.tOutW e) true

/-- The elements of a TARIFF tile (R236). -/
def tariffWork (s : State) (w : Work) (t : Thread) : Run Put :=
  match s.tablesOf w.toJob with
  | none => idleRun
  | some x =>
    let b := max 1 (Entry.tB w.entry)
    runElems (fun i => s.tariffPut w x.book (x.acts.getD (i % b) []) (i / b) (i % b)) (liveElems w.toJob t.tile)

/-- What a tile reads and what its job writes, as ranges. -/
abbrev Ranges := List NRange × List NRange

/-- Land what a tile computed. Its bytes are open where the tile reads what its job or another party writes (01 R39). -/
def tileFinish (route : Entry → Nat) (ranges : State → Job → Nat → Ranges) (s : State) (w : Work) (t : Thread) (l : List (Nat × Put)) : Land :=
  let j := w.toJob
  let x := ranges s j t.tile
  match s.landCells j (.job w.uid .thread t.tile) (route w.entry) (cellsOfAll l) (s.rangesMeet j x.1 x.2) (fun n => w.tileOf n == t.tile)
      (some t.span) with
  | .done s1 =>
    .done ((s1.correctStaging (ctxOf j (w.tileStart t.tile)) (x.1.flatMap (s.rangeKeys j))).threadRan w.uid t.tile
      (l.flatMap fun x => contribsOf w.entry t.tile x.1 x.2) (marksOf t.tile l))
  | y => y

/-- Land a TARIFF tile. -/
def tariffFinish (s : State) (w : Work) (t : Thread) (l : List (Nat × Put)) : Land :=
  tileFinish (fun e => Entry.tDst e / 2 ^ 56) (fun _ j t => (tariffReads j t, tariffWrites j.entry)) s w t l

/-- A TARIFF command: the tables first, and again where no bank holds them any more, then the thread of a tile (R236, R240). -/
def runTariff (s : State) (uid tile : Nat) : State :=
  match s.job? uid with
  | none => s
  | some j =>
    if Entry.opcode j.entry ≠ 0x0A then s
    else if !j.pass.built || j.recheck || (s.tablesOf j).isNone then s.buildTables uid
    else s.runThread uid tile tariffWork tariffFinish

end State

/-- TARIFF (10 R236). -/
def execTariff (uid tile : Nat) (s : State) : Ans := .next (s.runTariff uid tile)

end Sys2Proof.Machine
end

