-- ==== Sys2Proof/Machine/Histogram.lean ====
section
/-! DEFINITION. HISTOGRAM_BUILD (07 R178-R182): pass 1 with its codebook, pass 2 over the leaves of a tile, and
FOLIO_ENTRY_WRITE. -/

namespace Sys2Proof.Machine

namespace Entry

/-- The operand of R178. -/
def hCodebook (e : Entry) : Nat := u64 e 0xA0
def hScratch (e : Entry) : Nat := u64 e 0xA8
def hMode (e : Entry) : Nat := u8 e 0xB0
def hId (e : Entry) : Nat := u16 e 0xB2
def hFirst (e : Entry) : Nat := u32 e 0xB4
def hFolio (e : Entry) : Nat := u64 e 0xB8
def hPayload (e : Entry) : Nat := u64 e 0xC8
def hTable (e : Entry) : Nat := u64 e 0xD0

/-- The folio entry of a finished mode-1 job (R181). -/
def hFolioEntry (e : Entry) : Folio :=
  { fmt := 1, placement := 0, cbId := hId e, count := dataElems e / 1024, first := hFirst e, payOff := hPayload e,
    tabOff := hTable e, cbAddr := hCodebook e }

end Entry

/-- Bytes at an offset of a route as cells of an element. -/
def cellsAt (off : Int) (elem : Nat) (bs : List Byte) : List Cell :=
  ((List.range bs.length).zip bs).map fun x => { off := off + (x.1 : Int), mask := 255, val := x.2.toNat, elem }

namespace State

/-- Source encodings of elements [a, b) in order. -/
def histSource (s : State) (j : Work) (span a b : Nat) : Res (List Nat) :=
  Res.all ((List.range (b - a)).map fun k =>
    (s.readElem j (s.bookAt j span) (unrank (Entry.exts j.entry) (a + k)) (a + k)).map fun x =>
      match x.1 with
      | .code c _ => c
      | _ => 0)

/-- Keys of the 4 KiB pages of SCRATCH; none while a page has no place yet. -/
def scratchKeys (s : State) (j : Job) : Option (List Nat) :=
  (List.range 2048).mapM fun k => s.key j.part j.xlat (Entry.hScratch j.entry + 4096 * k)

/-- Leave SCRATCH undefined (R178). -/
def spoilScratch (s : State) (ks : List Nat) : State :=
  ({ s with store := ks.foldl (fun st k => st.undefine k 4096 s.block.free) s.store }).useFree

/-- The source bytes of elements [a, b). -/
def histReads (j : Job) (a b : Nat) : List NRange :=
  let v := Entry.src j.entry
  (List.range (b - a)).flatMap fun k =>
    (byteOffs (v.bits (unrank (Entry.exts j.entry) (a + k)) none)).map fun o => ⟨0, v.addr, o, o, true, false⟩

/-- They meet a range that the job writes, or bytes that another party has written (01 R39). -/
def histMeets (s : State) (j : Job) (a b : Nat) : Bool :=
  s.rangesMeet j (histReads j a b) ((Entry.viewRanges j.entry false).filter (·.wr))

/-- What pass 1 does once the whole source has been read: it counts, and writes the codebook (R180); mode 0 has no tile to run. -/
def histBuild (s : State) (j : Job) (ws : List Nat) : State :=
  let e := j.entry
  let uid := j.uid
  let counts := tupleCounts ws
  if 2 ^ 20 < counts.length then s.endJob uid 7 0xA8 0 else
  let kept := keptTuples counts
  let r := Entry.hCodebook e / 2 ^ 56
  let book := if s.histMeets j 0 j.elems then (List.range 16384).map fun i => Config.freeByte s.block.free (Entry.hCodebook e + i)
    else buildCodebook kept
  match s.place j.part j.xlat (Entry.hCodebook e) book with
  | none =>
    if s.routeLost j.part r then (s.lostWrite j 0 r).settleEarly uid
    else s.askRange (.job uid) j.part j.xlat 2 (Entry.hCodebook e) 16384
  | some bs =>
    let lossy := listSum ((counts.filter fun c => !kept.contains c.1).map (·.2))
    ((s.useFree).issue (.job uid .other 0) j.part 0 r bs []).modJob uid fun y =>
      { y with
        contribs := [{ tile := 0, elem := 0, cnt := counts.length, aux := lossy }]
        retired := if Entry.hMode e = 1 then [] else List.range y.tiles
        next := if Entry.hMode e = 1 then 0 else y.tiles
        pass := { y.pass with built := true, book, seen := {} } }

/-- Pass 1: SCRATCH is undefined from its first use on; the whole source is read; an event ends the job at 0 (R178, R180, R182). -/
def histPass (s : State) (j : Job) : State :=
  let uid := j.uid
  match s.passSpan j.part, s.scratchKeys j with
  | none, _ => s.askPass j []
  | _, none => s.askXlat (.job uid) j.part 3
      (s.unplaced j.part j.xlat ((List.range 2048).map fun k => Entry.hScratch j.entry + 4096 * k))
  | some span, some ks =>
    let s1 := if j.pass.bphase = 0 then (s.spoilScratch ks).modJob uid fun y => { y with pass := { y.pass with bphase := 1 } } else s
    match s1.histSource (passWork j) span 0 j.elems with
    | .early x u => ((s1.countRead x.code u (ctxOf j 0)).noteEarly uid { x with elem := 0 }).settleEarly uid
    | .wait as gs => s1.passWait j as gs
    | .ok ws => (s1.correctStaging (ctxOf j 0) ((histReads j 0 j.elems).flatMap (s.rangeKeys j))).histBuild j ws

/-- The leaves of a tile, each read whole before it is compressed, until one meets an event. -/
def histWork (s : State) (w : Work) (t : Thread) : Run (List Byte) :=
  let limit := match w.early with | some x => x.elem | none => w.elems
  let a := w.tileStart t.tile / 1024
  let ls := ((List.range (w.tileStart (t.tile + 1) / 1024 - a)).map (a + ·)).filter fun l => decide (1024 * (l + 1) ≤ limit)
  runElems (fun n => (s.histSource w t.span n (n + 1024)).map fun ws => (ex4Compress ws w.pass.book).1) (ls.map (1024 * ·))

/-- Land payload and record of each leaf of a tile (R181). -/
def histFinish (s : State) (w : Work) (t : Thread) (l : List (Nat × List Byte)) : Land :=
  let e := w.entry
  let j := w.toJob
  let o := Entry.tensorBase e % 2 ^ 56
  let cells := l.flatMap fun x =>
    let leaf := x.1 / 1024
    cellsAt (o + Entry.hPayload e + 1408 * leaf : Nat) x.1 x.2 ++ cellsAt (o + Entry.hTable e + 16 * leaf : Nat) x.1 (ex4Record (Entry.hId e) x.2)
  match s.landCells j (.job w.uid .thread t.tile) (Entry.tensorBase e / 2 ^ 56) cells
      (s.histMeets j (w.tileStart t.tile) (w.tileStart (t.tile + 1))) (fun _ => true) (some t.span) with
  | .done s1 =>
    let ks := (histReads j (w.tileStart t.tile) (w.tileStart (t.tile + 1))).flatMap (s.rangeKeys j)
    .done ((s1.correctStaging (ctxOf j (w.tileStart t.tile)) ks).threadRan w.uid t.tile (w.contribs.filter (·.tile == t.tile)) [])
  | x => x

/-- Tiles of the threads of a job that have still to run. -/
def idleTiles (j : Job) : List Nat := (j.threads.filter fun t => !t.ran).map (·.tile)

/-- A mode-0 job completes once its codebook write is answered, a mode-1 job once its folio entry is (R182). -/
def settleHist (s : State) (uid : Nat) : State :=
  match s.job? uid with
  | none => s
  | some j =>
    if Entry.opcode j.entry ≠ 0x10 ∨ j.phase ≠ .running ∨ j.stopped ∨ j.order = 0 ∨ j.early.isSome ∨ !j.pass.built ∨
       !(s.jobWrites uid).isEmpty ∨ (Entry.hMode j.entry = 1 ∧ !j.pass.folio) then s
    else s.endJob uid 0 0 j.elems

/-- The job's pass 1 the first time, then the threads that have been handed out. -/
def histStep (s0 : State) (uid : Nat) : State :=
  let s := s0.recheckJob uid
  match s.passJob uid with
  | none => s
  | some j =>
    if Entry.opcode j.entry ≠ 0x10 then s
    else if !j.pass.built then (if j.early.isSome then s else (s.histPass j).settleHist uid)
    else (idleTiles j).foldl (fun (s : State) t => s.runThread uid t histWork histFinish) s

/-- The folio entry, once every leaf has been written and answered (R181). -/
def writeFolio (s : State) (uid : Nat) : State :=
  match s.job? uid with
  | none => s
  | some j =>
    let e := j.entry
    if Entry.opcode e ≠ 0x10 ∨ Entry.hMode e ≠ 1 ∨ j.phase ≠ .running ∨ j.stopped ∨ j.early.isSome ∨ !j.pass.built ∨ j.pass.folio ∨
       !j.threads.isEmpty ∨ j.lowestUnretired < j.tiles ∨ !(s.jobWrites uid).isEmpty then s else
    let r := Entry.hFolio e / 2 ^ 56
    match s.place j.part j.xlat (Entry.hFolio e) (Folio.bytes (Entry.hFolioEntry e)) with
    | none =>
      if s.routeLost j.part r then (s.lostWrite j j.elems r).settleEarly uid
      else s.askRange (.job uid) j.part j.xlat 2 (Entry.hFolio e) 64
    | some bs =>
      ((s.issue (.job uid .other j.elems) j.part j.elems r bs []).modJob uid fun y =>
        { y with pass := { y.pass with folio := true } }).settleHist uid

end State

/-- HISTOGRAM_BUILD (07 R180-R182). -/
def execHistogramBuild (uid : Nat) (s : State) : Ans := .next (s.histStep uid)

/-- FOLIO_ENTRY_WRITE (07 R181). -/
def execFolioEntryWrite (uid : Nat) (s : State) : Ans := .next (s.writeFolio uid)

end Sys2Proof.Machine
end

