-- ==== Sys2Proof/Machine/Groups.lean ====
section
/-! DEFINITION. Groups (11): CONTRIBUTE, REDUCE, COLLECT, GROUP_BARRIER, DISPATCH, COMBINE; the messages between engines
(R251, R258-R267); BARRIER and its deck arrivals (02 R72-R76). -/

namespace Sys2Proof.Machine
namespace State

/-! Places and messages. -/

/-- Address of the slot area part of a LOCAL rank (R247). -/
def slotBase (g : Group) (r : Nat) : Nat :=
  g.slotArea.toNat + ((localRanks g).filter (· < r)).length * slotPartBytes g

/-- Contribution slot of rank r for chunk c at its owner, and the owner's retention slot (R247). -/
def slotOfRank (g : Group) (c r : Nat) : Nat :=
  slotBase g (c % g.m) + (c % g.slotDepth * g.m + r) * chunkBytes g
def retention (g : Group) (c : Nat) : Nat :=
  slotBase g (c % g.m) + g.m * g.slotDepth * chunkBytes g + c / g.m * resultBytes g

/-- The member record of a rank. -/
def member (g : Group) (r : Nat) : Member := g.members.getD r ⟨0, 0, none, none⟩

/-- The route on which this engine reaches a member: its own, a deck peer's, or its remote window's (02 R45). -/
def memberRoute (m : Member) : Nat :=
  match m.place with
  | none => m.recv.toNat / 2 ^ 56
  | some (.deck d) => 0x30 + d
  | some (.conn _) => 0x40 + m.win.getD 0

/-- Where byte a of a member's own engine lies: here, on a deck peer, or behind a connection (R245, log entry 26). -/
def memberLoc (s : State) (p : Nat) (xl : List Xlat) (m : Member) (a : Nat) : Option (Target × Nat) :=
  match m.place with
  | none => s.locate p xl a
  | some (.conn c) => some (.remote c, a)
  | some (.deck d) => some (.deck d p, if a / 2 ^ 56 = 0x20 then a % 2 ^ 56 else a)

/-- The way to a member leads nowhere any more (02 R56). -/
def memberLost (s : State) (p : Nat) (m : Member) : Bool :=
  match m.place with
  | none => s.routeLost p (m.recv.toNat / 2 ^ 56)
  | some (.conn c) => !(s.ports.conns.any fun x => x.conn == c && x.isOpen)
  | some (.deck d) => (s.deckDir d).isNone

/-- Read at a member's area. -/
def memberGot (s : State) (j : Work) (m : Member) (a n : Nat) : Got (List Byte) :=
  if s.memberLost j.part m then .bad 0x48 (memberRoute m) (routeUnit (memberRoute m))
  else match (List.range n).mapM fun i => s.memberLoc j.part j.xlat m (a + i) with
    | none => .wait (s.unplaced j.part j.xlat ((List.range n).map fun i => a + i)) []
    | some ts => s.look j.seen (memberRoute m) ts

/-- Bytes with the element each belongs to, at their places; none while one has no place. -/
def memberPlace (s : State) (p : Nat) (xl : List Xlat) (m : Member) (a : Nat) (bs : List (Byte × Nat)) : Option (List Put8) :=
  ((List.range bs.length).zip bs).mapM fun x =>
    (s.memberLoc p xl m (a + x.1)).map fun t => { target := t.1, addr := t.2, val := x.2.1.toNat, elem := x.2.2 }

/-- Pages of this engine that bytes at a member's area wait for. -/
def memberPages (s : State) (j : Job) (m : Member) (a n : Nat) : List Nat :=
  if m.place.isNone then s.unplaced j.part j.xlat ((List.range n).map fun i => a + i) else []

/-- The same at an address of this engine. -/
def elemPlace (s : State) (j : Job) (a : Nat) (bs : List (Byte × Nat)) : Option (List Put8) :=
  s.memberPlace j.part j.xlat ⟨0, 0, none, none⟩ a bs

/-- The first group that carries a tag: partitions ascending (log entry 27). -/
def groupByTag (s : State) (tag : Nat) : Option (Nat × Group) :=
  (List.range 9).findSome? fun p => ((s.part p).groups.find? (·.tag == tag)).map fun g => (p, g)

def epochNow (g : Group) : Nat := g.epoch % 2 ^ 32
def epochNext (g : Group) : Nat := (g.epoch + 1) % 2 ^ 32

/-- Act on a message that has been taken: one for no group, for an ended epoch or for an ABORTED group is discarded; one for
the next epoch waits for this engine to open it. -/
def onMsg (s : State) (m : Msg) (tag epoch : Nat) (f : State → Nat → Group → State) : State :=
  if !s.ports.inbox.contains m then s else
  let s1 := { s with ports := { s.ports with inbox := s.ports.inbox.erase m } }
  match s.groupByTag tag with
  | none => s1
  | some (p, g) =>
    if g.state = .aborted then s1
    else if epoch = epochNext g then s
    else if epoch = epochNow g then f s1 p g
    else s1

/-- The job of an opcode for a rank and a chunk of a group's epoch. -/
def groupJob (s : State) (op p : Nat) (g : Group) (rank chunk : Nat) : Option Job :=
  s.jobs.find? fun j =>
    j.part == p && j.groupOp && Entry.opcode j.entry == op && j.groupNo == g.g && j.order != 0 && j.phase == .running && !j.stopped &&
    Entry.rankOf j.entry == rank && Entry.chunkOf j.entry == chunk && j.epoch == epochNow g

/-- COUNT and AUX that a job reports as a whole. -/
def addWhole (s : State) (uid cnt aux : Nat) : State :=
  s.modJob uid fun y => { y with contribs := y.contribs ++ [{ tile := 0, elem := 0, cnt, aux }] }

/-- Forget that a rank has contributed to a chunk: its CONTRIBUTE was discarded (R251). -/
def uncontribute (s : State) (p g rank chunk : Nat) : State :=
  s.modGroup p g fun y => { y with contributed := y.contributed.filter (· != (rank, chunk)) }

/-- Act on an answer of an owner, a coordinator or a deck peer (R251, R262, 02 R76). -/
def actReply (s : State) (m : Msg) : State :=
  let at_ := fun (tag epoch chunk rank : Nat) (f : Nat → Group → Job → State) =>
    match s.groupByTag tag with
    | none => s
    | some (p, g) =>
      if epoch ≠ epochNow g then s else
      match (s.groupJob 0x05 p g rank chunk).filter fun j => j.pass.sent && j.early.isNone with
      | some j => f p g j
      | none => s
  match m with
  | .accepted tag epoch chunk rank => at_ tag epoch chunk rank fun _ _ j =>
      (s.addWhole j.uid 0 j.pass.resends).endJob j.uid 0 0 j.elems
  | .badElems tag epoch chunk rank => at_ tag epoch chunk rank fun p g j =>
      (s.uncontribute p g.g rank chunk).endJob j.uid 2 0x2C 0
  | .duplicate tag epoch chunk rank => at_ tag epoch chunk rank fun _ _ j => s.endJob j.uid 2 0x22 0
  | .closeAck tag epoch ranks =>
    match s.groupByTag tag with
    | none => s
    | some (p, g) =>
      if g.closing.map (· % 2 ^ 32) ≠ some epoch then s else
      let acked := (g.acked ++ ranks).eraseDups
      s.modGroup p g.g fun y =>
        { y with acked, closing := if (List.range g.m).all acked.contains then none else y.closing }
  | .barrierRefused part id =>
    match s.jobs.find? fun j =>
      j.part == part && j.order != 0 && j.phase == .running && Entry.opcode j.entry == 0x0B && Entry.barScope j.entry == 2 &&
      Entry.barId j.entry == id && j.pass.bphase == 1 with
    | some j => s.endJob j.uid 7 0 0
    | none => s
  | _ => s

/-- Answer the engine of a rank. -/
def reply (s : State) (p : Nat) (dst : Option MsgSrc) (m : Msg) : State :=
  match dst with
  | some d => s.postMsg p d m
  | none => s.actReply m

/-! Guards. -/

/-- A running group job of an opcode, with its group. -/
def groupReady (s : State) (op uid : Nat) : Option (Job × Group) :=
  (s.job? uid).bind fun j =>
    if Entry.opcode j.entry ≠ op ∨ !j.groupOp ∨ j.phase ≠ .running ∨ j.stopped ∨ j.order = 0 then none
    else (s.group? j.part j.groupNo).map fun g => (j, g)

def allRetired (j : Job) : Bool := j.threads.isEmpty && decide (j.tiles ≤ j.lowestUnretired)

/-! CONTRIBUTE (R251, R258). -/

/-- Element n of a source of packed elements. -/
def packedElem (s : State) (j : Work) (a w n : Nat) : Res (List Byte) := (s.got j (a + w * n) w).at n 1

/-- Bytes of packed elements with free values in every tile that has read a byte which another party has written (01 R39). -/
def openTiles (s : State) (j : Job) (a w : Nat) (l : List (Nat × List Byte)) : List Byte :=
  let bad := fun (t : Nat) =>
    s.rangesMeet j [Entry.bytesAt 0 (a + w * j.tileStart t) (w * (j.tileStart (t + 1) - j.tileStart t)) true false] []
  let open_ := if j.touched.isEmpty then [] else (List.range j.tiles).filter bad
  l.flatMap fun x =>
    if open_.contains (j.tileOf x.1) then (List.range w).map fun i => Config.freeByte s.block.free (a + w * x.1 + i) else x.2

/-- A thread of a CONTRIBUTE reads its part of the source, and writes nothing. -/
def contributeWork (s : State) (w : Work) (t : Thread) : Run (List Byte) :=
  match s.group? w.part w.groupNo with
  | none => idleRun
  | some g => runElems (s.packedElem w (Entry.dataAddr w.entry) (typeBytes g.inT)) (liveElems w.toJob t.tile)

def contributeFinish (s : State) (w : Work) (t : Thread) (l : List (Nat × List Byte)) : Land :=
  let ks := l.flatMap fun x => s.bytesKeys w.toJob (Entry.dataAddr w.entry + x.2.length * x.1) x.2.length
  .done ((s.correctStaging (ctxOf w.toJob (w.tileStart t.tile)) ks).threadRan w.uid t.tile [] [])

/-- Send the source with its seal to the owner's engine; `again` counts a re-send. -/
def sendContribution (s : State) (j : Job) (g : Group) (again : Bool) : State :=
  let e := j.entry
  let c := Entry.chunkOf e
  let w := typeBytes g.inT
  let r := runElems (s.packedElem { toJob := j } (Entry.dataAddr e) w) (List.range j.elems)
  match r.stop with
  | .early x u => ((s.countRead x.code u (ctxOf j x.elem)).noteEarly j.uid x).settleEarly j.uid
  | .ok _ =>
    let data := s.openTiles j (Entry.dataAddr e) w r.done
    let s1 := s.useFree.modJob j.uid fun y =>
      { y with pass := { y.pass with sent := true, resends := y.pass.resends + (if again then 1 else 0) } }
    let s2 := s1.modGroup j.part g.g fun y =>
      if again then y else { y with contributed := y.contributed ++ [(Entry.rankOf e, c)] }
    s2.sendMsg j.part (member g (c % g.m)).place
      (.contribution g.tag (epochNow g) c (Entry.rankOf e) (Entry.elemsOf e) (crc32c data) data)
  | _ => s

/-- CONTRIBUTE: its threads read, then the whole source goes to the owner once. -/
def contributeStep (s : State) (uid : Nat) : State :=
  match s.groupReady 0x05 uid with
  | none => s
  | some (j, g) =>
    if !allRetired j then (idleTiles j).foldl (fun (s : State) t => s.runThread uid t contributeWork contributeFinish) s
    else if j.pass.sent || j.early.isSome then s
    else if g.contributed.contains (Entry.rankOf j.entry, Entry.chunkOf j.entry) then s.endJob uid 2 0x22 0
    else s.sendContribution j g false

/-- The chunk record at the owner. -/
def chunk? (g : Group) (c : Nat) : Option Chunk := g.chunks.find? (·.chunk == c)
def modChunk (s : State) (p g c : Nat) (f : Chunk → Chunk) : State :=
  s.modGroup p g fun y => { y with chunks := y.chunks.map fun x => if x.chunk == c then f x else x }

/-- A record for a chunk, with an ELEMS of 0 while nothing has fixed it (R251). -/
def openChunk (s : State) (p : Nat) (g : Group) (c : Nat) : State :=
  if (chunk? g c).isSome then s else
  s.modGroup p g.g fun y => { y with chunks := y.chunks ++ [{ chunk := c, elems := 0 }] }

/-- Fix a chunk's ELEMS if nothing has (R251). -/
def fixChunk (s : State) (p : Nat) (g : Group) (c elems : Nat) : State :=
  (s.openChunk p g c).modChunk p g.g c fun x => if x.elems = 0 then { x with elems } else x

/-- A chunk's ELEMS is fixed at another value. -/
def elemsDiffer (g : Group) (c elems : Nat) : Bool := (chunk? g c).any fun x => x.elems != 0 && x.elems != elems

/-- Every chunk that uses the depth slot of chunk c before it, at the same owner, has been reduced and its REDUCE completed: so no
contribution takes the place of one that has still to be summed (R251, R257). -/
def slotFree (s : State) (p : Nat) (g : Group) (c : Nat) : Bool :=
  ((List.range c).filter fun b => b % g.m == c % g.m && b % g.slotDepth == c % g.slotDepth).all fun b =>
    (chunk? g b).any (·.reduced) &&
    !(s.jobs.any fun j => j.part == p && j.groupOp && Entry.opcode j.entry == 0x06 && j.groupNo == g.g &&
      Entry.chunkOf j.entry == b && j.epoch == epochNow g)

/-- Failed arrivals of a rank for a chunk. -/
def failsOf (g : Group) (c r : Nat) : Nat := ((chunk? g c).map fun x => lookupD x.fails r 0).getD 0

/-- A contribution has arrived damaged, or could not be stored: it is asked for again, and after the third failed re-send the group is
aborted (R258; a slot write that fails, log entry 92). -/
def arrivalFails (s : State) (p : Nat) (g : Group) (c r : Nat) : State :=
  if 3 ≤ failsOf g c r then s.abortGroup p g.g .groupAbort
  else
    ((s.openChunk p g c).modChunk p g.g c fun x => { x with fails := assocPut x.fails r (lookupD x.fails r 0 + 1) }).sendMsg p
      (member g r).place (.resend g.tag (epochNow g) c r)

/-- A contribution has been stored whole: the owner accepts it (R251). -/
def acceptStored (s : State) (p : Nat) (g : Group) (c r : Nat) : State :=
  (s.modChunk p g.g c fun x => { x with accepted := x.accepted ++ [r] }).reply p (member g r).place (.accepted g.tag (epochNow g) c r)

/-- A write of a contribution into its slot has been answered. -/
def slotAnswered (s : State) (p n c r : Nat) (okay : Bool) : State :=
  let own : Owner := .contribution p n c r
  match s.group? p n with
  | none => s
  | some g =>
    if g.state = .aborted then s
    else if !okay then
      let free := fun (q : Request) => if q.owner = own then { q with owner := .message } else q
      ({ s with ports := { s.ports with requests := s.ports.requests.map free } }).arrivalFails p g c r
    else if s.ports.requests.any fun q => !q.late && q.owner == own then s
    else s.acceptStored p g c r

/-- A contribution reaches the owner (R251, R258). One whose depth slot is still in use waits, and fixes the chunk's ELEMS as it does. -/
def acceptContribution (s : State) (m : Msg) : State :=
  match m with
  | .contribution tag epoch c r elems crc data =>
    s.onMsg m tag epoch fun s1 p g =>
      let back := (member g r).place
      let own : Owner := .contribution p g.g c r
      if !(localRanks g).contains (c % g.m) ∨ g.epochChunks ≤ c ∨ g.m ≤ r then s1
      else if ((chunk? g c).any fun x => x.accepted.contains r) ∨ (s.ports.requests.any fun q => q.owner == own) then
        s1.reply p back (.duplicate tag epoch c r)
      else if crc32c data ≠ crc ∨ data.length ≠ elems * typeBytes g.inT ∨ g.chunkElems < elems then s1.arrivalFails p g c r
      else if elemsDiffer g c elems then s1.reply p back (.badElems tag epoch c r)
      else if !s.slotFree p g c then s.fixChunk p g c elems
      else
        let s2 := s1.fixChunk p g c elems
        match s2.place p [] (slotOfRank g c r) data with
        | some bs => s2.issue own p 0 (g.slotArea.toNat / 2 ^ 56) bs []
        | none => s2.arrivalFails p g c r
  | _ => s

/-- The owner asks for a contribution again (R258). -/
def resendContribution (s : State) (m : Msg) : State :=
  match m with
  | .resend tag epoch c r =>
    s.onMsg m tag epoch fun s1 p g =>
      match (s1.groupJob 0x05 p g r c).filter fun j => j.pass.sent && j.early.isNone with
      | some j => s1.sendContribution j g true
      | none => s1
  | _ => s

/-! REDUCE (R252-R254, R260). -/

/-- One element of the result: its encoding, whether the cast saturated, and whether finite inputs overflowed. DESIGN CHOICE (log entry
82): an EXACT sum is rounded once, straight into OUT_TYPE (R253), and not into FP32 first, as a lane does (01 R24). -/
def reduceElem (g : Group) (exact : Bool) (codes : List Nat) : Nat × Nat × Nat :=
  let xs := codes.map fun c => elemNum g.inT c 0
  let f := (floatOf g.outT).getD fp32
  if exact then let r := f.cast (keystone xs); (r.1, r.2, 0)
  else
    let r := reduceFp32 xs
    let c := f.cast r.1
    (c.1, c.2, if r.2 then 1 else 0)

/-- A thread of a REDUCE: its elements from the contribution slots. -/
def reduceWork (s : State) (w : Work) (t : Thread) : Run (Nat × Nat × Nat) :=
  match s.group? w.part w.groupNo with
  | none => idleRun
  | some g =>
    let wi := typeBytes g.inT
    let c := Entry.chunkOf w.entry
    runElems (fun n => (Res.all ((List.range g.m).map fun r => (s.got w (slotOfRank g c r + wi * n) wi).at n 1)).map fun l =>
      reduceElem g (Entry.exact_ w.entry) (l.map leNat)) (liveElems w.toJob t.tile)

/-- They go into the retention slot (R254). -/
def reduceFinish (s : State) (w : Work) (t : Thread) (l : List (Nat × Nat × Nat × Nat)) : Land :=
  match s.group? w.part w.groupNo with
  | none => .wait []
  | some g =>
    let wo := typeBytes g.outT
    let route := g.slotArea.toNat / 2 ^ 56
    let bs := l.flatMap fun x => (leBytes wo x.2.1).map fun b => (b, x.1)
    match s.elemPlace w.toJob (retention g (Entry.chunkOf w.entry) + 64 + wo * w.tileStart t.tile) bs with
    | none => .lost (w.tileStart t.tile) route
    | some ls =>
      let cs := l.filterMap fun x =>
        if x.2.2.1 = 0 ∧ x.2.2.2 = 0 then none else some ({ tile := t.tile, elem := x.1, cnt := x.2.2.1, aux := x.2.2.2 } : Contrib)
      .done ((s.issueElems (.job w.uid .thread t.tile) w.part route ls [] (some t.span)).threadRan w.uid t.tile cs [])

/-- The 64 bytes of a result's header (R246). -/
def resultHeader (g : Group) (c elems : Nat) (seal_ : Word32) (exact : Bool) : List Byte :=
  leBytes 4 g.tag ++ leBytes 4 (epochNow g) ++ leBytes 4 c ++ leBytes 4 elems ++ leBytes 4 seal_.toNat ++
  leBytes 1 (if exact then 1 else 0) ++ List.replicate 43 0

/-- The retained payload of a chunk, as bytes. -/
def retained (s : State) (p : Nat) (g : Group) (c elems : Nat) : List Byte :=
  (s.readAt p [] (retention g c + 64) (elems * typeBytes g.outT)).getD []

/-- Write a rank's payload (kind payload) or header (kind header) of a fan-out, if its place is known (R254). -/
def fanWrite (s : State) (j : Job) (g : Group) (r : Nat) (header : Bool) : State :=
  let e := j.entry
  let c := Entry.chunkOf e
  let m := member g r
  let a := m.recv.toNat + c * resultBytes g
  let data := s.retained j.part g c (Entry.elemsOf e)
  let bs := if header then (resultHeader g c (Entry.elemsOf e) (crc32c data) (Entry.exact_ e)).map fun b => (b, 0)
    else ((List.range data.length).zip data).map fun x => (x.2, x.1 / max 1 (typeBytes g.outT))
  if s.memberLost j.part m then s.lostWrite j 0 (memberRoute m)
  else match s.memberPlace j.part j.xlat m (if header then a else a + 64) bs with
    | none => s.askXlat (.job j.uid) j.part 2 (s.memberPages j m (if header then a else a + 64) bs.length)
    | some ls =>
      let k := if header then WKind.header else WKind.payload
      (s.issueElems (.job j.uid k r) j.part (memberRoute m) ls [] none).modJob j.uid fun y =>
        { y with pass := if header then { y.pass with headers := y.pass.headers ++ [r] }
                         else { y.pass with payloads := y.pass.payloads ++ [r] } }

/-- The fan-out of a REDUCE whose tiles have all retired: the retained header, then every payload, every header once its payload
is answered, and the end once all are (R254). -/
def reduceFlow (s : State) (uid : Nat) : State :=
  match s.groupReady 0x06 uid with
  | none => s
  | some (j, g) =>
    if !j.pass.accepted || !allRetired j || j.early.isSome then s else
    let c := Entry.chunkOf j.entry
    let pending := fun (k : WKind) (r : Nat) => (s.jobWrites uid).any fun w => w.owner == .job uid k r
    if j.pass.bphase < 2 then
      if !(s.jobWrites uid).isEmpty then s else
      let h := resultHeader g c (Entry.elemsOf j.entry) (crc32c (s.retained j.part g c (Entry.elemsOf j.entry))) (Entry.exact_ j.entry)
      match s.place j.part [] (retention g c) h with
      | none => (s.noteEarly uid { elem := 0, code := 0x48, detail := g.slotArea.toNat / 2 ^ 56, rank := 2 }).settleEarly uid
      | some bs =>
        (s.issue (.job uid .other 0) j.part 0 (g.slotArea.toNat / 2 ^ 56) bs []).modJob uid fun y =>
          { y with pass := { y.pass with bphase := 2 } }
    else if pending .other 0 then s
    else
      let s1 := ((List.range g.m).filter fun r => !j.pass.payloads.contains r).foldl (fun (s : State) r => s.fanWrite j g r false) s
      let s2 := (j.pass.payloads.filter fun r => !j.pass.headers.contains r && !pending .payload r).foldl
        (fun (s : State) r => s.fanWrite j g r true) s1
      if j.pass.headers.length = g.m ∧ (s2.jobWrites uid).isEmpty then
        (s2.modChunk j.part g.g c fun x => { x with reduced := true }).endJob uid 0 0 j.elems
      else s2.settleEarly uid

/-- The checks of a tile run while its threads sum; a late failure is one of a tile whose fan-out has begun. -/
def residueMet (j : Job) (r : Residue) : Bool :=
  match r with
  | .sound => false
  | .late => decide (j.pass.bphase = 2) && !j.pass.payloads.isEmpty
  | _ => j.pass.accepted && decide (j.pass.bphase < 2)

/-- A residue check fails (R260): before the fan-out of its tile a first failure is made good by computing the tile again, a
second aborts the group; after it, the corruption is late. The answer says whether the group is aborted. -/
def residueAbort (j : Job) (r : Residue) : Option AbortCause :=
  if !residueMet j r then none else
  match r with
  | .sound => none
  | .once => none
  | .twice => some .groupAbort
  | .late => some .lateCorruption

/-- Each failed residue check is an event of source 3: at the keystone block for EXACT, else at the span of the tile (17 R387; which
tile failed, log entry 93). -/
def countResidue (s : State) (j : Job) (r : Residue) : State :=
  let span := ((j.threads.head?.map (·.span)).orElse fun _ => (s.unfencedSpans j.part).head?).getD 0
  let u := if Entry.exact_ j.entry then 0x32 else span
  let times := match r with | .sound => 0 | .once => 1 | .twice => 2 | .late => 1
  if residueMet j r then (List.range times).foldl (fun (s : State) _ => s.countEvent u 3 (ctxOf j 0)) s else s

/-- REDUCE: fixes ELEMS, waits for every contribution, runs its threads, fans out. -/
def reduceStep (s : State) (uid : Nat) (residue : Residue) : State :=
  match s.groupReady 0x06 uid with
  | none => s
  | some (j, g) =>
    let e := j.entry
    let c := Entry.chunkOf e
    let s0 := s.countResidue j residue
    match residueAbort j residue with
    | some cause => s0.abortGroup j.part g.g cause
    | none =>
      if j.pass.bphase = 0 ∧ elemsDiffer g c (Entry.elemsOf e) then s0.endJob uid 2 0x2C 0
      else
        let s1 := if j.pass.bphase ≠ 0 then s0 else
          (s0.fixChunk j.part g c (Entry.elemsOf e)).modJob uid fun y => { y with pass := { y.pass with bphase := 1 } }
        let full := (chunk? g c).any fun x => x.accepted.length == g.m
        let s2 := if full then s1.modJob uid fun y => { y with pass := { y.pass with accepted := true } } else s1
        let s3 := (idleTiles j).foldl (fun (s : State) t => s.runThread uid t reduceWork reduceFinish) s2
        s3.reduceFlow uid

/-! COLLECT (R255, R259). -/

/-- Where a chunk's result lies in a rank's receive area (R246). -/
def resultAt (g : Group) (c r : Nat) : Nat := (member g r).recv.toNat + c * resultBytes g

/-- A thread of a COLLECT copies its payload elements. -/
def collectWork (s : State) (w : Work) (t : Thread) : Run (List Byte) :=
  match s.group? w.part w.groupNo with
  | none => idleRun
  | some g =>
    runElems (s.packedElem w (resultAt g (Entry.chunkOf w.entry) (Entry.rankOf w.entry) + 64) (typeBytes g.outT)) (liveElems w.toJob t.tile)

/-- Only its own destination can leave the bytes of a COLLECT open: the engine writes its source while it waits (R255, 01 R39). -/
def collectFinish (s : State) (w : Work) (t : Thread) (l : List (Nat × List Byte)) : Land :=
  match s.group? w.part w.groupNo with
  | none => .wait []
  | some g =>
    let e := w.entry
    let n := typeBytes g.outT
    let a := resultAt g (Entry.chunkOf e) (Entry.rankOf e) + 64
    let o := Entry.dataAddr e % 2 ^ 56
    let cells := l.flatMap fun x => cellsAt (o + n * x.1 : Nat) x.1 x.2
    let meets := s.overlap (Entry.bytesAt 0 (a + n * w.tileStart t.tile) (n * (w.tileStart (t.tile + 1) - w.tileStart t.tile)) true false)
      (Entry.bytesAt 0 (Entry.dataAddr e) (n * w.elems) false true)
    match s.landCells w.toJob (.job w.uid .thread t.tile) (Entry.dataAddr e / 2 ^ 56) cells meets (fun _ => true) (some t.span) with
    | .done s1 => .done (s1.threadRan w.uid t.tile [] [])
    | x => x

/-- The end of a COLLECT. -/
def collectFlow (s : State) (uid : Nat) : State :=
  match s.groupReady 0x07 uid with
  | none => s
  | some (j, _) =>
    if j.pass.accepted && allRetired j && j.early.isNone && (s.jobWrites uid).isEmpty then
      (s.addWhole uid 0 j.pass.resends).endJob uid 0 0 j.elems
    else s

/-- What a COLLECT finds in its rank's receive area: no header of its chunk yet; a payload whose seal holds; one whose seal fails. -/
def resultSeen (s : State) (w : Work) (g : Group) : Res (Option Bool) :=
  let e := w.entry
  let c := Entry.chunkOf e
  let a := resultAt g c (Entry.rankOf e)
  ((s.got w a 64).at 0 1).bind fun h =>
    if u32 h 0 ≠ g.tag ∨ u32 h 4 ≠ epochNow g ∨ u32 h 8 ≠ c then .ok none else
    let n := u32 h 0x0C
    let k := typeBytes g.outT
    (Res.all ((List.range (min n g.chunkElems)).map fun i => (s.got w (a + 64 + k * i) k).at (min i w.elems) 1)).map fun l =>
      some (decide (n ≤ g.chunkElems) && (crc32c l.flatten).toNat == u32 h 0x10)

/-- COLLECT: waits for its header, checks the seal, and runs its threads. A header that is not there yet is read again at the next
command. -/
def collectStep (s0 : State) (uid : Nat) : State :=
  let s := s0.recheckJob uid
  match s.groupReady 0x07 uid with
  | none => s
  | some (j, g) =>
    if j.recheck then s else
    let e := j.entry
    let c := Entry.chunkOf e
    let anew := fun (s : State) => s.modJob uid fun y => { y with pass := { y.pass with seen := {} } }
    if j.pass.accepted then ((idleTiles j).foldl (fun (s : State) t => s.runThread uid t collectWork collectFinish) s).collectFlow uid
    else if j.pass.retried || j.early.isSome then s
    else match s.resultSeen (passWork j) g with
    | .early x u => ((s.countRead x.code u (ctxOf j x.elem)).noteEarly uid x).settleEarly uid
    | .wait as gs => s.passWait j as gs
    | .ok none => anew s
    | .ok (some true) => (anew s).modJob uid fun y => { y with pass := { y.pass with accepted := true } }
    | .ok (some false) =>
      if 3 ≤ j.pass.resends then s.abortGroup j.part g.g .groupAbort
      else
        ((anew s).modJob uid fun y => { y with pass := { y.pass with resends := y.pass.resends + 1, retried := true } }).sendMsg j.part
          (member g (c % g.m)).place (.reRequest g.tag (epochNow g) c (Entry.rankOf e))

/-- A result has been written again into a receive area: COLLECTs that wait for it look again (R259). -/
def rewritten (s : State) (f : Job → Bool) : State :=
  { s with jobs := s.jobs.map fun j =>
      if j.groupOp && Entry.opcode j.entry == 0x07 && j.pass.retried && f j then { j with pass := { j.pass with retried := false } } else j }

/-- Once no write of a result that is written again is outstanding, the COLLECT that asked for it looks again. -/
def rewriteDone (s : State) (p g c r : Nat) : State :=
  if s.ports.requests.any fun q => !q.late && q.owner == .rewrite p g c r then s else
  s.rewritten fun j => j.part == p && j.groupNo == g && Entry.chunkOf j.entry == c && Entry.rankOf j.entry == r

/-- The owner writes a retained result again (R259). -/
def rewriteResult (s : State) (m : Msg) : State :=
  match m with
  | .reRequest tag epoch c r =>
    s.onMsg m tag epoch fun s1 p g =>
      match (chunk? g c).filter fun x => (localRanks g).contains (c % g.m) && x.elems != 0 with
      | none => s1
      | some x =>
        let data := s1.retained p g c x.elems
        let head := (s1.readAt p [] (retention g c) 64).getD []
        match s1.memberPlace p (areaXlat s1 p) (member g r) (resultAt g c r) ((head ++ data).map fun b => (b, 0)) with
        | none => s
        | some ls => (s1.issueElems (.rewrite p g.g c r) p (memberRoute (member g r)) ls [] none).rewriteDone p g.g c r
  | _ => s
where
  /-- Translations that jobs of the partition hold. -/
  areaXlat (s : State) (p : Nat) : List Xlat := (s.jobs.filter (·.part == p)).flatMap (·.xlat)

/-- A wait of a REDUCE or a COLLECT passes TIMEOUT (R256). -/
def groupWait (s : State) (uid : Nat) : State :=
  match s.groupReady 0x06 uid, s.groupReady 0x07 uid with
  | some (j, g), _ =>
    if j.early.isSome then s else
    let got_ := ((chunk? g (Entry.chunkOf j.entry)).map (·.accepted)).getD []
    match (List.range g.m).find? fun r => !got_.contains r with
    | some r => s.endJob uid 0x82 r 0
    | none => s
  | none, some (j, g) => if j.pass.accepted || j.early.isSome then s else s.endJob uid 0x82 (Entry.chunkOf j.entry % g.m) 0
  | none, none => s

/-! GROUP_BARRIER and epochs (R262-R264). -/

/-- Barriers of a group's epoch. -/
def epochBarriers (s : State) (p : Nat) (g : Group) : List Job :=
  s.jobs.filter fun j =>
    j.part == p && j.groupOp && Entry.opcode j.entry == 0x0C && j.groupNo == g.g && j.order != 0 && j.phase == .running && !j.stopped &&
    j.epoch == epochNow g

/-- GROUP_BARRIER: READY goes to the coordinator once every LOCAL rank has posted and every earlier job has completed with OK. -/
def groupBarrierStep (s : State) (uid : Nat) : State :=
  match s.groupReady 0x0C uid with
  | none => s
  | some (j, g) =>
    match s.barrierOrder j.part g with
    | none => s
    | some o =>
      let earlier_ := s.jobs.any fun k =>
        k.part == j.part && k.groupOp && k.groupNo == g.g && k.order != 0 && decide (k.order < o) && Entry.opcode k.entry != 0x0C &&
        k.epoch == epochNow g
      if g.state ≠ .open_ ∨ g.dirty ∨ earlier_ then s
      else
        (s.modGroup j.part g.g fun y => { y with state := .ready }).sendMsg j.part (member g 0).place
          (.ready g.tag (epochNow g) (localRanks g))

/-- Send a letter of a group to the given engines, this one's own into its inbox. -/
def sendClose (s : State) (p : Nat) (g : Group) (epoch : Nat) (dst : List (Option MsgSrc)) : State :=
  dst.foldl (fun (s : State) d => s.sendMsg p d (.close g.tag (epoch % 2 ^ 32))) s

/-- A READY reaches the coordinator, which closes the epoch once every engine has reported (R262). -/
def readyArrives (s : State) (m : Msg) : State :=
  match m with
  | .ready tag epoch ranks =>
    s.onMsg m tag epoch fun s1 p g =>
      if !(localRanks g).contains 0 ∨ g.closing = some g.epoch then s1 else
      let rs := (g.readyRanks ++ ranks).eraseDups
      if (List.range g.m).all rs.contains then
        let s2 := s1.modGroup p g.g fun y => { y with readyRanks := rs, closing := some g.epoch, acked := [] }
        s2.sendClose p g g.epoch (none :: (groupEngines g).map some)
      else s1.modGroup p g.g fun y => { y with readyRanks := rs }
  | _ => s

/-- A close letter: barriers complete, retention is freed, the next epoch opens (R262). A repeated letter is acknowledged again. -/
def closeArrives (s : State) (m : Msg) : State :=
  match m with
  | .close tag epoch =>
    if !s.ports.inbox.contains m then s else
    let s1 := { s with ports := { s.ports with inbox := s.ports.inbox.erase m } }
    match s.groupByTag tag with
    | none => s1
    | some (p, g) =>
      let ack := fun (s : State) => s.reply p (member g 0).place (.closeAck tag epoch (localRanks g))
      if g.state = .aborted then s1
      else if epoch = epochNow g ∧ g.state = .ready then
        let s2 := (s1.epochBarriers p g).foldl (fun (s : State) j => s.endJob j.uid 0 0 0) s1
        ack (s2.modGroup p g.g fun y =>
          { y with epoch := y.epoch + 1, state := .open_, chunks := [], contributed := [], dirty := false, readyRanks := [] })
      else if epoch = epochNow g then s
      else ack s1
  | _ => s

/-- The coordinator repeats its close letter to the engines that have not acknowledged it (R262). -/
def repeatClose (s : State) (p n : Nat) : State :=
  match s.group? p n with
  | none => s
  | some g =>
    match g.closing with
    | none => s
    | some e =>
      let late := (List.range g.m).filter fun r => !g.acked.contains r
      s.sendClose p g e ((late.map fun r => (member g r).place).eraseDups)

/-- The coordinator waits for READY past TIMEOUT (R264). -/
def epochTimesOut (s : State) (p n : Nat) : State :=
  match s.group? p n with
  | none => s
  | some g =>
    if g.state = .aborted ∨ g.closing = some g.epoch then s else
    match (s.epochBarriers p g).find? fun j => Entry.rankOf j.entry == 0,
          (List.range g.m).find? fun r => !g.readyRanks.contains r with
    | some j, some r => s.endJob j.uid 0x82 r 0
    | _, _ => s

/-- An abort letter: the first for the epoch aborts the group here; the coordinator relays every letter (R265, R267). After its close no
abort ends the epoch (R263). -/
def abortArrives (s : State) (m : Msg) : State :=
  match m with
  | .abort tag epoch cause =>
    if !s.ports.inbox.contains m then s else
    let s1 := { s with ports := { s.ports with inbox := s.ports.inbox.erase m } }
    match s.groupByTag tag with
    | none => s1
    | some (p, g) =>
      let relay := fun (s : State) =>
        if (localRanks g).contains 0 then (groupEngines g).foldl (fun (s : State) d => s.postMsg p d m) s else s
      if g.state = .aborted then relay s1
      else if epoch = epochNext g then s
      else if epoch = epochNow g then
        if g.closing = some g.epoch then s1
        else ((relay s1).modGroup p g.g fun y => { y with state := .aborted, cause }).endGroupJobs p g.g cause
      else relay s1
  | _ => s

/-! DISPATCH and COMBINE (R269-R273). -/

/-- Where a route goes: nowhere, dropped, or to a row of its slot. -/
inductive RoutePos where
  | none_
  | drop
  | row (p : Nat)
deriving DecidableEq, Repr

/-- Slot positions of a routing stream (R270): counts so far by expert, and the answers in stream order. -/
def assignRows (cap : Nat) : List Int → List (Nat × Nat) → List RoutePos
  | [], _ => []
  | x :: r, n =>
    if x < 0 then .none_ :: assignRows cap r n
    else
      let k := lookupD n x.toNat 0
      if k < cap then .row k :: assignRows cap r (assocPut n x.toNat (k + 1)) else .drop :: assignRows cap r n

/-- The routing stream (R270): a read that fails, or an entry out of range, ends the job at 0. -/
def readRoutes (s : State) (j : Work) : Res (List Byte) :=
  let e := j.entry
  (Res.all ((List.range (Entry.xT e * Entry.xKR e)).map fun k =>
    ((s.got j (Entry.xRoute e + 4 * k) 4).at 0 0).bind fun b =>
      let v := signed 32 (leNat b)
      if -1 ≤ v ∧ v < (Entry.xX e : Int) then Res.ok b
      else .early { elem := 0, code := 0x43, detail := k % 65536, rank := 0 } none)).map List.flatten

/-- The routes as the index pass read them. -/
def routesOf (j : Job) : List Int :=
  (List.range (Entry.xT j.entry * Entry.xKR j.entry)).map fun k => signed 32 (u32 j.pass.book (4 * k))

/-- The index pass reads the whole routing stream (R270). -/
def exchangePass (s : State) (j : Job) : State × Option (List Byte) :=
  match s.readRoutes (passWork j) with
  | .early x u => (((s.countRead x.code u (ctxOf j 0)).noteEarly j.uid x).settleEarly j.uid, none)
  | .ok b => (s, some b)
  | .wait as gs => (s.passWait j as gs, none)

/-- Rank and local expert of a route. -/
def routeTo (j : Job) (x : Int) : Nat × Nat := mapEntry j.decoded x.toNat

/-- Address of the slot of source rank s for local expert x in a member's area (R271). -/
def slotAt (e : Entry) (m : Member) (x : Nat) : Nat :=
  m.recv.toNat + Entry.xBuf e + (Entry.rankOf e * Entry.xEPM e + x) * Entry.xSB e

/-- Kept routes of a slot. -/
def slotCount (j : Job) (routes : List Int) (pos : List RoutePos) (m x : Nat) : Nat :=
  ((routes.zip pos).filter fun r => (match r.2 with | .row _ => true | _ => false) && routeTo j r.1 == (m, x)).length

/-- Every slot of the group: member and local expert. -/
def slotsOf (e : Entry) (g : Group) : List (Nat × Nat) :=
  (List.range g.m).flatMap fun m => (List.range (Entry.xEPM e)).map fun x => (m, x)

/-- Places of a job's bytes at members' areas: each part a rank, an address and bytes with their elements. None where one has no
place yet. -/
def placeParts (s : State) (j : Job) (g : Group) : List (Nat × Nat × List (Byte × Nat)) → Option (List Put8)
  | [] => some []
  | x :: r => (s.memberPlace j.part j.xlat (member g x.1) x.2.1 x.2.2).bind fun a => (s.placeParts j g r).map fun b => a ++ b

/-- Pages of this engine that such parts wait for. -/
def partPages (s : State) (j : Job) (g : Group) (parts : List (Nat × Nat × List (Byte × Nat))) : List Nat :=
  parts.flatMap fun x => s.memberPages j (member g x.1) x.2.1 x.2.2.length

/-- Issue such parts, member by member; none while one has no place. `f` changes the placed bytes. -/
def issueParts (s : State) (own : Owner) (j : Job) (g : Group) (parts : List (Nat × Nat × List (Byte × Nat)))
    (f : Put8 → Put8) (span : Option Nat) : Option State :=
  if (s.placeParts j g parts).isNone then none else
  some ((List.range g.m).foldl (fun (s : State) m =>
    match s.placeParts j g (parts.filter (·.1 == m)) with
    | some ls => if ls.isEmpty then s else s.issueElems own j.part (memberRoute (member g m)) (ls.map f) [] span
    | none => s) s)

/-- The first member that a job's slots reach and whose way is lost. -/
def lostMember (s : State) (j : Job) (g : Group) : Option Member :=
  ((List.range g.m).map (member g)).find? fun m => s.memberLost j.part m

/-- The index pass of a DISPATCH, with the rows that stay zero (R270, R271). -/
def dispatchIndex (s : State) (j : Job) (g : Group) : State :=
  let e := j.entry
  match s.exchangePass j with
  | (s1, none) => s1
  | (_, some book) =>
    let k := { j with pass := { j.pass with book } }
    let pos := assignRows (Entry.xC e) (routesOf k) []
    let row := Entry.xH e * Entry.xW e
    match s.lostMember j g with
    | some m => (s.lostWrite j 0 (memberRoute m)).settleEarly j.uid
    | none =>
      let zeros := (slotsOf e g).map fun y =>
        let n := slotCount k (routesOf k) pos y.1 y.2
        (y.1, slotAt e (member g y.1) y.2 + 64 + n * row, List.replicate ((Entry.xC e - n) * row) ((0 : Byte), 0))
      match s.issueParts (.job j.uid .other 0) j g zeros id none with
      | none => s.askXlat (.job j.uid) j.part 2 (s.partPages j g zeros)
      | some s1 => s1.modJob j.uid fun y => { y with pass := { y.pass with indexed := true, book, seen := {} } }

/-- Offset of source element n of a DISPATCH. -/
def rowOff (e : Entry) (n : Nat) : Int :=
  let h := max 1 (Entry.xH e)
  (Entry.xRows e % 2 ^ 56 : Nat) + (n / h : Nat) * Entry.tStride e 0x58 + (n % h * Entry.xW e : Nat)

/-- A thread of a DISPATCH reads its elements of the token rows. -/
def dispatchWork (s : State) (w : Work) (t : Thread) : Run (List Byte) :=
  runElems (fun n => (s.gotOff w (Entry.xRows w.entry / 2 ^ 56) (rowOff w.entry n) (Entry.xW w.entry)).at n 1) (liveElems w.toJob t.tile)

/-- What a tile of a DISPATCH reads, and what the job writes in this engine. -/
def dispatchRanges (j : Job) (g : Group) (tile : Nat) : Ranges :=
  let e := j.entry
  let reads := Entry.bytesAt 0 (Entry.xRoute e) (4 * Entry.xT e * Entry.xKR e) true false ::
    (tileElems j tile).map fun n => ⟨0, Entry.xRows e, rowOff e n, rowOff e n + Entry.xW e - 1, true, false⟩
  let writes := ((List.range g.m).filter fun m => (member g m).place.isNone).map fun m =>
    Entry.bytesAt 0 (slotAt e (member g m) 0) (Entry.xEPM e * Entry.xSB e) false true
  (reads, writes)

/-- Each element goes to every kept route's row (R271). -/
def dispatchFinish (s : State) (w : Work) (t : Thread) (l : List (Nat × List Byte)) : Land :=
  match s.group? w.part w.groupNo with
  | none => .wait []
  | some g =>
    let e := w.entry
    let j := w.toJob
    let h := max 1 (Entry.xH e)
    let kr := Entry.xKR e
    let routes := routesOf j
    let pos := assignRows (Entry.xC e) routes []
    let parts := l.flatMap fun x =>
      (List.range kr).filterMap fun k =>
        let i := x.1 / h * kr + k
        match pos.getD i .none_ with
        | .row p =>
          let y := routeTo j (routes.getD i 0)
          some (y.1, slotAt e (member g y.1) y.2 + 64 + p * (Entry.xH e * Entry.xW e) + x.1 % h * Entry.xW e, x.2.map fun b => (b, x.1))
        | _ => none
    let r := dispatchRanges j g t.tile
    let meets := s.rangesMeet j r.1 r.2
    let spoil := fun (x : Put8) => if meets then { x with val := (Config.freeByte s.block.free (locKey x.target x.addr)).toNat } else x
    match parts.find? fun x => s.memberLost w.part (member g x.1) with
    | some x => .lost ((x.2.2.map (·.2)).headD 0) (memberRoute (member g x.1))
    | none =>
      match s.issueParts (.job w.uid .thread t.tile) j g parts spoil (some t.span) with
      | none => .wait (s.partPages j g parts)
      | some s1 =>
        let cs := l.filterMap fun x =>
          if x.1 % h ≠ 0 then none else
          let mine := (List.range kr).map fun k => pos.getD (x.1 / h * kr + k) .none_
          some ({ tile := t.tile, elem := x.1, cnt := (mine.filter fun q => match q with | .row _ => true | _ => false).length,
                  aux := (mine.filter (· == .drop)).length } : Contrib)
        .done ((s1.useFree.correctStaging (ctxOf j (w.tileStart t.tile)) (r.1.flatMap (s.rangeKeys j))).threadRan w.uid t.tile cs [])

/-- The header of a slot over its row bytes as stored (R271). -/
def slotHeader (e : Entry) (n x : Nat) (rows : List Byte) : List Byte :=
  leBytes 4 n ++ leBytes 2 (Entry.rankOf e) ++ leBytes 2 x ++ leBytes 4 (Entry.epochOf e) ++ leBytes 4 (crc32c rows).toNat ++
  List.replicate 48 0

/-- The drop map (R271). -/
def dropMap (pos : List RoutePos) : List Byte :=
  leBytes (ceilDiv pos.length 8) (listSum (((List.range pos.length).zip pos).map fun x => if x.2 = .drop then 2 ^ x.1 else 0))

/-- Headers and drop map once every row write is answered, then the end (R271). -/
def dispatchFlow (s : State) (uid : Nat) : State :=
  match s.groupReady 0x08 uid with
  | none => s
  | some (j, g) =>
    let e := j.entry
    if !j.pass.indexed || !allRetired j || j.early.isSome || !(s.jobWrites uid).isEmpty then s
    else if j.pass.sent then s.endJob uid 0 0 j.elems
    else match s.lostMember j g with
    | some m => (s.lostWrite j 0 (memberRoute m)).settleEarly uid
    | none =>
      let routes := routesOf j
      let pos := assignRows (Entry.xC e) routes []
      let len := Entry.xC e * Entry.xH e * Entry.xW e
      let heads := (slotsOf e g).map fun y =>
        let a := slotAt e (member g y.1) y.2
        let rows := (s.memberGot { toJob := j } (member g y.1) (a + 64) len).val?.getD []
        (y.1, a, (slotHeader e (slotCount j routes pos y.1 y.2) y.2 rows).map fun b => (b, 0))
      match s.issueParts (.job uid .header 0) j g heads id none, s.elemPlace j (Entry.xDrop e) ((dropMap pos).map fun b => (b, 0)) with
      | some s1, some ds =>
        (s1.issueElems (.job uid .other 0) j.part (Entry.xDrop e / 2 ^ 56) ds [] none).modJob uid fun y =>
          { y with pass := { y.pass with sent := true } }
      | _, _ => (s.askXlat (.job uid) j.part 2 (s.partPages j g heads)).askRange (.job uid) j.part j.xlat 2 (Entry.xDrop e) (dropMap pos).length

/-- DISPATCH: its index pass, its threads, its headers. -/
def dispatchStep (s0 : State) (uid : Nat) : State :=
  let s := s0.recheckJob uid
  match s.groupReady 0x08 uid with
  | none => s
  | some (j, g) =>
    if j.recheck then s
    else if !j.pass.indexed then (if j.early.isSome then s else s.dispatchIndex j g)
    else ((idleTiles j).foldl (fun (s : State) t => s.runThread uid t dispatchWork dispatchFinish) s).dispatchFlow uid

/-- Element n of a COMBINE (R272). -/
def combinePut (s : State) (j : Work) (g : Group) (routes : List Int) (pos : List RoutePos) (n : Nat) : Res Put :=
  let e := j.entry
  let h := max 1 (Entry.xH e)
  let t := n / h
  let kr := Entry.xKR e
  let w := Entry.xW e
  let term := fun (k : Nat) =>
    let i := t * kr + k
    match pos.getD i .none_ with
    | .row p =>
      let y := routeTo j.toJob (routes.getD i 0)
      let a := slotAt e (member g y.1) y.2 + 64 + p * (Entry.xH e * w) + n % h * w
      some (((s.got j (Entry.xGate e + 4 * i) 4).at n 1).both ((s.memberGot j (member g y.1) a w).at n 1))
    | _ => none
  let wo := Entry.xRowW e
  let o : Int := (Entry.xRows e % 2 ^ 56 : Nat) + (t : Int) * Entry.tStride e 0x58 + (n % h * wo : Nat)
  (Res.all ((List.range kr).filterMap term)).map fun l =>
    let y := l.foldl (fun (acc : Num) x => f32fma (fp32.decode (leNat x.1)) (elemNum (Entry.xRowType e) (leNat x.2) 0) acc) f32zero
    let c := ((floatOf (Entry.xOutType e)).getD fp32).cast y
    let dropped := if n % h = 0 then ((List.range kr).filter fun k => pos.getD (t * kr + k) .none_ == .drop).length else 0
    { bits := (List.range (8 * wo)).map fun (k : Nat) => 8 * o + (k : Int), code := c.1, cnt := c.2, aux := dropped }

/-- What elements of a COMBINE read in this engine, and its destination rows. -/
def combineRanges (j : Job) (g : Group) (ns : List Nat) : Ranges :=
  let e := j.entry
  let h := max 1 (Entry.xH e)
  let kr := Entry.xKR e
  let routes := routesOf j
  let pos := assignRows (Entry.xC e) routes []
  let rows := (List.range (Entry.xT e)).map fun (t : Nat) =>
    let o : Int := (Entry.xRows e % 2 ^ 56 : Nat) + (t : Int) * Entry.tStride e 0x58
    (⟨0, Entry.xRows e, o, o + (Entry.xH e * Entry.xRowW e : Nat) - 1, false, true⟩ : NRange)
  let reads := Entry.bytesAt 0 (Entry.xRoute e) (4 * Entry.xT e * kr) true false ::
    ns.flatMap fun n => (List.range kr).flatMap fun k =>
      let i := n / h * kr + k
      match pos.getD i .none_ with
      | .row p =>
        let y := routeTo j (routes.getD i 0)
        let a := slotAt e (member g y.1) y.2 + 64 + p * (Entry.xH e * Entry.xW e) + n % h * Entry.xW e
        Entry.bytesAt 0 (Entry.xGate e + 4 * i) 4 true false ::
          (if (member g y.1).place.isNone then [Entry.bytesAt 0 a (Entry.xW e) true false] else [])
      | _ => []
  (reads, rows)

/-- The elements of a COMBINE tile. -/
def combineWork (s : State) (w : Work) (t : Thread) : Run Put :=
  match s.group? w.part w.groupNo with
  | none => idleRun
  | some g =>
    let routes := routesOf w.toJob
    runElems (s.combinePut w g routes (assignRows (Entry.xC w.entry) routes [])) (liveElems w.toJob t.tile)

/-- Land a COMBINE tile. -/
def combineFinish (s : State) (w : Work) (t : Thread) (l : List (Nat × Put)) : Land :=
  tileFinish (fun e => Entry.xRows e / 2 ^ 56) (fun s j t =>
    match s.group? j.part j.groupNo with
    | some g => combineRanges j g (tileElems j t)
    | none => ([], [])) s w t l

/-- COMBINE: its index pass first, then one thread (R272). -/
def combineStep (s0 : State) (uid tile : Nat) : State :=
  let s := s0.recheckJob uid
  match s.groupReady 0x09 uid with
  | none => s
  | some (j, _) =>
    if j.recheck then s
    else if j.pass.indexed then s.runThread uid tile combineWork combineFinish
    else if j.early.isSome then s
    else match s.exchangePass j with
    | (s1, none) => s1
    | (_, some book) => s.modJob uid fun y => { y with pass := { y.pass with indexed := true, book, seen := {} } }

/-- What a group job goes on to once one of its writes has been answered. -/
def groupFlow (s : State) (uid : Nat) : State := ((s.reduceFlow uid).collectFlow uid).dispatchFlow uid

/-! BARRIER (02 R72-R76). -/

/-- Every earlier entry of the barrier's queue has completed. -/
def queueMet (s : State) (j : Job) : Bool :=
  match s.queue? j.queue with
  | some x => !(x.open_.any fun i => earlier i j.idx)
  | none => true

/-- Every job that the partition admitted before the barrier has completed. -/
def partMet (s : State) (j : Job) : Bool :=
  !(s.jobs.any fun k => k.part == j.part && k.order != 0 && decide (k.order < j.order) && k.uid != j.uid &&
    (match k.queue with | .io _ => true | .adm _ => false))

/-- Devices that a DECK barrier names. -/
def barDevices (e : Entry) : List Nat := maskList 8 (Entry.barMask e)

/-- Take the arrivals that are held for an ID: one for each named device (R76). -/
def takeArrivals (l : List (Nat × Nat)) (ds : List Nat) (id : Nat) : List (Nat × Nat) × List Nat :=
  ds.foldl (fun (a : List (Nat × Nat) × List Nat) d =>
    if a.1.contains (d, id) then (a.1.erase (d, id), a.2 ++ [d]) else a) (l, [])

/-- The DECK barrier that waits for an arrival of a device. -/
def barrierFor (s : State) (p id d : Nat) : Option Job :=
  s.jobs.find? fun j =>
    j.part == p && j.order != 0 && j.phase == .running && !j.stopped && Entry.opcode j.entry == 0x0B && Entry.barScope j.entry == 2 &&
    Entry.barId j.entry == id && (barDevices j.entry).contains d && !j.pass.arrived.contains d

/-- BARRIER: completes once its condition holds (R73); a DECK barrier first sends its arrivals. -/
def barrierStep (s : State) (uid : Nat) : State :=
  match s.job? uid with
  | none => s
  | some j =>
    let e := j.entry
    let io : Bool := match j.queue with | .io _ => true | .adm _ => false
    if Entry.opcode e ≠ 0x0B ∨ !io ∨ j.phase ≠ .running ∨ j.stopped ∨ j.order = 0 then s
    else if !s.queueMet j then s
    else
      let own := s.block.deckId.toNat
      let others := (barDevices e).filter (· != own)
      if Entry.barScope e = 1 then (if s.partMet j then s.endJob uid 0 0 0 else s)
      else if Entry.barScope e = 0 ∨ others.isEmpty then s.endJob uid 0 0 0
      else
        let s1 := if j.pass.bphase ≠ 0 then s else
          let a := takeArrivals (s.part j.part).arrivals (others.filter fun d => !j.pass.arrived.contains d) (Entry.barId e)
          let s2 := (s.modPart j.part fun x => { x with arrivals := a.1 }).modJob uid fun y =>
            { y with pass := { y.pass with bphase := 1, arrived := own :: (y.pass.arrived ++ a.2) } }
          others.foldl (fun (s : State) d => s.postMsg j.part (.deck d) (.barrier own j.part (Entry.barId e))) s2
        match s1.job? uid with
        | some k => if others.all k.pass.arrived.contains then s1.endJob uid 0 0 0 else s1
        | none => s1

/-- An arrival of a deck device: to the barrier that waits for it, else held, up to 64 (R76). -/
def deckArrives (s : State) (m : Msg) : State :=
  match m with
  | .barrier d p id =>
    if !s.ports.inbox.contains m then s else
    let s1 := { s with ports := { s.ports with inbox := s.ports.inbox.erase m } }
    match s1.barrierFor p id d with
    | some j =>
      (s1.modJob j.uid fun y => { y with pass := { y.pass with arrived := y.pass.arrived ++ [d] } }).barrierStep j.uid
    | none =>
      if (s1.part p).arrivals.length < 64 then s1.modPart p fun x => { x with arrivals := x.arrivals ++ [(d, id)] }
      else s1.postMsg p (.deck d) (.barrierRefused p id)
  | _ => s

end State

/-- CONTRIBUTE (R251). -/
def execContribute (uid : Nat) (s : State) : Ans := .next (s.contributeStep uid)

/-- REDUCE (R252-R254, R260). -/
def execReduce (uid : Nat) (residue : Residue) (s : State) : Ans := .next (s.reduceStep uid residue)

/-- COLLECT (R255). -/
def execCollect (uid : Nat) (s : State) : Ans := .next (s.collectStep uid)

/-- DISPATCH (R271). -/
def execDispatch (uid : Nat) (s : State) : Ans := .next (s.dispatchStep uid)

/-- COMBINE (R272). -/
def execCombine (uid tile : Nat) (s : State) : Ans := .next (s.combineStep uid tile)

/-- BARRIER (02 R73). -/
def execBarrier (uid : Nat) (s : State) : Ans := .next (s.barrierStep uid)

/-- GROUP_BARRIER (R262). -/
def execGroupBarrier (uid : Nat) (s : State) : Ans := .next (s.groupBarrierStep uid)

/-- CONTRIBUTION_ARRIVAL (R251). -/
def execContributionArrival (m : Msg) (s : State) : Ans := .next (s.acceptContribution m)

/-- RESEND_REQUEST (R258). -/
def execResendRequest (m : Msg) (s : State) : Ans := .next (s.resendContribution m)

/-- RE_REQUEST (R259). -/
def execReRequest (m : Msg) (s : State) : Ans := .next (s.rewriteResult m)

/-- GROUP_WAIT_TIMEOUT (R256). -/
def execGroupWaitTimeout (uid : Nat) (s : State) : Ans := .next (s.groupWait uid)

/-- READY (R262). -/
def execReady (m : Msg) (s : State) : Ans := .next (s.readyArrives m)

/-- CLOSE_LETTER (R262). -/
def execCloseLetter (m : Msg) (s : State) : Ans := .next (s.closeArrives m)

/-- CLOSE_LETTER_REPEAT (R262). -/
def execCloseLetterRepeat (p g : Nat) (s : State) : Ans := .next (s.repeatClose p g)

/-- EPOCH_TIMEOUT (R264). -/
def execEpochTimeout (p g : Nat) (s : State) : Ans := .next (s.epochTimesOut p g)

/-- ABORT_LETTER (R265). -/
def execAbortLetter (m : Msg) (s : State) : Ans := .next (s.abortArrives m)

/-- DECK_BARRIER_ARRIVAL (02 R73, R76). -/
def execDeckBarrierArrival (m : Msg) (s : State) : Ans := .next (s.deckArrives m)

end Sys2Proof.Machine
end

