-- ==== Sys2Proof/Machine/Ports.lean ====
section
/-! DEFINITION. What the ports answer and bring (19): write responses, read data, timeouts, translation responses, credits,
connections and windows, inbound requests, links, the deck and the memory ports. -/

namespace Sys2Proof.Machine

/-- The outcome of an answer: its status code, or none for OKAY (R432, 02 R55). -/
def failCode : Resp → Option Nat
  | .okay => none
  | .error => some 0x48
  | .refused => some 0x42

/-- A pooled write's or a deck access's refusal comes from a deck peer only; elsewhere RESULT 1 is ERROR (R432). -/
def answerAt (p : Port) (r : Resp) : Resp :=
  match p, r with
  | .vp _, x => x
  | _, .refused => .error
  | _, x => x

namespace State

/-! What an access belongs to. -/

/-- Job of an access, if it is one of a job. -/
def accUid : Access → Option Nat
  | .job uid _ _ => some uid
  | .jobWrite uid _ => some uid
  | .closing uid _ => some uid
  | .decode uid => some uid
  | .redo uid _ _ => some uid
  | _ => none

/-- Partition in whose context an access runs; 0 for none. -/
def accPart (s : State) (a : Access) : Nat :=
  match a with
  | .ring q => ((s.queue? q).map queuePart).getD 0
  | .channel ch => (s.chan ch).owner
  | .admin aq => aq
  | .slot p => p
  | .inbound id => ((s.ports.inbound.find? (·.id == id)).map (·.part)).getD 0
  | a => ((accUid a).bind fun u => (s.job? u).map (·.part)).getD 0

/-- The access belongs to something that is there. -/
def accKnown (s : State) (a : Access) : Bool :=
  match a with
  | .ring q => (s.live? q).isSome || (s.queue? q).any fun x => x.due != 0
  | .channel ch => decide (ch < 64) && (s.chan ch).state == .running
  | .admin aq => (s.adminFront aq).isSome
  | .slot p => s.keeper.slotDue.any (·.1 == p)
  | .inbound id => s.ports.inbound.any (·.id == id)
  | .fetch _ => false
  | .drained => false
  | .unknown => false
  | a => ((accUid a).bind s.job?).isSome

/-- The route leads through the port. -/
def routeVia (s : State) (p : Nat) (port : Port) (r : Nat) : Bool :=
  match port with
  | .host => r == 0
  | .ap n => r == 0x10 + n
  | .mp n => r == 0x20 || r == 0x21 + n || r == 0x30 + s.block.deckId.toNat
  | .vp _ => decide (0x30 ≤ r ∧ r ≤ 0x37) && r != 0x30 + s.block.deckId.toNat
  | .tp n => decide (0x40 ≤ r ∧ r ≤ 0xBF) &&
      (match s.window? p (r - 0x40) with | some w => s.ports.conns.any fun c => c.conn == w.conn && c.port == n | none => false)

/-- Routes of the accesses that a port read of an entry in decode or of an administrative command can be: its folio entries or its map;
the member table, the record (07 R169, 11 R269, 13 R305, R311). -/
def otherRoutes (j : Job) : List Nat :=
  let e := j.entry
  match j.queue with
  | .adm _ => (match u8 e 0 with | 0x8C => [u64 e 0x40 / 2 ^ 56] | 0xA1 => [u64 e 0x28 / 2 ^ 56] | _ => [])
  | .io _ => if Entry.opcode e = 0x08 ∨ Entry.opcode e = 0x09 then [Entry.xMap e / 2 ^ 56] else [Entry.folioIndex e / 2 ^ 56]

/-- The route of a failed access (03 R103: DETAIL is the route). -/
def accRoute (s : State) (port : Port) (a : Access) : Nat :=
  let js := match a with
    | .admin aq => (s.adminFront aq).toList
    | a => ((accUid a).bind s.job?).toList
  match (js.flatMap otherRoutes).head? with
  | some r => r
  | none => match port with | .host => 0 | .ap n => 0x10 + n | .mp _ => 0x20 | .tp _ => 0x40 | .vp _ => 0x30

/-! What follows an answer. -/

/-- A job goes on as far as its answered writes and known translations let it. -/
def settleAll (s : State) (uid : Nat) : State := ((((s.flushClosings uid).flushRedos uid).settle uid).settleHist uid).groupFlow uid

/-- The job is in a pass that comes before its tiles: the scale pass, pass 1, the building of tables, the index pass of an exchange, the
wait of a COLLECT. Its accesses belong to no tile, and their events fall at element 0 (02 R52, 07 R182, 08 R197, 10 R240, 11 R270). -/
def beforeTiles (j : Job) : Bool :=
  let e := j.entry
  (Entry.isView e && Entry.mode e == 1 && !j.pass.converting) || (Entry.opcode e == 0x10 && !j.pass.built) ||
    (Entry.opcode e == 0x0A && !j.pass.built) || (Entry.opcode e == 0x07 && !j.pass.accepted) ||
    ((Entry.opcode e == 0x08 || Entry.opcode e == 0x09) && !j.pass.indexed)

/-- An access of a job fails at an element, for all elements that its translation serves. -/
def jobEvent (s : State) (uid elem code route rank : Nat) (halt : Bool) : State :=
  match s.job? uid with
  | some j =>
    let first := beforeTiles j
    (s.noteEarly uid { elem := if first then 0 else elem, code, detail := route, rank, halt, noTile := first }).settleAll uid
  | none => s

/-- A closing write fails: an early event of a job that runs, else its POSITION falls (06 R491). -/
def closingFails (s : State) (uid elem code route : Nat) (halt : Bool) : State :=
  let s1 := s.modJob uid fun y => { y with pass := { y.pass with due := y.pass.due.filter (·.1 != elem) } }
  ((s1.noteEarly uid { elem, code, detail := route, rank := 2, halt }).lowerPos uid elem).settleAll uid

/-- A read of decode fails: the entry completes with the code, or halts its queue at 0 (02 R52); so does a job that is decoded again. -/
def decodeFails (s : State) (uid code route : Nat) (halt : Bool) : State :=
  match s.job? uid with
  | none => s
  | some j =>
    if !(j.phase == .fetched || (j.phase == .running && j.recheck)) then s
    else if halt then s.haltJob uid 0 (j.phase == .running)
    else (s.endJob uid code route 0).modQueue j.queue fun y => { y with decodeFails := y.decodeFails + 1 }

/-- A translation of a redo fails: in step 1 a page fault halts the job at the group's first element, and another failure cancels the
redo; in step 2 it is an early event at its element (08 R204). -/
def redoFails (s : State) (uid g code route : Nat) (second : Option Nat) (halt : Bool) : State :=
  match s.job? uid with
  | none => s
  | some j =>
    if !j.pass.redo.contains g then s else
    match second with
    | some elem => ((s.noteEarly uid { elem, code, detail := route, halt }).cancelRedo uid g).settleAll uid
    | none =>
      if halt then (s.noteEarly uid { elem := 64 * g * Entry.rowLen j.entry, code, detail := route, halt }).settleAll uid
      else (s.cancelRedo uid g).settleAll uid

/-- The ring read of a queue fails (03 R88). -/
def ringStop (s : State) (q : QId) (code : Nat) : State :=
  match s.live? q with
  | none => s
  | some x => if s.canFetch x then (s.modQueue q fun y => { y with xlat := [] }).enterError q 0xF2 code x.head else s

/-- An access of the front administrative command fails: it completes with the code and changes nothing else (13 R305). -/
def adminFails (s : State) (aq code route : Nat) : State :=
  match s.adminFront aq with
  | none => s
  | some j =>
    if j.phase = .fetched ∨ (j.phase = .running ∧ j.wait = .writes) then
      ((s.adminEffect j).modQueue j.queue fun x => { x with fetched := x.fetched.filter (·.uid != j.uid) }).endAdmin j.uid code route 0 0
    else s

/-- An inbound request whose target cannot be reached is answered with ERROR (R445). -/
def inboundFails (s : State) (id : Nat) : State :=
  match s.ports.inbound.find? (·.id == id) with
  | none => s
  | some x => ({ s with ports := { s.ports with inbound := s.ports.inbound.filter (·.id != id) } }).emit (.rsp x.src .error)

/-- An access fails with a code on a route; `halt` is a translation page fault. -/
def accessFails (s : State) (a : Access) (code route : Nat) (halt : Bool) : State :=
  match a with
  | .job uid elem index => s.jobEvent uid elem code route (if index then 0 else 1) halt
  | .jobWrite uid elem => s.jobEvent uid elem code route 2 halt
  | .closing uid elem => s.closingFails uid elem code route halt
  | .decode uid => s.decodeFails uid code route halt
  | .redo uid g second => s.redoFails uid g code route second halt
  | .ring q => s.ringStop q code
  | .channel ch => if code = 0x65 then s else s.stopPacer (ch / 8) (if code = 0x44 then 0x44 else 0x48)
  | .admin aq => s.adminFails aq code route
  | .slot p => { s with keeper := { s.keeper with slotDue := s.keeper.slotDue.filter (·.1 != p) } }
  | .inbound id => s.inboundFails id
  | .fetch _ => s
  | .drained => s
  | .unknown => s

/-! Write responses (R431-R433). -/

/-- The context that a request names with an event (17 R393). -/
def requestCtx (s : State) (w : Request) : FaultCtx :=
  match w.owner with
  | .job uid _ _ => match s.job? uid with | some j => ctxOf j w.elem | none => {}
  | .fetch uid t => match s.job? uid with | some j => ctxOf j (j.tileStart (if t < j.tiles then t else 0)) | none => {}
  | .status q => { queue := some q }
  | _ => if w.part = 0 then {} else { part := some w.part }

/-- A data write of step 2 of a redo fails: an early event, and the redo is given up with its input record unchanged (08 R204). -/
def redoWriteFails (s : State) (uid a : Nat) : State :=
  match s.job? uid with
  | none => s
  | some j =>
    match j.pass.redoing.find? fun r => 64 * r.group * Entry.rowLen j.entry == a with
    | some r => (s.cancelRedo uid r.group).lowerPos uid a
    | none => s

/-- A write has been answered, with a code for an error. -/
def answered (s : State) (w : Request) (code : Option Nat) : State :=
  let s1 := match code, w.owner with
    | some c, .job uid .closing _ => s.closingFails uid w.elem c w.route false
    | some _, .job _ .record _ => s
    | some _, .job _ .done _ => s
    | some c, .job uid .other n => (s.noteEarly uid { elem := w.elem, code := c, detail := w.route, rank := 2 }).redoWriteFails uid n
    | some c, .job uid _ _ => s.noteEarly uid { elem := w.elem, code := c, detail := w.route, rank := 2 }
    | c, .contribution p g k r => s.slotAnswered p g k r c.isNone
    | _, .rewrite p g k r => s.rewriteDone p g k r
    | some _, .chanData ch => s.stopPacer (ch / 8) 0x48
    | some _, .chanCons ch => s.stopPacer (ch / 8) 0x48
    | some c, .admin aq => s.adminFails aq c w.route
    | some _, .inbound id =>
      { s with ports := { s.ports with inbound := s.ports.inbound.map fun (x : Inbound) => if x.id == id then { x with error := true } else x } }
    | _, _ => s
  let s2 := match w.owner with
    | .job uid _ _ => s1.settleAll uid
    | _ => s1
  s2.settleFences

/-- Transfer what a port's credits and tags allow; posted host writes are answered by it (R430, R438). -/
def pumpPort (s : State) (p : Port) : State :=
  let r := s.pump p
  r.2.foldl (fun (s : State) w => s.answered w none) r.1

/-- The write or message, or the read, that a port has in flight under a tag. -/
def sentAs (s : State) (read : Bool) (p : Port) (tag : Nat) : Option Request :=
  s.ports.requests.find? fun r => r.port == p && r.sent && r.tag == tag && (fetchOf r).isSome == read

/-- Change the request in flight under a tag, or take it away. -/
def modSent (s : State) (read : Bool) (p : Port) (tag : Nat) (f : Request → Option Request) : State :=
  { s with ports := { s.ports with requests := s.ports.requests.filterMap fun r =>
      if r.port == p && r.sent && r.tag == tag && (fetchOf r).isSome == read then f r else some r } }

/-- A write response (R432): RESP_ERROR at the port's unit for an ERROR and for a TAG without a request; a late answer is
discarded and frees its TAG (R433). An OKAY finds the bytes at their target (02 R67). -/
def writeResponse (s : State) (p : Port) (tag : Nat) (res : Resp) : State :=
  match s.sentAs false p tag with
  | none => s.countEvent (portUnit p) 4 {}
  | some w =>
    let s1 := s.modSent false p tag fun _ => none
    if w.late then s1.pumpPort p else
    let r := answerAt p res
    let s2 := if r = .error then s1.countEvent (portUnit p) 4 (s.requestCtx w) else s1
    ((s2.landBody w r).answered w (failCode r)).pumpPort p

/-! Read data (R429, R432). -/

/-- Where a granule read through a port comes from. -/
def portTarget (s : State) (p : Nat) (port : Port) (addr : Nat) : Option (Target × Nat) :=
  match port with
  | .host => some (.host, addr)
  | .ap n => some (.attach n, addr)
  | .mp n => some (.stack n, addr)
  | .vp _ =>
    let r := addr / 2 ^ 56
    if 0x30 ≤ r ∧ r ≤ 0x37 then some (.deck (r - 0x30) p, addr % 2 ^ 56) else none
  | .tp n =>
    ((s.part p).windows.find? fun w =>
      (s.ports.conns.any fun c => c.conn == w.conn && c.port == n) && decide (w.base.toNat ≤ addr ∧ addr < w.base.toNat + w.len)).map
      fun w => (.remote w.conn, addr)

/-- Context of a read. -/
def accCtx (s : State) (a : Access) : FaultCtx :=
  match a with
  | .job uid elem _ => match s.job? uid with | some j => ctxOf j elem | none => {}
  | .ring q => { queue := some q }
  | a => match (accUid a).bind s.job? with | some j => { queue := some j.queue, job := some j.idx.toNat } | none => {}

/-- The granule that a read returned: the memory that it came from holds it, but for the bytes that writes have reached since (log
entry 2). -/
def storeGranule (s : State) (t : Target × Nat) (data : Granule) (poison : Bool) (newer : List Nat) : State :=
  let k := locKey t.1 t.2
  let bytes := ((List.range 64).zip (leBytes 64 data.toNat)).filter fun x => !newer.contains (k + x.1)
  let st := s.store.writeAll (bytes.map fun x => (k + x.1, x.2))
  { s with store := if newer.any fun x => granuleOf x == granuleOf k then st else st.setPoison [granuleOf k] poison }

/-- An injected codeword read back is corrected and counted (17 R403, R389). -/
def correctRead (s : State) (port : Port) (t : Target × Nat) (c : FaultCtx) : State :=
  match port with
  | .mp n => if s.store.inj.contains (0x40 + n, granuleOf (locKey t.1 t.2)) then s.countEvent (0x40 + n) 0 c else s
  | _ => s

/-- A granule of a read outside the fetch stage arrives: of a ring, of decode, of a channel, of a command; for one that is there no
more it is an answer without a request (R432). -/
def otherData (s : State) (port : Port) (a : Access) (addr : Nat) (data : Granule) (poison : Bool) (bad : Resp) : State :=
  let u := portUnit port
  if !s.accKnown a then s.countEvent u 4 {} else
  let p := s.accPart a
  let c := s.accCtx a
  let s0 := s.countBytes p port 1 1
  match failCode bad, s.portTarget p port (addr / 64 * 64) with
  | some code, _ => (if bad = .error then s0.countEvent u 4 c else s0).accessFails a code (s.accRoute port a) false
  | none, none => s0
  | none, some t =>
    let s1 := (s0.correctRead port t c).storeGranule t data poison []
    if poison then (s1.countEvent u 5 c).accessFails a 0x65 (s.accRoute port a) false else s1

/-! Reads of the fetch stage (06 R147, R155). -/

/-- Change what the reads of a tile's thread, or of a pass, have brought. -/
def modSeen (s : State) (uid tile : Nat) (f : Seen → Seen) : State :=
  s.modJob uid fun j =>
    if tile < j.tiles then { j with threads := j.threads.map fun t => if t.tile = tile && !t.ran then { t with seen := f t.seen } else t }
    else { j with pass := { j.pass with seen := f j.pass.seen } }

/-- The thread or the pass whose read has failed looks at what its reads have brought: it meets the early event (06 R150). -/
def wakeReader (s : State) (uid tile : Nat) : State :=
  match s.job? uid with
  | none => s
  | some j =>
    let op := Entry.opcode j.entry
    if tile < j.tiles then
      match op with
      | 0x04 => s.probeThread uid tile statsWork
      | 0x05 => s.probeThread uid tile contributeWork
      | 0x06 => s.probeThread uid tile reduceWork
      | 0x07 => s.probeThread uid tile collectWork
      | 0x08 => s.probeThread uid tile dispatchWork
      | 0x09 => s.probeThread uid tile combineWork
      | 0x0A => s.probeThread uid tile tariffWork
      | 0x10 => s.probeThread uid tile histWork
      | _ => s.probeThread uid tile viewWork
    else
      match j.pass.redo with
      | g :: _ => s.redoGroup uid g
      | [] =>
        if op = 0x03 ∧ !j.pass.indexed then s.indexPass uid
        else if Entry.isView j.entry ∧ Entry.mode j.entry = 1 ∧ !j.pass.converting then s.scalePass op uid j.pass.scales.length
        else if !beforeTiles j then s
        else match op with
          | 0x07 => s.collectStep uid
          | 0x08 => s.dispatchStep uid
          | 0x09 => s.combineStep uid 0
          | 0x0A => s.buildTables uid
          | 0x10 => s.histStep uid
          | _ => s

/-- A read has been answered as far as the granules in `gs`: its tag is free once the last of them has come. -/
def returned (s : State) (p : Port) (tag : Nat) (r : Request) (f : Fetch) (gs : List Nat) : State :=
  let left := f.left.filter fun g => !gs.contains g
  if left.isEmpty then
    let s1 := s.modSent true p tag fun _ => none
    ((match r.span with | some n => s1.giveTags n | none => s1)).pumpPort p
  else s.modSent true p tag fun x => some { x with body := .fetch { f with left } }

/-- A granule of a read of the fetch stage arrives (R147, R155, R432). One for which no read is outstanding is a TAG without a
request. -/
def fetchData (s : State) (port : Port) (tag addr : Nat) (data : Granule) (poison : Bool) (bad : Resp) : State :=
  let u := portUnit port
  let hit := (s.sentAs true port tag).bind fun r => (fetchOf r).bind fun f =>
    (s.portTarget r.part port (addr / 64 * 64)).bind fun t =>
      if f.left.contains (granuleOf (locKey t.1 t.2)) then some (r, f, t) else none
  match hit with
  | none => s.countEvent u 4 {}
  | some (r, f, t) =>
    let g := granuleOf (locKey t.1 t.2)
    let wanted := !r.late && !f.drained && bad == .okay
    let s0 := if wanted then s.storeGranule t data poison (f.newer.filter fun k => granuleOf k == g) else s
    let s1 := s0.returned port tag r f [g]
    if r.late then s1 else
    let c := s.requestCtx r
    let s2 := s1.countBytes r.part port 1 1
    let s3 := if bad = .error then s2.countEvent u 4 c else if bad = .okay && poison then s2.countEvent u 5 c else s2
    if f.drained then (if bad = .okay && !poison then s3 else s3.countEvent u 6 c)
    else match r.owner with
    | .fetch uid tile =>
      match failCode bad with
      | some code => (s3.modSeen uid tile fun v => { v with bad := v.bad ++ [(g, code)] }).wakeReader uid tile
      | none =>
        let s4 := (s3.correctRead port t c).modSeen uid tile fun v => { v with has := g :: v.has }
        if poison then s4.wakeReader uid tile else s4
    | _ => s3

/-- A read-data granule arrives. -/
def readData (s : State) (port : Port) (a : Access) (addr : Nat) (data : Granule) (poison : Bool) (res : Resp) : State :=
  let u := portUnit port
  let bad := answerAt port res
  if s.ports.lateReads.contains (port, a) then
    { s with ports := { s.ports with lateReads := s.ports.lateReads.erase (port, a) } }
  else match a with
  | .fetch tag => s.fetchData port tag addr data poison bad
  | .unknown => s.countEvent u 4 {}
  | .job _ _ _ => s.countEvent u 4 {}
  | .jobWrite _ _ => s.countEvent u 4 {}
  | .closing _ _ => s.countEvent u 4 {}
  | .redo _ _ _ => s.countEvent u 4 {}
  | .drained =>
    let s1 := if bad = .error then s.countEvent u 4 {} else if poison then s.countEvent u 5 {} else s
    if bad = .okay && !poison then s1 else s1.countEvent u 6 {}
  | a => s.otherData port a addr data poison bad

/-! Requests without an answer (R433). -/

/-- The outstanding write belongs to the access. Messages and the writes of the group protocol are named by their TAG alone. -/
def ownsAccess (s : State) (o : Owner) (a : Access) : Bool :=
  match o, a with
  | .job u .closing _, .closing v _ => u == v
  | .job u .record _, .ring q => ((s.job? u).map (·.queue)) == some q
  | .job u .done _, .ring q => ((s.job? u).map (·.queue)) == some q
  | .job u _ _, .jobWrite v _ => u == v
  | .job u _ _, .drained => ((s.job? u).map (·.stopped)) != some false
  | .status q, .ring r => q == r
  | .chanData c, .channel d => c == d
  | .chanCons c, .channel d => c == d
  | .slot p, .slot q => p == q
  | .admin p, .admin q => p == q
  | .inbound i, .inbound k => i == k
  | .message, .unknown => true
  | .contribution _ _ _ _, .unknown => true
  | .rewrite _ _ _ _, .unknown => true
  | _, _ => false

/-- A read of the fetch stage has had no answer: the granules that have not come count as answered with ERROR, and its prefetch tag is
free; its TAG is not, until the late answer (R433, 06 R147). -/
def fetchTimeout (s : State) (port : Port) (tag : Nat) : State :=
  match (s.sentAs true port tag).bind fun r => if r.late then none else (fetchOf r).map fun f => (r, f) with
  | none => s
  | some (r, f) =>
    let u := portUnit port
    let s1 := (s.modSent true port tag fun x => some { x with late := true, body := .fetch { f with tagged := false } }).countEvent u 4
      (s.requestCtx r)
    let s2 := match r.span with | some n => (s1.giveTags n).pumpPort port | none => s1
    if f.drained then s2.countEvent u 6 (s.requestCtx r)
    else match r.owner with
    | .fetch uid tile => (s2.modSeen uid tile fun v => { v with bad := v.bad ++ f.left.map fun g => (g, 0x48) }).wakeReader uid tile
    | _ => s2

/-- A request counts as answered with ERROR; its late answer is discarded. -/
def requestTimeout (s : State) (port : Port) (a : Access) (tag : Nat) : State :=
  match a with
  | .fetch t => s.fetchTimeout port t
  | a =>
    match (s.sentAs false port tag).filter fun w => !w.late && s.ownsAccess w.owner a with
    | some w =>
      (((s.modSent false port tag fun x => some { x with late := true }).countEvent (portUnit port) 4 (s.requestCtx w)).landBody w .error).answered
        w (some 0x48)
    | none =>
      if !s.accKnown a ∧ a ≠ .drained then s else
      let s1 := ({ s with ports := { s.ports with lateReads := s.ports.lateReads ++ [(port, a)] } }).countEvent (portUnit port) 4 (s.accCtx a)
      match a with
      | .drained => s1.countEvent (portUnit port) 6 {}
      | a => s1.accessFails a 0x48 (s.accRoute port a) false

/-! Translations (R439, R440). -/

def xlatUnit (route : Nat) : Nat := if route = 0 then 0x52 else 0x48 + (route - 0x10)

/-- Write the records that wait for a slot, with the translation of its page (18 R418). -/
def flushSlot (s : State) (p : Nat) (x : Xlat) : State :=
  let mine := s.keeper.slotDue.filter (·.1 == p)
  mine.foldl (fun (s : State) r =>
    match s.place p [x] (s.slotOf p) r.2 with
    | some bs =>
      ({ s with keeper := { s.keeper with slotDue := s.keeper.slotDue.erase r } }).issue (.slot p) p 0 0 bs []
    | none => s) s

/-- Results that an inbound write puts into a receive area: a COLLECT that asked for them looks again (11 R259). -/
def seenResult (s : State) (p addr len : Nat) : State :=
  s.rewritten fun j =>
    j.part == p && (match s.group? p j.groupNo with
      | some g =>
        let a := resultAt g (Entry.chunkOf j.entry) (Entry.rankOf j.entry)
        decide (addr ≤ a) && decide (a < addr + len)
      | none => false)

/-- Begin the target access of an inbound request, where its place is known (R445). -/
def inboundGo (s : State) (id : Nat) (xl : List Xlat) : State :=
  match s.ports.inbound.find? fun x => x.id == id && !x.issued with
  | none => s
  | some x =>
    if s.routeLost x.part (x.addr / 2 ^ 56) then s.inboundFails id
    else if x.write then
      match s.place x.part xl x.addr x.data with
      | none => s.askRange (.inbound id) x.part xl 2 x.addr x.data.length
      | some bs =>
        let s1 := { s with ports := { s.ports with
          inbound := s.ports.inbound.map fun (y : Inbound) =>
            if y.id == id then { y with issued := true, data := [], len := x.data.length } else y } }
        s1.issue (.inbound id) x.part 0 (x.addr / 2 ^ 56) bs []
    else
      match s.keys x.part xl x.addr x.len with
      | none => s.askRange (.inbound id) x.part xl 1 x.addr x.len
      | some ks =>
        ({ s with ports := { s.ports with inbound := s.ports.inbound.filter (·.id != id) } }).emit
          (.rdd x.src (ks.map s.store.get) (ks.any s.store.isPoisoned))

/-- A translation arrives: it serves every access of the job that asked for it (02 R53), or the one access of a queue, a slot or
an inbound request. -/
def mapped (s : State) (a : Access) (x : Xlat) : State :=
  match a with
  | .ring q => (s.modQueue q fun y => { y with xlat := y.xlat ++ [x] }).flushDue q
  | .channel ch => s.modChan ch fun y => { y with xlat := y.xlat ++ [x] }
  | .admin aq => match s.adminFront aq with
    | some j => s.modJob j.uid fun y => { y with xlat := y.xlat ++ [x] }
    | none => s
  | .slot p => s.flushSlot p x
  | .inbound id => s.inboundGo id [x]
  | a => match accUid a with
    | some uid => (s.modJob uid fun y => { y with xlat := y.xlat ++ [x] }).settleAll uid
    | none => s

/-- The record of a job waits for its place only. -/
def recordDue (s : State) (x : Queue) (j : Job) (page : Nat) : Bool :=
  let at_ := fun (a : Nat) => a % 2 ^ 56 / 4096 * 4096 == page
  j.queue == x.qid && (s.jobWrites j.uid).isEmpty &&
  ((j.phase == .ending && j.wait == .none && j.threads.isEmpty && j.pass.due.isEmpty && !s.mustWait j && at_ (slotAddr x j.idx)) ||
   (j.phase == .record && at_ (slotAddr x j.idx + 0x1F)))

/-- A translation for a queue's own traffic fails: a status line or record write counts as answered with an error, a ring read
stops the queue (03 R88). -/
def ringXlatFails (s : State) (q : QId) (iova : Nat) : State :=
  match s.queue? q with
  | none => s
  | some x =>
    if x.due != 0 && x.status.toNat % 2 ^ 56 / 4096 * 4096 == iova then s.modQueue q fun y => { y with due := y.due - 1 }
    else match s.jobs.find? fun j => s.recordDue x j iova with
    | some j => s.modJob j.uid fun y => { y with phase := if y.phase == .ending then .record else .done }
    | none => s.ringStop q 0x44

/-- A translation fails: PAGE_FAULT halts a job, ABORT ends it; the unit of the route's port counts an ABORT, and a page fault
on a slot write (R440, 17 R387). -/
def xlatFails (s : State) (route iova : Nat) (a : Access) (fault : Bool) : State :=
  let slot : Bool := match a with | .slot _ => true | _ => false
  let s1 := if !fault || slot then s.countEvent (xlatUnit route) 7 (s.accCtx a) else s
  match a with
  | .ring q => s1.ringXlatFails q iova
  | a => s1.accessFails a 0x44 route fault

/-- The owner of the request that an access waits for. -/
def accOwner : Access → Option XOwner
  | .job uid _ _ => some (.job uid)
  | .jobWrite uid _ => some (.job uid)
  | .closing uid _ => some (.job uid)
  | .decode uid => some (.job uid)
  | .redo uid _ _ => some (.job uid)
  | .ring q => some (.ring q)
  | .channel ch => some (.channel ch)
  | .admin aq => some (.admin aq)
  | .slot p => some (.slot p)
  | .inbound id => some (.inbound id)
  | .fetch _ => none
  | .drained => none
  | .unknown => none

/-- ACCESS of the request, where the access says it. -/
def accRights : Access → Option Nat
  | .job _ _ _ => some 1
  | .jobWrite _ _ => some 2
  | .closing _ _ => some 2
  | .decode _ => some 1
  | _ => none

/-- The outstanding request that a response answers (R439). -/
def xreqOf (s : State) (route iova : Nat) (a : Access) : Option XReq :=
  (s.ports.xreqs.filter fun x => some x.owner == accOwner a && x.route == route && x.page == iova && x.tag.isSome).find? fun x =>
    (accRights a).all fun n => x.access == n || x.access == 3

/-- A request has its response, or counts as answered: its tag is free for one that waits (R439, R440). -/
def xreqDone (s : State) (x : XReq) : State :=
  { s with ports := { s.ports with xreqs := giveXTags (s.ports.xreqs.erase x) } }

/-- A translation response: it answers an outstanding request, and one for an access that is there no more, or that has counted as
answered, is discarded (R439, R440). -/
def translation (s0 : State) (route iova : Nat) (a : Access) (res : XResult) : State :=
  match s0.xreqOf route iova a with
  | none => s0
  | some x =>
  let s := s0.xreqDone x
  if !s.accKnown a then s else
  match res with
  | .mapped addr log2 =>
    if 12 ≤ log2 ∧ log2 ≤ 30 then s.mapped a { route, page := iova / 2 ^ log2 * 2 ^ log2, log2, addr := addr.toNat }
    else s.xlatFails route iova a false
  | .pageFault => s.xlatFails route iova a true
  | .abort => s.xlatFails route iova a false
  | .other => s.xlatFails route iova a false

/-! Credits (R430). -/

def grant (s : State) (p : Port) (wd : Bool) : State :=
  let x := s.portState p
  (s.putPort (if wd then { x with wd := x.wd + 1 } else { x with req := x.req + 1 })).pumpPort p

/-! Connections, windows, links (R441-R450). -/

def openConn (s : State) (c p t : Nat) : State :=
  { s with ports := { s.ports with conns := s.ports.conns.filter (·.conn != c) ++ [{ conn := c, part := p, port := t }] } }

def closeConn (s : State) (c : Nat) : State :=
  { s with ports := { s.ports with conns := s.ports.conns.map fun x => if x.conn == c then { x with isOpen := false } else x } }

/-- WINDOW_READY is sent once every unfenced span of the partition has reached IDLE (16 R379). -/
def readyWindow (s : State) (p w : Nat) : State :=
  match s.window? p w with
  | none => s
  | some x =>
    let awake := (s.unfencedSpans p).all fun n =>
      (s.span n).trans.isNone && ((s.span n).power == .run || (s.span n).power == .idle)
    if x.ready || x.closing || !awake then s else
    (s.modPart p fun y => { y with windows := y.windows.map fun z => if z.w == w then { z with ready := true } else z }).emit (.winReady x.conn w)

/-- The connection has a window of its partition for which WINDOW_READY has been sent (R445). -/
def connReady (s : State) (c : Nat) : Option Nat :=
  ((s.ports.conns.find? fun x => x.conn == c && x.isOpen).filter fun x =>
    (s.part x.part).windows.any fun w => w.conn == c && w.ready && !w.closing).map (·.part)

/-- The check of an inbound access: its route, and one region with ALL_DOMAINS and the right (R445). -/
def inboundOk (s : State) (p addr len : Nat) (wr : Bool) : Bool :=
  let r := addr / 2 ^ 56
  let lo : Int := (addr % 2 ^ 56 : Nat)
  (r == 0 || decide (0x10 ≤ r ∧ r ≤ 0x17) || decide (0x20 ≤ r ∧ r ≤ 0x28)) &&
  (s.part p).regions.any fun x => x.rights.getLsbD 2 && x.rights.getLsbD (if wr then 1 else 0) && regionCovers x x.pd r lo (lo + len - 1)

/-- Hold an inbound request and begin its target access. -/
def takeInbound (s : State) (src : MsgSrc) (p addr : Nat) (wr : Bool) (data : List Byte) (len : Nat) : State :=
  let id := s.ports.nextId
  let x : Inbound := { id, src, part := p, addr, write := wr, data, len }
  ({ s with ports := { s.ports with nextId := id + 1, inbound := s.ports.inbound ++ [x] } }).inboundGo id []

/-- The data granules of an inbound write count at the port that brought them (04 R117); a deck peer's come over the direction that
leads to it. -/
def countInbound (s : State) (src : MsgSrc) (p len : Nat) : State :=
  match s.msgPort src with
  | some port => s.countBytes p port 1 (ceilDiv len 64)
  | none => s

/-- An inbound write (R444, R445). -/
def inboundWrite (s : State) (c addr : Nat) (data : List Byte) : State :=
  match s.connReady c with
  | none => s.emit (.placement c 2)
  | some p =>
    if s.inboundOk p addr data.length true then
      (((s.modPart p fun x => { x with inboundBytes := x.inboundBytes + BitVec.ofNat 64 data.length }).countInbound (.conn c) p
        data.length).emit (.placement c 0)).takeInbound (.conn c) p addr true data 0
    else (s.modPart p fun x => { x with inboundRefused := x.inboundRefused + 1 }).emit (.placement c 1)

/-- The target write of an inbound write has been acknowledged (R445). -/
def inboundAck (s : State) (id : Nat) : State :=
  match s.ports.inbound.find? fun x => x.id == id && x.issued with
  | none => s
  | some x =>
    if s.ports.requests.any fun w => !w.late && w.owner == .inbound id then s else
    let s1 := { s with ports := { s.ports with inbound := s.ports.inbound.filter (·.id != id) } }
    (s1.seenResult x.part x.addr x.len).emit (.rsp x.src (if x.error then .error else .okay))

/-- An inbound read (R445). -/
def inboundRead (s : State) (c addr len : Nat) : State :=
  match s.connReady c with
  | some p => if s.inboundOk p addr len false then s.takeInbound (.conn c) p addr false [] len else s.emit (.rsp (.conn c) .error)
  | none => s.emit (.rsp (.conn c) .error)

/-- Messages that answer a request act at once; the others wait for their command. -/
def replies : Msg → Bool
  | .accepted _ _ _ _ => true
  | .badElems _ _ _ _ => true
  | .duplicate _ _ _ _ => true
  | .closeAck _ _ _ => true
  | .barrierRefused _ _ => true
  | _ => false

/-- A message from another engine (R443, R445). -/
def inboundMessage (s : State) (src : MsgSrc) (m : Msg) : State :=
  let open_ : Bool := match src with
    | .conn c => (s.connReady c).isSome
    | .deck d => s.reached d
  if !open_ then s.emit (.rsp src .error) else
  let s1 := s.emit (.rsp src .okay)
  if replies m then s1.actReply m else { s1 with ports := { s1.ports with inbox := s1.ports.inbox ++ [m] } }

/-- A request whose path has lost a link counts as answered with ERROR (R449). -/
def cutOff (s : State) (r : Request) : State :=
  let s1 := s.countEvent 0x51 4 (s.requestCtx r)
  match fetchOf r, r.owner with
  | some f, .fetch uid tile =>
    let s2 := match r.span with | some n => s1.giveTags n | none => s1
    if f.drained then s2.countEvent 0x51 6 (s.requestCtx r)
    else (s2.modSeen uid tile fun v => { v with bad := v.bad ++ f.left.map fun g => (g, 0x48) }).wakeReader uid tile
  | _, _ => (s1.landBody r .error).answered r (some 0x48)

/-- Viaduct links go down: LINK_DOWN, and the accesses on their paths are answered with ERROR (R442, R449). -/
def cutPaths (s : State) (f : Port → Bool) : State :=
  let lost := s.ports.requests.filter fun w => f w.port && !w.late
  let s1 := { s with ports := { s.ports with requests := s.ports.requests.filter fun w => !(f w.port && !w.late) } }
  lost.foldl cutOff (s1.countEvent 0x51 15 {})

/-- A viaduct port. -/
def isViaduct (p : Port) : Bool := match p with | .vp _ => true | _ => false

/-- The deck is faulted: every viaduct link is held down, no peer is reached (R448). -/
def faultDeck (s : State) : State :=
  ({ s with ports := { s.ports with deckFault := true, vpUp := 0, peers := [] } }).cutPaths isViaduct

/-- A viaduct link comes up: VP0 of d joins VP1 of d + 1, or of 0 at the end of the ring (R447, R448). -/
def viaductUp (s : State) (vp peer peerPort : Nat) : State :=
  let own := s.block.deckId.toNat
  let right := if vp = 0 then peerPort == 1 && (peer == own + 1 || (peer == 0 && own != 0))
    else peerPort == 0 && (peer + 1 == own || (own == 0 && peer != 0))
  if s.ports.deckFault || !right then s.faultDeck
  else { s with ports := { s.ports with vpUp := s.ports.vpUp ||| BitVec.ofNat 2 (2 ^ vp) } }

/-- What the flood has told this engine of the deck (R448): two devices with one DECK_ID fault it. -/
def deckFlood (s : State) (peers : List Peer) (faulted : Bool) : State :=
  if faulted ∨ ¬(s.block.deckId.toNat :: peers.map (·.deckId)).Nodup then s.faultDeck
  else { s with ports := { s.ports with peers, deckFault := false } }

/-- A transport or viaduct link goes down; accesses on a viaduct path that loses it are answered with ERROR (R442, R449). -/
def linkGone (s : State) (p : Port) : State :=
  match p with
  | .tp _ => s.countEvent 0x50 15 {}
  | .vp n =>
    let peers := s.ports.peers.map fun (x : Peer) => if n = 0 then { x with hops0 := none } else { x with hops1 := none }
    ({ s with ports := { s.ports with vpUp := s.ports.vpUp &&& ~~~ BitVec.ofNat 2 (2 ^ n), peers } }).cutPaths (· == p)
  | _ => s

/-- An access of a deck peer (02 R55), or an item on its way to another device (R450). -/
def deckItem (s : State) (src dest p : Nat) (wr : Bool) (off : Nat) (data : List Byte) (len : Nat) : State :=
  if dest ≠ s.block.deckId.toNat then s.emit (.forwarded src dest)
  else
    let n := if wr then data.length else len
    if !s.deckParts p || decide (8 * s.cs p < off + n) || n == 0 then s.emit (.rsp (.deck src) .refused)
    else if !s.hasTarget p 0x20 then s.emit (.rsp (.deck src) .error)
    else (if wr then s.countInbound (.deck src) p n else s).takeInbound (.deck src) p (0x20 * 2 ^ 56 + off) wr data len

end State

/-- PORT_WRITE_RESPONSE (R432). -/
def execPortWriteResponse (port : Port) (tag : Nat) (res : Resp) (s : State) : Ans := .next (s.writeResponse port tag res)

/-- PORT_READ_DATA (R432). -/
def execPortReadData (port : Port) (acc : Access) (addr : Nat) (data : Granule) (poison : Bool) (res : Resp) (s : State) : Ans :=
  .next (s.readData port acc addr data poison res)

/-- PORT_REQUEST_TIMEOUT (R433). -/
def execPortRequestTimeout (port : Port) (acc : Access) (tag : Nat) (s : State) : Ans := .next (s.requestTimeout port acc tag)

/-- HOST_WRITE_ERROR (R438). -/
def execHostWriteError (s : State) : Ans := .next (s.countEvent 0x52 4 {})

/-- TRANSLATION_RESPONSE (R439, R440). -/
def execTranslationResponse (route iova : Nat) (acc : Access) (res : XResult) (s : State) : Ans :=
  .next (s.translation route iova acc res)

/-- TRANSLATION_TIMEOUT (R440): no response counts as ABORT. -/
def execTranslationTimeout (route iova : Nat) (acc : Access) (s : State) : Ans :=
  .next (s.translation route iova acc .abort)

/-- CREDIT_GRANT (R430). -/
def execCreditGrant (port : Port) (wd : Bool) (s : State) : Ans := .next (s.grant port wd)

/-- CONN_OPEN (R441). -/
def execConnOpen (conn part port : Nat) (s : State) : Ans := .next (s.openConn conn part port)

/-- CONN_CLOSE (R441, R442). -/
def execConnClose (conn : Nat) (s : State) : Ans := .next (s.closeConn conn)

/-- WINDOW_READY (16 R379, R441). -/
def execWindowReady (p w : Nat) (s : State) : Ans := .next (s.readyWindow p w)

/-- LINK_DOWN (R442, R448). -/
def execLinkDown (port : Port) (s : State) : Ans := .next (s.linkGone port)

/-- INBOUND_WRITE (R445). -/
def execInboundWrite (conn : Nat) (addr : Word64) (data : List Byte) (s : State) : Ans := .next (s.inboundWrite conn addr.toNat data)

/-- INBOUND_TARGET_ACK (R445). -/
def execInboundTargetAck (id : Nat) (s : State) : Ans := .next (s.inboundAck id)

/-- INBOUND_READ (R445). -/
def execInboundRead (conn : Nat) (addr : Word64) (granules : Nat) (s : State) : Ans :=
  .next (s.inboundRead conn addr.toNat (64 * granules))

/-- INBOUND_MESSAGE (R443, R445). -/
def execInboundMessage (src : MsgSrc) (m : Msg) (s : State) : Ans := .next (s.inboundMessage src m)

/-- VIADUCT_LINK_UP (R448). -/
def execViaductLinkUp (vp peer peerPort : Nat) (s : State) : Ans := .next (s.viaductUp vp peer peerPort)

/-- DECK_FLOOD (R448). -/
def execDeckFlood (peers : List Peer) (faulted : Bool) (s : State) : Ans := .next (s.deckFlood peers faulted)

/-- MEMORY_PORT_READY (R436). -/
def execMemoryPortReady (n capacity : Nat) (s : State) : Ans :=
  .next { s with ports := { s.ports with memReady := s.ports.memReady ||| BitVec.ofNat 8 (2 ^ n),
                                         capacity := modAt s.ports.capacity n fun _ => capacity } }

/-- DECK_ACCESS (02 R55, R450). -/
def execDeckAccess (src dest part : Nat) (write : Bool) (off : Nat) (data : List Byte) (len : Nat) (s : State) : Ans :=
  .next (s.deckItem src dest part write off data len)

end Sys2Proof.Machine
end

