-- ==== Sys2Proof/Machine/Dispatch.lean ====
section
/-! DEFINITION. The meaning of each command, one arm per constructor of `Instr`. -/

namespace Sys2Proof.Machine

def exec (i : Instr) (s : State) : Host.Outcome State Fault Refusal :=
  match i with
  | .doorbell off width value => Sys2Proof.Machine.execDoorbell off width value s
  | .doorbellCapture off width value => Sys2Proof.Machine.execDoorbellCapture off width value s
  | .entryFetch q => Sys2Proof.Machine.execEntryFetch q s
  | .ringUnreadable q why => Sys2Proof.Machine.execRingUnreadable q why s
  | .admitJob p => Sys2Proof.Machine.execAdmitJob p s
  | .tokenRefill => Sys2Proof.Machine.execTokenRefill s
  | .tileRequest span uid n => Sys2Proof.Machine.execTileRequest span uid n s
  | .threadRetire uid tile => Sys2Proof.Machine.execThreadRetire uid tile s
  | .completionRecordWrite uid => Sys2Proof.Machine.execCompletionRecordWrite uid s
  | .doneWrite uid => Sys2Proof.Machine.execDoneWrite uid s
  | .doneAnswered uid => Sys2Proof.Machine.execDoneAnswered uid s
  | .jobTimeout uid => Sys2Proof.Machine.execJobTimeout uid s
  | .move uid tile => Sys2Proof.Machine.execMove uid tile s
  | .gather uid tile => Sys2Proof.Machine.execGather uid tile s
  | .scatter uid tile => Sys2Proof.Machine.execScatter uid tile s
  | .indexPass uid => Sys2Proof.Machine.execIndexPass uid s
  | .stats uid tile => Sys2Proof.Machine.execStats uid tile s
  | .contribute uid => Sys2Proof.Machine.execContribute uid s
  | .reduce uid residue => Sys2Proof.Machine.execReduce uid residue s
  | .collect uid => Sys2Proof.Machine.execCollect uid s
  | .dispatch uid => Sys2Proof.Machine.execDispatch uid s
  | .combine uid tile => Sys2Proof.Machine.execCombine uid tile s
  | .tariff uid tile => Sys2Proof.Machine.execTariff uid tile s
  | .barrier uid => Sys2Proof.Machine.execBarrier uid s
  | .groupBarrier uid => Sys2Proof.Machine.execGroupBarrier uid s
  | .fill uid tile => Sys2Proof.Machine.execFill uid tile s
  | .sealCheck uid tile => Sys2Proof.Machine.execSealCheck uid tile s
  | .nop uid => Sys2Proof.Machine.execNop uid s
  | .histogramBuild uid => Sys2Proof.Machine.execHistogramBuild uid s
  | .folioEntryWrite uid => Sys2Proof.Machine.execFolioEntryWrite uid s
  | .conversionPass uid => Sys2Proof.Machine.execConversionPass uid s
  | .resendRedo uid group => Sys2Proof.Machine.execResendRedo uid group s
  | .portWriteResponse port tag res => Sys2Proof.Machine.execPortWriteResponse port tag res s
  | .portReadData port acc addr data poison res => Sys2Proof.Machine.execPortReadData port acc addr data poison res s
  | .portRequestTimeout port acc tag => Sys2Proof.Machine.execPortRequestTimeout port acc tag s
  | .hostWriteError => Sys2Proof.Machine.execHostWriteError s
  | .translationResponse route iova acc res => Sys2Proof.Machine.execTranslationResponse route iova acc res s
  | .translationTimeout route iova acc => Sys2Proof.Machine.execTranslationTimeout route iova acc s
  | .createQueue aq => Sys2Proof.Machine.execCreateQueue aq s
  | .destroyQueue aq => Sys2Proof.Machine.execDestroyQueue aq s
  | .cancelQueue aq => Sys2Proof.Machine.execCancelQueue aq s
  | .resumeQueue aq => Sys2Proof.Machine.execResumeQueue aq s
  | .resetQueue aq => Sys2Proof.Machine.execResetQueue aq s
  | .setShaper aq => Sys2Proof.Machine.execSetShaper aq s
  | .createRegion aq => Sys2Proof.Machine.execCreateRegion aq s
  | .destroyRegion aq => Sys2Proof.Machine.execDestroyRegion aq s
  | .openWindow aq => Sys2Proof.Machine.execOpenWindow aq s
  | .closeWindow aq => Sys2Proof.Machine.execCloseWindow aq s
  | .createGroup aq => Sys2Proof.Machine.execCreateGroup aq s
  | .destroyGroup aq => Sys2Proof.Machine.execDestroyGroup aq s
  | .bindKey aq => Sys2Proof.Machine.execBindKey aq s
  | .unbindKey aq => Sys2Proof.Machine.execUnbindKey aq s
  | .claimCbset aq => Sys2Proof.Machine.execClaimCbset aq s
  | .releaseCbset aq => Sys2Proof.Machine.execReleaseCbset aq s
  | .setupChannel aq => Sys2Proof.Machine.execSetupChannel aq s
  | .armChannel aq => Sys2Proof.Machine.execArmChannel aq s
  | .disarmChannel aq => Sys2Proof.Machine.execDisarmChannel aq s
  | .releaseChannel aq => Sys2Proof.Machine.execReleaseChannel aq s
  | .rearmPacer aq => Sys2Proof.Machine.execRearmPacer aq s
  | .vote aq => Sys2Proof.Machine.execVote aq s
  | .readHealth aq => Sys2Proof.Machine.execReadHealth aq s
  | .fence aq => Sys2Proof.Machine.execFence aq s
  | .swapSpare aq => Sys2Proof.Machine.execSwapSpare aq s
  | .reset aq => Sys2Proof.Machine.execReset aq s
  | .scrubPartition aq => Sys2Proof.Machine.execScrubPartition aq s
  | .switchProfile aq => Sys2Proof.Machine.execSwitchProfile aq s
  | .commandCompletes aq => Sys2Proof.Machine.execCommandCompletes aq s
  | .contributionArrival m => Sys2Proof.Machine.execContributionArrival m s
  | .resendRequest m => Sys2Proof.Machine.execResendRequest m s
  | .reRequest m => Sys2Proof.Machine.execReRequest m s
  | .groupWaitTimeout uid => Sys2Proof.Machine.execGroupWaitTimeout uid s
  | .ready m => Sys2Proof.Machine.execReady m s
  | .closeLetter m => Sys2Proof.Machine.execCloseLetter m s
  | .closeLetterRepeat p g => Sys2Proof.Machine.execCloseLetterRepeat p g s
  | .epochTimeout p g => Sys2Proof.Machine.execEpochTimeout p g s
  | .abortLetter m => Sys2Proof.Machine.execAbortLetter m s
  | .deckBarrierArrival m => Sys2Proof.Machine.execDeckBarrierArrival m s
  | .producer ch value => Sys2Proof.Machine.execProducer ch value s
  | .flushSet ch value => Sys2Proof.Machine.execFlushSet ch value s
  | .runStart pacer => Sys2Proof.Machine.execRunStart pacer s
  | .recordDrained pacer => Sys2Proof.Machine.execRecordDrained pacer s
  | .runEnd pacer => Sys2Proof.Machine.execRunEnd pacer s
  | .evtOutPulse pacer => Sys2Proof.Machine.execEvtOutPulse pacer s
  | .commit value => Sys2Proof.Machine.execCommit value s
  | .profileWindowWrite off value => Sys2Proof.Machine.execProfileWindowWrite off value s
  | .create p => Sys2Proof.Machine.execCreate p s
  | .contextReset p => Sys2Proof.Machine.execContextReset p s
  | .resume p => Sys2Proof.Machine.execResume p s
  | .destroy p => Sys2Proof.Machine.execDestroy p s
  | .offReq value => Sys2Proof.Machine.execOffReq value s
  | .wakeTimer value => Sys2Proof.Machine.execWakeTimer value s
  | .timerWake => Sys2Proof.Machine.execTimerWake s
  | .faultStatusClear u value => Sys2Proof.Machine.execFaultStatusClear u value s
  | .faultSevereClear u value => Sys2Proof.Machine.execFaultSevereClear u value s
  | .faultPolicyWrite u value => Sys2Proof.Machine.execFaultPolicyWrite u value s
  | .faultInject u value => Sys2Proof.Machine.execFaultInject u value s
  | .lowerWordRead off => Sys2Proof.Machine.execLowerWordRead off s
  | .upperWordWrite off value => Sys2Proof.Machine.execUpperWordWrite off value s
  | .incidentWord0Read e => Sys2Proof.Machine.execIncidentWord0Read e s
  | .eventSlot p value => Sys2Proof.Machine.execEventSlot p value s
  | .eventPd p value => Sys2Proof.Machine.execEventPd p value s
  | .ownerEventSlot value => Sys2Proof.Machine.execOwnerEventSlot value s
  | .registerWrite off width value => Sys2Proof.Machine.execRegisterWrite off width value s
  | .loadXts slot check key => Sys2Proof.Machine.execLoadXts slot check key s
  | .loadGcm slot check key => Sys2Proof.Machine.execLoadGcm slot check key s
  | .erase req => Sys2Proof.Machine.execErase req s
  | .profileLoad copies ready => Sys2Proof.Machine.execProfileLoad copies ready s
  | .profileCopyReadFailure copyB => Sys2Proof.Machine.execProfileCopyReadFailure copyB s
  | .rstNAssert => Sys2Proof.Machine.execRstNAssert s
  | .rstNRelease psel deckId fuse => Sys2Proof.Machine.execRstNRelease psel deckId fuse s
  | .startupStepTimeout step => Sys2Proof.Machine.execStartupStepTimeout step s
  | .selfTest outcome => Sys2Proof.Machine.execSelfTest outcome s
  | .vinLow => Sys2Proof.Machine.execVinLow s
  | .vinRecovered psel deckId fuse => Sys2Proof.Machine.execVinRecovered psel deckId fuse s
  | .sleepDwellExpiry span => Sys2Proof.Machine.execSleepDwellExpiry span s
  | .deepDwellExpiry span tempC loadMa => Sys2Proof.Machine.execDeepDwellExpiry span tempC loadMa s
  | .centralDwellExpiry tempC loadMa => Sys2Proof.Machine.execCentralDwellExpiry tempC loadMa s
  | .powerEntryDone d => Sys2Proof.Machine.execPowerEntryDone d s
  | .domainExit d => Sys2Proof.Machine.execDomainExit d s
  | .powerStepTimeout d step => Sys2Proof.Machine.execPowerStepTimeout d step s
  | .wakeN psel deckId fuse => Sys2Proof.Machine.execWakeN psel deckId fuse s
  | .linkEnergy mv => Sys2Proof.Machine.execLinkEnergy mv s
  | .brownout aon => Sys2Proof.Machine.execBrownout aon s
  | .offEntryDone => Sys2Proof.Machine.execOffEntryDone s
  | .faultEvent u src ctx => Sys2Proof.Machine.execFaultEvent u src ctx s
  | .faultWindowExpiry u src => Sys2Proof.Machine.execFaultWindowExpiry u src s
  | .lockstep => Sys2Proof.Machine.execLockstep s
  | .contextCollection u answered => Sys2Proof.Machine.execContextCollection u answered s
  | .alive => Sys2Proof.Machine.execAlive s
  | .resetLevelFinish id => Sys2Proof.Machine.execResetLevelFinish id s
  | .resetLevelTimeout id => Sys2Proof.Machine.execResetLevelTimeout id s
  | .powerCycle => Sys2Proof.Machine.execPowerCycle s
  | .swapStepTimeout span => Sys2Proof.Machine.execSwapStepTimeout span s
  | .swapComplete span => Sys2Proof.Machine.execSwapComplete span s
  | .powerCapCheck meanMw stayedBelow => Sys2Proof.Machine.execPowerCapCheck meanMw stayedBelow s
  | .operatingPointDone quadrant => Sys2Proof.Machine.execOperatingPointDone quadrant s
  | .oscCalibration => Sys2Proof.Machine.execOscCalibration s
  | .refClkLoss => Sys2Proof.Machine.execRefClkLoss s
  | .refClkReturn => Sys2Proof.Machine.execRefClkReturn s
  | .refClkLossTimeout => Sys2Proof.Machine.execRefClkLossTimeout s
  | .connOpen conn part port => Sys2Proof.Machine.execConnOpen conn part port s
  | .connClose conn => Sys2Proof.Machine.execConnClose conn s
  | .windowReady p w => Sys2Proof.Machine.execWindowReady p w s
  | .linkDown port => Sys2Proof.Machine.execLinkDown port s
  | .inboundWrite conn addr data => Sys2Proof.Machine.execInboundWrite conn addr data s
  | .inboundTargetAck id => Sys2Proof.Machine.execInboundTargetAck id s
  | .inboundRead conn addr granules => Sys2Proof.Machine.execInboundRead conn addr granules s
  | .inboundMessage src m => Sys2Proof.Machine.execInboundMessage src m s
  | .viaductLinkUp vp peer peerPort => Sys2Proof.Machine.execViaductLinkUp vp peer peerPort s
  | .deckFlood peers faulted => Sys2Proof.Machine.execDeckFlood peers faulted s
  | .memoryPortReady n capacity => Sys2Proof.Machine.execMemoryPortReady n capacity s
  | .extest bits => Sys2Proof.Machine.execExtest bits s
  | .samplePreload bits => Sys2Proof.Machine.execSamplePreload bits s
  | .idcode => Sys2Proof.Machine.execIdcode s
  | .bypass code => Sys2Proof.Machine.execBypass code s
  | .debugArm => Sys2Proof.Machine.execDebugArm s
  | .scanAccess => Sys2Proof.Machine.execScanAccess s
  | .stagingRead span off => Sys2Proof.Machine.execStagingRead span off s
  | .keypathTest gcm key tweak data => Sys2Proof.Machine.execKeypathTest gcm key tweak data s
  | .selftestStart outcome => Sys2Proof.Machine.execSelftestStart outcome s
  | .statusRead u => Sys2Proof.Machine.execStatusRead u s
  | .trstN => Sys2Proof.Machine.execTrstN s
  | .deckAccess src dest part write off data len => Sys2Proof.Machine.execDeckAccess src dest part write off data len s
  | .registerRead off width => Sys2Proof.Machine.execRegisterRead off width s
  | .creditGrant port wd => Sys2Proof.Machine.execCreditGrant port wd s

end Sys2Proof.Machine
end

