-- ==== Sys2Proof/Safety.lean ====
section
/-! DEFINITION. What counts as a sound state and a sound step, in the terms the statements use: the invariant that every step
keeps, and which parts of the state a command leaves as they were. -/

namespace Sys2Proof.Machine

/-- The invariant of the block: its memories and profile image in canonical form (log entry 3), at most 64 captured doorbells
(16 R375), and as many partitions, spans, channels, pacers, units, quadrants and incident entries as the spec gives. -/
structure Inv (s : State) : Prop where
  mem      : Memory.wf s.store
  image    : memWf (fun _ => 0) s.prof.image = true
  captured : s.central.captured.length ≤ 64
  parts    : s.parts.length = 9
  spans    : s.spans.length = 40
  chans    : s.chans.length = 64
  pacers   : s.pacers.length = 8
  units    : s.units.length = 96
  quads    : s.quads.length = 4
  ring     : s.keeper.ring.length = 16

/-- What a step from s to t owes whatever it does: the queue of waiting commands stands, and the invariant is kept. -/
structure Keeps (s t : State) : Prop where
  pending : t.pending = s.pending
  inv     : Inv s → Inv t

/-- The parts of the state that a command may change, as the frame statements name them. -/
inductive Field where
  /-- The block's phase, straps and start-up step: all of `block` but its outputs and the counter of free values. -/
  | life
  | free
  | out
  | keeper
  | regs
  | prof
  | queues
  | jobs
  | uidNext
  | orderNext
  /-- Every byte of memory, with its poison and its undefined ranges. -/
  | mem
  /-- The codebook caches. -/
  | books
  /-- The table banks and the working banks of the cores. -/
  | rams
  /-- The codewords under injection. -/
  | inj
  /-- The partitions but their PORT_BYTES counters. -/
  | parts
  | bytes
  | tables
  | spans
  | lanes
  | central
  /-- The fault units but their FAULT_INJECT registers. -/
  | units
  | inject
  | levels
  | levelNext
  | quads
  /-- The requests that wait or are outstanding, with the credits and the arbitration of the ports. -/
  | requests
  /-- The translation requests outstanding. -/
  | xreqs
  | inbox
  /-- The inbound requests. -/
  | inbound
  /-- The rest of the ports: stacks, connections, viaduct, deck. -/
  | links
  | chans
  | pacers
  | tap
deriving DecidableEq, Repr

/-- A part of the state is the same in t as in s. -/
def Field.same (f : Field) (s t : State) : Prop :=
  match f with
  | .life => { t.block with free := 0, out := [] } = { s.block with free := 0, out := [] }
  | .free => t.block.free = s.block.free
  | .out => t.block.out = s.block.out
  | .keeper => t.keeper = s.keeper
  | .regs => t.regs = s.regs
  | .prof => t.prof = s.prof
  | .queues => t.queues = s.queues
  | .jobs => t.jobs = s.jobs
  | .uidNext => t.uidNext = s.uidNext
  | .orderNext => t.orderNext = s.orderNext
  | .mem => { t.store with cbMem := [], tables := [], work := [], inj := [] } =
      { s.store with cbMem := [], tables := [], work := [], inj := [] }
  | .books => t.store.cbMem = s.store.cbMem
  | .rams => (t.store.tables, t.store.work) = (s.store.tables, s.store.work)
  | .inj => t.store.inj = s.store.inj
  | .parts => (t.parts.map fun x => { x with portBytes := [] }) = s.parts.map fun x => { x with portBytes := [] }
  | .bytes => t.parts.map Part.portBytes = s.parts.map Part.portBytes
  | .tables => t.tables = s.tables
  | .spans => t.spans = s.spans
  | .lanes => t.lanes = s.lanes
  | .central => t.central = s.central
  | .units => (t.units.map fun x => { x with inject := 0 }) = s.units.map fun x => { x with inject := 0 }
  | .inject => t.units.map FUnit.inject = s.units.map FUnit.inject
  | .levels => t.levels = s.levels
  | .levelNext => t.levelNext = s.levelNext
  | .quads => t.quads = s.quads
  | .requests => (t.ports.requests, t.ports.states) = (s.ports.requests, s.ports.states)
  | .xreqs => t.ports.xreqs = s.ports.xreqs
  | .inbox => t.ports.inbox = s.ports.inbox
  | .inbound => (t.ports.inbound, t.ports.nextId) = (s.ports.inbound, s.ports.nextId)
  | .links => { t.ports with requests := [], states := [], xreqs := [], inbox := [], inbound := [], nextId := 0 } =
      { s.ports with requests := [], states := [], xreqs := [], inbox := [], inbound := [], nextId := 0 }
  | .chans => t.chans = s.chans
  | .pacers => t.pacers = s.pacers
  | .tap => t.tap = s.tap

/-- The step from s to t changes nothing but the named parts of the state. -/
def Only (l : List Field) (s t : State) : Prop := ∀ f : Field, f ∈ l ∨ f.same s t

/-- Every job but one is the same in t as in s, but for what it knows of the bytes that others write (01 R39). -/
def OthersStand (s t : State) (uid : Nat) : Prop :=
  ∀ u, u ≠ uid → (t.job? u).map (fun j => { j with touched := [] }) = (s.job? u).map fun j => { j with touched := [] }

/-- From s to t the thread of a tile has run: it has not retired, and its tile counts and marks what is listed and nothing else (01
R37). -/
def RanTile (s t : State) (uid tile : Nat) (cs : List Contrib) (ms : List Mark) : Prop :=
  ∃ j k, s.job? uid = some j ∧ t.job? uid = some k ∧ k.phase = j.phase ∧ k.retired = j.retired ∧
    k.threads.map Thread.tile = j.threads.map Thread.tile ∧ (∀ x ∈ k.threads, x.tile = tile → x.ran = true) ∧
    k.contribs = (j.contribs.filter fun c => c.tile != tile) ++ cs ∧ k.marks = (j.marks.filter fun m => m.tile != tile) ++ ms

/-- A write of the bits of one byte has been issued as a request of a port. -/
def Requested (t : State) (p : Port) (own : Owner) (part : Nat) (b : WByte) : Prop :=
  ∃ r ∈ t.ports.requests, r.port = p ∧ r.owner = own ∧ r.part = part ∧ ∃ bs poison, r.body = .write bs poison ∧ b ∈ bs

/-- A message has been put to the port that reaches its engine, where it waits for its transfer or for the answer to it. -/
def SentOn (t : State) (part : Nat) (dst : MsgSrc) (m : Msg) : Prop :=
  ∀ p, t.msgPort dst = some p → ∃ r ∈ t.ports.requests, r.port = p ∧ r.part = part ∧ r.body = .message dst m

/-- What issuing a write and its transfer change: the requests and the PORT_BYTES counters; where a host write lands at once (log entry 11),
memory, the codewords under injection, and what jobs know of bytes others write. -/
abbrev writeParts : List Field := [.free, .out, .jobs, .mem, .inj, .bytes, .inject, .requests]

/-- What the end of an entry changes: its queue and its job, with the writes and the translation requests of its record and of a status line
(03 R93-R99). -/
abbrev endParts : List Field := [.free, .out, .queues, .jobs, .mem, .inj, .bytes, .inject, .requests, .xreqs]

/-- What the start of a reset level can change (18 R408-R413). -/
abbrev levelParts : List Field := [.life, .free, .out, .keeper, .prof, .queues, .jobs, .uidNext, .mem, .inj, .parts, .bytes,
  .spans, .central, .inject, .levels, .levelNext, .requests, .xreqs, .chans, .pacers]

/-- What a checker event can change: the unit's registers, its incident, and the reaction (17 R390-R397, 18 R418-R422). -/
abbrev reactionParts : List Field := levelParts ++ [.books, .rams, .lanes, .units]

/-- The parts of the state that a command can change, whatever it does; every other part stands. -/
def touched (c : Instr) : List Field :=
  match c with
  | .doorbell _ _ _ => endParts ++ [.spans, .central]
  | .doorbellCapture _ _ _ => [.out, .central]
  | .entryFetch _ => reactionParts
  | .ringUnreadable _ _ => reactionParts
  | .admitJob _ => reactionParts ++ [.orderNext]
  | .tokenRefill => [.queues]
  | .tileRequest _ _ _ => reactionParts
  | .threadRetire _ _ => reactionParts
  | .completionRecordWrite _ => reactionParts
  | .doneWrite _ => endParts
  | .doneAnswered _ => endParts ++ [.tables]
  | .jobTimeout _ => endParts ++ [.parts, .spans]
  | .move _ _ => reactionParts
  | .gather _ _ => reactionParts
  | .scatter _ _ => reactionParts
  | .indexPass _ => reactionParts
  | .stats _ _ => reactionParts
  | .contribute _ => reactionParts ++ [.inbox]
  | .reduce _ _ => reactionParts
  | .collect _ => reactionParts ++ [.inbox]
  | .dispatch _ => reactionParts
  | .combine _ _ => reactionParts
  | .tariff _ _ => reactionParts
  | .barrier _ => endParts ++ [.parts, .spans]
  | .groupBarrier _ => writeParts ++ [.parts, .inbox]
  | .fill _ _ => reactionParts
  | .sealCheck _ _ => reactionParts
  | .nop _ => endParts ++ [.parts, .spans]
  | .histogramBuild _ => reactionParts
  | .folioEntryWrite _ => reactionParts
  | .conversionPass _ => [.jobs]
  | .resendRedo _ _ => reactionParts
  | .portWriteResponse _ _ _ => reactionParts ++ [.inbox, .inbound]
  | .portReadData _ _ _ _ _ _ => reactionParts ++ [.inbox, .inbound, .links]
  | .portRequestTimeout _ _ _ => reactionParts ++ [.inbox, .inbound, .links]
  | .hostWriteError => reactionParts
  | .translationResponse _ _ _ _ => reactionParts ++ [.inbound]
  | .translationTimeout _ _ _ => reactionParts ++ [.inbound]
  | .createQueue _ => endParts ++ [.tables]
  | .destroyQueue _ => endParts ++ [.tables]
  | .cancelQueue _ => endParts ++ [.uidNext, .parts, .tables, .spans]
  | .resumeQueue _ => endParts ++ [.tables]
  | .resetQueue _ => levelParts ++ [.tables]
  | .setShaper _ => [.queues, .jobs, .tables]
  | .createRegion _ => [.queues, .jobs, .parts, .bytes, .tables]
  | .destroyRegion _ => [.queues, .jobs, .parts, .bytes, .tables]
  | .openWindow _ => [.queues, .jobs, .parts, .bytes, .tables, .spans, .central]
  | .closeWindow _ => [.out, .queues, .jobs, .parts, .bytes, .tables]
  | .createGroup _ => [.queues, .jobs, .parts, .bytes, .tables, .xreqs]
  | .destroyGroup _ => [.queues, .jobs, .parts, .bytes, .tables]
  | .bindKey _ => [.queues, .jobs, .tables]
  | .unbindKey _ => [.queues, .jobs, .tables]
  | .claimCbset _ => [.queues, .jobs, .tables]
  | .releaseCbset _ => [.queues, .jobs, .mem, .books, .tables]
  | .setupChannel _ => [.queues, .jobs, .tables, .chans]
  | .armChannel _ => [.queues, .jobs, .tables, .spans, .central, .chans]
  | .disarmChannel _ => [.queues, .jobs, .tables, .chans]
  | .releaseChannel _ => [.queues, .jobs, .tables, .chans]
  | .rearmPacer _ => [.queues, .jobs, .tables, .chans, .pacers]
  | .vote _ => [.queues, .jobs, .parts, .bytes, .tables, .spans, .central]
  | .readHealth _ => endParts ++ [.tables]
  | .fence _ =>
    [.out, .keeper, .queues, .jobs, .mem, .books, .rams, .tables, .spans, .central, .units, .inject, .requests, .xreqs]
  | .swapSpare _ => [.queues, .jobs, .rams, .tables, .spans, .lanes, .requests]
  | .reset _ => levelParts ++ [.tables, .units]
  | .scrubPartition _ => writeParts ++ [.queues, .books, .rams, .parts, .tables]
  | .switchProfile _ => endParts ++ [.prof, .books, .rams, .parts, .tables]
  | .commandCompletes _ => [.jobs, .parts, .bytes]
  | .contributionArrival _ => endParts ++ [.parts, .spans, .inbox]
  | .resendRequest _ => reactionParts ++ [.inbox]
  | .reRequest _ => writeParts ++ [.inbox]
  | .groupWaitTimeout _ => endParts ++ [.parts, .spans]
  | .ready _ => writeParts ++ [.parts, .inbox]
  | .closeLetter _ => endParts ++ [.parts, .spans, .inbox]
  | .closeLetterRepeat _ _ => writeParts ++ [.inbox]
  | .epochTimeout _ _ => endParts ++ [.parts, .spans]
  | .abortLetter _ => endParts ++ [.parts, .spans, .inbox]
  | .deckBarrierArrival _ => endParts ++ [.parts, .spans, .inbox]
  | .producer _ _ => reactionParts
  | .flushSet _ _ => [.central, .chans]
  | .runStart _ => [.spans, .chans, .pacers]
  | .recordDrained _ => reactionParts
  | .runEnd _ => writeParts ++ [.xreqs, .chans]
  | .evtOutPulse _ => [.out, .chans]
  | .commit _ => [.prof, .jobs, .mem, .books, .rams, .spans, .central, .units, .inject, .quads]
  | .profileWindowWrite _ _ => [.prof, .central]
  | .create _ => levelParts
  | .contextReset _ => levelParts
  | .resume _ => levelParts
  | .destroy _ => levelParts
  | .offReq _ => [.life, .prof, .central]
  | .wakeTimer _ => [.central]
  | .timerWake => [.spans, .central]
  | .faultStatusClear _ _ => reactionParts ++ [.tables]
  | .faultSevereClear _ _ => reactionParts ++ [.tables]
  | .faultPolicyWrite _ _ => [.central, .units, .inject]
  | .faultInject _ _ => [.central, .units, .inject]
  | .lowerWordRead _ => [.out, .keeper, .regs, .central]
  | .upperWordWrite _ _ => [.keeper, .parts, .bytes, .central]
  | .incidentWord0Read _ => [.out, .keeper, .regs, .central]
  | .eventSlot _ _ => reactionParts ++ [.regs, .quads]
  | .eventPd _ _ => [.parts, .bytes, .central]
  | .ownerEventSlot _ => [.keeper, .parts, .bytes, .central]
  | .registerWrite _ _ _ => reactionParts ++ [.regs, .tables, .quads]
  | .loadXts _ _ _ => [.out, .tables]
  | .loadGcm _ _ _ => [.out, .tables]
  | .erase _ => [.out, .tables]
  | .profileLoad _ _ => reactionParts ++ [.tables, .quads]
  | .profileCopyReadFailure _ => reactionParts
  | .rstNAssert =>
    [.life, .keeper, .regs, .prof, .queues, .jobs, .orderNext, .mem, .books, .rams, .inj, .parts, .bytes, .tables, .spans,
    .lanes, .central, .units, .inject, .levels, .levelNext, .quads, .requests, .xreqs, .inbox, .inbound, .links, .chans,
    .pacers]
  | .rstNRelease _ _ _ => [.life, .keeper, .prof]
  | .startupStepTimeout _ => reactionParts
  | .selfTest _ => reactionParts
  | .vinLow =>
    [.life, .keeper, .regs, .prof, .queues, .jobs, .orderNext, .mem, .books, .rams, .inj, .parts, .bytes, .tables, .spans,
    .lanes, .central, .units, .inject, .levels, .levelNext, .quads, .requests, .xreqs, .inbox, .inbound, .links, .chans,
    .pacers]
  | .vinRecovered _ _ _ => [.life, .keeper, .prof]
  | .sleepDwellExpiry _ => [.spans]
  | .deepDwellExpiry _ _ _ => [.spans, .central]
  | .centralDwellExpiry _ _ => [.central]
  | .powerEntryDone _ => [.queues, .jobs, .mem, .books, .rams, .parts, .bytes, .tables, .spans, .central, .requests, .inbox]
  | .domainExit _ => reactionParts ++ [.regs, .tables, .quads]
  | .powerStepTimeout _ _ => reactionParts
  | .wakeN _ _ _ => [.life, .keeper, .prof, .spans, .central]
  | .linkEnergy _ => reactionParts ++ [.links]
  | .brownout _ => reactionParts
  | .offEntryDone =>
    [.life, .keeper, .regs, .prof, .queues, .jobs, .orderNext, .mem, .books, .rams, .inj, .parts, .bytes, .tables, .spans,
    .lanes, .central, .units, .inject, .levels, .levelNext, .quads, .requests, .xreqs, .inbox, .inbound, .links, .chans,
    .pacers]
  | .faultEvent _ _ _ => reactionParts ++ [.tables]
  | .faultWindowExpiry _ _ => [.units, .inject]
  | .lockstep => reactionParts
  | .contextCollection _ _ => [.out, .keeper, .spans, .units, .inject, .xreqs]
  | .alive => [.keeper]
  | .resetLevelFinish _ => endParts ++ [.keeper, .books, .rams, .parts, .spans, .units, .levels]
  | .resetLevelTimeout _ => levelParts ++ [.units]
  | .powerCycle => [.life]
  | .swapStepTimeout _ => reactionParts
  | .swapComplete _ => [.jobs, .rams, .spans]
  | .powerCapCheck _ _ => [.quads]
  | .operatingPointDone _ => [.quads]
  | .oscCalibration => [.keeper]
  | .refClkLoss => [.life, .out, .keeper, .spans, .central, .units, .inject, .xreqs]
  | .refClkReturn => levelParts
  | .refClkLossTimeout => levelParts ++ [.units]
  | .connOpen _ _ _ => [.links]
  | .connClose _ => [.links]
  | .windowReady _ _ => [.out, .parts, .bytes]
  | .linkDown _ => reactionParts ++ [.inbox, .inbound, .links]
  | .inboundWrite _ _ _ => writeParts ++ [.parts, .xreqs, .inbound]
  | .inboundTargetAck _ => [.out, .jobs, .inbound]
  | .inboundRead _ _ _ => writeParts ++ [.xreqs, .inbound]
  | .inboundMessage _ _ => endParts ++ [.parts, .spans, .inbox]
  | .viaductLinkUp _ _ _ => reactionParts ++ [.links]
  | .deckFlood _ _ => reactionParts ++ [.links]
  | .memoryPortReady _ _ => [.links]
  | .extest _ => [.out, .tap]
  | .samplePreload _ => [.out, .tap]
  | .idcode => [.out, .tap]
  | .bypass _ => [.out, .tap]
  | .debugArm => [.life, .out, .tables, .tap]
  | .scanAccess => [.out, .tap]
  | .stagingRead _ _ => [.out, .tap]
  | .keypathTest _ _ _ _ => [.out, .tap]
  | .selftestStart _ => [.out, .keeper, .spans, .lanes, .central, .units, .inject, .xreqs, .tap]
  | .statusRead _ => [.out, .tap]
  | .trstN => [.tap]
  | .deckAccess _ _ _ _ _ _ _ => writeParts ++ [.xreqs, .inbound]
  | .registerRead _ _ => [.out, .keeper, .regs, .central]
  | .creditGrant _ _ => reactionParts ++ [.inbox, .inbound]

/-! What the statements say of administrative commands (13 R293-R299). -/

/-- The administrative queue a command stands at the front of, its opcode and the queues that accept it (13 R299). -/
def adminRow (c : Instr) : Option (Nat × Nat × State.CmdQueues) :=
  match c with
  | .createQueue aq => some (aq, 0x80, .both) | .destroyQueue aq => some (aq, 0x81, .both)
  | .cancelQueue aq => some (aq, 0x82, .both) | .resumeQueue aq => some (aq, 0x83, .both)
  | .resetQueue aq => some (aq, 0x84, .both) | .setShaper aq => some (aq, 0x85, .both)
  | .createRegion aq => some (aq, 0x88, .both) | .destroyRegion aq => some (aq, 0x89, .both)
  | .openWindow aq => some (aq, 0x8A, .both) | .closeWindow aq => some (aq, 0x8B, .both)
  | .createGroup aq => some (aq, 0x8C, .both) | .destroyGroup aq => some (aq, 0x8D, .both)
  | .bindKey aq => some (aq, 0x90, .partition) | .unbindKey aq => some (aq, 0x91, .partition)
  | .claimCbset aq => some (aq, 0x92, .both) | .releaseCbset aq => some (aq, 0x93, .both)
  | .setupChannel aq => some (aq, 0x94, .both) | .armChannel aq => some (aq, 0x95, .both)
  | .disarmChannel aq => some (aq, 0x96, .both) | .releaseChannel aq => some (aq, 0x97, .both)
  | .rearmPacer aq => some (aq, 0x98, .owner) | .vote aq => some (aq, 0xA0, .partition)
  | .readHealth aq => some (aq, 0xA1, .both) | .fence aq => some (aq, 0xA2, .owner)
  | .swapSpare aq => some (aq, 0xA3, .owner) | .reset aq => some (aq, 0xA4, .owner)
  | .scrubPartition aq => some (aq, 0xA5, .owner) | .switchProfile aq => some (aq, 0xA6, .owner)
  | _ => none

/-- The state in which a command's own part begins: its queue is the one served last (R295), its entry is no longer waiting. -/
def State.taken (s : State) (aq : Nat) (j : Job) : State :=
  ({ s with tables := { s.tables with adminLast := aq } }).modQueue (.adm aq) fun x =>
    { x with fetched := x.fetched.filter (·.uid != j.uid) }

/-- The command at the front of a queue has its turn, and its header and reserved bytes pass (R293, R294): `fs` are the fields that its
operand table names, p the partition on which it acts. -/
structure State.Served (s : State) (aq op p : Nat) (j : Job) (sc : State.CmdScope) (fs : List State.FieldSpec) : Prop where
  start    : s.canStart aq = some j
  turn     : s.turnOf aq = true
  opcode   : u8 j.entry 0 = op
  unwritten : field j.entry 0x18 8 = 0
  reserved : State.reservedFail j.entry 0 (State.adminHeader ++ [⟨0x18, 8, 2 ^ 64 - 1⟩] ++ fs) = none
  scope    : (s.taken aq j).partitionBad aq sc (u8 j.entry 2) = false
  acts     : p = if aq = 0 then u8 j.entry 2 else aq

end Sys2Proof.Machine
end

