-- ==== Sys2Proof/Certificates/Slice0/Obligations.lean ====
section
/-! DEFINITION. The statements for the provers: the block's step, its invariant and its frames; then, family by family, what each
command does. A statement that rests on a choice of the model says so and names the log entry. -/

open Sys2Proof Sys2Proof.Machine

/-! The step, the state at reset, the invariant, the frames. -/

/-- A step on a state whose queue is not empty is the meaning of the command at its front, with the queue's rest. -/
def Obligations.StepRunsTheFrontCommand : Prop :=
  ∀ (s : State) (c : Instr) (rest : List Instr), s.pending = c :: rest → step s = exec c { s with pending := rest }

/-- The model's choice (log entry 1): a step on an empty queue is one keeper tick. WAKE_TIMER counts down by one and its expiry, at
the step from 1 to 0, is noted once (16 R385); a timer at 0 stands, and nothing else changes but the model's count of ticks. -/
def Obligations.EmptyQueueStepCountsTheWakeTimer : Prop :=
  ∀ s : State, s.pending = [] → ∃ t, step s = .next t ∧
    t = { s with block := { s.block with ticks := s.block.ticks + 1 }, central := t.central } ∧
    (s.central.wakeTimer = 0 → t.central = s.central) ∧
    (s.central.wakeTimer ≠ 0 →
      t.central = { s.central with wakeTimer := s.central.wakeTimer - 1,
                                   timerFired := s.central.timerFired || s.central.wakeTimer == 1 })

/-- The registers that the spec gives a reset value, in the state at reset: the power registers of spans and of the central domain
(16 R384, R385), the pacers (12 R292), the interrupt enables of every unit (17 R401), the keeper page's LOCKSTEP_OK (20 R463), the
set-up registers of the administrative queues (20 R466), no queue, no key, and every channel FREE. -/
def Obligations.ResetGivesTheSpecsRegisterValues : Prop :=
  (∀ n < 40, (State.reset.span n).sleepDwell = 3125 ∧ (State.reset.span n).deepDwell = 0 ∧ (State.reset.span n).lastRefuser = 0xFF ∧
    (State.reset.span n).deepEnable = false ∧ (State.reset.span n).refused = 0 ∧ (State.reset.span n).aborted = 0) ∧
  (State.reset.central.power = .run ∧ State.reset.central.deepEnable = false ∧ State.reset.central.lastRefuser = 0xFF ∧
    State.reset.central.dwell = 0 ∧ State.reset.central.wakeCause = 0 ∧ State.reset.central.wakeTimer = 0) ∧
  (∀ p < 8, (State.reset.pacer p).stopped = false ∧ (State.reset.pacer p).cause = 0) ∧
  (∀ u < 96, ∀ b < 16, (State.reset.unit u).irqEn.getLsbD b = (bitOf (presentMask u) b && decide (b ≠ 0))) ∧
  State.reset.keeper.lockstepOk = true ∧
  (∀ p < 9, (State.reset.part p).aq.busy = false ∧ (State.reset.part p).aq.code = 0 ∧ (State.reset.part p).aq.ring = 0) ∧
  State.reset.queues = [] ∧ State.reset.jobs = [] ∧ State.reset.tables.keys = [] ∧
  (∀ c < 64, (State.reset.chan c).state = .free) ∧ State.reset.block.phase = .held ∧ State.reset.pending = []

/-- The invariant of Safety holds at reset. -/
def Obligations.ResetMeetsTheInvariant : Prop := Inv State.reset

/-- Every step keeps the invariant: the memories and the profile image stay in canonical form, at most 64 doorbells stand captured
(16 R375), and no partition, span, channel, pacer, unit, quadrant or incident entry appears or vanishes. -/
def Obligations.EveryStepKeepsTheInvariant : Prop :=
  ∀ s t : State, Inv s → step s = .next t → Inv t

/-- Every command on every state answers a next state, and leaves the queue of waiting commands alone. -/
def Obligations.EveryCommandAnswersANextState : Prop :=
  ∀ (c : Instr) (s : State), ∃ t, exec c s = .next t ∧ t.pending = s.pending

/-- The frame of every command: it changes no part of the state but those that `touched` lists for it. -/
def Obligations.CommandsChangeOnlyWhatTheyTouch : Prop :=
  ∀ (c : Instr) (s t : State), exec c s = .next t → Only (touched c) s t

/-- A byte written reads back, and every other byte reads as before, also where ranges are undefined; a range zeroed reads zero. A write
that reaches its target takes each of its bits there, at the keys of the bytes it names, and changes no other bit of any memory (02 R67,
19 R429); a write issued to ports other than the host's changes no byte until it is answered (02 R71). -/
def Obligations.StoreReadsBackWhatWasWritten : Prop :=
  (∀ (s : State) (own : Owner) (bs : List WByte) (poison : List Nat) (k : Nat), Memory.wf s.store →
    (s.landBytes own bs poison).store.get k = bs.foldl (fun o b => if b.key = k then
      BitVec.ofNat 8 (Nat.lor (o.toNat - Nat.land o.toNat b.mask) b.val) else o) (s.store.get k)) ∧
  (∀ (s : State) (own : Owner) (part route : Nat) (bs : List State.Put8) (poison : List Nat) (span : Option Nat),
    (∀ x ∈ bs, ∃ p, s.portOf x.target = some p ∧ p ≠ .host) → (s.issueElems own part route bs poison span).store = s.store) ∧
  ∀ st : Store, Memory.wf st →
    (∀ (k : Nat) (b : Byte), (st.put k b).get k = b ∧ ∀ i, i ≠ k → (st.put k b).get i = st.get i) ∧
    (∀ (l : List (Nat × Byte)) (k : Nat), k ∉ l.map (·.1) → (st.writeAll l).get k = st.get k) ∧
    (∀ base len k, (base ≤ k ∧ k < base + len → (st.zero base len).get k = 0) ∧
      (¬(base ≤ k ∧ k < base + len) → (st.zero base len).get k = st.get k))

/-! Rings, doorbells and completions (03, 16 R375). -/

/-- A doorbell within the rules of 03 R84: the tail moves forward, the entries from the old tail on are pending, LAST_DOORBELL
is the tail written, and every other queue stands; a tail that repeats or trails the accepted tail changes LAST_DOORBELL only. -/
def Obligations.DoorbellWithinTheRulesIsAccepted : Prop :=
  ∀ (s : State) (off : Nat) (v : Word32) (x : Queue), s.bellWrite off 4 = some x → s.centralAsleep = false → x.state ≠ .error →
    x.lost = false → (v - x.head).toNat ≠ 0 → (v - x.head).toNat ≤ 2 ^ x.log2 →
    ((x.tail - x.head).toNat < (v - x.head).toNat →
      (∀ e ∈ x.open_, ¬ (e + BitVec.ofNat 32 (2 ^ x.log2) - x.tail).toNat < (v - x.tail).toNat) →
      ∃ t, exec (.doorbell off 4 v) s = .next t ∧
        t.queue? x.qid = some { x with lastDb := v, tail := v, open_ := x.open_ ++ State.indicesTo x.tail v } ∧
        (∀ q, q ≠ x.qid → t.queue? q = s.queue? q) ∧
        t = { s with queues := t.queues, spans := t.spans, central := t.central }) ∧
    ((v - x.head).toNat ≤ (x.tail - x.head).toNat →
      exec (.doorbell off 4 v) s = .next (s.modQueue x.qid fun y => { y with lastDb := v }))

/-- A doorbell that breaks rule 1 or rule 2 of 03 R84 changes neither H nor A: the queue enters ERROR with CODE 0xF1 DOORBELL_RANGE,
DETAIL 1 or 2, for rule 2 the earliest entry that had not completed as INDEX, LAST_DOORBELL the tail written; its status line is
due, and written at once where its page is translated; as the host port transfers it, its bytes stand in host memory and the
partition's NOTE line pulses (03 R85, R96, R98, R99). INDEX 0 for rule 1 is the model's choice (log entry 78). -/
def Obligations.DoorbellOutsideTheRulesStopsTheQueue : Prop :=
  ∀ (s : State) (off : Nat) (v : Word32) (x : Queue), s.bellWrite off 4 = some x → s.centralAsleep = false → x.state ≠ .error →
    x.lost = false → ∀ (d : Word16) (i : Word32),
    (((v - x.head).toNat = 0 ∨ 2 ^ x.log2 < (v - x.head).toNat) ∧ d = 1 ∧ i = 0) ∨
    ((v - x.head).toNat ≠ 0 ∧ (v - x.head).toNat ≤ 2 ^ x.log2 ∧ (x.tail - x.head).toNat < (v - x.head).toNat ∧
      State.overwritten x v = some i ∧ d = 2) →
    ∃ t y, exec (.doorbell off 4 v) s = .next t ∧ t.queue? x.qid = some y ∧ y.state = .error ∧ y.errCode = 0xF1 ∧
      y.errDetail = d ∧ y.errIndex = i ∧ y.lastDb = v ∧ y.head = x.head ∧ y.tail = x.tail ∧ y.open_ = x.open_ ∧
      (y.due = x.due ∧ y.seq = x.seq + 1 ∨ y.due = x.due + 1 ∧ y.seq = x.seq) ∧
      (∀ q, q ≠ x.qid → t.queue? q = s.queue? q) ∧
      (∀ bs ks, let z := { x with state := .error, errCode := 0xF1#8, errDetail := d, errIndex := i, lastDb := v }
        s.place (State.queuePart x) x.xlat x.status.toNat (s.statusBytes z) = some bs → (∀ b ∈ bs, b.1 = .host ∧ b.2.1 / 64 = ks) →
        (bs.map fun b => b.2.1).Nodup →
        s.ports.requests = [] → (s.portState .host).req ≠ 0 → (s.portState .host).wd ≠ 0 →
        t.block.out = .note (s.noteLine x.qid) :: s.block.out ∧ y.due = x.due ∧
          (Memory.wf s.store → ∀ b ∈ bs, t.store.get (locKey b.1 b.2.1) = b.2.2))

/-- Writes that the engine ignores (03 R81, R101): of another width, at another byte, to a word with no live queue, or to a queue in
ERROR; they change nothing. -/
def Obligations.OtherDoorbellWritesChangeNothing : Prop :=
  ∀ (s : State) (off width : Nat) (v : Word32),
    (width ≠ 4 ∨ off % 0x40 ≠ 0 ∨ (s.bellQueue off).bind s.live? = none) ∨
      (s.centralAsleep = false ∧ ∃ x, s.bellWrite off width = some x ∧ x.state = .error) →
    exec (.doorbell off width v) s = .next s ∧ exec (.doorbellCapture off width v) s = .next s

/-- While the central domain sleeps, a doorbell write is captured behind those captured before it, up to 64, and records the cause
DOORBELL; for a 65th, credit is withheld; once the central domain reaches RUN, the captured doorbells are evaluated in capture order,
and then the register accesses that waited (16 R374, R375). -/
def Obligations.SleepingBlockCapturesDoorbells : Prop :=
  (∀ s : State, s.block.refClk = true → s.central.trans = some .exitDeep → s.central.exitReset = false →
    (∀ l ∈ s.levels, l.scope ≠ .block) →
    exec (.domainExit .central) s = .next (s.central.captured.foldl (fun (z : State) c => z.evalBell c.qid c.tail)
      { s with central := { s.central with power := .run, trans := none, captured := [] } }).runDeferred) ∧
  ∀ (s : State) (off : Nat) (v : Word32) (x : Queue), s.bellWrite off 4 = some x → s.centralAsleep = true →
    ∃ t, exec (.doorbellCapture off 4 v) s = .next t ∧ exec (.doorbell off 4 v) s = .next t ∧
      (s.central.captured.length < 64 →
        t.central.captured = s.central.captured ++ [⟨x.qid, v⟩] ∧ t.central.wakeCause = s.central.wakeCause ||| 1 ∧
        (s.central.trans = none → t.central.trans = some .exitDeep) ∧ t = { s with central := t.central }) ∧
      (64 ≤ s.central.captured.length → t = s.emit .withheld)

/-- A queue that may fetch and whose slot is readable hands its entry on (03 R78, R87): H moves on by one, the entry's 256 bytes are
those of its slot, and it waits for admission, or on an administrative queue for its command; an opcode that names no command
completes with BAD_OPCODE (13 R293) with the opcode as DETAIL (03 R103). -/
def Obligations.EntryFetchReadsTheNextEntry : Prop :=
  ∀ (s : State) (q : QId) (x : Queue) (ks : List Nat), s.live? q = some x → s.canFetch x = true →
    s.keys (State.queuePart x) x.xlat (State.slotAddr x x.head) 256 = some ks →
    (∀ g ∈ granulesOf ks, g ∉ s.store.poison) →
    ∃ t j y, exec (.entryFetch q) s = .next t ∧ j ∈ t.jobs ∧ (∀ k ∈ s.jobs, k.uid ≠ s.uidNext → k ∈ t.jobs) ∧ j.uid = s.uidNext ∧
      j.queue = q ∧ j.idx = x.head ∧ j.entry = ks.map s.store.get ∧ t.uidNext = s.uidNext + 1 ∧ t.queue? q = some y ∧
      y = { x with head := x.head + 1, xlat := [], fetched := y.fetched } ∧ (∀ r, r ≠ q → t.queue? r = s.queue? r) ∧
      (if (match q with | .io _ => true | .adm _ => State.adminOpcode (u8 j.entry 0)) = true then
        j.phase = .fetched ∧ y.fetched = x.fetched ++ [⟨x.head, s.uidNext⟩] ∧
          t = { s with queues := t.queues, jobs := t.jobs, uidNext := t.uidNext }
      else j.phase = .ending ∧ j.code = 0x01 ∧ j.detail = u8 j.entry 0 ∧ (∀ f ∈ y.fetched, f.uid ≠ s.uidNext) ∧
          t = { s with queues := t.queues, jobs := t.jobs, uidNext := t.uidNext, parts := t.parts, spans := t.spans, ports := t.ports })

/-- A ring read that fails leaves H where it stands; the queue enters ERROR with CODE 0xF2 RING_UNREADABLE, INDEX the failing index
and DETAIL the code that the access would have carried: BUS_ERROR, POISON_READ or TRANSLATION_ABORT (03 R88). -/
def Obligations.UnreadableRingStopsTheQueue : Prop :=
  ∀ (s : State) (q : QId) (x : Queue) (why : ReadFail), s.live? q = some x → s.canFetch x = true →
    let u := ((s.locate (State.queuePart x) x.xlat (State.slotAddr x x.head)).bind fun t => s.portOf t.1).map State.portUnit
    let code := match why with | .busError => 0x48 | .poison => 0x65 | .translation => 0x44
    let s1 := match why, u with
      | .busError, some u => s.countEvent u 4 {}
      | .poison, some u => s.countEvent u 5 {}
      | _, _ => s
    exec (.ringUnreadable q why) s = .next ((s1.modQueue q fun y => { y with xlat := [] }).enterError q 0xF2 code x.head) ∧
    (s1 = s → ∃ t y, exec (.ringUnreadable q why) s = .next t ∧ t.queue? q = some y ∧ y.state = .error ∧ y.errCode = 0xF2 ∧
      y.errDetail = BitVec.ofNat 16 code ∧ y.errIndex = x.head ∧ y.head = x.head ∧ y.open_ = x.open_)

/-- The record of an entry that has ended (03 R89, R90): once every write of the job is answered, bytes +0x00 to +0x1E are written to
its slot, without the COOKIE's bytes for an entry never read; the DONE byte follows once that write is answered. POSITION, COOKIE, COUNT,
AUX, DETAIL, STATUS and the zero bytes lie where R89 puts them. -/
def Obligations.RecordThenDone : Prop :=
  (∀ (s : State) (j : Job) (x : Queue), s.job? j.uid = some j → s.queue? j.queue = some x → x.lost = false →
    (∀ bs, j.phase = .ending → j.wait = .none → j.threads = [] → s.jobWrites j.uid = [] → j.pass.due = [] → j.pass.redo = [] → j.pass.redoing = [] →
      s.mustWait j = false →
      s.place (State.queuePart x) (j.xlat ++ x.xlat) (State.slotAddr x j.idx) (State.recordBytes j) = some bs →
      exec (.completionRecordWrite j.uid) s = .next (((s.issue (.job j.uid .record 0) (State.queuePart x) 0 0
        (if j.read then bs else bs.take 8 ++ bs.drop 16) []).modJob j.uid fun y => { y with phase := .record }).modQueue
        j.queue fun y => { y with xlat := [] })) ∧
    (∀ bs, j.phase = .record → s.jobWrites j.uid = [] →
      s.place (State.queuePart x) (j.xlat ++ x.xlat) (State.slotAddr x j.idx + 0x1F) [0x80#8] = some bs →
      exec (.doneWrite j.uid) s = .next (((s.issue (.job j.uid .done 0) (State.queuePart x) 0 0 bs []).modJob j.uid
        fun y => { y with phase := .done }).modQueue j.queue fun y => { y with xlat := [] }))) ∧
  (∀ j : Job, j.read = true → 16 ≤ j.entry.length →
    (State.recordBytes j).length = 0x1F ∧ u64 (State.recordBytes j) 0 = j.position % 2 ^ 64 ∧
    ((State.recordBytes j).drop 8).take 8 = (j.entry.drop 8).take 8 ∧ u32 (State.recordBytes j) 0x10 = j.count % 2 ^ 32 ∧
    u32 (State.recordBytes j) 0x14 = j.aux % 2 ^ 32 ∧ u16 (State.recordBytes j) 0x18 = j.detail % 2 ^ 16 ∧
    u8 (State.recordBytes j) 0x1A = j.code % 2 ^ 8 ∧ (State.recordBytes j).drop 0x1B = List.replicate 4 0)

/-- The answer to the DONE write completes the entry (03 R79): its job is gone, its index is no longer pending, the partition's NOTE
line pulses when the entry's NOTIFY flag is set and not otherwise (03 R96), an erasure that waited for this job alone ends (14 R329), and
no other queue changes. Where a state change of the queue waits for its entries, its status line is due with the last of them (R99). -/
def Obligations.AnsweredDoneCompletesTheEntry : Prop :=
  ∀ (s : State) (j : Job) (x : Queue), s.job? j.uid = some j → s.queue? j.queue = some x → j.phase = .done →
    s.jobWrites j.uid = [] →
    let w := s.tables.erasing.map fun e => { e with jobs := e.jobs.filter (· != j.uid) }
    ∃ t y, exec (.doneAnswered j.uid) s = .next t ∧ t.job? j.uid = none ∧ t.queue? j.queue = some y ∧
      y.open_ = x.open_.filter (· != j.idx) ∧ y.fetched = x.fetched.filter (·.uid != j.uid) ∧
      (∀ q, q ≠ j.queue → t.queue? q = s.queue? q) ∧ t.tables = { s.tables with erasing := w.filter fun e => !e.jobs.isEmpty } ∧
      (j.uid ∉ x.after → y = { x with open_ := y.open_, fetched := y.fetched } ∧
        t.block.out = (if j.read && Entry.notify j.entry then [.note (s.noteLine j.queue)] else []) ++
          List.replicate (w.filter fun e => e.jobs.isEmpty).length (.keyResp 0) ++ s.block.out ∧
        t = { s with block := { s.block with out := t.block.out }, queues := t.queues, jobs := t.jobs, tables := t.tables }) ∧
      (j.uid ∈ x.after → y.after = x.after.filter (· != j.uid) ∧
        ((∃ u ∈ x.after, u ≠ j.uid) → y.due = x.due ∧ y.seq = x.seq) ∧
        ((∀ u ∈ x.after, u = j.uid) → x.lost = false →
          (y.due = x.due ∧ y.seq = x.seq + 1 ∨ y.due = x.due + 1 ∧ y.seq = x.seq)))

/-! Admission, token buckets and descriptor timeouts (04, 05). -/

/-- ADMIT_JOB: of the heads that decode and that nothing holds back, one of the highest priority level is admitted (04 R107): its job
runs with the next place in the order of admission, its queue's counts rise by one job and by its cost and its bucket pays 25 units a
byte, down to the floor (R112); no other job changes, and no other queue but in its deficit and its count of holds. The heads are those
left once every entry that fails decode has completed (R105). -/
def Obligations.AdmissionServesTheHighestLevel : Prop :=
  ∀ (s s0 : State) (p : Nat) (ready : List State.Head), s.running = true → s.prof.committed = true → s.centralAsleep = false →
    s0 = (s.ioQueues p).foldl (fun s x => State.dropFails x.qid 65 0 s) s →
    ready = (s0.heads p).filter (fun h => s0.holdOf h == .none) → ready ≠ [] →
    ∃ h ∈ ready, ∃ t j y, exec (.admitJob p) s = .next t ∧
      (∀ k ∈ ready, Entry.prio k.job.entry ≤ Entry.prio h.job.entry) ∧
      t.job? h.job.uid = some j ∧ j.phase = .running ∧ j.order = s0.orderNext + 1 ∧ j.elems = h.elems ∧ j.entry = h.job.entry ∧
      j.tiles = ceilDiv h.elems (max 1 h.tlen) ∧ (∀ u, u ≠ h.job.uid → t.job? u = s0.job? u) ∧ t.orderNext = s0.orderNext + 1 ∧
      t.queue? h.queue.qid = some y ∧ y.fetched = h.queue.fetched.drop 1 ∧ y.admittedJobs = h.queue.admittedJobs + 1 ∧
      y.admittedBytes = h.queue.admittedBytes + BitVec.ofNat 64 h.cost ∧
      y.tokens = (if h.queue.shaper.rate = 0 then h.queue.tokens
        else max (h.queue.tokens - 25 * (h.cost : Int)) (-(25 * h.queue.shaper.burst * 4096 : Nat) : Int)) ∧
      ∀ q x, q ≠ h.queue.qid → s0.queue? q = some x →
        ∃ z, t.queue? q = some z ∧ z = { x with deficit := z.deficit, bucketHolds := z.bucketHolds }

/-- An entry that fails decode completes at once with its code and POSITION 0, also behind entries that wait: it leaves the queue's fetched
entries and is counted, and the queue's deficit, tokens and admissions stand; the entry behind it is looked at next (04 R105). Only the
oldest entry's claims are judged (01 R43). -/
def Obligations.EntryThatFailsDecodeCompletesAtOnce : Prop :=
  ∀ (s : State) (q : QId) (x : Queue) (f : Fetched) (j : Job) (i c d : Nat), s.queue? q = some x → s.admits x = true →
    x.fetched[i]? = some f → s.job? f.uid = some j → j.queue = q → j.phase = .fetched →
    (if i = 0 then s.decode x j else s.decodeForm x j) = .fail c d none →
    ∃ t k y, (∀ n, State.dropFails q (n + 1) i s = State.dropFails q n i t) ∧
      t.queue? q = some y ∧ y.decodeFails = x.decodeFails + 1 ∧ y.deficit = x.deficit ∧ y.tokens = x.tokens ∧
      y.admittedJobs = x.admittedJobs ∧ y.admittedBytes = x.admittedBytes ∧ (∀ g ∈ y.fetched, g ∈ x.fetched ∧ g.uid ≠ j.uid) ∧
      (j.groupOp = false → y = { x with fetched := x.fetched.filter (·.uid != j.uid), decodeFails := x.decodeFails + 1 }) ∧
      t.job? j.uid = some k ∧ k.phase = .ending ∧ k.code = c ∧ k.detail = d % 65536 ∧ k.position = 0 ∧ k.order = j.order

/-- TOKEN_REFILL (04 R111, R113, R114): at every I/O queue a waiting shaper change takes effect, its count clipped to plus or minus 25 x
BURST x 4,096; then 512 x RATE is added and clipped to a full bucket, which RATE 0 gives at once. Administrative queues stand. -/
def Obligations.RefillAddsTokensUpToTheBurst : Prop :=
  ∀ s : State, ∃ t, exec .tokenRefill s = .next t ∧ t = { s with queues := t.queues } ∧ t.queues.length = s.queues.length ∧
    ∀ (i : Nat) (x : Queue), s.queues[i]? = some x → ∃ y, t.queues[i]? = some y ∧
      (∀ p, x.qid = .adm p → y = x) ∧
      ∀ n (cap : Int), x.qid = .io n → cap = (25 * y.shaper.burst * 4096 : Nat) →
        y = { x with shaper := x.newShaper.getD x.shaper, newShaper := none, tokens := y.tokens } ∧
        (y.shaper.rate = 0 → y.tokens = cap) ∧
        (y.shaper.rate ≠ 0 → x.newShaper = none → y.tokens = min (x.tokens + 512 * y.shaper.rate) cap) ∧
        (y.shaper.rate ≠ 0 → x.newShaper ≠ none →
          y.tokens = min (max (min x.tokens cap) (-cap) + 512 * y.shaper.rate) cap) ∧ y.tokens ≤ cap

/-- JOB_TIMEOUT (05 R122): a running job whose queue is not halted ends with CANCELLED, DETAIL 1, its threads killed, no further access,
at the POSITION of its stop (03 R93), with the counts below it; a BARRIER ends with MEMBER_TIMEOUT and what it waited for (02 R75); a
group job aborts its group besides (11 R261), but a GROUP_BARRIER of a READY group away from the coordinator goes on (11 R264). -/
def Obligations.DescriptorTimeoutEndsTheJob : Prop :=
  ∀ (s : State) (j : Job) (x : Queue) (n : Nat), s.job? j.uid = some j → s.queue? j.queue = some x → j.queue = .io n →
    x.state ≠ .halted → j.order ≠ 0 → j.phase = .running → j.stopped = false → Entry.timeout j.entry ≠ 0 →
    (j.groupOp = false → Entry.opcode j.entry ≠ 0x0B → Entry.opcode j.entry ≠ 0x0C →
      ∃ t, exec (.jobTimeout j.uid) s = .next t ∧
        t = { s with jobs := t.jobs, queues := t.queues, spans := t.spans, ports := { s.ports with requests := t.ports.requests } } ∧
        t.job? j.uid = some
          { j with phase := .ending, code := 0xA0, detail := 1, position := j.stopPosition, threads := [], again := [], stopped := true,
                   wait := .none, count := (j.countsBelow j.stopPosition).1, aux := (j.countsBelow j.stopPosition).2 } ∧
        t.queue? j.queue = some { x with fetched := x.fetched.filter (·.uid != j.uid) } ∧
        (∀ r ∈ t.ports.requests, ∀ m, r.owner = .fetch j.uid m → r.sent = true ∧ ∀ f, State.fetchOf r = some f → f.drained = true) ∧
        (∀ q, q ≠ j.queue → t.queue? q = s.queue? q) ∧ ∀ u, u ≠ j.uid → t.job? u = s.job? u) ∧
    (j.groupOp = false → Entry.opcode j.entry = 0x0B →
      ∃ t k, exec (.jobTimeout j.uid) s = .next t ∧
        t = { s with jobs := t.jobs, queues := t.queues, spans := t.spans, ports := { s.ports with requests := t.ports.requests } } ∧
        t.job? j.uid = some k ∧ k.phase = .ending ∧
        k.code = 0x82 ∧ k.detail = s.barrierDetail j % 65536 ∧ k.position = 0 ∧ k.stopped = true ∧
        ∀ u, u ≠ j.uid → t.job? u = s.job? u) ∧
    (j.groupOp = true →
      ((Entry.opcode j.entry ≠ 0x0C ∨ ∀ g, s.group? j.part j.groupNo = some g → g.state ≠ .ready ∨ 0 ∈ State.localRanks g) →
        ∃ t k, exec (.jobTimeout j.uid) s = .next t ∧ t.job? j.uid = some k ∧ k.phase = .ending ∧ k.code = 0xA0 ∧ k.detail = 1 ∧
          k.position = j.stopPosition ∧ k.stopped = true ∧
          ∀ g, s.group? j.part j.groupNo = some g → g.closing ≠ some g.epoch →
            ∃ h, t.group? j.part j.groupNo = some h ∧ h.state = .aborted) ∧
      (Entry.opcode j.entry = 0x0C → ∀ g, s.group? j.part j.groupNo = some g → g.state = .ready → 0 ∉ State.localRanks g →
        exec (.jobTimeout j.uid) s = .next s))

/-! Threads of the view opcodes, passes, closing writes (01, 06, 08, 09). -/

/-- TILE_REQUEST (01 R19, R31, R32): a span of the job's partition that runs or idles and has a free thread context gets the job's lowest
tile that is to be handed out, as a thread on its lowest active core with a free context, and stands in RUN; a request hands out at most
64 tiles; a request by a sleeping span raises it and hands nothing (16 R376); one by a span under a span reset ends the job (18 R408). Stated
for jobs whose tiles need no scale record and whose codebooks the span can hold. -/
def Obligations.TileRequestHandsTheNextTile : Prop :=
  ∀ (s : State) (n tile : Nat) (j : Job), s.job? j.uid = some j → s.spanOwner n = j.part → j.part ≠ 0 → n < s.spans.length →
    s.spanFenced n = false → s.running = true → s.centralAsleep = false → State.tileDue j = true → State.nextTile j = some tile →
    (s.spanHeld n = false → ((s.span n).power = .run ∨ (s.span n).power = .idle) → (s.span n).trans = none →
      s.freeCore n (s.drainingCore n) ≠ 32 → s.threadWrites j.uid tile = [] →
      (Entry.isView j.entry = true → Entry.mode j.entry < 2 ∧
        (Entry.expand j.entry = true → State.folioClash j n (State.tileFolios j tile) tile = false)) →
      ∃ t, exec (.tileRequest n j.uid 1) s = .next t ∧ t = { s with jobs := t.jobs, spans := t.spans } ∧
        t.job? j.uid = some
          { j with next := if j.again.isEmpty then tile + 1 else j.next, again := j.again.filter (· != tile),
                   threads := j.threads ++ [{ tile, span := n, core := s.freeCore n (s.drainingCore n) }] } ∧
        (∀ u, u ≠ j.uid → t.job? u = s.job? u) ∧ t.span n = { s.span n with power := .run } ∧ ∀ m, m ≠ n → t.span m = s.span m) ∧
    (∀ c, s.freeCore n c = 32 ∨ ((s.span n).cores.getD (s.freeCore n c) .spare = .active ∧ s.freeCore n c ≠ c ∧
      ((s.spanThreads n).filter fun t => t.2.core == s.freeCore n c).length < 64)) ∧
    (∀ k, 64 ≤ k → exec (.tileRequest n j.uid k) s = exec (.tileRequest n j.uid 64) s) ∧
    (s.spanHeld n = false → (s.span n).power = .sleep → (s.span n).trans = none →
      exec (.tileRequest n j.uid 1) s = .next (s.modSpan n fun x => { x with trans := some .exitSleep })) ∧
    (s.spanHeld n = false → (s.span n).power = .deep → (s.span n).trans = none →
      exec (.tileRequest n j.uid 1) s = .next (s.modSpan n fun x => { x with trans := some .exitDeep })) ∧
    (s.spanHeld n = true → (∃ l ∈ s.levels, l.scope = .span n) → j.groupOp = false → ∃ t k, exec (.tileRequest n j.uid 1) s = .next t ∧
      t.job? j.uid = some k ∧ k.phase = .ending ∧ k.code = 0xA2 ∧ k.detail = n % 65536 ∧ k.position = j.stopPosition ∧ k.ordered = true)

/-- MOVE, GATHER, SCATTER, FILL and SEAL_CHECK on a tile whose elements are all readable and whose destination has a place: the thread
has run with what its elements add to COUNT and AUX (01 R37) and what faulted in their reads, and the bytes that its elements form (09
R207), as the destination view places them, are written as LandedBytesStandAndNoOther says: bytes that two elements share, that the job
reads itself or that another party has written are left open (05 R130, 01 R39). Stated where no staging codeword stands under injection,
whose correction the read would count besides (17 R389). -/
def Obligations.TileWritesItsElements : Prop :=
  ∀ (s s0 s1 : State) (c : Instr) (op tile : Nat) (w : Work) (th : Thread) (l : List (Nat × State.Put)),
    (c = .move w.uid tile ∧ op = 0x01 ∨ c = .gather w.uid tile ∧ op = 0x02 ∨ c = .scatter w.uid tile ∧ op = 0x03 ∨
      c = .fill w.uid tile ∧ op = 0x0D ∨ c = .sealCheck w.uid tile ∧ op = 0x0E) →
    s.readyThread w.uid tile = some (s0, w, th) → Entry.opcode w.entry = op →
    (Entry.mode w.entry = 1 → w.pass.converting = true) → State.tilesOpen w.toJob = true → w.early = none →
    State.runElems (fun n => s0.elemPut w (s0.bookAt w th.span) (State.rowShift w.toJob) n) (State.liveElems w.toJob tile) =
      { done := l } →
    (if Entry.expand w.entry then s0.loadBooks w th.span (State.tileFolios w.toJob tile) else s0).landCells w.toJob
      (.job w.uid .thread tile) (Entry.dst w.entry).route (State.encryptCells w.toJob (cellsOfAll l))
      (s0.tileMeets w.toJob (l.map (·.1))) (fun n => w.tileOf n == tile) (some th.span) = .done s1 →
    (∀ x ∈ s1.store.inj, 0x28 ≤ x.1) →
    ∃ t, exec c s = .next t ∧ t.ports = s1.ports ∧ { t.store with work := [] } = { s1.store with work := [] } ∧ OthersStand s t w.uid ∧
      RanTile s t w.uid tile (l.flatMap fun x => State.contribsOf w.entry tile x.1 x.2) (State.marksOf tile l)

/-- STATS on a tile whose rows are all readable (08 R205, R206): the thread has run, each row's max-abs stands as the FP32 word that its
destination takes and is kept for the tensor's maximum, its NaN elements count in COUNT and an infinite row in AUX, and what faulted in
its reads is marked. Stated where no staging codeword stands under injection. -/
def Obligations.StatsMeasuresItsRows : Prop :=
  ∀ (s s0 s1 : State) (tile : Nat) (w : Work) (th : Thread) (vals : Nat → List (Option Sys2Proof.Machine.Num)),
    s.readyThread w.uid tile = some (s0, w, th) → Entry.opcode w.entry = 0x04 → w.early = none →
    (∀ r ∈ State.liveElems w.toJob tile, s0.rowValues w (s0.bookAt w th.span) r (some r) = .ok (vals r)) →
    let put := fun (r : Nat) => ({ bits := (List.range 32).map fun (k : Nat) =>
                                     ((((u64 w.entry 0xC0 % 2 ^ 56 : Nat) : Int) + (4 * r : Nat)) * 8 + (k : Int)),
                                   code := (State.statsRow (vals r)).1.toNat, cnt := (State.statsRow (vals r)).2.1,
                                   aux := if (State.statsRow (vals r)).2.2 then 1 else 0,
                                   faults := (List.range (Entry.rowLen w.entry)).flatMap fun k =>
                                     s0.faultsOf w.toJob (Entry.inRow w.entry r k) } : State.Put)
    let l := (State.liveElems w.toJob tile).map fun r => (r, put r)
    s0.landCells w.toJob (.job w.uid .thread tile) (u64 w.entry 0xC0 / 2 ^ 56) (cellsOfAll l) (s0.tileMeets w.toJob (l.map (·.1)))
      (fun _ => true) (some th.span) = .done s1 →
    (∀ x ∈ s1.store.inj, 0x28 ≤ x.1) →
    ∃ t k, exec (.stats w.uid tile) s = .next t ∧ t.ports = s1.ports ∧ { t.store with work := [] } = { s1.store with work := [] } ∧
      OthersStand s t w.uid ∧
      RanTile s t w.uid tile (l.flatMap fun x => State.contribsOf w.entry tile x.1 x.2) (State.marksOf tile l) ∧
      t.job? w.uid = some k ∧ ∀ r ∈ State.liveElems w.toJob tile, (r, (State.statsRow (vals r)).1) ∈ k.pass.rowMax

/-- INDEX_PASS (06 R144): where the whole index stream is readable, the winner of each value in range, for each place of the outer
dimension, is the highest place of the indexed dimension that holds it; the job's tiles may start. Stated where no staging codeword
stands under injection. -/
def Obligations.IndexPassKeepsTheLastDuplicate : Prop :=
  ∀ (s : State) (j : Job) (val : Nat → Nat → Int), s.job? j.uid = some j → Entry.opcode j.entry = 0x03 → j.phase = .running →
    j.stopped = false → j.order ≠ 0 → j.recheck = false → j.pass.indexed = false → j.early = none → (∀ x ∈ s.store.inj, 0x28 ≤ x.1) →
    let x := Entry.idxDim j.entry
    let y := Entry.idxOuter j.entry
    let outer := if y = 7 then 1 else Entry.extent j.entry y
    (∀ iy ix, iy < outer → ix < Entry.extent j.entry x →
      let v := ((List.replicate 6 0).set x ix).set (if y = 7 then 6 else y) iy
      rank (Entry.exts j.entry) v < j.elems ∧
      ∃ b, s.got (State.passWork j) (Entry.idxBase j.entry + 4 * Entry.idxPos j.entry v) 4 = .ok b ∧
        val iy ix = Entry.idxVal j.entry (leNat b)) →
    ∃ w, exec (.indexPass j.uid) s =
        .next (s.modJob j.uid fun k => { k with pass := { k.pass with indexed := true, winners := w, seen := {} } }) ∧
      ∀ (v : Int) (iy ix : Nat), ((v, iy), ix) ∈ w ↔
        iy < outer ∧ ix < Entry.extent j.entry x ∧ val iy ix = v ∧ Entry.idxMin j.entry ≤ v ∧ v ≤ Entry.idxMax j.entry ∧
          ∀ z, ix < z → z < Entry.extent j.entry x → val iy z ≠ v

/-- FIRST_PASS (08 R197): until the conversion pass a command of the job's opcode forms the record of the next group from its rows'
needed shifts and writes it; CONVERSION_PASS lets the tiles start once every record has been formed and is answered. The reads of the
pass go through the lowest span of the partition that is awake (log entry 10). -/
def Obligations.FirstPassFormsRecordsThenConverts : Prop :=
  ∀ (s : State) (j : Job), s.job? j.uid = some j → j.phase = .running → j.stopped = false → j.order ≠ 0 → j.recheck = false →
    j.early = none → Entry.mode j.entry = 1 → j.pass.converting = false →
    (∀ (c : Instr) (g span : Nat) (rows : List (List (Option Sys2Proof.Machine.Num))) (bs : List (Target × Nat × Byte)),
      (c = .move j.uid g ∧ Entry.opcode j.entry = 0x01 ∨ c = .gather j.uid g ∧ Entry.opcode j.entry = 0x02 ∨
        c = .scatter j.uid g ∧ Entry.opcode j.entry = 0x03 ∧ j.pass.indexed = true) →
      g = j.pass.scales.length → g < Entry.groups j.entry → s.passSpan j.part = some span → (∀ x ∈ s.store.inj, 0x28 ≤ x.1) →
      Res.all ((State.groupRows j.entry g).map fun r =>
        s.rowValues (State.passWork j) (s.bookAt (State.passWork j) span) r (some 0)) = .ok rows →
      let r := State.formRecord g (rows.map fun l => some (State.rowNeed j.entry (State.rowMaxAbs l))) 0
      s.place j.part j.xlat (Entry.scaleOut j.entry + 48 * g) (State.recordOf r (Entry.pmOut j.entry) 0) = some bs →
      exec c s = .next (((s.loadBooks (State.passWork j) span (State.rowFolios j (State.groupRows j.entry g))).issue (.job j.uid .scale g)
        j.part 0 ((Entry.scaleOut j.entry + 48 * g) / 2 ^ 56) bs []).modJob j.uid
          fun y => { y with pass := { y.pass with scales := y.pass.scales ++ [r], seen := {} } })) ∧
    (Entry.isView j.entry = true → j.pass.scales.length = Entry.groups j.entry → s.jobWrites j.uid = [] →
      exec (.conversionPass j.uid) s = .next (s.modJob j.uid fun y => { y with pass := { y.pass with converting := true } }))

/-- A group's record (08 R193): the base is the largest row shift plus 113, not below 0, and each row's effective shift is its own shift,
or the base's lowest one where its own lies below that; no row is saturated. Stated for rows whose shifts a record can hold. -/
def Obligations.ScaleRecordHoldsEveryShift : Prop :=
  ∀ (g d : Nat) (l : List Int), l ≠ [] → (∀ x ∈ l, -127 ≤ x ∧ x ≤ 128) →
    let r := State.formRecord g (l.map some) d
    (r.base : Int) = max 0 (l.foldl max (-127) + 113) ∧ r.offs.length = l.length ∧
    ∀ (i : Nat) (x : Int), l[i]? = some x → r.offs.getD i 0 ≤ 14 ∧
      effShift r.base (r.offs.getD i 0) = max x ((r.base : Int) - 127)

/-- RESEND_REDO (08 R203): a group that waits for its redo and whose rows can be read again is measured under the shift that its rows
need; read once more, its elements are converted with that record and written again; once those writes are answered, its input record
and its output record are written, it waits no longer and counts as redone, and the seals that it held back are issued (09 R223). -/
def Obligations.RedoRecomputesTheGroup : Prop :=
  ∀ (s : State) (j : Job) (g : Nat), s.job? j.uid = some j → j.phase = .running → j.stopped = false → j.early = none →
    j.pass.redo.contains g = true → 64 * g * Entry.rowLen j.entry < j.elems → (∀ x ∈ s.store.inj, 0x28 ≤ x.1) →
    let a := 64 * g * Entry.rowLen j.entry
    let b := min (64 * (g + 1) * Entry.rowLen j.entry) j.elems
    (∀ (span : Nat) (rows : List (List (Option Sys2Proof.Machine.Num))), j.pass.redoing = [] → s.passSpan j.part = some span →
      State.folioClash j span (State.rowFolios j (State.groupRows j.entry g)) j.tiles = false →
      (j.pass.redoAt = none →
        Res.all ((State.groupRows j.entry g).map fun r =>
          s.rowValues (State.passWork j) (s.bookAt (State.passWork j) span) r none) = .ok rows →
        ∃ t k r, exec (.resendRedo j.uid g) s = .next t ∧ t.job? j.uid = some k ∧ k.pass.redoAt = some r ∧
          { r with flags := 0 } = State.formRecord g (rows.map fun v => some (State.rowNeed j.entry (State.rowMaxAbs v))) 0 ∧
          k.pass.redo = j.pass.redo ∧ t.ports = s.ports ∧ OthersStand s t j.uid) ∧
      (∀ (r : ScaleRec) (l : List (Nat × State.Put)) (s1 : State), j.pass.redoAt = some r → r.group = g →
        Entry.cipherWrite j.entry = false →
        let m := j.pass.matched.map fun x => if x.group == g then r else x
        let w : Work := { toJob := { j with pass := { j.pass with matched := m } }, seen := some j.pass.seen }
        State.runElems (fun n => s.elemPut w (s.bookAt w span) (State.rowShift w.toJob) n)
          ((List.range (b - a)).map fun k => a + k) = { done := l } →
        s.landCells j (.job j.uid .other a) (Entry.dst j.entry).route (cellsOfAll l) (s.tileMeets j (l.map (·.1)))
          (fun n => decide (a ≤ n ∧ n < b)) none = .done s1 →
        ((s1.jobWrites j.uid).any fun x => x.owner == .job j.uid .other a) = true →
        ∃ t k, exec (.resendRedo j.uid g) s = .next t ∧ t.job? j.uid = some k ∧ k.pass.redoing = [r] ∧ k.pass.redoAt = none ∧
          k.pass.redo = j.pass.redo ∧ t.ports = s1.ports ∧ OthersStand s t j.uid)) ∧
    (∀ (r : ScaleRec) (bi bo : List (Target × Nat × Byte)), j.pass.redoing = [r] → r.group = g →
      ((s.jobWrites j.uid).any fun x => x.owner == .job j.uid .other a) = false →
      s.routeLost j.part ((Entry.scaleIn j.entry + 48 * g) / 2 ^ 56) = false →
      s.routeLost j.part ((Entry.scaleOut j.entry + 48 * g) / 2 ^ 56) = false →
      s.place j.part j.xlat (Entry.scaleIn j.entry + 48 * g) (State.recordOf r (Entry.pmIn j.entry) (r.flags % 2 + 4)) = some bi →
      s.place j.part j.xlat (Entry.scaleOut j.entry + 48 * g) (State.recordOf r (Entry.pmOut j.entry) 5) = some bo →
      exec (.resendRedo j.uid g) s = .next (((((s.issue (.job j.uid .closing a) j.part a ((Entry.scaleIn j.entry + 48 * g) / 2 ^ 56) bi
        []).issue (.job j.uid .closing a) j.part a ((Entry.scaleOut j.entry + 48 * g) / 2 ^ 56) bo []).modJob j.uid fun y =>
          { y with
            pass := { y.pass with redo := y.pass.redo.filter (· != g), redone := y.pass.redone ++ [g],
                                  redoing := y.pass.redoing.filter fun x => x.group != g,
                                  matched := y.pass.matched.map fun x => if x.group == g then r else x }
            marks := y.marks.filter fun m => !(m.kind == .row && decide (a ≤ m.elem) && decide (m.elem < b)) }).closeRange j.uid a
              b).settle j.uid))

/-- THREAD_RETIRE (01 R37, R38): a thread that has run and whose writes are answered retires; with the last tile the job completes with
the code of what its tiles met, or OK, POSITION its element count and the counts of all its tiles. Stated for jobs without seals,
GCM tags, CARRIED scales or a tensor maximum, whose closing writes THREAD_RETIRE would issue first (06 R491). -/
def Obligations.LastRetirementCompletesTheJob : Prop :=
  ∀ (s : State) (j : Job) (tile : Nat) (th : Thread), s.job? j.uid = some j → j.groupOp = false → j.phase = .running →
    j.stopped = false → j.order ≠ 0 → j.early = none →
    j.threads.find? (fun x => x.tile == tile && x.ran) = some th → s.threadWrites j.uid tile = [] → Entry.mode j.entry ≠ 2 →
    Entry.sealGen j.entry = false → Entry.cipherWrite j.entry = false → (Entry.opcode j.entry = 0x04 → u64 j.entry 0xC8 = 0) →
    j.pass.due = [] → j.pass.redo = [] → j.pass.redoing = [] →
    let j1 := { j with retired := insertAsc j.retired tile, threads := j.threads.filter (·.tile != tile) }
    ∃ t k, exec (.threadRetire j.uid tile) s = .next t ∧ t.job? j.uid = some k ∧ OthersStand s t j.uid ∧
      (j1.threads ≠ [] ∨ j1.lowestUnretired < j.tiles → k = j1 ∧
        t = { s with jobs := t.jobs, spans := t.spans, ports := { s.ports with requests := t.ports.requests } }) ∧
      (j1.threads = [] → j1.lowestUnretired = j.tiles → s.jobWrites j.uid = [] → State.tileOpcode (Entry.opcode j.entry) = true →
        State.tilesOpen j = true →
        k.phase = .ending ∧ k.code = (State.finalCode j).1 ∧ k.detail = (State.finalCode j).2 % 65536 ∧ k.position = j.elems ∧
        k.count = (j.countsBelow j.elems).1 ∧ k.aux = (j.countsBelow j.elems).2)

/-! TARIFF and HISTOGRAM_BUILD (10, 07). -/

/-- Landing the bytes of a job's destination, the shared operation of every command that writes one: a byte that one cell alone claims
is written with its bits, one that the spec leaves open with free bits in their place; the write goes to the port of the byte's target as
a request that the port answers (02 R67, R71), or stands in staging at once (01 R22); no byte of staging that no cell claims changes, and no
byte of any other memory; no queue, no span and no job but the one that writes changes. -/
def Obligations.LandedBytesStandAndNoOther : Prop :=
  ∀ (s s1 : State) (j : Job) (own : Owner) (route : Nat) (cells : List Sys2Proof.Machine.Cell) (free : Bool) (mine : Nat → Bool)
    (span : Option Nat), s.landCells j own route cells free mine span = .done s1 →
    let place := fun (x : Sys2Proof.Machine.Cell) => s.locate j.part j.xlat (route * 2 ^ 56 + x.off.toNat)
    s1.queues = s.queues ∧ s1.spans = s.spans ∧ s1.chans = s.chans ∧ s1.tables = s.tables ∧ s1.levels = s.levels ∧
    OthersStand s s1 j.uid ∧
    (∀ x ∈ cells, ∃ tgt a b, place x = some (tgt, a) ∧ b = State.Put8.mk tgt a x.mask b.val x.elem ∧
      (free = false → x.shared = false →
        (Entry.apart j.entry = true ∨ s.claimed j mine x = false ∨ Entry.hasDst j.entry = false) → b.val = x.val) ∧
      (free = true ∨ x.shared = true → b.val = Nat.land (Config.freeByte s.block.free (locKey tgt a)).toNat x.mask) ∧
      (∀ p, s.portOf tgt = some p → p ≠ .host → Requested s1 p own j.part b.wbyte) ∧
      ((∀ y ∈ cells, ∀ u c, place y = some (u, c) → u ≠ .host) → Memory.wf s.store → cells.Nodup → ∀ n, tgt = .staging n →
        (∀ y ∈ cells, ∀ u c, place y = some (u, c) → locKey u c = locKey tgt a → y = x) →
        s1.store.get (locKey tgt a) = BitVec.ofNat 8
          (Nat.lor ((s.store.get (locKey tgt a)).toNat - Nat.land (s.store.get (locKey tgt a)).toNat x.mask) b.val))) ∧
    ((∀ x ∈ cells, ∀ u c, place x = some (u, c) → u ≠ .host) → Memory.wf s.store → ∀ k,
      (∀ x ∈ cells, ∀ n c, place x = some (.staging n, c) → locKey (.staging n) c ≠ k) → s1.store.get k = s.store.get k)

/-- TARIFF: its first command, once the scale record, the codebook and the activations have been read, stores the tables in every table bank
that the job holds (10 R232, R240). On a tile whose leaves and carries are all readable (10 R236) the thread has run, the outputs
of its rows for every token are written as LandedBytesStandAndNoOther says, saturations of the cast count in COUNT, and faulted leaves are
marked. Stated where no staging codeword stands under injection. -/
def Obligations.TariffWritesItsRows : Prop :=
  (∀ (s : State) (tile span : Nat) (j : Job) (cb : List Byte) (acts : List (List Byte)), s.job? j.uid = some j →
    Entry.opcode j.entry = 0x0A → j.phase = .running → j.stopped = false → j.order ≠ 0 → j.recheck = false → j.early = none →
    j.pass.built = false → s.passSpan j.part = some span → (Entry.tScaled j.entry = true → j.pass.matched ≠ []) → j.banks ≠ [] →
    s.tBook (State.passWork j) = .ok cb →
    Res.all ((List.range (Entry.tB j.entry)).map fun k => s.tActs (State.passWork j) k) = .ok acts →
    ∃ t k, exec (.tariff j.uid tile) s = .next t ∧ t = { s with jobs := t.jobs, store := { s.store with tables := t.store.tables } } ∧
      t.job? j.uid = some k ∧ k.pass.built = true ∧ k.banks = j.banks ∧ (∀ u, u ≠ j.uid → t.job? u = s.job? u) ∧
      (∀ b ∈ j.banks, TableBank.mk b.1 b.2 cb acts ∈ t.store.tables) ∧
      ∀ x, (x.span, x.core) ∉ j.banks → (x ∈ t.store.tables ↔ x ∈ s.store.tables)) ∧
  ∀ (s s0 s1 : State) (tile : Nat) (w : Work) (th : Thread) (x : TableBank) (l : List (Nat × State.Put)),
    s.readyThread w.uid tile = some (s0, w, th) → Entry.opcode w.entry = 0x0A → w.early = none → w.pass.built = true →
    w.recheck = false → s.tablesOf w.toJob = some x →
    let b := max 1 (Entry.tB w.entry)
    State.runElems (fun i => s0.tariffPut w x.book (x.acts.getD (i % b) []) (i / b) (i % b)) (State.liveElems w.toJob tile) =
      { done := l } →
    s0.landCells w.toJob (.job w.uid .thread tile) (Entry.tDst w.entry / 2 ^ 56) (cellsOfAll l)
      (s0.rangesMeet w.toJob (State.tariffReads w.toJob tile) (State.tariffWrites w.entry)) (fun n => w.tileOf n == tile)
      (some th.span) = .done s1 → (∀ x ∈ s1.store.inj, 0x28 ≤ x.1) →
    ∃ t, exec (.tariff w.uid tile) s = .next t ∧ t.ports = s1.ports ∧ { t.store with work := [] } = { s1.store with work := [] } ∧
      OthersStand s t w.uid ∧
      RanTile s t w.uid tile (l.flatMap fun x => State.contribsOf w.entry tile x.1 x.2) (State.marksOf tile l)

/-- The table entry of 10 R232 for a token's activations `alpha`: with the 8 BF16 values of codebook vector c of stage t, a rounded
product, then seven fused multiply-adds in order, each with one rounding. -/
def Obligations.TableEntryIsTheRoundedChain : Prop :=
  ∀ (cb : List Byte) (alpha : Nat → Sys2Proof.Machine.Num) (t v c : Nat),
    let e := fun (i : Nat) => bf16.decode (u16 cb (4096 * t + 16 * c + 2 * i))
    let a := fun i => alpha (8 * v + i)
    tableEntry cb alpha t v c =
      f32fma (e 7) (a 7) (f32fma (e 6) (a 6) (f32fma (e 5) (a 5) (f32fma (e 4) (a 4)
        (f32fma (e 3) (a 3) (f32fma (e 2) (a 2) (f32fma (e 1) (a 1) (f32mul (e 0) (a 0))))))))

/-- The kept tuples of a histogram (07 R180): distinct, ascending, the min (4,096, number of distinct tuples) of highest count, ties
going to the smaller tuple; the counts are how often each tuple occurs among the groups of four. -/
def Obligations.CodebookKeepsTheCommonestTuples : Prop :=
  ∀ ws : List Nat,
    let counts := tupleCounts ws
    let occurs := fun (t : Nat) => ((List.range (ws.length / 4)).filter fun g => tupleOf ws g == t).length
    let kept := keptTuples counts
    (∀ t n, (t, n) ∈ counts ↔ n = occurs t ∧ n ≠ 0) ∧ kept.Pairwise (· < ·) ∧ kept.length = min 4096 counts.length ∧
    (∀ t ∈ kept, occurs t ≠ 0) ∧
    ∀ t ∈ kept, ∀ u, occurs u ≠ 0 → u ∉ kept → occurs u < occurs t ∨ (occurs u = occurs t ∧ t < u)

/-- HISTOGRAM_BUILD and FOLIO_ENTRY_WRITE (07 R178 to R182). Pass 1, once the whole source has been read: a source of at most 2^20 distinct
tuples gives the codebook, which is written, and COUNT and AUX; more end the job with LIMIT_EXCEEDED, DETAIL 0xA8. Pass 2: the leaves of a
tile handed out are compressed and written with their records. Once every leaf is written and answered, FOLIO_ENTRY_WRITE writes the folio
entry. Stated where no staging codeword stands under injection. -/
def Obligations.HistogramBuildsCodebookLeavesAndFolio : Prop :=
  ∀ (s : State) (j : Job), s.job? j.uid = some j → Entry.opcode j.entry = 0x10 → j.phase = .running → j.stopped = false →
    j.order ≠ 0 → j.recheck = false → j.early = none →
    (∀ (span : Nat) (ws ks : List Nat) (bs : List (Target × Nat × Byte)), j.pass.built = false → s.passSpan j.part = some span →
      s.scratchKeys j = some ks → (∀ x ∈ s.store.inj, 0x28 ≤ x.1) →
      let z := if j.pass.bphase = 0 then (s.spoilScratch ks).modJob j.uid fun y => { y with pass := { y.pass with bphase := 1 } } else s
      z.histSource (State.passWork j) span 0 j.elems = .ok ws →
      (2 ^ 20 < (tupleCounts ws).length → ∃ t k, exec (.histogramBuild j.uid) s = .next t ∧ t.job? j.uid = some k ∧
        k.phase = .ending ∧ k.code = 7 ∧ k.detail = 0xA8 ∧ k.position = 0) ∧
      ((tupleCounts ws).length ≤ 2 ^ 20 → z.histMeets j 0 j.elems = false →
        let kept := keptTuples (tupleCounts ws)
        z.place j.part j.xlat (Entry.hCodebook j.entry) (buildCodebook kept) = some bs →
        let z1 := z.useFree.issue (.job j.uid .other 0) j.part 0 (Entry.hCodebook j.entry / 2 ^ 56) bs []
        ∃ t k, exec (.histogramBuild j.uid) s = .next t ∧ t.job? j.uid = some k ∧ k.pass.built = true ∧
          k.pass.book = buildCodebook kept ∧
          k.contribs = [⟨0, 0, (tupleCounts ws).length,
            listSum (((tupleCounts ws).filter fun c => !kept.contains c.1).map (·.2)), false⟩] ∧
          (z1.jobWrites j.uid ≠ [] → k.phase = .running ∧ t = { z1 with jobs := t.jobs }))) ∧
    (∀ (s0 s1 : State) (w : Work) (th x : Thread) (l : List (Nat × List Byte)), j.pass.built = true → j.threads = [x] → x.ran = false →
      s.readyThread j.uid x.tile = some (s0, w, th) →
      let a := j.tileStart x.tile / 1024
      State.runElems (fun n => (s0.histSource w th.span n (n + 1024)).map fun ws => (ex4Compress ws j.pass.book).1)
        ((((List.range (j.tileStart (x.tile + 1) / 1024 - a)).map (a + ·)).filter fun n => decide (1024 * (n + 1) ≤ j.elems)).map
          (1024 * ·)) = { done := l } →
      let o := Entry.tensorBase j.entry % 2 ^ 56
      s0.landCells j (.job j.uid .thread x.tile) (Entry.tensorBase j.entry / 2 ^ 56)
        (l.flatMap fun y => cellsAt (o + Entry.hPayload j.entry + 1408 * (y.1 / 1024) : Nat) y.1 y.2 ++
          cellsAt (o + Entry.hTable j.entry + 16 * (y.1 / 1024) : Nat) y.1 (ex4Record (Entry.hId j.entry) y.2))
        (s0.histMeets j (j.tileStart x.tile) (j.tileStart (x.tile + 1))) (fun _ => true) (some th.span) = .done s1 →
      (∀ x ∈ s1.store.inj, 0x28 ≤ x.1) →
      ∃ t, exec (.histogramBuild j.uid) s = .next t ∧ t.ports = s1.ports ∧ { t.store with work := [] } = { s1.store with work := [] } ∧
        OthersStand s t j.uid ∧ RanTile s t j.uid x.tile (j.contribs.filter fun c => c.tile == x.tile) []) ∧
    (∀ bs, Entry.hMode j.entry = 1 → j.pass.built = true → j.pass.folio = false → j.threads = [] → j.tiles ≤ j.lowestUnretired →
      s.jobWrites j.uid = [] →
      s.place j.part j.xlat (Entry.hFolio j.entry) (Folio.bytes (Entry.hFolioEntry j.entry)) = some bs →
      let z := s.issue (.job j.uid .other j.elems) j.part j.elems (Entry.hFolio j.entry / 2 ^ 56) bs []
      ∃ t k, exec (.folioEntryWrite j.uid) s = .next t ∧ t.job? j.uid = some k ∧ k.pass.folio = true ∧
        (z.jobWrites j.uid ≠ [] → t = z.modJob j.uid fun y => { y with pass := { y.pass with folio := true } }) ∧
        (z.jobWrites j.uid = [] → k.phase = .ending ∧ k.code = 0 ∧ k.position = j.elems))

/-! Groups and barriers (11, 02). -/

/-- CONTRIBUTE, CONTRIBUTION_ARRIVAL and RESEND_REQUEST (11 R251, R258). A thread that reads its part of the source has run; once all
have retired, the whole source goes to the owner with its seal, and a rank sends for a chunk once in an epoch. The owner writes a sound
contribution into its slot, which it accepts once that write is answered; it answers one of another ELEMS, and a second one, asks for one
of a wrong seal again, up to three times, and lets one whose slot is in use wait. Stated where no staging codeword stands under
injection. -/
def Obligations.ContributionsAreSentAndAcceptedOnce : Prop :=
  (∀ (s : State) (j : Job) (g : Group), s.groupReady 0x05 j.uid = some (j, g) → j.early = none → (∀ x ∈ s.store.inj, 0x28 ≤ x.1) →
    (∀ tile s0 w th l, State.allRetired j = false → State.idleTiles j = [tile] → s.readyThread j.uid tile = some (s0, w, th) →
      State.runElems (s0.packedElem w (Entry.dataAddr j.entry) (State.typeBytes g.inT)) (State.liveElems j tile) = { done := l } →
      ∃ t, exec (.contribute j.uid) s = .next t ∧ t.ports = s.ports ∧ OthersStand s t j.uid ∧ RanTile s t j.uid tile [] []) ∧
    (State.allRetired j = true → j.pass.sent = false →
      (g.contributed.contains (Entry.rankOf j.entry, Entry.chunkOf j.entry) = true → ∃ t k, exec (.contribute j.uid) s = .next t ∧
        t.job? j.uid = some k ∧ k.phase = .ending ∧ k.code = 2 ∧ k.detail = 0x22 ∧ k.position = 0) ∧
      ∀ l, g.contributed.contains (Entry.rankOf j.entry, Entry.chunkOf j.entry) = false →
        State.runElems (s.packedElem { toJob := j } (Entry.dataAddr j.entry) (State.typeBytes g.inT)) (List.range j.elems) =
          { done := l } →
        let c := Entry.chunkOf j.entry
        let data := s.openTiles j (Entry.dataAddr j.entry) (State.typeBytes g.inT) l
        let m := Msg.contribution g.tag (State.epochNow g) c (Entry.rankOf j.entry) (Entry.elemsOf j.entry) (crc32c data) data
        (j.touched = [] → data = (l.map (·.2)).flatten) ∧
        ∃ t k h, exec (.contribute j.uid) s = .next t ∧ t.job? j.uid = some k ∧ k.pass.sent = true ∧ k.phase = .running ∧
          t.group? j.part g.g = some h ∧ h.contributed = g.contributed ++ [(Entry.rankOf j.entry, c)] ∧
          (∀ d, (State.member g (c % g.m)).place = some d → SentOn t j.part d m ∧ t.store = s.store) ∧
          ((State.member g (c % g.m)).place = none → t.ports = { s.ports with inbox := s.ports.inbox ++ [m] }))) ∧
  (∀ (s : State) (p c r elems tag epoch : Nat) (g : Group) (crc : Word32) (data : List Byte) (d : MsgSrc),
    let m := Msg.contribution tag epoch c r elems crc data
    s.ports.inbox.contains m = true → s.groupByTag tag = some (p, g) → g.state ≠ .aborted → epoch = State.epochNow g →
    (State.localRanks g).contains (c % g.m) = true → c < g.epochChunks → r < g.m → (State.member g r).place = some d →
    let own := Owner.contribution p g.g c r
    let z : State := { s with ports := { s.ports with inbox := s.ports.inbox.erase m } }
    let known : Prop := (∃ x, State.chunk? g c = some x ∧ r ∈ x.accepted) ∨ ∃ q ∈ s.ports.requests, q.owner = own
    let sound : Prop := crc32c data = crc ∧ data.length = elems * State.typeBytes g.inT ∧ elems ≤ g.chunkElems
    ∃ t, exec (.contributionArrival m) s = .next t ∧
      (known → SentOn t p d (.duplicate tag epoch c r) ∧ t.store = s.store ∧ t.ports.inbox = s.ports.inbox.erase m) ∧
      (¬known → ¬sound → State.failsOf g c r < 3 → SentOn t p d (.resend tag epoch c r) ∧ t.store = s.store) ∧
      (¬known → sound → State.elemsDiffer g c elems = true → SentOn t p d (.badElems tag epoch c r) ∧ t.store = s.store) ∧
      (¬known → sound → State.elemsDiffer g c elems = false → s.slotFree p g c = false → t = s.fixChunk p g c elems) ∧
      (¬known → sound → State.elemsDiffer g c elems = false → s.slotFree p g c = true →
        ∀ bs, (z.fixChunk p g c elems).place p [] (State.slotOfRank g c r) data = some bs →
          t = (z.fixChunk p g c elems).issue own p 0 (g.slotArea.toNat / 2 ^ 56) bs [])) ∧
  (∀ (s : State) (p c r tag epoch : Nat) (g : Group) (j : Job) (d : MsgSrc) (l : List (Nat × List Byte)),
    let m := Msg.resend tag epoch c r
    let z : State := { s with ports := { s.ports with inbox := s.ports.inbox.erase m } }
    s.ports.inbox.contains m = true → s.groupByTag tag = some (p, g) → g.state ≠ .aborted → epoch = State.epochNow g →
    s.groupJob 0x05 p g r c = some j → s.job? j.uid = some j → j.pass.sent = true → j.early = none →
    (State.member g (c % g.m)).place = some d →
    State.runElems (z.packedElem { toJob := j } (Entry.dataAddr j.entry) (State.typeBytes g.inT)) (List.range j.elems) = { done := l } →
    let data := z.openTiles j (Entry.dataAddr j.entry) (State.typeBytes g.inT) l
    ∃ t k, exec (.resendRequest m) s = .next t ∧ t.job? j.uid = some k ∧ k.pass.resends = j.pass.resends + 1 ∧ t.store = s.store ∧
      SentOn t p d (.contribution g.tag (State.epochNow g) c r (Entry.elemsOf j.entry) (crc32c data) data))

/-- The exact reduction (01 R24, 11 R253) does not depend on the order of its inputs. -/
def Obligations.KeystoneSumIgnoresTheOrder : Prop :=
  ∀ xs ys : List Sys2Proof.Machine.Num, xs.Perm ys → keystone xs = keystone ys

/-- REDUCE (11 R252 to R254, R260): it fixes the chunk's ELEMS; a job of other ELEMS completes with BAD_FIELD; with every contribution
accepted, its threads write the rank-ordered or exact result of their elements to the retention slot; a second residue failure before
the fan-out, or one after it, aborts the group; once every rank's payload and header are answered it completes with OK at its element
count. -/
def Obligations.ReduceFormsAndDistributesTheResult : Prop :=
  ∀ (s : State) (j : Job) (g : Group), s.groupReady 0x06 j.uid = some (j, g) → j.early = none →
    let c := Entry.chunkOf j.entry
    let n := Entry.elemsOf j.entry
    (∀ x, j.pass.bphase = 0 → State.chunk? g c = some x → x.elems ≠ 0 → x.elems ≠ n →
      ∃ t k, exec (.reduce j.uid .sound) s = .next t ∧ t.job? j.uid = some k ∧ k.phase = .ending ∧ k.code = 2 ∧ k.detail = 0x2C) ∧
    (j.pass.accepted = false → j.pass.bphase = 0 → State.chunk? g c = none → State.idleTiles j = [] →
      ∃ t k h x, exec (.reduce j.uid .sound) s = .next t ∧ t.job? j.uid = some k ∧ k = { j with pass := { j.pass with bphase := 1 } } ∧
        t.group? j.part g.g = some h ∧ State.chunk? h c = some x ∧ x.elems = n ∧ x.accepted = []) ∧
    (∀ residue why h0, State.residueAbort j residue = some why → (s.countResidue j residue).group? j.part g.g = some h0 →
      h0.state ≠ .aborted → h0.closing ≠ some h0.epoch →
      ∃ t h, exec (.reduce j.uid residue) s = .next t ∧ t.group? j.part g.g = some h ∧ h.state = .aborted ∧ h.cause = why) ∧
    (j.pass.accepted = true → j.pass.bphase < 2 →
      State.residueAbort j .once = none ∧ State.residueAbort j .twice = some .groupAbort) ∧
    (j.pass.bphase = 2 → j.pass.payloads ≠ [] → State.residueAbort j .late = some .lateCorruption) ∧
    (let z := if (State.chunk? g c).any (fun x => x.accepted.length == g.m) then
        s.modJob j.uid fun y => { y with pass := { y.pass with accepted := true } } else s
     ∀ tile s0 w th l ls, j.pass.accepted = true → j.pass.bphase = 1 → State.idleTiles j = [tile] →
      z.readyThread j.uid tile = some (s0, w, th) →
      State.runElems (fun i => (Res.all ((List.range g.m).map fun r =>
        (s0.got w (State.slotOfRank g c r + State.typeBytes g.inT * i) (State.typeBytes g.inT)).at i 1)).map fun v =>
          State.reduceElem g (Entry.exact_ j.entry) (v.map leNat)) (State.liveElems j tile) = { done := l } →
      s0.elemPlace j (State.retention g c + 64 + State.typeBytes g.outT * j.tileStart tile)
        (l.flatMap fun x => (leBytes (State.typeBytes g.outT) x.2.1).map fun b => (b, x.1)) = some ls →
      ∃ t, exec (.reduce j.uid .sound) s = .next t ∧
        t.ports = (s0.issueElems (.job j.uid .thread tile) j.part (g.slotArea.toNat / 2 ^ 56) ls [] (some th.span)).ports ∧
        OthersStand s t j.uid ∧
        RanTile s t j.uid tile (l.filterMap fun x => if x.2.2.1 = 0 ∧ x.2.2.2 = 0 then none
          else some ({ tile, elem := x.1, cnt := x.2.2.1, aux := x.2.2.2 } : Contrib)) []) ∧
    (j.pass.accepted = true → j.pass.bphase = 2 → State.allRetired j = true → s.jobWrites j.uid = [] → j.pass.headers.length = g.m →
      (∀ r < g.m, r ∈ j.pass.payloads) → (∀ r ∈ j.pass.payloads, r ∈ j.pass.headers) →
      ∃ t k, exec (.reduce j.uid .sound) s = .next t ∧ t.job? j.uid = some k ∧ k.phase = .ending ∧ k.code = 0 ∧
        k.position = j.elems ∧
        ∀ x, State.chunk? g c = some x → ∃ h y, t.group? j.part g.g = some h ∧ State.chunk? h c = some y ∧ y.reduced = true)

/-- COLLECT, RE_REQUEST and GROUP_WAIT_TIMEOUT (11 R255, R256, R259): a COLLECT takes the result whose header names its group, epoch and
chunk and whose seal holds; one whose seal fails it asks for again, up to three times, from the owner, which writes it again; then it
copies the payload, and completes with OK and in AUX its re-requests. A wait past TIMEOUT ends with MEMBER_TIMEOUT and the rank. -/
def Obligations.CollectCopiesASoundResult : Prop :=
  (∀ (s : State) (j : Job) (g : Group), s.groupReady 0x07 j.uid = some (j, g) → j.recheck = false → j.early = none →
    let c := Entry.chunkOf j.entry
    let a := State.resultAt g c (Entry.rankOf j.entry)
    (∀ h l, j.pass.accepted = false → j.pass.retried = false → s.got (State.passWork j) a 64 = .ok h → u32 h 0 = g.tag →
      u32 h 4 = State.epochNow g → u32 h 8 = c →
      Res.all ((List.range (min (u32 h 0x0C) g.chunkElems)).map fun i =>
        (s.got (State.passWork j) (a + 64 + State.typeBytes g.outT * i) (State.typeBytes g.outT)).at (min i j.elems) 1) = .ok l →
      (u32 h 0x0C ≤ g.chunkElems → (crc32c l.flatten).toNat = u32 h 0x10 →
        exec (.collect j.uid) s = .next (s.modJob j.uid fun y => { y with pass := { y.pass with accepted := true, seen := {} } })) ∧
      (∀ d, (crc32c l.flatten).toNat ≠ u32 h 0x10 → j.pass.resends < 3 → (State.member g (c % g.m)).place = some d →
        ∃ t k, exec (.collect j.uid) s = .next t ∧ t.job? j.uid = some k ∧
          k = { j with pass := { j.pass with resends := j.pass.resends + 1, retried := true, seen := {} } } ∧
          SentOn t j.part d (.reRequest g.tag (State.epochNow g) c (Entry.rankOf j.entry)) ∧ t.store = s.store) ∧
      ((crc32c l.flatten).toNat ≠ u32 h 0x10 → 3 ≤ j.pass.resends → g.state ≠ .aborted → g.closing ≠ some g.epoch →
        ∃ t x, exec (.collect j.uid) s = .next t ∧ t.group? j.part g.g = some x ∧ x.state = .aborted)) ∧
    (∀ tile s0 w th l s1, j.pass.accepted = true → State.idleTiles j = [tile] → s.readyThread j.uid tile = some (s0, w, th) →
      let n := State.typeBytes g.outT
      State.runElems (s0.packedElem w (a + 64) n) (State.liveElems j tile) = { done := l } →
      s0.landCells j (.job j.uid .thread tile) (Entry.dataAddr j.entry / 2 ^ 56)
        (l.flatMap fun x => cellsAt (((Entry.dataAddr j.entry % 2 ^ 56 : Nat) : Int) + (n * x.1 : Nat)) x.1 x.2)
        (s0.overlap
          (Entry.bytesAt 0 (a + 64 + n * j.tileStart tile) (n * (j.tileStart (tile + 1) - j.tileStart tile)) true false)
          (Entry.bytesAt 0 (Entry.dataAddr j.entry) (n * j.elems) false true)) (fun _ => true) (some th.span) = .done s1 →
      ∃ t, exec (.collect j.uid) s = .next t ∧ t.ports = s1.ports ∧ { t.store with work := [] } = { s1.store with work := [] } ∧
        OthersStand s t j.uid ∧ RanTile s t j.uid tile [] []) ∧
    (j.pass.accepted = true → State.allRetired j = true → State.idleTiles j = [] → s.jobWrites j.uid = [] → j.contribs = [] →
      ∃ t k, exec (.collect j.uid) s = .next t ∧ t.job? j.uid = some k ∧ k.phase = .ending ∧ k.code = 0 ∧ k.position = j.elems ∧
        (0 < j.elems → k.aux = min j.pass.resends 0xFFFFFFFF)) ∧
    (j.pass.accepted = false → ∃ t k, exec (.groupWaitTimeout j.uid) s = .next t ∧ t.job? j.uid = some k ∧ k.phase = .ending ∧
      k.code = 0x82 ∧ k.detail = c % g.m % 65536 ∧ k.position = 0)) ∧
  (∀ (s : State) (j : Job) (g : Group) (x : Chunk) (r : Nat), s.groupReady 0x06 j.uid = some (j, g) → j.early = none →
    State.chunk? g (Entry.chunkOf j.entry) = some x → r < g.m → r ∉ x.accepted → (∀ q < r, q ∈ x.accepted) →
    ∃ t k, exec (.groupWaitTimeout j.uid) s = .next t ∧ t.job? j.uid = some k ∧ k.phase = .ending ∧ k.code = 0x82 ∧
      k.detail = r % 65536 ∧ k.position = 0) ∧
  (∀ (s : State) (p c r tag epoch : Nat) (g : Group) (x : Chunk) (ls : List State.Put8),
    let m := Msg.reRequest tag epoch c r
    let z : State := { s with ports := { s.ports with inbox := s.ports.inbox.erase m } }
    s.ports.inbox.contains m = true → s.groupByTag tag = some (p, g) → g.state ≠ .aborted → epoch = State.epochNow g →
    State.chunk? g c = some x → (State.localRanks g).contains (c % g.m) = true → x.elems ≠ 0 →
    z.memberPlace p (State.rewriteResult.areaXlat z p) (State.member g r) (State.resultAt g c r)
      ((((z.readAt p [] (State.retention g c) 64).getD []) ++ z.retained p g c x.elems).map fun b => (b, 0)) = some ls →
    let y := z.issueElems (.rewrite p g.g c r) p (State.memberRoute (State.member g r)) ls [] none
    ∃ t, exec (.reRequest m) s = .next t ∧ t = { y with jobs := t.jobs } ∧
      ((∃ q ∈ y.ports.requests, q.late = false ∧ q.owner = .rewrite p g.g c r) → t = y) ∧
      ((∀ q ∈ y.ports.requests, q.late = false → q.owner ≠ .rewrite p g.g c r) →
        ∀ k ∈ t.jobs, k.part = p → k.groupOp = true → Entry.opcode k.entry = 0x07 → k.groupNo = g.g →
          Entry.chunkOf k.entry = c → Entry.rankOf k.entry = r → k.pass.retried = false))

/-- The letters of an epoch (11 R262 to R267). GROUP_BARRIER reports READY once every LOCAL rank has posted and every earlier job of the
epoch has completed; at the coordinator the last READY sends the close letter to every engine, CLOSE_LETTER_REPEAT again to those that
have not acknowledged; the letter completes the epoch's barriers with OK, opens the next epoch and is acknowledged; EPOCH_TIMEOUT ends
the coordinator's barrier with MEMBER_TIMEOUT and the missing rank; an abort letter aborts the group, unless its epoch is closing. -/
def Obligations.EpochsCloseByLetters : Prop :=
  (∀ (s : State) (j : Job) (g : Group) (o : Nat) (d : MsgSrc), s.groupReady 0x0C j.uid = some (j, g) →
    s.barrierOrder j.part g = some o → g.state = .open_ → g.dirty = false → (State.member g 0).place = some d →
    (∀ k ∈ s.jobs, k.part = j.part → k.groupOp = true → k.groupNo = g.g → k.order < o → k.order ≠ 0 → k.epoch = State.epochNow g →
      Entry.opcode k.entry = 0x0C) →
    exec (.groupBarrier j.uid) s = .next ((s.modGroup j.part g.g fun y => { y with state := .ready }).postMsg j.part d
      (.ready g.tag (State.epochNow g) (State.localRanks g)))) ∧
  (∀ (s : State) (p tag epoch : Nat) (g : Group) (ranks : List Nat),
    let m := Msg.ready tag epoch ranks
    s.ports.inbox.contains m = true → s.groupByTag tag = some (p, g) → g.state ≠ .aborted → epoch = State.epochNow g →
    (State.localRanks g).contains 0 = true → g.closing ≠ some g.epoch →
    let rs := (g.readyRanks ++ ranks).eraseDups
    ((∃ r < g.m, r ∉ rs) → exec (.ready m) s =
      .next (({ s with ports := { s.ports with inbox := s.ports.inbox.erase m } }).modGroup p g.g fun y => { y with readyRanks := rs })) ∧
    ((∀ r < g.m, r ∈ rs) → ∃ t, exec (.ready m) s = .next t ∧
      t.ports.inbox = s.ports.inbox.erase m ++ [Msg.close g.tag (g.epoch % 2 ^ 32)] ∧
      ∀ d ∈ State.groupEngines g, SentOn t p d (.close g.tag (g.epoch % 2 ^ 32)))) ∧
  (∀ (s : State) (p tag epoch : Nat) (g : Group) (d : MsgSrc),
    let m := Msg.close tag epoch
    s.ports.inbox.contains m = true → s.groupByTag tag = some (p, g) → g.state = .ready → epoch = State.epochNow g →
    (State.member g 0).place = some d → s.group? p g.g = some g →
    ∃ t h, exec (.closeLetter m) s = .next t ∧ t.ports.inbox = s.ports.inbox.erase m ∧
      SentOn t p d (.closeAck tag epoch (State.localRanks g)) ∧ t.group? p g.g = some h ∧
      h.epoch = g.epoch + 1 ∧ h.state = .open_ ∧ h.chunks = [] ∧ h.contributed = [] ∧ h.dirty = false ∧ h.readyRanks = [] ∧
      ∀ k ∈ s.epochBarriers p g, ∃ x, t.job? k.uid = some x ∧ (s.job? k.uid = some k → x.phase = .ending ∧ x.code = 0)) ∧
  (∀ (s : State) (p n e : Nat) (g : Group), s.group? p n = some g → g.closing = some e →
    (∀ r < g.m, r ∉ g.acked → (State.member g r).place ≠ none) →
    let late := ((((List.range g.m).filter fun r => !g.acked.contains r).map fun r => (State.member g r).place).eraseDups).filterMap id
    exec (.closeLetterRepeat p n) s =
      .next (late.foldl (fun (z : State) d => z.postMsg p d (.close g.tag (e % 2 ^ 32))) s)) ∧
  (∀ (s : State) (p n r : Nat) (g : Group) (j : Job), s.group? p n = some g → g.state ≠ .aborted → g.closing ≠ some g.epoch →
    (s.epochBarriers p g).find? (fun k => Entry.rankOf k.entry == 0) = some j → s.job? j.uid = some j → r < g.m → r ∉ g.readyRanks →
    (∀ q < r, q ∈ g.readyRanks) →
    ∃ t k, exec (.epochTimeout p n) s = .next t ∧ t.job? j.uid = some k ∧ k.phase = .ending ∧ k.code = 0x82 ∧ k.detail = r % 65536) ∧
  (∀ (s : State) (p tag epoch : Nat) (g : Group) (cause : AbortCause),
    let m := Msg.abort tag epoch cause
    s.ports.inbox.contains m = true → s.groupByTag tag = some (p, g) → g.state ≠ .aborted → epoch = State.epochNow g →
    (g.closing = some g.epoch → exec (.abortLetter m) s = .next { s with ports := { s.ports with inbox := s.ports.inbox.erase m } }) ∧
    (g.closing ≠ some g.epoch →
      ∃ t h, exec (.abortLetter m) s = .next t ∧ t.ports.inbox = s.ports.inbox.erase m ∧ t.group? p g.g = some h ∧ h.state = .aborted ∧
        h.cause = cause ∧ (0 ∈ State.localRanks g → ∀ d ∈ State.groupEngines g, SentOn t p d m) ∧
        ∀ k ∈ t.jobs, k.part = p → k.groupOp = true → k.groupNo = g.g → k.phase ≠ .running ∧ k.phase ≠ .halted))

/-- DISPATCH and COMBINE (11 R269 to R273). The index pass places the routes: each expert's rows go in stream order up to its capacity,
the rest are dropped (assignRows), and zeroes the rows that no route fills; a thread copies its token elements to the row of every kept
route; once they are answered the headers and the drop map are written, and then the job completes with OK. A COMBINE thread forms its
tokens' gated sums and casts them. Bytes that a tile reads of what its job or another party writes are left open (01 R39). Stated where
no staging codeword stands under injection. -/
def Obligations.DispatchAndCombineFollowTheRoutes : Prop :=
  (∀ (s : State) (j : Job) (g : Group), s.groupReady 0x08 j.uid = some (j, g) → j.recheck = false → j.early = none →
    let e := j.entry
    let row := Entry.xH e * Entry.xW e
    (∀ s1 book, j.pass.indexed = false → s.readRoutes (State.passWork j) = .ok book → s.lostMember j g = none →
      let k := { j with pass := { j.pass with book } }
      let pos := State.assignRows (Entry.xC e) (State.routesOf k) []
      s.issueParts (.job j.uid .other 0) j g ((State.slotsOf e g).map fun y =>
        (y.1, State.slotAt e (State.member g y.1) y.2 + 64 + State.slotCount k (State.routesOf k) pos y.1 y.2 * row,
          List.replicate ((Entry.xC e - State.slotCount k (State.routesOf k) pos y.1 y.2) * row) ((0 : Byte), 0))) id none = some s1 →
      exec (.dispatch j.uid) s =
        .next (s1.modJob j.uid fun y => { y with pass := { y.pass with indexed := true, book, seen := {} } })) ∧
    (∀ tile s0 w th l s1, j.pass.indexed = true → State.idleTiles j = [tile] → s.readyThread j.uid tile = some (s0, w, th) →
      let n := Entry.xW e
      let h := max 1 (Entry.xH e)
      let routes := State.routesOf j
      let pos := State.assignRows (Entry.xC e) routes []
      let src := fun (n : Nat) =>
        ((Entry.xRows e % 2 ^ 56 : Nat) : Int) + (n / h : Nat) * Entry.tStride e 0x58 + (n % h * Entry.xW e : Nat)
      State.runElems (fun i => (s0.gotOff w (Entry.xRows e / 2 ^ 56) (src i) n).at i 1) (State.liveElems j tile) = { done := l } →
      let parts := l.flatMap fun x => (List.range (Entry.xKR e)).filterMap fun k =>
        match pos.getD (x.1 / h * Entry.xKR e + k) .none_ with
        | .row p =>
          let y := State.routeTo j (routes.getD (x.1 / h * Entry.xKR e + k) 0)
          some (y.1, State.slotAt e (State.member g y.1) y.2 + 64 + p * row + x.1 % h * n, x.2.map fun b => (b, x.1))
        | _ => none
      let meets := s0.rangesMeet j (State.dispatchRanges j g tile).1 (State.dispatchRanges j g tile).2
      (∀ x ∈ parts, s0.memberLost j.part (State.member g x.1) = false) →
      s0.issueParts (.job j.uid .thread tile) j g parts
        (fun x => if meets then { x with val := (Config.freeByte s0.block.free (locKey x.target x.addr)).toNat } else x)
        (some th.span) = some s1 → (∀ x ∈ s1.store.inj, 0x28 ≤ x.1) →
      ∃ t k, exec (.dispatch j.uid) s = .next t ∧ t.ports = s1.ports ∧ t.job? j.uid = some k ∧ k.retired = j.retired ∧
        k.threads.map Thread.tile = j.threads.map Thread.tile ∧ (∀ x ∈ k.threads, x.tile = tile → x.ran = true) ∧
        OthersStand s t j.uid) ∧
    (j.pass.indexed = true → State.allRetired j = true → s.jobWrites j.uid = [] →
      let routes := State.routesOf j
      let pos := State.assignRows (Entry.xC e) routes []
      (j.pass.sent = true → ∃ t k, exec (.dispatch j.uid) s = .next t ∧ t.job? j.uid = some k ∧
        k.phase = .ending ∧ k.code = 0 ∧ k.position = j.elems) ∧
      (∀ s1 ds, j.pass.sent = false → s.lostMember j g = none →
        s.issueParts (.job j.uid .header 0) j g ((State.slotsOf e g).map fun y =>
          (y.1, State.slotAt e (State.member g y.1) y.2,
            (State.slotHeader e (State.slotCount j routes pos y.1 y.2) y.2
              ((s.memberGot { toJob := j } (State.member g y.1) (State.slotAt e (State.member g y.1) y.2 + 64)
                (Entry.xC e * Entry.xH e * Entry.xW e)).val?.getD [])).map fun b => (b, 0))) id none = some s1 →
        s.elemPlace j (Entry.xDrop e) ((State.dropMap pos).map fun b => (b, 0)) = some ds →
        exec (.dispatch j.uid) s = .next ((s1.issueElems (.job j.uid .other 0) j.part (Entry.xDrop e / 2 ^ 56) ds [] none).modJob j.uid
          fun y => { y with pass := { y.pass with sent := true } })))) ∧
  (∀ (s : State) (j : Job) (g : Group) (tile : Nat), s.groupReady 0x09 j.uid = some (j, g) → j.recheck = false → j.early = none →
    (∀ book, j.pass.indexed = false → s.readRoutes (State.passWork j) = .ok book → exec (.combine j.uid tile) s =
      .next (s.modJob j.uid fun y => { y with pass := { y.pass with indexed := true, book, seen := {} } })) ∧
    (∀ s0 w th l s1, j.pass.indexed = true → s.readyThread j.uid tile = some (s0, w, th) →
      let routes := State.routesOf j
      let r := State.combineRanges j g (State.tileElems j tile)
      State.runElems (s0.combinePut w g routes (State.assignRows (Entry.xC j.entry) routes [])) (State.liveElems j tile) =
        { done := l } →
      s0.landCells j (.job j.uid .thread tile) (Entry.xRows j.entry / 2 ^ 56) (cellsOfAll l) (s0.rangesMeet j r.1 r.2)
        (fun n => j.tileOf n == tile) (some th.span) = .done s1 → (∀ x ∈ s1.store.inj, 0x28 ≤ x.1) →
      ∃ t, exec (.combine j.uid tile) s = .next t ∧ t.ports = s1.ports ∧ { t.store with work := [] } = { s1.store with work := [] } ∧
        OthersStand s t j.uid ∧
        RanTile s t j.uid tile (l.flatMap fun x => State.contribsOf j.entry tile x.1 x.2) (State.marksOf tile l)))

/-- Slot positions (11 R270): a route without an expert has none; every other gets the number of earlier routes of its expert as its
row while that lies below the capacity, and is dropped from there on. -/
def Obligations.RoutesFillSlotsInStreamOrder : Prop :=
  ∀ (cap : Nat) (routes : List Int), (State.assignRows cap routes []).length = routes.length ∧
    ∀ (i : Nat) (x : Int), routes[i]? = some x →
      let before := ((routes.take i).filter (· == x)).length
      (State.assignRows cap routes [])[i]? =
        some (if x < 0 then .none_ else if before < cap then .row before else .drop)

/-- BARRIER and DECK_BARRIER_ARRIVAL (02 R72 to R76). A barrier whose queue's earlier entries have completed completes with OK: at once
for QUEUE, once the partition's earlier jobs have completed for PARTITION, once every other named device has arrived for DECK, which
sends its own arrival first. An arrival goes to the barrier that waits for it, else it is held, up to 64; one more is refused. NOP (05
R125) waits for nothing: it completes with OK, POSITION, COUNT and AUX 0. No other job changes. -/
def Obligations.BarriersWaitForTheirScope : Prop :=
  (∀ (s : State) (j : Job) (x : Queue) (n : Nat), s.job? j.uid = some j → Entry.opcode j.entry = 0x0F → j.queue = .io n →
    j.phase = .running → j.stopped = false → j.order ≠ 0 → s.queue? j.queue = some x →
    ∃ t k, exec (.nop j.uid) s = .next t ∧ t.job? j.uid = some k ∧ k.phase = .ending ∧
      k.code = 0 ∧ k.detail = 0 ∧ k.position = 0 ∧ k.count = 0 ∧ k.aux = 0 ∧ OthersStand s t j.uid ∧
      (x.state ≠ .halted → j.threads = [] →
        t = { s with jobs := t.jobs, queues := t.queues, ports := { s.ports with requests := t.ports.requests } })) ∧
  (∀ (s : State) (j : Job) (n : Nat), s.job? j.uid = some j → Entry.opcode j.entry = 0x0B → j.queue = .io n → j.phase = .running →
    j.stopped = false → j.order ≠ 0 → s.queueMet j = true →
    let own := s.block.deckId.toNat
    let others := (State.barDevices j.entry).filter (· != own)
    let ok := fun (t : State) => (∃ k, t.job? j.uid = some k ∧ k.phase = .ending ∧ k.code = 0 ∧
      k.detail = 0 ∧ k.position = 0) ∧ OthersStand s t j.uid
    (Entry.barScope j.entry = 0 → ∃ t, exec (.barrier j.uid) s = .next t ∧ ok t) ∧
    (Entry.barScope j.entry = 1 → s.partMet j = true → ∃ t, exec (.barrier j.uid) s = .next t ∧ ok t) ∧
    (Entry.barScope j.entry = 1 → s.partMet j = false → exec (.barrier j.uid) s = .next s) ∧
    (Entry.barScope j.entry = 2 → others ≠ [] → j.pass.bphase = 1 → (∀ d ∈ others, d ∈ j.pass.arrived) →
      ∃ t, exec (.barrier j.uid) s = .next t ∧ ok t) ∧
    (Entry.barScope j.entry = 2 → others ≠ [] → j.pass.bphase = 0 → j.pass.arrived = [] → (s.part j.part).arrivals = [] →
      ∃ t k, exec (.barrier j.uid) s = .next t ∧ t.job? j.uid = some k ∧ k.phase = .running ∧ k.pass.bphase = 1 ∧
        k.pass.arrived = [own] ∧ ∀ d ∈ others, SentOn t j.part (.deck d) (.barrier own j.part (Entry.barId j.entry)))) ∧
  (∀ (s : State) (d p id : Nat),
    let m := Msg.barrier d p id
    let z : State := { s with ports := { s.ports with inbox := s.ports.inbox.erase m } }
    s.ports.inbox.contains m = true → p < s.parts.length →
    (∀ j, s.barrierFor p id d = some j → s.job? j.uid = some j → s.queueMet j = false →
      exec (.deckBarrierArrival m) s = .next (z.modJob j.uid fun y =>
          { y with pass := { y.pass with arrived := y.pass.arrived ++ [d] } })) ∧
    (s.barrierFor p id d = none → (s.part p).arrivals.length < 64 →
      exec (.deckBarrierArrival m) s = .next (z.modPart p fun x => { x with arrivals := x.arrivals ++ [(d, id)] })) ∧
    (s.barrierFor p id d = none → 64 ≤ (s.part p).arrivals.length →
      exec (.deckBarrierArrival m) s = .next (z.postMsg p (.deck d) (.barrierRefused p id))))

/-! Ports, translations, connections, the deck (19, 02). -/

/-- PORT_READ_DATA (19 R429, R432, R433, 06 R147). A granule that a ring, decode, channel or administrative read receives stands in the
memory it came from, unpoisoned, and nothing else changes there. A granule of a read of the fetch stage stands there but for the bytes
that writes have reached since (log entry 2); the read's tag is free once its last granule has come, and its thread or pass has the
granule. An ERROR counts RESP_ERROR at the port's unit and fails the access with BUS_ERROR, as does each granule of a fetch-stage read.
Data without a request counts RESP_ERROR; the late answer of a read that timed out is discarded. -/
def Obligations.ReadDataStandsInItsMemory : Prop :=
  ∀ (s : State) (port : Port) (acc : Access) (addr : Nat) (data : Granule),
    let plain : Prop := (∃ q, acc = .ring q) ∨ (∃ u, acc = .decode u) ∨ (∃ ch, acc = .channel ch) ∨ ∃ aq, acc = .admin aq
    let a := addr / 64 * 64
    (∀ t, plain → s.accKnown acc = true → (port, acc) ∉ s.ports.lateReads → Memory.wf s.store → s.store.inj = [] → s.portTarget (s.accPart acc) port a = some t →
      ∃ r, exec (.portReadData port acc addr data false .okay) s = .next r ∧
        (∀ i < 64, r.store.get (locKey t.1 t.2 + i) = (leBytes 64 data.toNat).getD i 0) ∧
        (∀ k, (∀ i < 64, k ≠ locKey t.1 t.2 + i) → r.store.get k = s.store.get k) ∧
        granuleOf (locKey t.1 t.2) ∉ r.store.poison ∧ r.jobs = s.jobs ∧ r.queues = s.queues) ∧
    (∀ poison res, (port, acc) ∈ s.ports.lateReads → exec (.portReadData port acc addr data poison res) s =
      .next { s with ports := { s.ports with lateReads := s.ports.lateReads.erase (port, acc) } }) ∧
    (∀ poison res, acc = .unknown ∨ (plain ∧ s.accKnown acc = false) → (port, acc) ∉ s.ports.lateReads →
      exec (.portReadData port acc addr data poison res) s = .next (s.countEvent (State.portUnit port) 4 {})) ∧
    (∀ poison, plain → s.accKnown acc = true → (port, acc) ∉ s.ports.lateReads →
      let s1 := (s.countBytes (s.accPart acc) port 1 1).countEvent (State.portUnit port) 4 (s.accCtx acc)
      exec (.portReadData port acc addr data poison .error) s = .next (s1.accessFails acc 0x48 (s.accRoute port acc) false)) ∧
    (∀ tag r f uid tile t, (port, Access.fetch tag) ∉ s.ports.lateReads → s.sentAs true port tag = some r → r.body = .fetch f →
      r.owner = .fetch uid tile → r.late = false → f.drained = false → s.portTarget r.part port a = some t →
      let g := granuleOf (locKey t.1 t.2)
      g ∈ f.left →
      let newer := f.newer.filter fun k => granuleOf k == g
      let s1 := (s.storeGranule t data false newer).returned port tag r f [g]
      (s1.store.inj = [] → exec (.portReadData port (.fetch tag) addr data false .okay) s =
        .next ((s1.countBytes r.part port 1 1).modSeen uid tile fun v => { v with has := g :: v.has })) ∧
      (Memory.wf s.store → ∀ i < 64, (s.storeGranule t data false newer).store.get (locKey t.1 t.2 + i) =
        if locKey t.1 t.2 + i ∈ f.newer then s.store.get (locKey t.1 t.2 + i) else (leBytes 64 data.toNat).getD i 0) ∧
      (∀ q ∈ f.left, q ≠ g → s1 = (s.storeGranule t data false newer).modSent true port tag fun x =>
        some { x with body := .fetch { f with left := f.left.filter fun y => !List.contains [g] y } }) ∧
      (∀ poison, exec (.portReadData port (.fetch tag) addr data poison .error) s =
        .next ((((((s.returned port tag r f [g]).countBytes r.part port 1 1).countEvent (State.portUnit port) 4 (s.requestCtx r)).modSeen
          uid tile fun v => { v with bad := v.bad ++ [(g, 0x48)] }).wakeReader uid tile)))) ∧
    (∀ tag poison res, (port, Access.fetch tag) ∉ s.ports.lateReads → s.sentAs true port tag = none →
      exec (.portReadData port (.fetch tag) addr data poison res) s = .next (s.countEvent (State.portUnit port) 4 {}))

/-- PORT_WRITE_RESPONSE, PORT_REQUEST_TIMEOUT, HOST_WRITE_ERROR, CREDIT_GRANT (19 R430 to R433, R438, 02 R67). An answer takes its request
away: an OKAY finds its bytes at their target, and with the last write of an owner comes what follows it; an ERROR counts RESP_ERROR, and
so does a TAG without a request; a job's failed output is an early event at its lowest element (06 R150). A write that times out counts
as answered with ERROR, and so do the granules of a read that have not come; both keep their TAG until the late answer, which is
discarded. A credit is added, and lets a waiting request go. What bytes a failed write leaves is open (log entry 11). -/
def Obligations.WriteAnswersReachTheirOwner : Prop :=
  ∀ (s : State) (port : Port) (tag : Nat),
    (∀ res, s.sentAs false port tag = none → exec (.portWriteResponse port tag res) s =
      .next (s.countEvent (State.portUnit port) 4 {})) ∧
    (∀ w, s.sentAs false port tag = some w → w.late = false →
      let gone := s.modSent false port tag fun _ => none
      let failed := (gone.countEvent (State.portUnit port) 4 (s.requestCtx w)).landBody w .error
      let late := ((s.modSent false port tag fun x => some { x with late := true }).countEvent (State.portUnit port) 4
        (s.requestCtx w)).landBody w .error
      exec (.portWriteResponse port tag .okay) s = .next (((gone.landBody w .okay).answered w none).pumpPort port) ∧
      exec (.portWriteResponse port tag .error) s = .next ((failed.answered w (some 0x48)).pumpPort port) ∧
      (∀ a, s.ownsAccess w.owner a = true →
        exec (.portRequestTimeout port a tag) s = .next (late.answered w (some 0x48))) ∧
      (∀ bs poison, w.body = .write bs poison → Memory.wf s.store → (bs.map WByte.key).Nodup →
        (∀ b ∈ bs, b.mask = 255 → (gone.landBody w .okay).store.get b.key = BitVec.ofNat 8 b.val) ∧
        ∀ k res, k ∉ bs.map WByte.key → (gone.landBody w res).store.get k = s.store.get k) ∧
      (∀ uid n, w.owner = .job uid .thread n → ∀ z : State, z.answered w none = (z.settleAll uid).settleFences ∧
        z.answered w (some 0x48) = ((z.noteEarly uid
          { elem := w.elem, code := 0x48, detail := w.route, rank := 2 }).settleAll uid).settleFences)) ∧
    (∀ w res, s.sentAs false port tag = some w → w.late = true →
      exec (.portWriteResponse port tag res) s = .next ((s.modSent false port tag fun _ => none).pumpPort port)) ∧
    (∀ r f uid tile, s.sentAs true port tag = some r → r.body = .fetch f → r.owner = .fetch uid tile → r.late = false →
      r.span = none → f.drained = false → exec (.portRequestTimeout port (.fetch tag) tag) s =
        .next ((((s.modSent true port tag fun x => some { x with late := true, body := .fetch { f with tagged := false } }).countEvent
          (State.portUnit port) 4 (s.requestCtx r)).modSeen uid tile fun v =>
            { v with bad := v.bad ++ f.left.map fun g => (g, 0x48) }).wakeReader uid tile)) ∧
    exec .hostWriteError s = .next (s.countEvent 0x52 4 {}) ∧
    ((∀ w ∈ s.ports.requests, w.port = port → State.waits w = false) → (s.portState port).deficit = List.replicate 9 0 →
      exec (.creditGrant port false) s = .next (s.putPort { s.portState port with req := (s.portState port).req + 1 }) ∧
      exec (.creditGrant port true) s = .next (s.putPort { s.portState port with wd := (s.portState port).wd + 1 }))

/-- TRANSLATION_RESPONSE and TRANSLATION_TIMEOUT (19 R439, R440, 02 R51 to R53, 03 R88). A response answers the outstanding request of its
access, whose tag is free with it, and is discarded where there is none or the access is there no more. A mapping serves every access of
its job from then on, and the next access of its queue; an ABORT counts TRANSLATION at the unit of the route's port and fails the access;
a page fault does not count and halts the job that decodes at 0; no response counts as ABORT, as does a page size out of range. -/
def Obligations.TranslationsServeOrFailTheirAccess : Prop :=
  ∀ (s : State) (route iova : Nat) (acc : Access) (res : XResult),
    (s.xreqOf route iova acc = none → exec (.translationResponse route iova acc res) s = .next s ∧
      exec (.translationTimeout route iova acc) s = .next s) ∧
    (∀ x, s.xreqOf route iova acc = some x →
      let z := s.xreqDone x
      (s.accKnown acc = false → exec (.translationResponse route iova acc res) s = .next z ∧
        exec (.translationTimeout route iova acc) s = .next z) ∧
      (s.accKnown acc = true → ∃ t, exec (.translationTimeout route iova acc) s = .next t ∧
        exec (.translationResponse route iova acc .abort) s = .next t ∧
        ∀ addr log2, log2 < 12 ∨ 30 < log2 → exec (.translationResponse route iova acc (.mapped addr log2)) s = .next t) ∧
      ∀ addr log2, 12 ≤ log2 → log2 ≤ 30 →
        let m : Xlat := { route, page := iova / 2 ^ log2 * 2 ^ log2, log2, addr := addr.toNat }
        (∀ q y, acc = .ring q → s.live? q = some y → y.due = 0 → exec (.translationResponse route iova acc (.mapped addr log2)) s =
          .next (z.modQueue q fun y => { y with xlat := y.xlat ++ [m] })) ∧
        (∀ j, (acc = .decode j.uid ∨ ∃ elem index, acc = .job j.uid elem index) → s.job? j.uid = some j →
          exec (.translationResponse route iova acc (.mapped addr log2)) s =
            .next ((z.modJob j.uid fun y => { y with xlat := y.xlat ++ [m] }).settleAll j.uid)) ∧
        ∀ j, acc = .decode j.uid → s.job? j.uid = some j → j.phase = .fetched →
          (∃ t k, exec (.translationResponse route iova acc .pageFault) s = .next t ∧ t.job? j.uid = some k ∧ k.phase = .halted ∧
            k.saved = 0) ∧
          exec (.translationResponse route iova acc .abort) s =
            .next ((z.countEvent (State.xlatUnit route) 7 { queue := some j.queue, job := some j.idx.toNat }).decodeFails j.uid 0x44 route
              false))

/-- CONN_OPEN, CONN_CLOSE, WINDOW_READY, LINK_DOWN of a transport port, MEMORY_PORT_READY, VIADUCT_LINK_UP, DECK_FLOOD (19 R436, R441, R442,
R447, R448). -/
def Obligations.LinksAndWindowsComeAndGo : Prop :=
  ∀ s : State,
    (∀ c p t, exec (.connOpen c p t) s = .next
      { s with ports := { s.ports with conns := s.ports.conns.filter (·.conn != c) ++ [{ conn := c, part := p, port := t, isOpen := true }] } }) ∧
    (∀ c, exec (.connClose c) s = .next
      { s with ports := { s.ports with conns := s.ports.conns.map fun x => if x.conn == c then { x with isOpen := false } else x } }) ∧
    (∀ p w x, s.window? p w = some x → x.ready = false → x.closing = false →
      (∀ n ∈ s.unfencedSpans p, (s.span n).trans = none ∧ ((s.span n).power = .run ∨ (s.span n).power = .idle)) →
      exec (.windowReady p w) s = .next ((s.modPart p fun y =>
        { y with windows := y.windows.map fun z => if z.w == w then { z with ready := true } else z }).emit (.winReady x.conn w))) ∧
    (∀ n, exec (.linkDown (.tp n)) s = .next (s.countEvent 0x50 15 {})) ∧
    (∀ n, (∀ w ∈ s.ports.requests, w.port = .vp n → w.late = true) → n < 2 → ∃ t, exec (.linkDown (.vp n)) s = .next t ∧
      t = (({ s with ports := { s.ports with
        vpUp := s.ports.vpUp &&& ~~~ BitVec.ofNat 2 (2 ^ n)
        peers := s.ports.peers.map fun (x : Peer) => if n = 0 then { x with hops0 := none } else { x with hops1 := none } } } :
          State).countEvent 0x51 15 {})) ∧
    (∀ n c, exec (.memoryPortReady n c) s = .next
      { s with ports := { s.ports with memReady := s.ports.memReady ||| BitVec.ofNat 8 (2 ^ n),
                                       capacity := modAt s.ports.capacity n fun _ => c } }) ∧
    (s.ports.deckFault = false →
      exec (.viaductLinkUp 0 (s.block.deckId.toNat + 1) 1) s = .next { s with ports := { s.ports with vpUp := s.ports.vpUp ||| 1 } } ∧
      (0 < s.block.deckId.toNat → exec (.viaductLinkUp 1 (s.block.deckId.toNat - 1) 0) s =
        .next { s with ports := { s.ports with vpUp := s.ports.vpUp ||| 2 } }) ∧
      exec (.viaductLinkUp 0 (s.block.deckId.toNat + 1) 0) s = .next
        (({ s with ports := { s.ports with deckFault := true, vpUp := 0, peers := [] } }).cutPaths State.isViaduct)) ∧
    (∀ peers, ((s.block.deckId.toNat :: peers.map (·.deckId)).Nodup → exec (.deckFlood peers false) s = .next
      { s with ports := { s.ports with peers, deckFault := false } }) ∧
      (¬(s.block.deckId.toNat :: peers.map (·.deckId)).Nodup → exec (.deckFlood peers false) s = .next
        (({ s with ports := { s.ports with deckFault := true, vpUp := 0, peers := [] } }).cutPaths State.isViaduct))) ∧
    (∀ peers, exec (.deckFlood peers true) s = .next
      (({ s with ports := { s.ports with deckFault := true, vpUp := 0, peers := [] } }).cutPaths State.isViaduct)) ∧
    (∀ f : Port → Bool, (∀ w ∈ s.ports.requests, f w.port = true → w.late = true) → s.cutPaths f = s.countEvent 0x51 15 {})

/-- INBOUND_WRITE, INBOUND_READ, INBOUND_TARGET_ACK, INBOUND_MESSAGE and DECK_ACCESS (19 R444, R445, R450, 02 R55). Without a ready window the
answer is NOT_READY, outside every region that allows it REFUSED, and nothing is written; else the payload is PLACED, counted and held for
its target write, whose acknowledgement is answered. A deck access outside the partition's pool is refused; an item for another
device goes on. -/
def Obligations.InboundAccessesAreCheckedThenPlaced : Prop :=
  ∀ s : State,
    (∀ c addr data, s.connReady c = none → exec (.inboundWrite c addr data) s = .next (s.emit (.placement c 2))) ∧
    (∀ c p addr data, s.connReady c = some p → s.inboundOk p addr.toNat data.length true = false →
      exec (.inboundWrite c addr data) s =
        .next ((s.modPart p fun x => { x with inboundRefused := x.inboundRefused + 1 }).emit (.placement c 1))) ∧
    (∀ c p addr data, s.connReady c = some p → s.inboundOk p addr.toNat data.length true = true →
      State.translated (addr.toNat / 2 ^ 56) = true → s.routeLost p (addr.toNat / 2 ^ 56) = false → data ≠ [] →
      (∀ x ∈ s.ports.inbound, x.id ≠ s.ports.nextId) →
      ∃ t, exec (.inboundWrite c addr data) s = .next t ∧ t.block.out = .placement c 0 :: s.block.out ∧ t.store = s.store ∧
        t.ports.nextId = s.ports.nextId + 1 ∧ t.ports.inbound = s.ports.inbound ++
          [{ id := s.ports.nextId, src := .conn c, part := p, addr := addr.toNat, write := true, data, len := 0 }] ∧
        (∃ x ∈ t.ports.xreqs, x.owner = .inbound s.ports.nextId ∧ x.route = addr.toNat / 2 ^ 56 ∧ x.access = 2 ∧
          x.page = addr.toNat % 2 ^ 56 / 4096 * 4096) ∧
        (p < s.parts.length → (t.part p).inboundBytes = (s.part p).inboundBytes + BitVec.ofNat 64 data.length)) ∧
    (∀ c addr n, (s.connReady c = none ∨ ∃ p, s.connReady c = some p ∧ s.inboundOk p addr.toNat (64 * n) false = false) →
      exec (.inboundRead c addr n) s = .next (s.emit (.rsp (.conn c) .error))) ∧
    (∀ c p addr n ks, s.connReady c = some p → s.inboundOk p addr.toNat (64 * n) false = true →
      s.routeLost p (addr.toNat / 2 ^ 56) = false → (∀ x ∈ s.ports.inbound, x.id ≠ s.ports.nextId) →
      s.keys p [] addr.toNat (64 * n) = some ks →
      exec (.inboundRead c addr n) s = .next (({ s with ports := { s.ports with nextId := s.ports.nextId + 1 } }).emit
        (.rdd (.conn c) (ks.map s.store.get) (ks.any s.store.isPoisoned)))) ∧
    (∀ id x, s.ports.inbound.find? (fun y => y.id == id && y.issued) = some x →
      (∀ w ∈ s.ports.requests, w.owner = .inbound id → w.late = true) → (∀ j ∈ s.jobs, j.pass.retried = false) →
      exec (.inboundTargetAck id) s = .next (({ s with ports := { s.ports with
        inbound := s.ports.inbound.filter (·.id != id) } }).emit (.rsp x.src (if x.error then .error else .okay)))) ∧
    (∀ d m, s.reached d = false → exec (.inboundMessage (.deck d) m) s = .next (s.emit (.rsp (.deck d) .error))) ∧
    (∀ d m, s.reached d = true → State.replies m = false → exec (.inboundMessage (.deck d) m) s =
      .next (({ s with ports := { s.ports with inbox := s.ports.inbox ++ [m] } }).emit (.rsp (.deck d) .okay))) ∧
    (∀ d m, s.reached d = true → State.replies m = true → exec (.inboundMessage (.deck d) m) s =
      .next ((s.emit (.rsp (.deck d) .okay)).actReply m)) ∧
    (∀ src dest p wr off data len, dest ≠ s.block.deckId.toNat →
      exec (.deckAccess src dest p wr off data len) s = .next (s.emit (.forwarded src dest))) ∧
    (∀ src p off data len, 8 * s.cs p < off + len → exec (.deckAccess src s.block.deckId.toNat p false off data len) s =
      .next (s.emit (.rsp (.deck src) .refused))) ∧
    (∀ src p off data len ks, s.deckParts p = true → off + len ≤ 8 * s.cs p → off + len ≤ 2 ^ 56 → 0 < len → s.hasTarget p 0x20 = true →
      (∀ x ∈ s.ports.inbound, x.id ≠ s.ports.nextId) → s.keys p [] (0x20 * 2 ^ 56 + off) len = some ks →
      exec (.deckAccess src s.block.deckId.toNat p false off data len) s =
        .next (({ s with ports := { s.ports with nextId := s.ports.nextId + 1 } }).emit
          (.rdd (.deck src) (ks.map s.store.get) (ks.any s.store.isPoisoned))))

/-! Administrative commands (13). -/

/-- The checks of an administrative entry (13 R293, R294), for every command: without its turn nothing happens; a queue that does not
accept the opcode gives BAD_OPCODE, DETAIL the opcode; then a byte written at +0x18, or a reserved flag bit, gives BAD_FIELD with its
offset. The command then ends with POSITION 0 and the code, and nothing else changes but the turn of the queues. -/
def Obligations.AdministrativeChecksComeInOrder : Prop :=
  ∀ (c : Instr) (aq op : Nat) (qs : State.CmdQueues), adminRow c = some (aq, op, qs) → ∀ (s : State) (j : Job), s.canStart aq = some j →
    ((u8 j.entry 0 ≠ op ∨ s.turnOf aq = false) → exec c s = .next s) ∧
    (u8 j.entry 0 = op → s.turnOf aq = true →
      ((aq = 0 ∧ qs = .partition ∨ aq ≠ 0 ∧ qs = .owner) → exec c s = .next ((s.taken aq j).endAdmin j.uid 0x01 op 0 0)) ∧
      (¬(aq = 0 ∧ qs = .partition ∨ aq ≠ 0 ∧ qs = .owner) →
        (field j.entry 0x18 8 ≠ 0 → exec c s = .next ((s.taken aq j).endAdmin j.uid 0x02 0x18 0 0)) ∧
        (field j.entry 0x18 8 = 0 → 2 ≤ u8 j.entry 1 → exec c s = .next ((s.taken aq j).endAdmin j.uid 0x02 1 0 0)))) ∧
    (s.job? j.uid = some j → ∀ code detail count aux, ((s.taken aq j).endAdmin j.uid code detail count aux).job? j.uid =
      some { j with phase := .ending, code, detail := detail % 65536, position := 0, count, aux, wait := .none })

/-- CREATE_QUEUE to SET_SHAPER on a queue of the partition in a state that R100 gives a row: a new queue stands ACTIVE at H = A = 0 with
its status line written; a queue with pending entries is not destroyed; a cancel ends every pending entry with CANCELLED, takes a
HALTED queue to ACTIVE (its line comes after the last DONE, log entry 88) and waits for the entries; a resume takes the queue to ACTIVE and its halted jobs on; a reset starts a context level and waits for it; a shaper change
waits for the next refill (13 R300 to R302, 03 R100, 06 R153, R155, 04 R114). Regions and windows (13 R303, R304, 02 R59, R65, R66): a
region gets the lowest free ID of the partition, in COUNT; REGION_MAX of them exhaust it; a destroy that would bare a protected range is
RESOURCE_HELD, else the region is gone at once and the command waits for every admitted job; an open window is RESOURCE_HELD, a new one
raises the partition's spans (16 R366); a close takes the window's regions, counted in COUNT, tells the transport and waits. -/
def Obligations.QueueRegionAndWindowCommandsAct : Prop :=
  (∀ (s : State) (aq p : Nat) (j : Job),
    let t := s.taken aq j
    let e := j.entry
    let q := QId.io (u16 e 0x20)
    (s.Served aq 0x80 p j .part
        [⟨0x20, 2, 0xFFFF⟩, ⟨0x22, 1, 0xFF⟩, ⟨0x23, 1, 1⟩, ⟨0x24, 1, 0x3F⟩, ⟨0x28, 8, 2 ^ 64 - 1⟩, ⟨0x30, 8, 2 ^ 64 - 1⟩] →
      t.inRun p (u16 e 0x20) = true → 4 ≤ u8 e 0x22 → u8 e 0x22 ≤ 16 → (bitOf (u8 e 0x23) 0 = true → bitOf t.features 0 = true) →
      State.ringBad (u64 e 0x28) = false → State.statusBad (u64 e 0x30) = false →
      t.rangesFail p (u8 e 0x24) (State.queueRanges (u64 e 0x28) (u8 e 0x22) (u64 e 0x30)) = none →
      (t.live? q ≠ none → exec (.createQueue aq) s = .next (t.endAdmin j.uid 0xC2 0 0 0)) ∧
      (t.live? q = none → exec (.createQueue aq) s = .next (((t.putQueue
        { qid := q, part := p, state := .active, ring := BitVec.ofNat 64 (u64 e 0x28), log2 := u8 e 0x22,
          status := BitVec.ofNat 64 (u64 e 0x30), recovery := bitOf (u8 e 0x23) 0, pd := u8 e 0x24, head := 0, tail := 0,
          shaper := { quantum := 16, rate := 0, burst := 16 } }).writeStatus q).endAdmin j.uid 0 0 0 0))) ∧
    (∀ x, t.inRun p (u16 e 0x20) = true → t.live? q = some x →
      (s.Served aq 0x81 p j .part [⟨0x20, 2, 0xFFFF⟩] →
        (x.open_ = [] → exec (.destroyQueue aq) s = .next ((t.setQState q .destroyed).endAdmin j.uid 0 0 0 0)) ∧
        (x.open_ ≠ [] → exec (.destroyQueue aq) s = .next (t.endAdmin j.uid 0xC2 0 0 0))) ∧
      (s.Served aq 0x82 p j .part [⟨0x20, 2, 0xFFFF⟩] →
        (x.state = .active → exec (.cancelQueue aq) s = .next ((t.endQueue q 0xA0 0).waitAdmin j.uid
          (.cancel (((t.endQueue q 0xA0 0).jobs.filter (·.queue == q)).map (·.uid))) 0 0)) ∧
        (x.state = .halted →
          let r := (t.modQueue q fun y => { y with state := .active }).endQueue q 0xA0 0
          let gone := (t.jobs.filter (·.queue == q)).map (·.uid)
          exec (.cancelQueue aq) s = .next ((r.modQueue q fun y => { y with after := y.after ++ gone }).waitAdmin j.uid
            (.cancel ((r.jobs.filter (·.queue == q)).map (·.uid))) 0 0))) ∧
      (s.Served aq 0x83 p j .part [⟨0x20, 2, 0xFFFF⟩] → (x.state = .halted ∨ x.state = .reset ∨ x.state = .stopped) →
        exec (.resumeQueue aq) s = .next ((({ t with jobs := t.jobs.map fun (k : Job) =>
          if k.queue == q && k.phase == .halted then { k with phase := if k.order = 0 then .fetched else .running } else k } :
            State).setQState q .active).endAdmin j.uid 0 0 0 0)) ∧
      (s.Served aq 0x84 p j .part [⟨0x20, 2, 0xFFFF⟩] → (x.state = .active ∨ x.state = .halted ∨ x.state = .error ∨ x.state = .stopped) →
        exec (.resetQueue aq) s =
          .next ((t.startLevel (.context q) [] none).1.waitAdmin j.uid (.level (t.startLevel (.context q) [] none).2) 0 0)) ∧
      (s.Served aq 0x85 p j .part [⟨0x20, 2, 0xFFFF⟩, ⟨0x24, 4, 2 ^ 32 - 1⟩, ⟨0x28, 4, 2 ^ 32 - 1⟩, ⟨0x2C, 4, 2 ^ 32 - 1⟩] →
        1 ≤ u32 e 0x24 → u32 e 0x24 ≤ 4096 → u32 e 0x28 ≤ 625000 → 1 ≤ u32 e 0x2C → u32 e 0x2C ≤ 16384 →
        exec (.setShaper aq) s = .next ((t.modQueue q fun y =>
          { y with newShaper := some { quantum := u32 e 0x24, rate := u32 e 0x28, burst := u32 e 0x2C } }).endAdmin j.uid 0 0 0 0)))) ∧
  (∀ (s : State) (aq p : Nat) (j : Job),
    let t := s.taken aq j
    let e := j.entry
    (s.Served aq 0x88 p j .part [⟨0x20, 8, 2 ^ 64 - 1⟩, ⟨0x28, 8, 2 ^ 64 - 1⟩, ⟨0x30, 1, 0x3F⟩, ⟨0x31, 1, 7⟩] →
      (∀ x ∈ t.regionLimits p e 0x20, x.1 = false) →
      let id := lowestFree ((t.part p).regions.map (·.id))
      (t.regionMax p ≤ (t.part p).regions.length → exec (.createRegion aq) s = .next (t.endAdmin j.uid 0xC0 0 0 0)) ∧
      ((t.part p).regions.length < t.regionMax p → exec (.createRegion aq) s = .next ((t.modPart p fun x =>
        { x with regions := x.regions ++
          [{ id, base := BitVec.ofNat 64 (u64 e 0x20), len := u64 e 0x28, pd := u8 e 0x30, rights := BitVec.ofNat 3 (u8 e 0x31) }] }).endAdmin
        j.uid 0 0 id 0))) ∧
    (s.Served aq 0x89 p j .part [⟨0x20, 2, 0xFFFF⟩] → (∃ x ∈ (t.part p).regions, x.id = u16 e 0x20) →
      let r := t.modPart p fun x => { x with regions := x.regions.filter (·.id != u16 e 0x20) }
      (r.protectedOk p = false → exec (.destroyRegion aq) s = .next (t.endAdmin j.uid 0xC2 0 0 0)) ∧
      (r.protectedOk p = true → exec (.destroyRegion aq) s = .next (r.waitAdmin j.uid (.jobs (t.admitted p)) 0 0))) ∧
    (s.Served aq 0x8A p j .part [⟨0x20, 1, 0xFF⟩, ⟨0x24, 4, 2 ^ 32 - 1⟩, ⟨0x28, 8, 2 ^ 64 - 1⟩, ⟨0x30, 8, 2 ^ 64 - 1⟩] →
      u8 e 0x20 ≤ 127 → (∃ c ∈ t.ports.conns, c.conn = u32 e 0x24 ∧ c.part = p ∧ c.isOpen = true) → u64 e 0x28 % 4096 = 0 →
      u64 e 0x30 ≠ 0 → u64 e 0x30 % 4096 = 0 → u64 e 0x30 ≤ 2 ^ 56 →
      ((∃ w ∈ (t.part p).windows, w.w = u8 e 0x20) → exec (.openWindow aq) s = .next (t.endAdmin j.uid 0xC2 0 0 0)) ∧
      ((∀ w ∈ (t.part p).windows, w.w ≠ u8 e 0x20) → exec (.openWindow aq) s = .next (((t.modPart p fun x =>
        { x with windows := x.windows ++
          [{ w := u8 e 0x20, conn := u32 e 0x24, base := BitVec.ofNat 64 (u64 e 0x28), len := u64 e 0x30 }] }).voteCommitted 1
        (t.partSpans p)).endAdmin j.uid 0 0 0 0))) ∧
    (∀ w, s.Served aq 0x8B p j .part [⟨0x20, 1, 0xFF⟩] → t.window? p (u8 e 0x20) = some w →
      let onIt := fun (x : Region) => x.base.toNat / 2 ^ 56 == 0x40 + u8 e 0x20
      (t.windowUsed p (u8 e 0x20) = true → exec (.closeWindow aq) s = .next (t.endAdmin j.uid 0xC2 0 0 0)) ∧
      (t.windowUsed p (u8 e 0x20) = false → exec (.closeWindow aq) s = .next (((t.modPart p fun x =>
        { x with regions := x.regions.filter fun r => !onIt r
                 windows := x.windows.map fun y => if y.w == u8 e 0x20 then { y with closing := true, ready := false } else y }).emit
          (.winClosed w.conn (u8 e 0x20))).waitAdmin j.uid (.jobs (t.admitted p)) ((t.part p).regions.filter onIt).length 0))))

/-- Groups, keys and codebook sets (11 R244, R245, R268, 13 R305 to R307): a group of a readable table of legal members stands in epoch 0,
unless the partition has 256 groups (NO_TABLE_ROOM) or one of that number (RESOURCE_HELD); a group with group jobs is RESOURCE_HELD; a loaded slot is bound, an empty one is KEY_INVALID, a bound one RESOURCE_HELD; an unbind
waits for the jobs that name the slot; a set is claimed when free, released when its owner has no EXPAND job on it, and
written zero in every span of the partition (14 R323). -/
def Obligations.GroupKeyAndSetCommandsAct : Prop :=
  ∀ (s : State) (aq p : Nat) (j : Job),
    let t := s.taken aq j
    let e := j.entry
    (∀ (ks : List Nat) (ms : List Member), s.Served aq 0x8C p j .part
        [⟨0x20, 1, 0xFF⟩, ⟨0x21, 1, 0xFF⟩, ⟨0x22, 2, 0xFFFF⟩, ⟨0x24, 4, 2 ^ 32 - 1⟩, ⟨0x28, 4, 2 ^ 32 - 1⟩, ⟨0x2C, 2, 0xFFFF⟩,
         ⟨0x2E, 1, 0xFF⟩, ⟨0x30, 2, 0xFFFF⟩, ⟨0x32, 1, 0x3F⟩, ⟨0x38, 8, 2 ^ 64 - 1⟩, ⟨0x40, 8, 2 ^ 64 - 1⟩] →
      u8 e 0x21 % 16 ≤ 2 → u8 e 0x21 / 16 ≤ 2 → 2 ≤ u16 e 0x22 → u16 e 0x22 ≤ 4096 → 32 ≤ u32 e 0x28 → u32 e 0x28 ≤ 262144 →
      u32 e 0x28 % 32 = 0 → 1 ≤ u16 e 0x2C → u16 e 0x2C ≤ 4096 → 1 ≤ u8 e 0x2E → u8 e 0x2E ≤ 16 → 1 ≤ u16 e 0x30 → u16 e 0x30 ≤ 10000 →
      0x20 ≤ u64 e 0x38 / 2 ^ 56 → u64 e 0x38 / 2 ^ 56 ≤ 0x28 → u64 e 0x38 % 64 = 0 →
      let g : Group := { g := u8 e 0x20, tag := u32 e 0x24, m := u16 e 0x22, inT := u8 e 0x21 % 16, outT := u8 e 0x21 / 16,
                         chunkElems := u32 e 0x28, epochChunks := u16 e 0x2C, slotDepth := u8 e 0x2E, timeout := u16 e 0x30,
                         pd := u8 e 0x32, slotArea := BitVec.ofNat 64 (u64 e 0x38), members := [] }
      let own := ms.filter fun m => m.place.isNone
      t.rangesFail p (u8 e 0x32) [(u64 e 0x40, 16 * u16 e 0x22, true, false)] = none →
      t.keys p j.xlat (u64 e 0x40) (16 * u16 e 0x22) = some ks → (∀ k ∈ granulesOf ks, k ∉ t.store.poison) →
      (List.range (u16 e 0x22)).mapM (fun i => t.memberOf p (((ks.map t.store.get).drop (16 * i)).take 16)
        (u16 e 0x2C * State.resultBytes g)) = some ms → own ≠ [] →
      t.rangesFail p (u8 e 0x32) ((g.slotArea.toNat, own.length * State.slotPartBytes g, true, true) ::
        own.map fun m => (m.recv.toNat, m.recvLen, true, true)) = none →
      (256 ≤ (t.part p).groups.length → exec (.createGroup aq) s = .next (t.endAdmin j.uid 0xC0 0 0 0)) ∧
      ((t.part p).groups.length < 256 →
        ((∃ x ∈ (t.part p).groups, x.g = u8 e 0x20) → exec (.createGroup aq) s = .next (t.endAdmin j.uid 0xC2 0 0 0)) ∧
        ((∀ x ∈ (t.part p).groups, x.g ≠ u8 e 0x20) → exec (.createGroup aq) s =
          .next ((t.modPart p fun x => { x with groups := x.groups ++ [{ g with members := ms }] }).endAdmin j.uid 0 0 0 0)))) ∧
    (s.Served aq 0x8D p j .part [⟨0x20, 1, 0xFF⟩] → t.group? p (u8 e 0x20) ≠ none →
      ((∃ k ∈ t.jobs, k.part = p ∧ k.groupOp = true ∧ k.groupNo = u8 e 0x20) →
        exec (.destroyGroup aq) s = .next (t.endAdmin j.uid 0xC2 0 0 0)) ∧
      ((∀ k ∈ t.jobs, ¬(k.part = p ∧ k.groupOp = true ∧ k.groupNo = u8 e 0x20)) → exec (.destroyGroup aq) s =
        .next ((t.modPart p fun x => { x with groups := x.groups.filter (·.g != u8 e 0x20) }).endAdmin j.uid 0 0 0 0))) ∧
    (aq ≠ 0 → t.slotPart (u16 e 0x20) = p →
      (s.Served aq 0x90 p j .part [⟨0x20, 2, 0xFFFF⟩, ⟨0x22, 1, 0x3F⟩, ⟨0x24, 1, 0xFF⟩, ⟨0x25, 1, 0xFF⟩] → u8 e 0x24 ≤ u8 e 0x25 →
        (∀ r, u8 e 0x24 ≤ r → r ≤ u8 e 0x25 → State.routeDefined r = true) →
        (t.keyOf (u16 e 0x20) = none → exec (.bindKey aq) s = .next (t.endAdmin j.uid 0xC1 (u16 e 0x20) 0 0)) ∧
        (∀ k, t.keyOf (u16 e 0x20) = some k → k.bound ≠ none → exec (.bindKey aq) s = .next (t.endAdmin j.uid 0xC2 0 0 0)) ∧
        (∀ k, t.keyOf (u16 e 0x20) = some k → k.bound = none → exec (.bindKey aq) s =
          .next ((t.putKey k.slot (some { k with bound := some (u8 e 0x22, u8 e 0x24, u8 e 0x25) })).endAdmin j.uid 0 0 0 0))) ∧
      (∀ k, s.Served aq 0x91 p j .part [⟨0x20, 2, 0xFFFF⟩] → t.keyOf (u16 e 0x20) = some k → k.bound ≠ none →
        exec (.unbindKey aq) s = .next ((t.putKey (u16 e 0x20) (some { k with bound := none })).waitAdmin j.uid
          (.jobs (t.slotJobs (u16 e 0x20))) 0 0))) ∧
    (u8 e 0x20 ≤ 7 →
      let o := t.tables.cbOwner.getD (u8 e 0x20) 0
      let busy := t.jobs.any fun k => k.part == p && (match k.cbSet with | some c => c == u8 e 0x20 || c + 1 == u8 e 0x20 | none => false)
      let own := fun (v : Nat) => ({ t with tables := { t.tables with cbOwner := modAt t.tables.cbOwner (u8 e 0x20) fun _ => v } } : State)
      (s.Served aq 0x92 p j .part [⟨0x20, 1, 0xFF⟩] →
        (o ≠ 0 → o ≠ p → exec (.claimCbset aq) s = .next (t.endAdmin j.uid 0xC2 0 0 0)) ∧
        (o = 0 ∨ o = p → exec (.claimCbset aq) s = .next ((own p).endAdmin j.uid 0 0 0 0))) ∧
      (s.Served aq 0x93 p j .part [⟨0x20, 1, 0xFF⟩] →
        (o = 0 → exec (.releaseCbset aq) s = .next (t.endAdmin j.uid 0 0 0 0)) ∧
        (o ≠ 0 → (o ≠ p ∨ busy = true) → exec (.releaseCbset aq) s = .next (t.endAdmin j.uid 0xC2 0 0 0)) ∧
        (o ≠ 0 → o = p → busy = false → exec (.releaseCbset aq) s =
          .next (((t.partSpans p).foldl (fun z n => z.clearSpan n [] [u8 e 0x20]) (own 0)).endAdmin j.uid 0 0 0 0))))

/-- SETUP_CHANNEL, ARM, DISARM and RELEASE (12 R276, R290, 13 R308): a record within its limits and ranges configures a free channel or one
of the same partition; arming sets P and C to 0 and holds the buffer span's vote; a running channel is disarmed once its run has
ended, an ARMED or HELD one at once; a channel of another partition is RESOURCE_HELD, a state without a row BAD_FIELD. REARM_PACER (13
R309, 12 R289): a pacer that is not STOPPED, or a number above 7, makes the command complete with BAD_FIELD and changes nothing; a
STOPPED one serves again and its HELD channels are ARMED, every channel's P, C and configuration unchanged. -/
def Obligations.ChannelCommandsAct : Prop :=
  (∀ (s : State) (aq p : Nat) (j : Job),
    let t := s.taken aq j
    let e := j.entry
    let ch := u8 e 0x20
    let x := t.chan ch
    ch ≤ 63 →
    (s.Served aq 0x94 p j .part State.setupFields →
      let c := State.cfgOf e
      (∀ y ∈ State.cfgLimits c ch, y.1 = false) →
      (c.shufOp = 3 ∨ c.shufOp = 4 → typeBits c.shufType = 4 ∨ typeBits c.shufType = 8) → c.dst.toNat % 64 = 0 → c.cons.toNat % 16 = 0 →
      t.rangesFail p c.pd (State.chanRanges c) = none →
      ((x.state ≠ .free ∧ x.owner ≠ p ∨ State.chanArmed x = true) → exec (.setupChannel aq) s = .next (t.endAdmin j.uid 0xC2 0 0 0)) ∧
      (x.state = .free ∨ (x.state = .configured ∧ x.owner = p) → exec (.setupChannel aq) s = .next ((t.modChan ch fun y =>
        { y with state := .configured, owner := p, cfg := c }).endAdmin j.uid 0 0 0 0))) ∧
    (s.Served aq 0x95 p j .part [⟨0x20, 1, 0xFF⟩] → x.state = .configured → x.owner = p →
      exec (.armChannel aq) s = .next (((t.modChan ch fun y =>
        { y with state := .armed, p := 0, c := 0, buffer := t.bufferSpan p }).voteCommitted 1 [t.bufferSpan p]).endAdmin j.uid 0 0 0 0)) ∧
    (s.Served aq 0x96 p j .part [⟨0x20, 1, 0xFF⟩] → x.owner = p →
      (x.state = .running → exec (.disarmChannel aq) s =
        .next ((t.modChan ch fun y => { y with disarm := true }).waitAdmin j.uid (.channel ch) 0 0)) ∧
      (x.state = .armed ∨ x.state = .held → exec (.disarmChannel aq) s = .next ((t.modChan ch fun y =>
        { y with state := .configured, flush := false, flushRun := false, cleared := false, drained := 0, phase := .draining,
                 disarm := false, xlat := [] }).endAdmin j.uid 0 0 0 0))) ∧
    (s.Served aq 0x97 p j .part [⟨0x20, 1, 0xFF⟩] →
      (x.state = .configured → x.owner = p → exec (.releaseChannel aq) s = .next ((t.modChan ch fun y =>
        { y with state := .free, owner := 0, cfg := {}, p := 0, c := 0, flush := false, drained := 0, phase := .draining,
                 disarm := false, flushRun := false, cleared := false, xlat := [] }).endAdmin j.uid 0 0 0 0)) ∧
      (x.state ≠ .free → x.owner ≠ p → exec (.releaseChannel aq) s = .next (t.endAdmin j.uid 0xC2 0 0 0)) ∧
      (x.state ≠ .configured → (x.state = .free ∨ x.owner = p) → exec (.releaseChannel aq) s = .next (t.endAdmin j.uid 0x02 0x20 0 0)))) ∧
  (∀ (s : State) (j : Job), s.Served 0 0x98 0 j .block [⟨0x20, 1, 0xFF⟩] →
    let t := s.taken 0 j
    let n := u8 j.entry 0x20
    ((7 < n ∨ (t.pacer n).stopped = false) → exec (.rearmPacer 0) s = .next (t.endAdmin j.uid 0x02 0x20 0 0)) ∧
    (n ≤ 7 → (t.pacer n).stopped = true → Inv s → ∃ r : State, exec (.rearmPacer 0) s = .next (r.endAdmin j.uid 0 0 0 0) ∧
      r = { t with pacers := r.pacers, chans := r.chans } ∧
      (∀ m, r.pacer m = if m = n then { t.pacer n with stopped := false, cause := 0 } else t.pacer m) ∧
      ∀ c, r.chan c = if c / 8 = n ∧ (t.chan c).state = .held then { t.chan c with state := .armed } else t.chan c))


/-- VOTE and READ_HEALTH (13 R310, R311, 16 R366): a hold replaces the holder's earlier vote, whose spans settle, raises the spans it
names and waits for their floor; a withdraw takes the vote away and ends at once. A health record is written whole, and the command waits for its answer.
FENCE and SWAP_SPARE (13 R312, R313, 18 R419, R420): a fence that would leave the partition without a span is RESOURCE_HELD, any other
opens an incident, takes the core or the span out of service and waits for its killed threads' writes; a fenced or unfenced element
needs nothing; a keeper's fence is RESOURCE_HELD; an unfenced core comes back active below 30 active cores, else as a spare. A swap with
no spare left is RESOURCE_HELD; a lane or the sorting processor is replaced at once, a core or pipe of a span drains first. -/
def Obligations.VoteHealthFenceAndSwapCommandsAct : Prop :=
  (∀ (s : State) (aq p : Nat) (j : Job),
    let t := s.taken aq j
    let e := j.entry
    let drop := t.modPart p fun x => { x with votes := x.votes.filter (·.holder != u8 e 0x20) }
    let mask := BitVec.ofNat 64 (u64 e 0x28)
    let old := ((t.part p).votes.filter (·.holder == u8 e 0x20)).flatMap fun v => maskList 40 v.mask.toNat
    (aq ≠ 0 → s.Served aq 0xA0 p j .part [⟨0x20, 1, 0xFF⟩, ⟨0x21, 1, 0xFF⟩, ⟨0x22, 1, 0xFF⟩, ⟨0x28, 8, 2 ^ 40 - 1⟩] → u8 e 0x20 ≤ 15 →
      (u8 e 0x21 = 0 → u8 e 0x22 = 0 → u64 e 0x28 = 0 → exec (.vote aq) s =
        .next ((old.foldl State.settleRun drop).endAdmin j.uid 0 0 0 0)) ∧
      (u8 e 0x21 = 1 → u8 e 0x22 ≤ 2 → u64 e 0x28 ≠ 0 → (∀ n ∈ maskList 40 (u64 e 0x28), t.spanOwner n = p) →
        exec (.vote aq) s = .next (((old.foldl State.settleRun (drop.modPart p fun x =>
          { x with votes := x.votes ++ [{ holder := u8 e 0x20, floor := u8 e 0x22, mask }] })).voteCommitted (u8 e 0x22)
            (maskList 40 mask.toNat)).waitAdmin j.uid (.floor mask (u8 e 0x22)) 0 0))) ∧
    (∀ bs, s.Served aq 0xA1 p j .block [⟨0x20, 1, 0xFF⟩, ⟨0x21, 1, 0x3F⟩, ⟨0x28, 8, 2 ^ 64 - 1⟩] → u64 e 0x28 % 32 = 0 →
      (aq = 0 → (u8 e 0x20 < 40 ∨ u8 e 0x20 = 0x30 ∨ u8 e 0x20 = 0x32) ∧ u8 e 0x21 = 0 ∧ u64 e 0x28 < 2 ^ 56) →
      (aq ≠ 0 → u8 e 0x20 < 40 ∧ t.spanOwner (u8 e 0x20) = p ∧ t.rangesFail aq (u8 e 0x21) [(u64 e 0x28, 32, false, true)] = none) →
      j.part = aq → t.place aq j.xlat (u64 e 0x28) (t.healthBytes (u8 e 0x20)) = some bs →
      exec (.readHealth aq) s =
        .next (((t.issue (.admin aq) aq 0 (u64 e 0x28 / 2 ^ 56) bs []).useFree).waitAdmin j.uid .writes 0 0))) ∧
  (∀ (s : State) (j : Job),
    let t := s.taken 0 j
    let e := j.entry
    let n := u8 e 0x20
    let c := u8 e 0x21
    let done := t.endAdmin j.uid 0 0 0 0
    let held := t.endAdmin j.uid 0xC2 0 0 0
    (s.Served 0 0xA2 0 j .block [⟨0x20, 1, 0xFF⟩, ⟨0x21, 1, 0xFF⟩, ⟨0x22, 1, 0xFF⟩] → n ≤ 39 →
      (c = 0xFF → u8 e 0x22 = 0 → (t.span n).fence = .none →
        (t.lastSpan n = true → exec (.fence 0) s = .next held) ∧
        (t.lastSpan n = false → let r := (t.cmdIncident n 1 (t.spanOwner n)).fenceSpan n .byOwner
          exec (.fence 0) s = .next ((r.1.modIncident n fun x => { x with reacted := true, killed := x.killed ++ r.2 }).waitAdmin j.uid
            (.fence n none) 0 0))) ∧
      (c = 0xFF → u8 e 0x22 = 0 → (t.span n).fence = .byOwner ∨ (t.span n).fence = .byKeeper → exec (.fence 0) s = .next done) ∧
      (c = 0xFF → u8 e 0x22 = 0 → (t.span n).fence = .byCount → exec (.fence 0) s =
        .next ((t.modSpan n fun x => { x with fence := .byOwner }).endAdmin j.uid 0 0 0 0)) ∧
      (c ≤ 31 → u8 e 0x22 = 0 →
        ((t.span n).cores.getD c .spare = .fenced ∨ (t.span n).cores.getD c .spare = .keeperFenced → exec (.fence 0) s = .next done) ∧
        ((t.span n).cores.getD c .spare = .active ∨ (t.span n).cores.getD c .spare = .spare → (t.span n).fence = .none →
          (t.fenceLeavesNone n c = true → exec (.fence 0) s = .next held) ∧
          (t.fenceLeavesNone n c = false → let r := (t.cmdIncident n 1 (t.spanOwner n)).fenceCore n c false
            exec (.fence 0) s = .next ((r.1.modIncident n fun x => { x with reacted := true, killed := x.killed ++ r.2 }).waitAdmin j.uid
              (.fence n (some c)) 0 0)))) ∧
      (c = 0xFF → u8 e 0x22 = 1 →
        ((t.span n).fence = .none → exec (.fence 0) s = .next done) ∧ ((t.span n).fence = .byKeeper → exec (.fence 0) s = .next held) ∧
        ((t.span n).fence = .byOwner ∨ (t.span n).fence = .byCount → t.spanOwner n ≠ 0 → exec (.fence 0) s =
          .next (((t.modSpan n fun x => { x with fence := .none, power := .deep, trans := none, wakeAfter := false }).raiseSpan n).waitAdmin j.uid
            (.floor (BitVec.ofNat 64 (2 ^ n)) 1) 0 0))) ∧
      (c ≤ 31 → u8 e 0x22 = 1 →
        ((t.span n).cores.getD c .spare = .keeperFenced → exec (.fence 0) s = .next held) ∧
        ((t.span n).cores.getD c .spare = .active ∨ (t.span n).cores.getD c .spare = .spare → exec (.fence 0) s = .next done) ∧
        ((t.span n).cores.getD c .spare = .fenced → (t.span n).fence ≠ .byCount → exec (.fence 0) s = .next ((t.modSpan n fun x =>
          { x with cores := modAt x.cores c fun _ => if t.coresActive n < 30 then .active else .spare }).endAdmin j.uid 0 0 0 0)))) ∧
    (s.Served 0 0xA3 0 j .block [⟨0x20, 1, 0xFF⟩, ⟨0x21, 1, 0xFF⟩, ⟨0x22, 1, 0xFF⟩] → u8 e 0x21 ≤ 3 →
      let k := State.kindOf (u8 e 0x21)
      let m := u8 e 0x22
      (u8 e 0x21 ≤ 1 → n ≤ 39) → (u8 e 0x21 = 2 → n = 0x32) → (u8 e 0x21 = 3 → n = 0x30 ∧ m = 0) → t.elemActive n k m = true →
      (t.spareOf n k = none → exec (.swapSpare 0) s = .next held) ∧
      (∀ x, t.spareOf n k = some x →
        (u8 e 0x21 ≤ 1 → (t.span n).swap = none → exec (.swapSpare 0) s = .next ((t.beginSwap n k m).waitAdmin j.uid (.swap n k m) 0 0)) ∧
        (u8 e 0x21 = 2 → exec (.swapSpare 0) s = .next (({ t with lanes := { t.lanes with
          lanes := modAt (modAt t.lanes.lanes m fun _ => .spare) x fun _ => .active
          logical := t.lanes.logical.map fun l => if l == some m then some x else l } } : State).endAdmin j.uid 0 0 0 0)) ∧
        (u8 e 0x21 = 3 → exec (.swapSpare 0) s =
          .next (({ t with lanes := { t.lanes with sorting := false } } : State).endAdmin j.uid 0 0 0 0)))))

/-- RESET, SCRUB_PARTITION, SWITCH_PROFILE and COMMAND_COMPLETES (13 R315 to R318, R297): a reset opens an incident and starts its level,
which it waits for; a scrub or a switch of a block that still holds objects is RESOURCE_HELD; a scrub empties the partition and waits;
a switch scrubs every partition, destroys A1 to A8, selects the profile and waits for its load. A command that waits ends with OK, its
COUNT and its AUX once its condition holds, and not before. -/
def Obligations.ResetScrubAndSwitchAct : Prop :=
  ∀ (s : State) (j : Job),
    let t := s.taken 0 j
    let e := j.entry
    let held := t.endAdmin j.uid 0xC2 0 0 0
    (∀ p u part (sc : Scope), s.Served 0 0xA4 p j .free_ [⟨0x20, 1, 0xFF⟩, ⟨0x21, 1, 0xFF⟩] →
      ((u8 e 0x20 = 1 ∧ p = 0 ∧ u8 e 0x21 ≤ 39 ∧ u = u8 e 0x21 ∧ part = t.spanOwner u ∧ sc = .span u) ∨
        (u8 e 0x20 = 2 ∧ t.defined p = true ∧ u8 e 0x21 = 0 ∧ u = 0x30 ∧ part = p ∧ sc = .part p) ∨
        (u8 e 0x20 = 3 ∧ p = 0 ∧ u8 e 0x21 = 0 ∧ u = 0x30 ∧ part = 0 ∧ sc = .block)) →
      let r := ((t.cmdIncident u (State.scopeLevel sc) part).waitAdmin j.uid .commit 0 0).startLevel sc [u] none
      exec (.reset 0) s = .next (r.1.modJob j.uid fun y => if y.wait = .commit then { y with wait := .level r.2 } else y)) ∧
    (∀ p, s.Served 0 0xA5 p j .part [⟨0x20, 1, 1⟩] →
      let objects := (t.queues.any fun x => x.state != .destroyed && x.part == p && (match x.qid with | .io _ => true | .adm _ => false)) ||
        !(t.part p).groups.isEmpty || !(t.part p).windows.isEmpty || (t.chans.any fun c => c.state != .free && c.owner == p)
      (objects = true → exec (.scrubPartition 0) s = .next held) ∧
      (objects = false → let r := t.scrubPart p (bitOf (u8 e 0x20) 0)
        exec (.scrubPartition 0) s = .next ((r.1.modPart p fun x => { x with scrubbing := true }).waitAdmin j.uid .writes r.2.1 r.2.2))) ∧
    (s.Served 0 0xA6 0 j .block [⟨0x20, 1, 0xFF⟩] → u8 e 0x20 ≤ 3 →
      let objects := (t.queues.any fun x => x.state != .destroyed && (match x.qid with | .io _ => true | .adm k => k != 0 && !x.open_.isEmpty)) ||
        (t.parts.any fun x => !x.groups.isEmpty) || (t.chans.any fun c => c.state != .free)
      (objects = true → exec (.switchProfile 0) s = .next held) ∧
      (objects = false →
        let u := ((List.range 9).foldl (fun (z : State) p => if z.defined p then (z.scrubPart p false).1 else z) t).destroyQueues State.notA0
        exec (.switchProfile 0) s = .next (({ u with prof := { u.prof with
          selected := BitVec.ofNat 2 (u8 e 0x20), committed := false, loaded := false, loadDue := true, switching := true,
          failedA := false, failedB := false } } : State).waitAdmin j.uid .profile 0 0))) ∧
    (∀ aq k, s.adminFront aq = some k → k.phase = .running →
      (s.waitMet aq k = false → exec (.commandCompletes aq) s = .next s) ∧
      (s.waitMet aq k = true → u8 k.entry 0 ≠ 0x8B → u8 k.entry 0 ≠ 0xA5 →
        exec (.commandCompletes aq) s = .next (s.endAdmin k.uid 0 0 k.count (if u8 k.entry 0 = 0xA6 then s.prof.outcome else 0))) ∧
      (s.waitMet aq k = true →
        let p := if aq = 0 then u8 k.entry 2 else aq
        (u8 k.entry 0 = 0x8B → exec (.commandCompletes aq) s = .next ((s.modPart p fun x =>
          { x with windows := x.windows.filter fun w => !(w.closing && w.w == u8 k.entry 0x20) }).endAdmin k.uid 0 0 k.count 0)) ∧
        (u8 k.entry 0 = 0xA5 → exec (.commandCompletes aq) s =
          .next ((s.modPart p fun x => { x with scrubbing := false }).endAdmin k.uid 0 0 k.count k.aux))))

/-! Paced channels (12). -/

/-- A producer write within 12 R280 moves P, any other counts PRODUCER_RANGE and PRODUCER_REFUSED and leaves P; a flush written to an armed
channel is pending, to another ignored (R291). An idle serving pacer starts a run on the first eligible channel after the one served
last (R282). A run drains the record at C to the same slot of its destination, reshuffled (R283, R286), adds 1 to C and ends at RUN_LIMIT,
at LOW, or at an empty fill for a flush run; once its writes are answered C goes to the consumer word, and once that is answered the line
pulses and the channel is ARMED again, or CONFIGURED where a disarm waited (R284, R290). -/
def Obligations.PacedChannelsRun : Prop :=
  (∀ s : State, s.regsOpen = true → s.centralAsleep = false →
    (∀ (ch : Nat) (v : Word32), ch < 64 →
      let x := s.chan ch
      (State.chanArmed x = true → (v - x.c).toNat ≤ 2 ^ x.cfg.log2 →
        exec (.producer ch v) s = .next (s.modChan ch fun y => { y with p := v })) ∧
      ((State.chanArmed x = false ∨ 2 ^ x.cfg.log2 < (v - x.c).toNat) →
        exec (.producer ch v) s =
          .next ((s.modChan ch fun y => { y with refusedP := y.refusedP + 1 }).countEvent (0x58 + ch / 8) 13 {})) ∧
      exec (.flushSet ch v) s =
        .next (if v.getLsbD 0 = true ∧ State.chanArmed x = true then s.modChan ch fun y => { y with flush := true } else s)) ∧
    (∀ (p ch : Nat), Inv s → p < 8 → ch < 64 → ch / 8 = p → s.running = true → (s.pacer p).stopped = false →
      (∀ i, i < 64 → i / 8 = p → (s.chan i).state ≠ .running) → (s.chan ch).eligible = true →
      (∀ i, i < 64 → i / 8 = p → (s.chan i).eligible = true →
        (ch % 8 + 7 - (s.pacer p).last % 8) % 8 ≤ (i % 8 + 7 - (s.pacer p).last % 8) % 8) →
      s.spanFenced (s.chan ch).buffer = false →
      ∃ t : State, exec (.runStart p) s = .next t ∧
        t.chan ch = { s.chan ch with state := .running, flushRun := (s.chan ch).flush, drained := 0, phase := .draining, xlat := [] } ∧
        (∀ i, i ≠ ch → t.chan i = s.chan i) ∧ (t.pacer p).last = ch % 8 ∧
        t = { s with chans := t.chans, pacers := t.pacers, spans := t.spans })) ∧
  (∀ (s : State) (p ch : Nat), s.runningChan p = some ch → s.pacerServes p = true →
    let x := s.chan ch
    let c := x.cfg
    let n := c.recKib * 1024
    let slot := x.c.toNat % 2 ^ c.log2 * n
    (∀ ks bs, x.phase = .draining → s.routeLost x.owner (c.src.toNat / 2 ^ 56) = false → s.routeLost x.owner (c.dst.toNat / 2 ^ 56) = false →
      s.keys x.owner x.xlat (c.src.toNat + slot) n = some ks → (∀ g ∈ granulesOf ks, g ∉ s.store.poison) →
      s.place x.owner x.xlat (c.dst.toNat + slot) (reshuffle c (ks.map s.store.get)) = some bs →
      let y := { x with c := x.c + 1, drained := x.drained + 1, records := x.records + 1 }
      let ends := y.drained = c.runLimit ∨ (x.flushRun = true ∧ y.fill = 0) ∨ (x.flushRun = false ∧ y.fill ≤ c.low)
      ch < s.chans.length →
      ∃ t : State, exec (.recordDrained p) s = .next t ∧
        t.store = (s.issue (.chanData ch) x.owner 0 (c.dst.toNat / 2 ^ 56) bs []).store ∧ (∀ i, i ≠ ch → t.chan i = s.chan i) ∧
        (ends → t.chan ch = { y with phase := .ended, flush := y.flush && y.fill != 0, cleared := y.flush && y.fill == 0 }) ∧ (¬ends → t.chan ch = y)) ∧
    (∀ bs, x.phase = .ended → s.chanWrites ch = [] → s.place x.owner x.xlat c.cons.toNat (leBytes 4 x.c.toNat) = some bs →
      exec (.runEnd p) s = .next ((s.issue (.chanCons ch) x.owner 0 (c.cons.toNat / 2 ^ 56) bs []).modChan ch fun y =>
        { y with phase := .consumer })) ∧
    (x.phase = .consumer → s.chanWrites ch = [] → ch < s.chans.length →
      ∃ t : State, exec (.evtOutPulse p) s = .next t ∧ t.block.out = .evt ch :: s.block.out ∧ (∀ i, i ≠ ch → t.chan i = s.chan i) ∧
        (x.disarm = false → t.chan ch = { x with state := .armed, drained := 0, phase := .draining, flushRun := false, cleared := false,
                                                 runs := x.runs + 1, xlat := [] }) ∧
        (x.disarm = true → (t.chan ch).state = .configured ∧ (t.chan ch).disarm = false ∧ (t.chan ch).flush = false ∧
          (t.chan ch).runs = x.runs + 1 ∧ (t.chan ch).p = x.p ∧ (t.chan ch).c = x.c)))


/-! Registers (20). -/

/-- 64-bit registers (20 R460): a read of the lower word answers bits 31 to 0 and copies bits 63 to 32 to the register's own latch, one of
the upper word answers the latch; a write to the lower word goes to the register's own shadow, one to the upper word sets the register
to the value joined with the shadow, which stays. Incident entries (R464): the record with SEQUENCE s lies in entry s & 15; a read of
word 0 copies the entry whole to its latch, words 1 to 3 answer the latch. OWNER_EVENT_SLOT takes an aligned host address, EVENT_SLOT
one that its partition may write, else SLOT_REFUSED is set (R465, R474); the profile window takes writes before commit (R462);
WAKE_TIMER and OFF_REQ act (16 R383, R385); a hardware event of the write's clock comes after it (00 R12); an access to a sleeping central domain waits for its wake (16 R374). -/
def Obligations.RegistersReadAndWriteByTheirRules : Prop :=
  ∀ s : State, s.regsOpen = true →
    (s.centralAsleep = false →
      (∀ off v, s.reg64? off = some v →
        let t : State := ({ s with regs := { s.regs with latch := assocPut s.regs.latch off (BitVec.ofNat 32 (v / 2 ^ 32)) } }).emit
          (.regData off (BitVec.ofNat 32 v))
        exec (.lowerWordRead off) s = .next t ∧ exec (.registerRead off 4) s = .next t ∧
        exec (.registerRead (off + 4) 4) s = .next (s.emit (.regData (off + 4) (lookupD s.regs.latch off 0)))) ∧
      (∀ off, s.writable64 off = true →
        (∀ v : Word64, exec (.registerWrite off 4 ⟨v, none⟩) s =
          .next { s with regs := { s.regs with shadow := assocPut s.regs.shadow off (v.setWidth 32) } }) ∧
        ∀ v : Word32, ∃ t : State, exec (.upperWordWrite (off + 4) v) s = .next t ∧ t.regs = s.regs ∧
          t = s.write64 off (v ++ lookupD s.regs.shadow off 0)) ∧
      (∀ v : Word32, let w := v ++ lookupD s.regs.shadow 0x1010 0
        exec (.ownerEventSlot v) s = .next (if w.toNat / 2 ^ 56 = 0 ∧ w.toNat % 16 = 0 then
          { s with keeper := { s.keeper with ownerSlot := w } } else s)) ∧
      (∀ e < 16, exec (.incidentWord0Read e) s = .next (({ s with keeper := { s.keeper with
          ringLatch := modAt s.keeper.ringLatch e fun _ => s.keeper.ring.getD e 0 } } : State).emit
            (.regData (0x1100 + 16 * e) (BitVec.ofNat 32 (s.keeper.ring.getD e 0).toNat))) ∧
        ∀ k, 1 ≤ k → k ≤ 3 → exec (.registerRead (0x1100 + 16 * e + 4 * k) 4) s =
          .next (s.emit (.regData (0x1100 + 16 * e + 4 * k) (BitVec.ofNat 32 ((s.keeper.ringLatch.getD e 0).toNat / 2 ^ (32 * k)))))) ∧
      (∀ p v, s.defined p = true → p < s.parts.length →
        let off := 0x100000 + (p - 1) * 0x10000
        let w := v ++ lookupD s.regs.shadow (off + 0x40) 0
        let x := s.part p
        (w = 0 ∨ s.slotCheck p w.toNat x.eventPd.toNat = true →
          exec (.eventSlot p v) s = .next (s.modPart p fun y => { y with eventSlot := w, slotRefused := false })) ∧
        (w ≠ 0 → s.slotCheck p w.toNat x.eventPd.toNat = false →
          exec (.eventSlot p v) s = .next (s.modPart p fun y => { y with slotRefused := true })) ∧
        (x.eventSlot = 0 → exec (.eventPd p v) s = .next (s.modPart p fun y => { y with eventPd := BitVec.ofNat 6 (v.toNat % 64) })) ∧
        (x.eventSlot ≠ 0 → s.slotCheck p x.eventSlot.toNat (v.toNat % 64) = true → exec (.eventPd p v) s =
          .next (s.modPart p fun y => { y with eventPd := BitVec.ofNat 6 (v.toNat % 64), slotRefused := false })) ∧
        (x.eventSlot ≠ 0 → s.slotCheck p x.eventSlot.toNat (v.toNat % 64) = false →
          exec (.eventPd p v) s = .next (s.modPart p fun y => { y with slotRefused := true }))) ∧
      (∀ off v,
        (s.prof.committed = false → off % 4 = 0 → off < 0x7FC → Inv s → ∃ t : State, exec (.profileWindowWrite off v) s = .next t ∧
          t = { s with prof := { s.prof with image := t.prof.image } } ∧
          (∀ i < 4, memGet t.prof.image (off + i) 0 = (leBytes 4 v.toNat).getD i 0) ∧
          ∀ k, (k < off ∨ off + 4 ≤ k) → memGet t.prof.image k 0 = memGet s.prof.image k 0) ∧
        (s.prof.committed = true ∨ 0x7FC ≤ off → exec (.profileWindowWrite off v) s = .next s)) ∧
      (∀ v : Word64, exec (.registerWrite 0x18 4 ⟨v, none⟩) s = .next { s with regs := { s.regs with ownerCtx := v.setWidth 32 } })) ∧
    (∀ off width v ev, ∃ t, exec (.registerWrite off width ⟨v, none⟩) s = .next t ∧
      exec (.registerWrite off width ⟨v, ev⟩) s = .next (t.hwEvent ev)) ∧
    (∀ u x closed, (s.unit u).incident = some x → (s.writeRecord u closed).keeper.ring =
      modAt s.keeper.ring (x.seq.toNat % 16) fun _ => BitVec.ofNat 128 (leNat (State.incidentBytes u x closed))) ∧
    (∀ v, exec (.wakeTimer v) s = .next { s with central := { s.central with wakeTimer := v, timerFired := false } }) ∧
    (∀ v : Word32, v.getLsbD 3 = true →
      let z : State := { s with central := { s.central with deepEnable := v.getLsbD 2, dwell := BitVec.ofNat 16 (v.toNat / 2 ^ 16) } }
      (∀ c, z.offBar = some c → exec (.offReq v) s = .next (z.refuseCentral c)) ∧
      (z.offBar = none → exec (.offReq v) s = .next { z with block := { z.block with offEntry := true } })) ∧
    (s.centralAsleep = true → ∀ off, off % 4 = 0 → off < 0x400000 → State.powerPage off = false →
      exec (.registerRead off 4) s = .next (({ s with central := { s.central with
        deferred := s.central.deferred ++ [(off, none)], wakeCause := s.central.wakeCause ||| 16 } } : State).wakeCentral) ∧
      ∀ v : Word64, exec (.registerWrite off 4 ⟨v, none⟩) s = .next (({ s with central := { s.central with
        deferred := s.central.deferred ++ [(off, some (v.setWidth 32))], wakeCause := s.central.wakeCause ||| 16 } } : State).wakeCentral))

/-- The administrative queue registers (20 R466 to R468): CREATE of legal registers makes the queue ACTIVE at H = A = 0 with its status
line; a queue that exists is RESOURCE_HELD, as is Ap before commit (log entry 23), a breach BAD_FIELD; CONTEXT_RESET starts the level
and is BUSY until it finishes; RESUME takes RESET and STOPPED to ACTIVE; DESTROY needs a queue with no pending entry, and for A0 no
other queue. While BUSY a command is ignored. -/
def Obligations.AdministrativeQueuesAreSetUp : Prop :=
  ∀ (s : State) (p : Nat), s.regsOpen = true → s.centralAsleep = false → (p = 0 ∨ s.defined p = true) →
    let a := (s.part p).aq
    let done := fun (t : State) (cmd code : Nat) => t.modPart p fun x =>
      { x with aq := { x.aq with cmd, code := BitVec.ofNat 8 code, busy := false, level := none } }
    (a.busy = true → exec (.create p) s = .next s ∧ exec (.contextReset p) s = .next s ∧ exec (.resume p) s = .next s ∧
      exec (.destroy p) s = .next s) ∧
    (a.busy = false →
      (4 ≤ a.log2.toNat → a.log2.toNat ≤ 16 → State.ringBad a.ring.toNat = false → State.statusBad a.status.toNat = false →
        (p = 0 → a.ring.toNat / 2 ^ 56 = 0) →
        (p ≠ 0 → s.prof.committed = false → exec (.create p) s = .next (done s 1 0xC2)) ∧
        ((p ≠ 0 → s.prof.committed = true ∧
            s.rangesFail p a.pd.toNat (State.queueRanges a.ring.toNat a.log2.toNat a.status.toNat) = none) →
          (s.live? (.adm p) ≠ none → exec (.create p) s = .next (done s 1 0xC2)) ∧
          (s.live? (.adm p) = none → exec (.create p) s = .next (done ((s.putQueue
            { qid := .adm p, part := p, state := .active, ring := a.ring, log2 := a.log2.toNat, status := a.status,
              pd := if p = 0 then 0 else a.pd.toNat, head := 0, tail := 0 }).writeStatus (.adm p)) 1 0)))) ∧
      ((a.log2.toNat < 4 ∨ 16 < a.log2.toNat ∨ State.ringBad a.ring.toNat = true ∨ State.statusBad a.status.toNat = true) →
        exec (.create p) s = .next (done s 1 0x02)) ∧
      (∀ x, s.live? (.adm p) = some x →
        (x.state ≠ .reset → exec (.contextReset p) s =
          .next ((s.startLevel (.context (.adm p)) [] none).1.modPart p fun y =>
            { y with aq := { y.aq with cmd := 2, busy := true, level := some (s.startLevel (.context (.adm p)) [] none).2 } })) ∧
        (x.state = .reset → exec (.contextReset p) s = .next (done s 2 0x02)) ∧
        (x.state = .reset ∨ x.state = .stopped → exec (.resume p) s = .next (done (s.setQState (.adm p) .active) 3 0)) ∧
        (x.state = .active ∨ x.state = .error ∨ x.state = .halted → exec (.resume p) s = .next (done s 3 0x02)) ∧
        (x.open_ = [] → (p = 0 → ∀ y ∈ s.queues, y.state = .destroyed ∨ State.notA0 y = false) →
          exec (.destroy p) s = .next (done (s.setQState (.adm p) .destroyed) 4 0)) ∧
        ((x.open_ ≠ [] ∨ (p = 0 ∧ ∃ y ∈ s.queues, y.state ≠ .destroyed ∧ State.notA0 y = true)) →
          exec (.destroy p) s = .next (done s 4 0xC2))))

/-! Key port and test access port (14). -/

/-- Key loads and erasures (14 R327, R329): a checked load of a slot of some partition that is not bound stores key and mode and is
ACCEPTED, a refused one changes nothing (the order among several refusals is the model's, log entry 20); an erased slot is EMPTY at once,
and ACCEPTED once no earlier job names it; any other operation is BAD_OP. The test access port (14 R341, R342, 19 R458): EXTEST and SAMPLE/PRELOAD shift the boundary
register, EXTEST drives the pins; IDCODE
shifts the identity, BYPASS one bit; DEBUG_ARM empties the key slots with the fuse intact; SCAN_ACCESS, STAGING_READ and KEYPATH_TEST act
only then, and act as BYPASS otherwise; SELFTEST_START runs the self-test of a block that serves, after the first commit of spares and unassigned spans only; STATUS_READ shifts status and incident
records; TRST_N returns the port to its reset state. -/
def Obligations.KeyPortAndTestPortAct : Prop :=
  (∀ (s : State) (slot : Nat) (check : Word32) (key : List Byte), s.tables.erasing = [] →
    let bound := ∃ k, s.keyOf slot = some k ∧ k.bound ≠ none
    (s.block.debugArmed = true → exec (.loadXts slot check key) s = .next (s.emit (.keyResp 5)) ∧
      exec (.loadGcm slot check key) s = .next (s.emit (.keyResp 5))) ∧
    (s.block.debugArmed = false →
      (s.slotPart slot = 0 → exec (.loadXts slot check key) s = .next (s.emit (.keyResp 2))) ∧
      (s.slotPart slot ≠ 0 → crc32c key ≠ check → exec (.loadXts slot check key) s = .next (s.emit (.keyResp 3))) ∧
      ((∃ b ∈ key.drop 32, b ≠ 0) → exec (.loadGcm slot check key) s = .next (s.emit (.keyResp 4))) ∧
      (s.slotPart slot ≠ 0 → crc32c key = check →
        (bound → exec (.loadXts slot check key) s = .next (s.emit (.keyResp 1))) ∧
        (¬bound →
          exec (.loadXts slot check key) s = .next (({ s with tables := { s.tables with
            keys := s.tables.keys.filter (·.slot != slot) ++ [{ slot, gcm := false, bytes := key }] } } : State).emit (.keyResp 0)) ∧
          ((∀ b ∈ key.drop 32, b = 0) → exec (.loadGcm slot check key) s = .next (({ s with tables := { s.tables with
            keys := s.tables.keys.filter (·.slot != slot) ++ [{ slot, gcm := true, bytes := key }] } } : State).emit (.keyResp 0)))))) ∧
    (∀ op, op ≠ 3 → exec (.erase ⟨slot, op⟩) s = .next (s.emit (.keyResp 4))) ∧
    (s.slotPart slot = 0 → exec (.erase ⟨slot, 3⟩) s = .next (s.emit (.keyResp 2))) ∧
    (s.slotPart slot ≠ 0 →
      let gone : State := { s with tables := { s.tables with keys := s.tables.keys.filter (·.slot != slot) } }
      ((¬bound ∨ s.slotJobs slot = []) → exec (.erase ⟨slot, 3⟩) s = .next (gone.emit (.keyResp 0))) ∧
      (bound → s.slotJobs slot ≠ [] → exec (.erase ⟨slot, 3⟩) s =
        .next { gone with tables := { gone.tables with erasing := [{ slot, jobs := s.slotJobs slot }] } }))) ∧
  (∀ s : State,
    let ir := fun (z : State) (c : BitVec 8) => ({ z with tap := { z.tap with ir := c, extest := false } } : State)
    let byp := fun (c : BitVec 8) => (ir s c).emit (.tdo [false])
    (∀ bits, exec (.samplePreload bits) s =
        .next { s with block := { s.block with out := .tdo s.tap.boundary :: s.block.out },
                       tap := { s.tap with ir := 0x01, extest := false, boundary := bits } } ∧
      exec (.extest bits) s =
        .next { s with block := { s.block with out := .tdo s.tap.boundary :: s.block.out },
                       tap := { s.tap with ir := 0x00, extest := true, boundary := bits } }) ∧
    exec .idcode s = .next ((ir s 0x02).emit (.tdo ((List.range 32).map fun i => bitOf
      (1 + 2 * Config.manufacturer.toNat + 2 ^ 12 * 0x5CEB + 2 ^ 28 * Config.version.toNat) i))) ∧
    (∀ c, exec (.bypass c) s = .next (byp c)) ∧ exec .trstN s = .next { s with tap := {} } ∧
    (s.block.testLock = false → exec .debugArm s = .next { s with
      tap := { s.tap with ir := 0x20, extest := false }, tables := { s.tables with keys := [] },
      block := { s.block with debugArmed := true } }) ∧
    (s.block.testLock = true → exec .debugArm s = .next (byp 0x20)) ∧
    (s.block.testLock = true ∨ s.block.debugArmed = false → exec .scanAccess s = .next (byp 0x21) ∧
      (∀ n off, exec (.stagingRead n off) s = .next (byp 0x22)) ∧ ∀ g k w d, exec (.keypathTest g k w d) s = .next (byp 0x23)) ∧
    (s.block.testLock = false → s.block.debugArmed = true →
      exec .scanAccess s = .next { s with tap := { s.tap with ir := 0x21, extest := false, scan := true } } ∧
      (∀ n off, exec (.stagingRead n off) s = .next ((ir s 0x22).emit
        (.tdo (State.toBits (s.store.read (locKey (.staging n) (off / 64 * 64)) 64))))) ∧
      (∀ k w d, exec (.keypathTest false k w d) s = .next ((ir s 0x23).emit (.tdo (State.toBits (xtsUnit true k w d)))) ∧
        exec (.keypathTest true k w d) s = .next ((ir s 0x23).emit (.tdo (State.toBits
          (gcmCrypt k (w.take 12) d ++ gcmTag k (w.take 12) (gcmCrypt k (w.take 12) d))))))) ∧
    (∀ o, (s.running = false → exec (.selftestStart o) s = .next (ir s 0x24)) ∧
      (s.running = true → s.prof.once = true → exec (.selftestStart o) s = .next ((ir s 0x24).retestSpares o)) ∧
      (s.running = true → s.prof.once = false → exec (.selftestStart o) s = .next ((ir s 0x24).retestAll o))) ∧
    (∀ u, exec (.statusRead u) s = .next ((ir s 0x25).emit (.tdo
      (((List.range 16).map fun i => ((s.unit u).sources.getD i {}).sticky) ++
       ((List.range 16).map fun i => ((s.unit u).sources.getD i {}).severe) ++
       s.keeper.ring.flatMap fun r => (List.range 128).map fun i => r.getLsbD i)))))

/-! Profiles, start-up, supply (15, 19, 21). -/

/-- Start-up and profiles (15 R344, R351, R353, R355, R356, R359, 19 R453, 21 R478). RST_N and VIN_LOW take every register to its value at
reset and keep memory outside the staging buffers; the release samples the straps and the fuse. The self-test's outcome stands in every
span's elements; with no span left start-up stops. A load activates the selected profile, or S, by the table of R351, and empties the key
slots; COMMIT takes legal values, and refuses others with COMMIT_FAULT. A step missed stops start-up with PWRCYC_REQ. -/
def Obligations.StartUpAndProfilesFollowTheirTable : Prop :=
  ∀ s : State,
    (∀ (c : Instr) (low : Bool), (c = .rstNAssert ∧ low = s.block.vinLow ∨ c = .vinLow ∧ low = true) →
      ∃ t : State, exec c s = .next t ∧ t = { State.reset with
        block := { State.reset.block with
          testLock := s.block.testLock, debugArmed := s.block.debugArmed, vinLow := low, refClk := s.block.refClk,
          ticks := s.block.ticks, free := s.block.free, out := s.block.out }
        store := t.store, tap := s.tap, uidNext := s.uidNext, pending := s.pending } ∧
        (Memory.wf s.store → ∀ k, ¬(locKey (.staging 0) 0 ≤ k ∧ k < locKey (.staging 40) 0) → t.store.get k = s.store.get k)) ∧
    (∀ psel deckId fuse,
      let up : State := { s with
        block := { s.block with phase := .starting, step := 1, testLock := s.block.testLock || fuse, debugArmed := false, deckId,
                                pwrcyc := false, offEntry := false }
        keeper := { s.keeper with alive := false, frozen := false, ready := 0 }
        prof := { s.prof with selected := psel, pselSampled := psel, loadDue := true } }
      (s.block.phase = .held → s.block.vinLow = false → exec (.rstNRelease psel deckId fuse) s = .next up) ∧
      (s.block.phase = .held → s.block.vinLow = true →
        exec (.vinRecovered psel deckId fuse) s = .next { up with block := { up.block with vinLow := false } })) ∧
    (∀ step, s.block.phase = .starting → s.block.step < step → ∃ t : State, exec (.startupStepTimeout step) s = .next t ∧
      t.block.phase = .stopped ∧ t.block.pwrcyc = true ∧ t.keeper.alive = false ∧
      t.keeper.ready = s.keeper.ready ||| BitVec.ofNat 4 (2 ^ (min step 5 - 2) - 1)) ∧
    (∀ o : SelfTest, s.block.phase = .starting → 0 < s.block.step → s.block.step < 5 → s.resetDrained = true → Inv s →
      ∃ t : State, exec (.selfTest o) s = .next t ∧
        (∀ n < 40, (t.span n).cores = State.retest (s.span n).cores (badCores o n) 30 ∧
          (t.span n).pipes = State.retest (s.span n).pipes (badPipes o n) 4) ∧
        t.lanes.lanes = State.retest s.lanes.lanes (badLanes o) 16 ∧
        ((∃ n < 40, t.spanFenced n = false) → t.block.phase = .starting ∧ t.block.step = 5 ∧ t.keeper.ready = s.keeper.ready ||| 7) ∧
        ((∀ n < 40, t.spanFenced n = true) → t.block.phase = .stopped ∧ t.block.pwrcyc = true ∧ t.keeper.alive = false)) ∧
    (∀ copyB, s.prof.loadDue = true → (if copyB then s.prof.failedB else s.prof.failedA) = false →
      let z := s.countEvent 0x31 7 {}
      exec (.profileCopyReadFailure copyB) s = .next { z with
        prof := if copyB then { z.prof with failedB := true } else { z.prof with failedA := true } }) ∧
    (∀ (a b : List Byte) (attach : BitVec 8) (logic : Bool), s.prof.loadDue = true → (s.prof.switching = true ∨ s.block.phase = .starting ∧ s.block.step = 5) →
      s.prof.failedA = false → s.prof.failedB = false →
      ∃ t : State, exec (.profileLoad (some a, some b) ⟨attach, logic⟩) s = .next (t.loadFinished logic) ∧
        let z : State := { s with prof := { s.prof with loadCaps := s.readyStacks } }
        let fa := z.copyFail (some a)
        let fb := z.copyFail (some b)
        t.tables.keys = [] ∧ t.prof.failA = BitVec.ofNat 3 fa ∧ t.prof.failB = BitVec.ofNat 3 fb ∧ t.prof.selected = s.prof.selected ∧
        t.prof.loaded = true ∧ t.prof.loadDue = false ∧ t.prof.committed = false ∧
        (fa = 0 → fb = 0 → a = b → t.prof.activeS = false ∧ t.prof.image = imageCells a ∧ t.prof.outcome = 0 ∧
          t.prof.oneCopy = s.prof.oneCopy ∧ t.prof.disagree = s.prof.disagree ∧ t.prof.bad = s.prof.bad) ∧
        (fa = 0 → fb ≠ 0 → t.prof.activeS = false ∧ t.prof.image = imageCells a ∧ t.prof.outcome = 1 ∧ t.prof.oneCopy = true) ∧
        (fa ≠ 0 → fb = 0 → t.prof.activeS = false ∧ t.prof.image = imageCells b ∧ t.prof.outcome = 1 ∧ t.prof.oneCopy = true) ∧
        (fa = 0 → fb = 0 → a ≠ b → t.prof.activeS = true ∧ t.prof.image = imageCells (z.safeImage attach) ∧ t.prof.outcome = 2 ∧
          t.prof.disagree = true) ∧
        (fa ≠ 0 → fb ≠ 0 → t.prof.activeS = true ∧ t.prof.image = imageCells (z.safeImage attach) ∧ t.prof.outcome = 3 ∧ t.prof.bad = true)) ∧
    (∀ logic, (s.prof.switching = true → s.loadFinished logic =
        { s with prof := { s.prof with committed := true, once := true, switching := false } }) ∧
      (s.prof.switching = false → (s.loadFinished false).block.step = 6 ∧ (s.loadFinished true).block.phase = .running ∧
        (s.loadFinished true).block.step = 7 ∧ (s.loadFinished true).keeper.ready = s.keeper.ready ||| 8)) ∧
    (∀ v : Word32, s.running = true → s.centralAsleep = false → v.getLsbD 0 = true → s.prof.committed = false → s.prof.loaded = true →
      (s.commitOk = false → exec (.commit v) s = .next { s with prof := { s.prof with commitFault := true } }) ∧
      (s.commitOk = true → ∃ t : State, exec (.commit v) s = .next t ∧ t.prof = { s.prof with committed := true, once := true } ∧
        (∀ u < 96, (t.unit u).policy = BitVec.ofNat 32 (s.img (0x300 + 4 * u) 4)) ∧
        ∀ q < 4, q < s.quads.length → s.clockCeil q ≤ (t.quads.getD q {}).point))

/-! Power domains, supply and clocks (16, 21). -/

/-- Domains descend and rise (16 R363 to R365, R369, R370, R372, R373, R376). A span whose dwell completes begins its entry; a floor or
the retention estimate refuses it, counted and with the holder's code; a load above 480 mA aborts a DEEP_SLEEP entry and nothing is
lost. An entry completes in its state, and a wake that arrived meanwhile begins the exit at once; an exit ends in IDLE, or RUN where a
floor asks for it. The first step a span misses resets it, the second fences it. -/
def Obligations.DomainsDescendAndRise : Prop :=
  ∀ (s : State) (n : Nat), n < s.spans.length →
    (s.canDescend n .idle = true → (s.span n).sleepDwell ≠ 0 →
      (s.floorOn n = none → exec (.sleepDwellExpiry n) s = .next (s.modSpan n fun x => { x with trans := some .toSleep })) ∧
      (∀ f h, s.floorOn n = some (f, h) → 2 ≤ f →
        exec (.sleepDwellExpiry n) s = .next (s.modSpan n fun x => { x with trans := some .toSleep })) ∧
      (∀ f h, s.floorOn n = some (f, h) → f ≤ 1 → exec (.sleepDwellExpiry n) s = .next (s.modSpan n fun x =>
        { x with refused := satAdd 32 x.refused 1, lastRefuser := BitVec.ofNat 8 h }))) ∧
    (∀ (c : Int) (ma : Nat), let z : State := { s with central := { s.central with temp := c } }
      s.canDescend n .sleep = true → (s.span n).deepDwell ≠ 0 → (s.span n).deepEnable = true →
      (∀ f h, s.floorOn n = some (f, h) → exec (.deepDwellExpiry n c ma) s = .next (z.modSpan n fun x =>
        { x with refused := satAdd 32 x.refused 1, lastRefuser := BitVec.ofNat 8 h })) ∧
      (s.floorOn n = none → 480000 < State.estUa (s.deepUnits (some n) false) c → exec (.deepDwellExpiry n c ma) s =
        .next (z.modSpan n fun x => { x with refused := satAdd 32 x.refused 1, lastRefuser := 0x14 })) ∧
      (s.floorOn n = none → State.estUa (s.deepUnits (some n) false) c ≤ 480000 →
        (480 < ma → exec (.deepDwellExpiry n c ma) s = .next (z.modSpan n fun x => { x with aborted := satAdd 32 x.aborted 1 })) ∧
        (ma ≤ 480 → exec (.deepDwellExpiry n c ma) s = .next (z.modSpan n fun x => { x with trans := some .toDeep })))) ∧
    (∀ (c : Int) (ma : Nat), let z : State := { s with central := { s.central with temp := c } }
      s.running = true → s.central.power = .run → s.central.trans = none → s.central.deepEnable = true → s.central.dwell ≠ 0 →
      (∀ k, z.centralBar c = some k → exec (.centralDwellExpiry c ma) s = .next (z.refuseCentral k)) ∧
      (z.centralBar c = none →
        (480 < ma → exec (.centralDwellExpiry c ma) s =
          .next { z with central := { z.central with aborted := satAdd 32 z.central.aborted 1 } }) ∧
        (ma ≤ 480 → exec (.centralDwellExpiry c ma) s = .next { z with central := { z.central with trans := some .toDeep } }))) ∧
    ((s.span n).trans = some .toSleep →
      let z := s.modSpan n fun y => { y with power := .sleep, trans := none, wakeAfter := false }
      exec (.powerEntryDone (.span n)) s = .next (if (s.span n).wakeAfter then z.raiseSpan n else z)) ∧
    ((s.span n).trans = some .toDeep →
      let z := (s.dropUnretained n).modSpan n fun y => { y with power := .deep, trans := none, wakeAfter := false }
      exec (.powerEntryDone (.span n)) s = .next (if (s.span n).wakeAfter then z.raiseSpan n else z)) ∧
    (s.central.trans = some .toDeep →
      let y := s.dropCentral
      let z : State := { y with central := { y.central with power := .deep, trans := none, wakeAfter := false } }
      exec (.powerEntryDone .central) s = .next (if s.central.wakeAfter then
        { z with central := { z.central with trans := some .exitDeep } } else z)) ∧
    (s.block.refClk = true → ((s.span n).trans = some .exitSleep ∨ (s.span n).trans = some .exitDeep) → ∃ t : State,
      exec (.domainExit (.span n)) s = .next t ∧ (∀ m, m ≠ n → t.span m = s.span m) ∧ t = { s with spans := t.spans } ∧
      t.span n = { s.span n with power := if s.spanBusy n || (s.floorOn n).map (·.1) == some 0 then .run else .idle, trans := none }) ∧
    (s.block.refClk = false → ∀ d, exec (.domainExit d) s = .next s) ∧
    (∀ step, step ∈ State.spanSteps (s.span n) → s.spanFenced n = false →
      ((s.span n).missed = false → exec (.powerStepTimeout (.span n) step) s = .next (((((s.countEvent n 8 {}).cause n
        { seq := 0, source := 8, cause := 2, step, level := 3, part := s.spanOwner n }).modSpan n fun x =>
          { x with missed := true }).startLevel (.span n) [n] none).1)) ∧
      ((s.span n).missed = true → (s.spanOwner n = 0 ∨ s.lastSpan n = false) →
        let r := ((s.countEvent n 8 {}).cause n
          { seq := 0, source := 8, cause := 2, step, level := 1, part := s.spanOwner n }).fenceSpan n .byKeeper
        exec (.powerStepTimeout (.span n) step) s =
          .next (r.1.modIncident n fun x => { x with reacted := true, killed := x.killed ++ r.2 })))

/-- Wakes, OFF, supply, operating points and clocks (16 R374, R377, R382, R383, 21 R481 to R485). A timer, WAKE_N or LINK_ENERGY wake
records its cause and raises the central domain and its spans; in OFF, WAKE_N is a cold start; an owner's comparator only counts. A
retention brown-out loses what was retained, an always-on one drives PWRCYC_REQ. The power cap lowers the fastest quadrant, or raises the
slowest, one at a time. A loss of REF_CLK freezes ALIVE, its return resets the block, its absence escalates to a power cycle. -/
def Obligations.WakesSupplyAndClocksAct : Prop :=
  ∀ s : State,
    let raise := fun (z : State) (bit : Word32) (m : Word64) =>
      (({ z with central := { z.central with wakeCause := z.central.wakeCause ||| bit } } : State).wakeCentral).raiseSpans
        (maskList 40 m.toNat)
    (s.inService = true → (s.central.timerFired = true ∨ s.central.wakeTimer ≠ 0) → exec .timerWake s =
      .next (raise { s with central := { s.central with wakeTimer := 0, timerFired := false } } 8 s.central.timerSpans)) ∧
    (∀ psel d f, s.inService = true → exec (.wakeN psel d f) s = .next (raise s 4 s.central.wakeSpans)) ∧
    (∀ psel d f, s.block.phase = .off → ∃ t : State, exec (.wakeN psel d f) s = .next t ∧ t.block.phase = .starting ∧ t.block.step = 1 ∧
      t.prof.selected = psel ∧ t.prof.pselSampled = psel ∧ t.block.deckId = d ∧ t.block.testLock = (s.block.testLock || f) ∧
      t.block.debugArmed = s.block.debugArmed) ∧
    (∀ mv : Nat, s.inService = true → s.leThresh ≠ 0 →
      let arm := fun (b : Bool) => ({ s with central := { s.central with leArmed := b } } : State)
      let high := 25 * s.leThresh ≤ 2 * mv
      let low := 2 * mv ≤ 25 * s.leThresh - 50
      (s.central.leArmed = true ∧ ¬high ∨ s.central.leArmed = false ∧ ¬low → exec (.linkEnergy mv) s = .next s) ∧
      (s.central.leArmed = true → high → s.leOwner = false → exec (.linkEnergy mv) s = .next (raise (arm false) 2 s.central.wakeSpans)) ∧
      (s.central.leArmed = false → low → s.leOwner = false → exec (.linkEnergy mv) s = .next (arm true)) ∧
      (s.central.leArmed = true → high → s.leOwner = true → exec (.linkEnergy mv) s = .next ((({ arm false with
        ports := { s.ports with leRise := s.ports.leRise + 1 } } : State)).countEvent 0x50 14 {})) ∧
      (s.central.leArmed = false → low → s.leOwner = true → exec (.linkEnergy mv) s = .next ((({ arm true with
        ports := { s.ports with leFall := s.ports.leFall + 1 } } : State)).countEvent 0x50 14 {}))) ∧
    ((s.central.power = .deep ∨ s.block.phase = .off) →
      let z := ({ s with central := { s.central with wakeCause := s.central.wakeCause ||| 0x200 } } : State).countEvent 0x31 10 {}
      exec (.brownout true) s = .next { z with keeper := { z.keeper with alive := false }, block := { z.block with pwrcyc := true } }) ∧
    (s.inService = true → s.someDeep = true → ∃ t : State, exec (.brownout false) s = .next t ∧ t.central.retCut = true ∧
      t.central.wakeCause = s.central.wakeCause ||| 0x100 ∧
      (s.central.power = .deep → s.retCentral ≠ 0 → t.central.exitReset = true) ∧
      (s.central.power = .deep → bitOf s.retCentral 0 = true →
        ∀ x ∈ t.queues, x.state = .destroyed ∨ x.qid = .adm 0 ∨ x.lost = true)) ∧
    (s.block.offEntry = true → ∃ t : State, exec .offEntryDone s = .next t ∧ t.block.phase = .off ∧ t.tables.keys = [] ∧
      t.queues = [] ∧ t.jobs = [] ∧ t.keeper.alive = false) ∧
    (∀ mean below, s.running = true → (∀ x ∈ s.quads, x.change = none) →
      (∀ q, s.powerCap * 1000 < mean → s.lowerable = some q →
        exec (.powerCapCheck mean below) s = .next (s.setQuad q fun x => { x with change := some (x.point + 1) })) ∧
      (∀ q, mean < s.powerCap * 900 → below = true → s.raisable = some q →
        exec (.powerCapCheck mean below) s = .next (s.setQuad q fun x => { x with change := some (x.point - 1) })) ∧
      (mean ≤ s.powerCap * 1000 → (below = false ∨ s.powerCap * 900 ≤ mean) → exec (.powerCapCheck mean below) s = .next s)) ∧
    (∀ q, s.lowerable = some q → s.quadAsleep q = false ∧ s.quadPoint q < 2 ∧
      ∀ r < 4, s.quadAsleep r = false → s.quadPoint q < s.quadPoint r ∨ (s.quadPoint q = s.quadPoint r ∧ r ≤ q)) ∧
    (∀ q p, (s.quads.getD q {}).change = some p → ∃ t : State, exec (.operatingPointDone q) s = .next t ∧ t = { s with quads := t.quads } ∧
      t.quads.getD q {} = { point := p, change := none } ∧ ∀ r, r ≠ q → t.quads.getD r {} = s.quads.getD r {}) ∧
    (s.block.refClk = true → s.inService = true →
      exec .oscCalibration s = .next { s with keeper := { s.keeper with oscTrimmed := true } } ∧
      (s.central.power = .deep → exec .refClkLoss s =
        .next { s with keeper := { s.keeper with oscRc := true }, block := { s.block with refClk := false } }) ∧
      (s.central.power ≠ .deep → ∃ t : State, exec .refClkLoss s = .next t ∧ t.keeper.oscRc = true ∧ t.keeper.frozen = true ∧
        t.block.refClk = false ∧ t.block.refLoss = true ∧
        (0x31 < s.units.length → ∃ x, (t.unit 0x31).incident = some x ∧ 5 ≤ x.level ∧
          ((s.unit 0x31).incident = none → x.source = 8 ∧ x.cause = 2 ∧ x.step = 2 ∧ x.level = 5)))) ∧
    (s.block.refClk = false →
      let z : State := { s with block := { s.block with refClk := true, refLoss := false }, keeper := { s.keeper with oscRc := false } }
      (s.block.refLoss = false → exec .refClkReturn s = .next z) ∧
      (s.block.refLoss = true → exec .refClkReturn s = .next (z.startLevel .block [0x31] none).1 ∧
        exec .refClkLossTimeout s = .next ((({ s with block := { s.block with refLoss := false } } : State).escalateUnits
          [0x31] 6).startLevel .power [0x31] none).1))

/-! Faults and resets (17, 18). -/

/-- Fault status and the reset ladder. IRQ[u] of a block in service is high while FAULT_STATUS AND FAULT_IRQ_EN is non-zero or any
FAULT_SEVERE bit is set, and low otherwise (17 R398). An event sets its sticky bit and counts, up to 255, and turns its source SEVERE when
the counter reaches its threshold in an open window (R390, R391); an expired window starts again at 0; clears, policies and injection
obey R392, R399, R402; ALIVE inverts unless held (R404, R405). A record is written once collection has answered or timed out
(18 R415); a level finishes when its jobs have completed, escalates at its timeout (R408, R409); a power cycle drives PWRCYC_REQ
(R410); a swap hands its element's work to the spare, or resets the span when late (R420). -/
def Obligations.FaultsAndResetsAct : Prop :=
  ∀ (s : State) (u : Nat), Inv s → u < 96 →
    (s.keeperRuns = true → (s.irq u = true ↔
      (∃ i < 16, ((s.unit u).sources.getD i {}).sticky = true ∧ (s.unit u).irqEn.getLsbD i = true) ∨
        ∃ i < 16, ((s.unit u).sources.getD i {}).severe = true)) ∧
    (∀ src, s.keeperRuns = true → bitOf (presentMask u) src = true → src < (s.unit u).sources.length → (u = 0x31 → src ≠ 9) →
      let x := (s.unit u).sources.getD src {}
      let w := if x.window = none ∧ x.count = 0 then some (State.policyFor (s.unit u) src) else x.window
      let n := satAdd 8 x.count 1
      ((∀ y, w = some y → x.latched = true ∨ y.thr = 0 ∨ n.toNat < y.thr) → ∃ t : State, exec (.faultEvent u src {}) s = .next t ∧
        t = { s with units := t.units } ∧ (∀ v, v ≠ u → t.unit v = s.unit v) ∧
        (t.unit u).sources.getD src {} = { x with sticky := true, count := n, window := w } ∧
        ∀ i, i ≠ src → (t.unit u).sources.getD i {} = (s.unit u).sources.getD i {}) ∧
      (∀ y, w = some y → x.latched = false → y.thr ≠ 0 → y.thr ≤ n.toNat →
        exec (.faultEvent u src {}) s = .next ((s.modUnit u fun f => State.countSource f src).severe u src {}) ∧
        ((State.countSource (s.unit u) src).sources.getD src {}) =
          { x with sticky := true, count := n, severe := true, latched := true, window := none })) ∧
    (s.keeperRuns = true → u = 0x31 → exec .lockstep s =
      .next (({ s with keeper := { s.keeper with frozen := true, lockstepOk := false } } : State).countEvent 0x31 9 {})) ∧
    (∀ src, src < (s.unit u).sources.length → ∃ t : State, exec (.faultWindowExpiry u src) s = .next t ∧ t = { s with units := t.units } ∧
      let x := (s.unit u).sources.getD src {}
      (∀ w, x.window = some w → w.log2 ≠ 0 → (t.unit u).sources.getD src {} = { x with window := none, count := 0 }) ∧
      ((x.window = none ∨ ∃ w, x.window = some w ∧ w.log2 = 0) → (t.unit u).sources.getD src {} = x) ∧
      ∀ i, i ≠ src → (t.unit u).sources.getD i {} = (s.unit u).sources.getD i {}) ∧
    (∀ v : Word32, s.regsOpen = true → s.centralAsleep = false → (s.unit u).sources.length = 16 →
      (∃ t : State, exec (.faultStatusClear u ⟨v, none⟩) s = .next t ∧ t = { s with units := t.units } ∧
        ∀ i < 16, (t.unit u).sources.getD i {} = (let x := (s.unit u).sources.getD i {}
          if v.getLsbD i then { x with sticky := false, count := 0, window := none, latched := false } else x)) ∧
      (∃ t : State, exec (.faultSevereClear u ⟨v, none⟩) s = .next t ∧ t = { s with units := t.units } ∧
        ∀ i < 16, (t.unit u).sources.getD i {} = (let x := (s.unit u).sources.getD i {}
          if v.getLsbD i ∧ (s.unit u).incident = none then { x with severe := false } else x)) ∧
      (∀ src < 16, v.getLsbD src = true → bitOf (presentMask u) src = true → (u = 0x31 → src ≠ 9) →
        (State.policyFor (s.unit u) src).thr ≠ 1 → ∃ t : State,
        exec (.faultStatusClear u ⟨v, some (.fault u src {})⟩) s = .next t ∧
        ((t.unit u).sources.getD src {}).sticky = true ∧ ((t.unit u).sources.getD src {}).count = 1) ∧
      (∀ w, w = v.toNat % 2 ^ 21 + bitsOf v.toNat 26 24 * 2 ^ 24 →
        (presentMask u ≠ 0 → policyLegal w = true → exec (.faultPolicyWrite u v) s =
          .next (s.modUnit u fun f => { f with policy := BitVec.ofNat 32 w })) ∧
        ((presentMask u = 0 ∨ policyLegal w = false) → exec (.faultPolicyWrite u v) s = .next s)) ∧
      (∀ w, State.injectValue u v = some w → exec (.faultInject u v) s = .next (s.modUnit u fun f => { f with inject := w })) ∧
      (State.injectValue u v = none → exec (.faultInject u v) s = .next s)) ∧
    (s.running = true →
      (s.keeper.frozen = false → s.block.pwrcyc = false →
        exec .alive s = .next { s with keeper := { s.keeper with alive := !s.keeper.alive } }) ∧
      (s.keeper.frozen = true ∨ s.block.pwrcyc = true → exec .alive s = .next s)) ∧
    (∀ x, (s.unit u).incident = some x → x.written = false →
      exec (.contextCollection u true) s =
        .next (((s.modIncident u fun y => { y with written := true }).writeRecord u false).tryClose u) ∧
      exec (.contextCollection u false) s = .next (((s.modIncident u fun y =>
        { y with written := true, noAnswer := true, named := false,
                 part := if u < 40 ∨ y.cause ≠ 0 then y.part else 0 }).writeRecord u false).tryClose u)) ∧
    (∀ id l, s.levels.find? (·.id == id) = some l →
      (s.levelDone l = true → exec (.resetLevelFinish id) s = .next (s.finishLevel l)) ∧
      (s.levelDone l = false → exec (.resetLevelFinish id) s = .next s) ∧
      (∀ n, l.scope = .span n → s.spanOwner n ≠ 0 → s.escalation l = [.part (s.spanOwner n)]) ∧
      (∀ p, l.scope = .part p → s.escalation l = [.block]) ∧ (l.scope = .block → s.escalation l = [.power]) ∧
      exec (.resetLevelTimeout id) s = .next (s.escalate l)) ∧
    ((∃ l ∈ s.levels, l.scope = .power) → exec .powerCycle s = .next { s with block := { s.block with pwrcyc := true } }) ∧
    (∀ n, (s.span n).swap ≠ none → (s.span n).suspended = false → exec (.swapStepTimeout n) s = .next ((((s.countEvent n 8 {}).modSpan n
      fun x => { x with suspended := true }).startLevel (.span n) [] none).1)) ∧
    (∀ n e m, (s.span n).suspended = false → s.killedQuiet ((s.spanThreads n).map fun t => (t.1, t.2.tile)) = true →
      ((s.span n).swap = some (.core, e) → s.spareOf n .core = some m → exec (.swapComplete n) s = .next
        (((s.modSpan n fun x => { x with cores := swapElems x.cores e m, swap := none }).rebuildBanks n (· == e)).nextSwap n)) ∧
      ((s.span n).swap = some (.pipe, e) → s.spareOf n .pipe = some m → exec (.swapComplete n) s = .next ((s.modSpan n fun x =>
        { x with pipes := swapElems x.pipes e m, swap := none }).nextSwap n))) ∧
    (∀ n, (s.span n).swapsDue = [] → s.nextSwap n = s.modSpan n fun x => { x with swapsDue := [] }) ∧
    (∀ n k e, (s.span n).swapsDue = [(k, e)] → s.elemActive n k e = true → s.spareOf n k ≠ none →
      s.nextSwap n = (s.modSpan n fun x => { x with swapsDue := [] }).beginSwap n k e) ∧
    (∀ (l : List Elem) (e m : Nat), e ≠ m → (m < l.length → (swapElems l e m).getD m .fenced = .active) ∧
      (swapElems l e m).getD e .spare = if l.getD e .spare = .active then .spare else l.getD e .spare)
end

