-- ==== Sys2Proof/Laws/Admin.lean ====
section
/-! SUPPORT. Administrative commands: what the shared service of a command answers, once for every command. -/

namespace Sys2Proof.Laws
open Sys2Proof Sys2Proof.Machine

theorem lowestBad_none {l : List (Bool × Nat)} (h : ∀ x ∈ l, x.1 = false) : State.lowestBad l = none := by
  have : l.filter (·.1) = [] := List.filter_eq_nil_iff.mpr fun x hx => by simp [h x hx]
  simp [State.lowestBad, this]

/-- A command that is served and within its limits does its own part, on the state in which its entry has been taken. -/
theorem runAdmin_served {s : State} {aq op p : Nat} {j : Job} {sc : State.CmdScope} {fs : List State.FieldSpec}
    (h : s.Served aq op p j sc fs) (qs : State.CmdQueues) (limits : State → Nat → List Byte → List (Bool × Nat))
    (act : State → Job → Nat → State) (hq : ¬(aq = 0 ∧ qs = .partition ∨ aq ≠ 0 ∧ qs = .owner))
    (hl : ∀ x ∈ limits (s.taken aq j) p j.entry, x.1 = false) :
    s.runAdmin aq op qs sc fs limits act = act (s.taken aq j) j p := by
  have hb : State.lowestBad (((s.taken aq j).partitionBad aq sc (u8 j.entry 2), 2) :: limits (s.taken aq j) p j.entry) = none :=
    lowestBad_none fun x hx => by
      rcases List.mem_cons.mp hx with rfl | hx
      · exact h.scope
      · exact hl x hx
  have hp := h.acts
  unfold State.runAdmin
  simp only [h.start, h.turn, h.opcode]
  subst hp
  simp only [State.taken] at hb hl ⊢
  rw [if_neg (by simp), if_neg hq, if_neg (by simp [h.unwritten])]
  simp only [h.reserved]
  rw [hb]

/-- The same, with the limits breached: the lowest offset of a breach is DETAIL of BAD_FIELD, and nothing else happens. -/
theorem runAdmin_limits {s : State} {aq op p d : Nat} {j : Job} {sc : State.CmdScope} {fs : List State.FieldSpec}
    (h : s.Served aq op p j sc fs) (qs : State.CmdQueues) (limits : State → Nat → List Byte → List (Bool × Nat))
    (act : State → Job → Nat → State) (hq : ¬(aq = 0 ∧ qs = .partition ∨ aq ≠ 0 ∧ qs = .owner))
    (hl : State.lowestBad (limits (s.taken aq j) p j.entry) = some d) :
    s.runAdmin aq op qs sc fs limits act = (s.taken aq j).endAdmin j.uid 0x02 d 0 0 := by
  have hb : State.lowestBad (((s.taken aq j).partitionBad aq sc (u8 j.entry 2), 2) :: limits (s.taken aq j) p j.entry) = some d := by
    have hs := h.scope
    rw [← hl]
    simp only [State.lowestBad, List.filter_cons, hs, Bool.false_eq_true, if_false]
  have hp := h.acts
  unfold State.runAdmin
  simp only [h.start, h.turn, h.opcode]
  subst hp
  simp only [State.taken] at hb hl ⊢
  rw [if_neg (by simp), if_neg hq, if_neg (by simp [h.unwritten])]
  simp only [h.reserved]
  rw [hb]

end Sys2Proof.Laws
end

