-- ==== Sys2Proof/Laws/State.lean ====
section
/-! SUPPORT. What the named updates of the state do to each field: one lemma for each field and update, true by computation, so that
no proof unfolds a record update; and what a lookup by key answers after an update. -/

namespace Sys2Proof.Laws

open Sys2Proof Sys2Proof.Machine Sys2Proof.Machine.State


@[simp] theorem emit_block (s : State) (o : Out) : (s.emit o).block = { s.block with out := o :: s.block.out } := rfl
@[simp] theorem emit_keeper (s : State) (o : Out) : (s.emit o).keeper = s.keeper := rfl
@[simp] theorem emit_regs (s : State) (o : Out) : (s.emit o).regs = s.regs := rfl
@[simp] theorem emit_prof (s : State) (o : Out) : (s.emit o).prof = s.prof := rfl
@[simp] theorem emit_queues (s : State) (o : Out) : (s.emit o).queues = s.queues := rfl
@[simp] theorem emit_jobs (s : State) (o : Out) : (s.emit o).jobs = s.jobs := rfl
@[simp] theorem emit_uidNext (s : State) (o : Out) : (s.emit o).uidNext = s.uidNext := rfl
@[simp] theorem emit_orderNext (s : State) (o : Out) : (s.emit o).orderNext = s.orderNext := rfl
@[simp] theorem emit_store (s : State) (o : Out) : (s.emit o).store = s.store := rfl
@[simp] theorem emit_parts (s : State) (o : Out) : (s.emit o).parts = s.parts := rfl
@[simp] theorem emit_tables (s : State) (o : Out) : (s.emit o).tables = s.tables := rfl
@[simp] theorem emit_spans (s : State) (o : Out) : (s.emit o).spans = s.spans := rfl
@[simp] theorem emit_lanes (s : State) (o : Out) : (s.emit o).lanes = s.lanes := rfl
@[simp] theorem emit_central (s : State) (o : Out) : (s.emit o).central = s.central := rfl
@[simp] theorem emit_units (s : State) (o : Out) : (s.emit o).units = s.units := rfl
@[simp] theorem emit_levels (s : State) (o : Out) : (s.emit o).levels = s.levels := rfl
@[simp] theorem emit_levelNext (s : State) (o : Out) : (s.emit o).levelNext = s.levelNext := rfl
@[simp] theorem emit_quads (s : State) (o : Out) : (s.emit o).quads = s.quads := rfl
@[simp] theorem emit_ports (s : State) (o : Out) : (s.emit o).ports = s.ports := rfl
@[simp] theorem emit_chans (s : State) (o : Out) : (s.emit o).chans = s.chans := rfl
@[simp] theorem emit_pacers (s : State) (o : Out) : (s.emit o).pacers = s.pacers := rfl
@[simp] theorem emit_tap (s : State) (o : Out) : (s.emit o).tap = s.tap := rfl
@[simp] theorem emit_pending (s : State) (o : Out) : (s.emit o).pending = s.pending := rfl

@[simp] theorem useFree_block (s : State) : (s.useFree).block = { s.block with free := s.block.free + 1 } := rfl
@[simp] theorem useFree_keeper (s : State) : (s.useFree).keeper = s.keeper := rfl
@[simp] theorem useFree_regs (s : State) : (s.useFree).regs = s.regs := rfl
@[simp] theorem useFree_prof (s : State) : (s.useFree).prof = s.prof := rfl
@[simp] theorem useFree_queues (s : State) : (s.useFree).queues = s.queues := rfl
@[simp] theorem useFree_jobs (s : State) : (s.useFree).jobs = s.jobs := rfl
@[simp] theorem useFree_uidNext (s : State) : (s.useFree).uidNext = s.uidNext := rfl
@[simp] theorem useFree_orderNext (s : State) : (s.useFree).orderNext = s.orderNext := rfl
@[simp] theorem useFree_store (s : State) : (s.useFree).store = s.store := rfl
@[simp] theorem useFree_parts (s : State) : (s.useFree).parts = s.parts := rfl
@[simp] theorem useFree_tables (s : State) : (s.useFree).tables = s.tables := rfl
@[simp] theorem useFree_spans (s : State) : (s.useFree).spans = s.spans := rfl
@[simp] theorem useFree_lanes (s : State) : (s.useFree).lanes = s.lanes := rfl
@[simp] theorem useFree_central (s : State) : (s.useFree).central = s.central := rfl
@[simp] theorem useFree_units (s : State) : (s.useFree).units = s.units := rfl
@[simp] theorem useFree_levels (s : State) : (s.useFree).levels = s.levels := rfl
@[simp] theorem useFree_levelNext (s : State) : (s.useFree).levelNext = s.levelNext := rfl
@[simp] theorem useFree_quads (s : State) : (s.useFree).quads = s.quads := rfl
@[simp] theorem useFree_ports (s : State) : (s.useFree).ports = s.ports := rfl
@[simp] theorem useFree_chans (s : State) : (s.useFree).chans = s.chans := rfl
@[simp] theorem useFree_pacers (s : State) : (s.useFree).pacers = s.pacers := rfl
@[simp] theorem useFree_tap (s : State) : (s.useFree).tap = s.tap := rfl
@[simp] theorem useFree_pending (s : State) : (s.useFree).pending = s.pending := rfl

@[simp] theorem modQueue_block (s : State) (q : QId) (f : Queue → Queue) : (s.modQueue q f).block = s.block := rfl
@[simp] theorem modQueue_keeper (s : State) (q : QId) (f : Queue → Queue) : (s.modQueue q f).keeper = s.keeper := rfl
@[simp] theorem modQueue_regs (s : State) (q : QId) (f : Queue → Queue) : (s.modQueue q f).regs = s.regs := rfl
@[simp] theorem modQueue_prof (s : State) (q : QId) (f : Queue → Queue) : (s.modQueue q f).prof = s.prof := rfl
@[simp] theorem modQueue_queues (s : State) (q : QId) (f : Queue → Queue) : (s.modQueue q f).queues = s.queues.map fun x => if x.qid == q then f x else x := rfl
@[simp] theorem modQueue_jobs (s : State) (q : QId) (f : Queue → Queue) : (s.modQueue q f).jobs = s.jobs := rfl
@[simp] theorem modQueue_uidNext (s : State) (q : QId) (f : Queue → Queue) : (s.modQueue q f).uidNext = s.uidNext := rfl
@[simp] theorem modQueue_orderNext (s : State) (q : QId) (f : Queue → Queue) : (s.modQueue q f).orderNext = s.orderNext := rfl
@[simp] theorem modQueue_store (s : State) (q : QId) (f : Queue → Queue) : (s.modQueue q f).store = s.store := rfl
@[simp] theorem modQueue_parts (s : State) (q : QId) (f : Queue → Queue) : (s.modQueue q f).parts = s.parts := rfl
@[simp] theorem modQueue_tables (s : State) (q : QId) (f : Queue → Queue) : (s.modQueue q f).tables = s.tables := rfl
@[simp] theorem modQueue_spans (s : State) (q : QId) (f : Queue → Queue) : (s.modQueue q f).spans = s.spans := rfl
@[simp] theorem modQueue_lanes (s : State) (q : QId) (f : Queue → Queue) : (s.modQueue q f).lanes = s.lanes := rfl
@[simp] theorem modQueue_central (s : State) (q : QId) (f : Queue → Queue) : (s.modQueue q f).central = s.central := rfl
@[simp] theorem modQueue_units (s : State) (q : QId) (f : Queue → Queue) : (s.modQueue q f).units = s.units := rfl
@[simp] theorem modQueue_levels (s : State) (q : QId) (f : Queue → Queue) : (s.modQueue q f).levels = s.levels := rfl
@[simp] theorem modQueue_levelNext (s : State) (q : QId) (f : Queue → Queue) : (s.modQueue q f).levelNext = s.levelNext := rfl
@[simp] theorem modQueue_quads (s : State) (q : QId) (f : Queue → Queue) : (s.modQueue q f).quads = s.quads := rfl
@[simp] theorem modQueue_ports (s : State) (q : QId) (f : Queue → Queue) : (s.modQueue q f).ports = s.ports := rfl
@[simp] theorem modQueue_chans (s : State) (q : QId) (f : Queue → Queue) : (s.modQueue q f).chans = s.chans := rfl
@[simp] theorem modQueue_pacers (s : State) (q : QId) (f : Queue → Queue) : (s.modQueue q f).pacers = s.pacers := rfl
@[simp] theorem modQueue_tap (s : State) (q : QId) (f : Queue → Queue) : (s.modQueue q f).tap = s.tap := rfl
@[simp] theorem modQueue_pending (s : State) (q : QId) (f : Queue → Queue) : (s.modQueue q f).pending = s.pending := rfl

@[simp] theorem putQueue_block (s : State) (x : Queue) : (s.putQueue x).block = s.block := rfl
@[simp] theorem putQueue_keeper (s : State) (x : Queue) : (s.putQueue x).keeper = s.keeper := rfl
@[simp] theorem putQueue_regs (s : State) (x : Queue) : (s.putQueue x).regs = s.regs := rfl
@[simp] theorem putQueue_prof (s : State) (x : Queue) : (s.putQueue x).prof = s.prof := rfl
@[simp] theorem putQueue_queues (s : State) (x : Queue) : (s.putQueue x).queues = s.queues.filter (·.qid != x.qid) ++ [x] := rfl
@[simp] theorem putQueue_jobs (s : State) (x : Queue) : (s.putQueue x).jobs = s.jobs := rfl
@[simp] theorem putQueue_uidNext (s : State) (x : Queue) : (s.putQueue x).uidNext = s.uidNext := rfl
@[simp] theorem putQueue_orderNext (s : State) (x : Queue) : (s.putQueue x).orderNext = s.orderNext := rfl
@[simp] theorem putQueue_store (s : State) (x : Queue) : (s.putQueue x).store = s.store := rfl
@[simp] theorem putQueue_parts (s : State) (x : Queue) : (s.putQueue x).parts = s.parts := rfl
@[simp] theorem putQueue_tables (s : State) (x : Queue) : (s.putQueue x).tables = s.tables := rfl
@[simp] theorem putQueue_spans (s : State) (x : Queue) : (s.putQueue x).spans = s.spans := rfl
@[simp] theorem putQueue_lanes (s : State) (x : Queue) : (s.putQueue x).lanes = s.lanes := rfl
@[simp] theorem putQueue_central (s : State) (x : Queue) : (s.putQueue x).central = s.central := rfl
@[simp] theorem putQueue_units (s : State) (x : Queue) : (s.putQueue x).units = s.units := rfl
@[simp] theorem putQueue_levels (s : State) (x : Queue) : (s.putQueue x).levels = s.levels := rfl
@[simp] theorem putQueue_levelNext (s : State) (x : Queue) : (s.putQueue x).levelNext = s.levelNext := rfl
@[simp] theorem putQueue_quads (s : State) (x : Queue) : (s.putQueue x).quads = s.quads := rfl
@[simp] theorem putQueue_ports (s : State) (x : Queue) : (s.putQueue x).ports = s.ports := rfl
@[simp] theorem putQueue_chans (s : State) (x : Queue) : (s.putQueue x).chans = s.chans := rfl
@[simp] theorem putQueue_pacers (s : State) (x : Queue) : (s.putQueue x).pacers = s.pacers := rfl
@[simp] theorem putQueue_tap (s : State) (x : Queue) : (s.putQueue x).tap = s.tap := rfl
@[simp] theorem putQueue_pending (s : State) (x : Queue) : (s.putQueue x).pending = s.pending := rfl

@[simp] theorem modJob_block (s : State) (uid : Nat) (f : Job → Job) : (s.modJob uid f).block = s.block := rfl
@[simp] theorem modJob_keeper (s : State) (uid : Nat) (f : Job → Job) : (s.modJob uid f).keeper = s.keeper := rfl
@[simp] theorem modJob_regs (s : State) (uid : Nat) (f : Job → Job) : (s.modJob uid f).regs = s.regs := rfl
@[simp] theorem modJob_prof (s : State) (uid : Nat) (f : Job → Job) : (s.modJob uid f).prof = s.prof := rfl
@[simp] theorem modJob_queues (s : State) (uid : Nat) (f : Job → Job) : (s.modJob uid f).queues = s.queues := rfl
@[simp] theorem modJob_jobs (s : State) (uid : Nat) (f : Job → Job) : (s.modJob uid f).jobs = s.jobs.map fun x => if x.uid == uid then f x else x := rfl
@[simp] theorem modJob_uidNext (s : State) (uid : Nat) (f : Job → Job) : (s.modJob uid f).uidNext = s.uidNext := rfl
@[simp] theorem modJob_orderNext (s : State) (uid : Nat) (f : Job → Job) : (s.modJob uid f).orderNext = s.orderNext := rfl
@[simp] theorem modJob_store (s : State) (uid : Nat) (f : Job → Job) : (s.modJob uid f).store = s.store := rfl
@[simp] theorem modJob_parts (s : State) (uid : Nat) (f : Job → Job) : (s.modJob uid f).parts = s.parts := rfl
@[simp] theorem modJob_tables (s : State) (uid : Nat) (f : Job → Job) : (s.modJob uid f).tables = s.tables := rfl
@[simp] theorem modJob_spans (s : State) (uid : Nat) (f : Job → Job) : (s.modJob uid f).spans = s.spans := rfl
@[simp] theorem modJob_lanes (s : State) (uid : Nat) (f : Job → Job) : (s.modJob uid f).lanes = s.lanes := rfl
@[simp] theorem modJob_central (s : State) (uid : Nat) (f : Job → Job) : (s.modJob uid f).central = s.central := rfl
@[simp] theorem modJob_units (s : State) (uid : Nat) (f : Job → Job) : (s.modJob uid f).units = s.units := rfl
@[simp] theorem modJob_levels (s : State) (uid : Nat) (f : Job → Job) : (s.modJob uid f).levels = s.levels := rfl
@[simp] theorem modJob_levelNext (s : State) (uid : Nat) (f : Job → Job) : (s.modJob uid f).levelNext = s.levelNext := rfl
@[simp] theorem modJob_quads (s : State) (uid : Nat) (f : Job → Job) : (s.modJob uid f).quads = s.quads := rfl
@[simp] theorem modJob_ports (s : State) (uid : Nat) (f : Job → Job) : (s.modJob uid f).ports = s.ports := rfl
@[simp] theorem modJob_chans (s : State) (uid : Nat) (f : Job → Job) : (s.modJob uid f).chans = s.chans := rfl
@[simp] theorem modJob_pacers (s : State) (uid : Nat) (f : Job → Job) : (s.modJob uid f).pacers = s.pacers := rfl
@[simp] theorem modJob_tap (s : State) (uid : Nat) (f : Job → Job) : (s.modJob uid f).tap = s.tap := rfl
@[simp] theorem modJob_pending (s : State) (uid : Nat) (f : Job → Job) : (s.modJob uid f).pending = s.pending := rfl

@[simp] theorem dropJob_block (s : State) (uid : Nat) : (s.dropJob uid).block = s.block := rfl
@[simp] theorem dropJob_keeper (s : State) (uid : Nat) : (s.dropJob uid).keeper = s.keeper := rfl
@[simp] theorem dropJob_regs (s : State) (uid : Nat) : (s.dropJob uid).regs = s.regs := rfl
@[simp] theorem dropJob_prof (s : State) (uid : Nat) : (s.dropJob uid).prof = s.prof := rfl
@[simp] theorem dropJob_queues (s : State) (uid : Nat) : (s.dropJob uid).queues = s.queues := rfl
@[simp] theorem dropJob_jobs (s : State) (uid : Nat) : (s.dropJob uid).jobs = s.jobs.filter (·.uid != uid) := rfl
@[simp] theorem dropJob_uidNext (s : State) (uid : Nat) : (s.dropJob uid).uidNext = s.uidNext := rfl
@[simp] theorem dropJob_orderNext (s : State) (uid : Nat) : (s.dropJob uid).orderNext = s.orderNext := rfl
@[simp] theorem dropJob_store (s : State) (uid : Nat) : (s.dropJob uid).store = s.store := rfl
@[simp] theorem dropJob_parts (s : State) (uid : Nat) : (s.dropJob uid).parts = s.parts := rfl
@[simp] theorem dropJob_tables (s : State) (uid : Nat) : (s.dropJob uid).tables = s.tables := rfl
@[simp] theorem dropJob_spans (s : State) (uid : Nat) : (s.dropJob uid).spans = s.spans := rfl
@[simp] theorem dropJob_lanes (s : State) (uid : Nat) : (s.dropJob uid).lanes = s.lanes := rfl
@[simp] theorem dropJob_central (s : State) (uid : Nat) : (s.dropJob uid).central = s.central := rfl
@[simp] theorem dropJob_units (s : State) (uid : Nat) : (s.dropJob uid).units = s.units := rfl
@[simp] theorem dropJob_levels (s : State) (uid : Nat) : (s.dropJob uid).levels = s.levels := rfl
@[simp] theorem dropJob_levelNext (s : State) (uid : Nat) : (s.dropJob uid).levelNext = s.levelNext := rfl
@[simp] theorem dropJob_quads (s : State) (uid : Nat) : (s.dropJob uid).quads = s.quads := rfl
@[simp] theorem dropJob_ports (s : State) (uid : Nat) : (s.dropJob uid).ports = s.ports := rfl
@[simp] theorem dropJob_chans (s : State) (uid : Nat) : (s.dropJob uid).chans = s.chans := rfl
@[simp] theorem dropJob_pacers (s : State) (uid : Nat) : (s.dropJob uid).pacers = s.pacers := rfl
@[simp] theorem dropJob_tap (s : State) (uid : Nat) : (s.dropJob uid).tap = s.tap := rfl
@[simp] theorem dropJob_pending (s : State) (uid : Nat) : (s.dropJob uid).pending = s.pending := rfl

@[simp] theorem modPart_block (s : State) (p : Nat) (f : Part → Part) : (s.modPart p f).block = s.block := rfl
@[simp] theorem modPart_keeper (s : State) (p : Nat) (f : Part → Part) : (s.modPart p f).keeper = s.keeper := rfl
@[simp] theorem modPart_regs (s : State) (p : Nat) (f : Part → Part) : (s.modPart p f).regs = s.regs := rfl
@[simp] theorem modPart_prof (s : State) (p : Nat) (f : Part → Part) : (s.modPart p f).prof = s.prof := rfl
@[simp] theorem modPart_queues (s : State) (p : Nat) (f : Part → Part) : (s.modPart p f).queues = s.queues := rfl
@[simp] theorem modPart_jobs (s : State) (p : Nat) (f : Part → Part) : (s.modPart p f).jobs = s.jobs := rfl
@[simp] theorem modPart_uidNext (s : State) (p : Nat) (f : Part → Part) : (s.modPart p f).uidNext = s.uidNext := rfl
@[simp] theorem modPart_orderNext (s : State) (p : Nat) (f : Part → Part) : (s.modPart p f).orderNext = s.orderNext := rfl
@[simp] theorem modPart_store (s : State) (p : Nat) (f : Part → Part) : (s.modPart p f).store = s.store := rfl
@[simp] theorem modPart_parts (s : State) (p : Nat) (f : Part → Part) : (s.modPart p f).parts = modAt s.parts p f := rfl
@[simp] theorem modPart_tables (s : State) (p : Nat) (f : Part → Part) : (s.modPart p f).tables = s.tables := rfl
@[simp] theorem modPart_spans (s : State) (p : Nat) (f : Part → Part) : (s.modPart p f).spans = s.spans := rfl
@[simp] theorem modPart_lanes (s : State) (p : Nat) (f : Part → Part) : (s.modPart p f).lanes = s.lanes := rfl
@[simp] theorem modPart_central (s : State) (p : Nat) (f : Part → Part) : (s.modPart p f).central = s.central := rfl
@[simp] theorem modPart_units (s : State) (p : Nat) (f : Part → Part) : (s.modPart p f).units = s.units := rfl
@[simp] theorem modPart_levels (s : State) (p : Nat) (f : Part → Part) : (s.modPart p f).levels = s.levels := rfl
@[simp] theorem modPart_levelNext (s : State) (p : Nat) (f : Part → Part) : (s.modPart p f).levelNext = s.levelNext := rfl
@[simp] theorem modPart_quads (s : State) (p : Nat) (f : Part → Part) : (s.modPart p f).quads = s.quads := rfl
@[simp] theorem modPart_ports (s : State) (p : Nat) (f : Part → Part) : (s.modPart p f).ports = s.ports := rfl
@[simp] theorem modPart_chans (s : State) (p : Nat) (f : Part → Part) : (s.modPart p f).chans = s.chans := rfl
@[simp] theorem modPart_pacers (s : State) (p : Nat) (f : Part → Part) : (s.modPart p f).pacers = s.pacers := rfl
@[simp] theorem modPart_tap (s : State) (p : Nat) (f : Part → Part) : (s.modPart p f).tap = s.tap := rfl
@[simp] theorem modPart_pending (s : State) (p : Nat) (f : Part → Part) : (s.modPart p f).pending = s.pending := rfl

@[simp] theorem modSpan_block (s : State) (n : Nat) (f : Span → Span) : (s.modSpan n f).block = s.block := rfl
@[simp] theorem modSpan_keeper (s : State) (n : Nat) (f : Span → Span) : (s.modSpan n f).keeper = s.keeper := rfl
@[simp] theorem modSpan_regs (s : State) (n : Nat) (f : Span → Span) : (s.modSpan n f).regs = s.regs := rfl
@[simp] theorem modSpan_prof (s : State) (n : Nat) (f : Span → Span) : (s.modSpan n f).prof = s.prof := rfl
@[simp] theorem modSpan_queues (s : State) (n : Nat) (f : Span → Span) : (s.modSpan n f).queues = s.queues := rfl
@[simp] theorem modSpan_jobs (s : State) (n : Nat) (f : Span → Span) : (s.modSpan n f).jobs = s.jobs := rfl
@[simp] theorem modSpan_uidNext (s : State) (n : Nat) (f : Span → Span) : (s.modSpan n f).uidNext = s.uidNext := rfl
@[simp] theorem modSpan_orderNext (s : State) (n : Nat) (f : Span → Span) : (s.modSpan n f).orderNext = s.orderNext := rfl
@[simp] theorem modSpan_store (s : State) (n : Nat) (f : Span → Span) : (s.modSpan n f).store = s.store := rfl
@[simp] theorem modSpan_parts (s : State) (n : Nat) (f : Span → Span) : (s.modSpan n f).parts = s.parts := rfl
@[simp] theorem modSpan_tables (s : State) (n : Nat) (f : Span → Span) : (s.modSpan n f).tables = s.tables := rfl
@[simp] theorem modSpan_spans (s : State) (n : Nat) (f : Span → Span) : (s.modSpan n f).spans = modAt s.spans n f := rfl
@[simp] theorem modSpan_lanes (s : State) (n : Nat) (f : Span → Span) : (s.modSpan n f).lanes = s.lanes := rfl
@[simp] theorem modSpan_central (s : State) (n : Nat) (f : Span → Span) : (s.modSpan n f).central = s.central := rfl
@[simp] theorem modSpan_units (s : State) (n : Nat) (f : Span → Span) : (s.modSpan n f).units = s.units := rfl
@[simp] theorem modSpan_levels (s : State) (n : Nat) (f : Span → Span) : (s.modSpan n f).levels = s.levels := rfl
@[simp] theorem modSpan_levelNext (s : State) (n : Nat) (f : Span → Span) : (s.modSpan n f).levelNext = s.levelNext := rfl
@[simp] theorem modSpan_quads (s : State) (n : Nat) (f : Span → Span) : (s.modSpan n f).quads = s.quads := rfl
@[simp] theorem modSpan_ports (s : State) (n : Nat) (f : Span → Span) : (s.modSpan n f).ports = s.ports := rfl
@[simp] theorem modSpan_chans (s : State) (n : Nat) (f : Span → Span) : (s.modSpan n f).chans = s.chans := rfl
@[simp] theorem modSpan_pacers (s : State) (n : Nat) (f : Span → Span) : (s.modSpan n f).pacers = s.pacers := rfl
@[simp] theorem modSpan_tap (s : State) (n : Nat) (f : Span → Span) : (s.modSpan n f).tap = s.tap := rfl
@[simp] theorem modSpan_pending (s : State) (n : Nat) (f : Span → Span) : (s.modSpan n f).pending = s.pending := rfl

@[simp] theorem modUnit_block (s : State) (u : Nat) (f : FUnit → FUnit) : (s.modUnit u f).block = s.block := rfl
@[simp] theorem modUnit_keeper (s : State) (u : Nat) (f : FUnit → FUnit) : (s.modUnit u f).keeper = s.keeper := rfl
@[simp] theorem modUnit_regs (s : State) (u : Nat) (f : FUnit → FUnit) : (s.modUnit u f).regs = s.regs := rfl
@[simp] theorem modUnit_prof (s : State) (u : Nat) (f : FUnit → FUnit) : (s.modUnit u f).prof = s.prof := rfl
@[simp] theorem modUnit_queues (s : State) (u : Nat) (f : FUnit → FUnit) : (s.modUnit u f).queues = s.queues := rfl
@[simp] theorem modUnit_jobs (s : State) (u : Nat) (f : FUnit → FUnit) : (s.modUnit u f).jobs = s.jobs := rfl
@[simp] theorem modUnit_uidNext (s : State) (u : Nat) (f : FUnit → FUnit) : (s.modUnit u f).uidNext = s.uidNext := rfl
@[simp] theorem modUnit_orderNext (s : State) (u : Nat) (f : FUnit → FUnit) : (s.modUnit u f).orderNext = s.orderNext := rfl
@[simp] theorem modUnit_store (s : State) (u : Nat) (f : FUnit → FUnit) : (s.modUnit u f).store = s.store := rfl
@[simp] theorem modUnit_parts (s : State) (u : Nat) (f : FUnit → FUnit) : (s.modUnit u f).parts = s.parts := rfl
@[simp] theorem modUnit_tables (s : State) (u : Nat) (f : FUnit → FUnit) : (s.modUnit u f).tables = s.tables := rfl
@[simp] theorem modUnit_spans (s : State) (u : Nat) (f : FUnit → FUnit) : (s.modUnit u f).spans = s.spans := rfl
@[simp] theorem modUnit_lanes (s : State) (u : Nat) (f : FUnit → FUnit) : (s.modUnit u f).lanes = s.lanes := rfl
@[simp] theorem modUnit_central (s : State) (u : Nat) (f : FUnit → FUnit) : (s.modUnit u f).central = s.central := rfl
@[simp] theorem modUnit_units (s : State) (u : Nat) (f : FUnit → FUnit) : (s.modUnit u f).units = modAt s.units u f := rfl
@[simp] theorem modUnit_levels (s : State) (u : Nat) (f : FUnit → FUnit) : (s.modUnit u f).levels = s.levels := rfl
@[simp] theorem modUnit_levelNext (s : State) (u : Nat) (f : FUnit → FUnit) : (s.modUnit u f).levelNext = s.levelNext := rfl
@[simp] theorem modUnit_quads (s : State) (u : Nat) (f : FUnit → FUnit) : (s.modUnit u f).quads = s.quads := rfl
@[simp] theorem modUnit_ports (s : State) (u : Nat) (f : FUnit → FUnit) : (s.modUnit u f).ports = s.ports := rfl
@[simp] theorem modUnit_chans (s : State) (u : Nat) (f : FUnit → FUnit) : (s.modUnit u f).chans = s.chans := rfl
@[simp] theorem modUnit_pacers (s : State) (u : Nat) (f : FUnit → FUnit) : (s.modUnit u f).pacers = s.pacers := rfl
@[simp] theorem modUnit_tap (s : State) (u : Nat) (f : FUnit → FUnit) : (s.modUnit u f).tap = s.tap := rfl
@[simp] theorem modUnit_pending (s : State) (u : Nat) (f : FUnit → FUnit) : (s.modUnit u f).pending = s.pending := rfl

@[simp] theorem modChan_block (s : State) (c : Nat) (f : Chan → Chan) : (s.modChan c f).block = s.block := rfl
@[simp] theorem modChan_keeper (s : State) (c : Nat) (f : Chan → Chan) : (s.modChan c f).keeper = s.keeper := rfl
@[simp] theorem modChan_regs (s : State) (c : Nat) (f : Chan → Chan) : (s.modChan c f).regs = s.regs := rfl
@[simp] theorem modChan_prof (s : State) (c : Nat) (f : Chan → Chan) : (s.modChan c f).prof = s.prof := rfl
@[simp] theorem modChan_queues (s : State) (c : Nat) (f : Chan → Chan) : (s.modChan c f).queues = s.queues := rfl
@[simp] theorem modChan_jobs (s : State) (c : Nat) (f : Chan → Chan) : (s.modChan c f).jobs = s.jobs := rfl
@[simp] theorem modChan_uidNext (s : State) (c : Nat) (f : Chan → Chan) : (s.modChan c f).uidNext = s.uidNext := rfl
@[simp] theorem modChan_orderNext (s : State) (c : Nat) (f : Chan → Chan) : (s.modChan c f).orderNext = s.orderNext := rfl
@[simp] theorem modChan_store (s : State) (c : Nat) (f : Chan → Chan) : (s.modChan c f).store = s.store := rfl
@[simp] theorem modChan_parts (s : State) (c : Nat) (f : Chan → Chan) : (s.modChan c f).parts = s.parts := rfl
@[simp] theorem modChan_tables (s : State) (c : Nat) (f : Chan → Chan) : (s.modChan c f).tables = s.tables := rfl
@[simp] theorem modChan_spans (s : State) (c : Nat) (f : Chan → Chan) : (s.modChan c f).spans = s.spans := rfl
@[simp] theorem modChan_lanes (s : State) (c : Nat) (f : Chan → Chan) : (s.modChan c f).lanes = s.lanes := rfl
@[simp] theorem modChan_central (s : State) (c : Nat) (f : Chan → Chan) : (s.modChan c f).central = s.central := rfl
@[simp] theorem modChan_units (s : State) (c : Nat) (f : Chan → Chan) : (s.modChan c f).units = s.units := rfl
@[simp] theorem modChan_levels (s : State) (c : Nat) (f : Chan → Chan) : (s.modChan c f).levels = s.levels := rfl
@[simp] theorem modChan_levelNext (s : State) (c : Nat) (f : Chan → Chan) : (s.modChan c f).levelNext = s.levelNext := rfl
@[simp] theorem modChan_quads (s : State) (c : Nat) (f : Chan → Chan) : (s.modChan c f).quads = s.quads := rfl
@[simp] theorem modChan_ports (s : State) (c : Nat) (f : Chan → Chan) : (s.modChan c f).ports = s.ports := rfl
@[simp] theorem modChan_chans (s : State) (c : Nat) (f : Chan → Chan) : (s.modChan c f).chans = modAt s.chans c f := rfl
@[simp] theorem modChan_pacers (s : State) (c : Nat) (f : Chan → Chan) : (s.modChan c f).pacers = s.pacers := rfl
@[simp] theorem modChan_tap (s : State) (c : Nat) (f : Chan → Chan) : (s.modChan c f).tap = s.tap := rfl
@[simp] theorem modChan_pending (s : State) (c : Nat) (f : Chan → Chan) : (s.modChan c f).pending = s.pending := rfl

@[simp] theorem modPacer_block (s : State) (p : Nat) (f : Pacer → Pacer) : (s.modPacer p f).block = s.block := rfl
@[simp] theorem modPacer_keeper (s : State) (p : Nat) (f : Pacer → Pacer) : (s.modPacer p f).keeper = s.keeper := rfl
@[simp] theorem modPacer_regs (s : State) (p : Nat) (f : Pacer → Pacer) : (s.modPacer p f).regs = s.regs := rfl
@[simp] theorem modPacer_prof (s : State) (p : Nat) (f : Pacer → Pacer) : (s.modPacer p f).prof = s.prof := rfl
@[simp] theorem modPacer_queues (s : State) (p : Nat) (f : Pacer → Pacer) : (s.modPacer p f).queues = s.queues := rfl
@[simp] theorem modPacer_jobs (s : State) (p : Nat) (f : Pacer → Pacer) : (s.modPacer p f).jobs = s.jobs := rfl
@[simp] theorem modPacer_uidNext (s : State) (p : Nat) (f : Pacer → Pacer) : (s.modPacer p f).uidNext = s.uidNext := rfl
@[simp] theorem modPacer_orderNext (s : State) (p : Nat) (f : Pacer → Pacer) : (s.modPacer p f).orderNext = s.orderNext := rfl
@[simp] theorem modPacer_store (s : State) (p : Nat) (f : Pacer → Pacer) : (s.modPacer p f).store = s.store := rfl
@[simp] theorem modPacer_parts (s : State) (p : Nat) (f : Pacer → Pacer) : (s.modPacer p f).parts = s.parts := rfl
@[simp] theorem modPacer_tables (s : State) (p : Nat) (f : Pacer → Pacer) : (s.modPacer p f).tables = s.tables := rfl
@[simp] theorem modPacer_spans (s : State) (p : Nat) (f : Pacer → Pacer) : (s.modPacer p f).spans = s.spans := rfl
@[simp] theorem modPacer_lanes (s : State) (p : Nat) (f : Pacer → Pacer) : (s.modPacer p f).lanes = s.lanes := rfl
@[simp] theorem modPacer_central (s : State) (p : Nat) (f : Pacer → Pacer) : (s.modPacer p f).central = s.central := rfl
@[simp] theorem modPacer_units (s : State) (p : Nat) (f : Pacer → Pacer) : (s.modPacer p f).units = s.units := rfl
@[simp] theorem modPacer_levels (s : State) (p : Nat) (f : Pacer → Pacer) : (s.modPacer p f).levels = s.levels := rfl
@[simp] theorem modPacer_levelNext (s : State) (p : Nat) (f : Pacer → Pacer) : (s.modPacer p f).levelNext = s.levelNext := rfl
@[simp] theorem modPacer_quads (s : State) (p : Nat) (f : Pacer → Pacer) : (s.modPacer p f).quads = s.quads := rfl
@[simp] theorem modPacer_ports (s : State) (p : Nat) (f : Pacer → Pacer) : (s.modPacer p f).ports = s.ports := rfl
@[simp] theorem modPacer_chans (s : State) (p : Nat) (f : Pacer → Pacer) : (s.modPacer p f).chans = s.chans := rfl
@[simp] theorem modPacer_pacers (s : State) (p : Nat) (f : Pacer → Pacer) : (s.modPacer p f).pacers = modAt s.pacers p f := rfl
@[simp] theorem modPacer_tap (s : State) (p : Nat) (f : Pacer → Pacer) : (s.modPacer p f).tap = s.tap := rfl
@[simp] theorem modPacer_pending (s : State) (p : Nat) (f : Pacer → Pacer) : (s.modPacer p f).pending = s.pending := rfl

@[simp] theorem putPort_block (s : State) (x : PortState) : (s.putPort x).block = s.block := rfl
@[simp] theorem putPort_keeper (s : State) (x : PortState) : (s.putPort x).keeper = s.keeper := rfl
@[simp] theorem putPort_regs (s : State) (x : PortState) : (s.putPort x).regs = s.regs := rfl
@[simp] theorem putPort_prof (s : State) (x : PortState) : (s.putPort x).prof = s.prof := rfl
@[simp] theorem putPort_queues (s : State) (x : PortState) : (s.putPort x).queues = s.queues := rfl
@[simp] theorem putPort_jobs (s : State) (x : PortState) : (s.putPort x).jobs = s.jobs := rfl
@[simp] theorem putPort_uidNext (s : State) (x : PortState) : (s.putPort x).uidNext = s.uidNext := rfl
@[simp] theorem putPort_orderNext (s : State) (x : PortState) : (s.putPort x).orderNext = s.orderNext := rfl
@[simp] theorem putPort_store (s : State) (x : PortState) : (s.putPort x).store = s.store := rfl
@[simp] theorem putPort_parts (s : State) (x : PortState) : (s.putPort x).parts = s.parts := rfl
@[simp] theorem putPort_tables (s : State) (x : PortState) : (s.putPort x).tables = s.tables := rfl
@[simp] theorem putPort_spans (s : State) (x : PortState) : (s.putPort x).spans = s.spans := rfl
@[simp] theorem putPort_lanes (s : State) (x : PortState) : (s.putPort x).lanes = s.lanes := rfl
@[simp] theorem putPort_central (s : State) (x : PortState) : (s.putPort x).central = s.central := rfl
@[simp] theorem putPort_units (s : State) (x : PortState) : (s.putPort x).units = s.units := rfl
@[simp] theorem putPort_levels (s : State) (x : PortState) : (s.putPort x).levels = s.levels := rfl
@[simp] theorem putPort_levelNext (s : State) (x : PortState) : (s.putPort x).levelNext = s.levelNext := rfl
@[simp] theorem putPort_quads (s : State) (x : PortState) : (s.putPort x).quads = s.quads := rfl
@[simp] theorem putPort_ports (s : State) (x : PortState) : (s.putPort x).ports = { s.ports with states := s.ports.states.filter (·.port != x.port) ++ [x] } := rfl
@[simp] theorem putPort_chans (s : State) (x : PortState) : (s.putPort x).chans = s.chans := rfl
@[simp] theorem putPort_pacers (s : State) (x : PortState) : (s.putPort x).pacers = s.pacers := rfl
@[simp] theorem putPort_tap (s : State) (x : PortState) : (s.putPort x).tap = s.tap := rfl
@[simp] theorem putPort_pending (s : State) (x : PortState) : (s.putPort x).pending = s.pending := rfl

/-- Looking a key up after the change of its own entry. -/
theorem find_map_self {α β : Type} [BEq β] [LawfulBEq β] (k : α → β) (q : β) (f : α → α) (l : List α) (x : α)
    (h : l.find? (fun y => k y == q) = some x) (hf : k (f x) = k x) :
    (l.map fun y => if k y == q then f y else y).find? (fun y => k y == q) = some (f x) := by
  induction l with
  | nil => simp at h
  | cons y r ih =>
    rw [List.find?_cons] at h
    rw [List.map_cons, List.find?_cons]
    cases e : k y == q with
    | true =>
      rw [e] at h
      cases h
      simp [hf, e]
    | false =>
      rw [e] at h
      simpa [e] using ih h

/-- Looking another key up. -/
theorem find_map_ne {α β : Type} [BEq β] [LawfulBEq β] (k : α → β) (q r : β) (f : α → α) (l : List α)
    (hf : ∀ x, k (f x) = k x) (h : r ≠ q) :
    (l.map fun y => if k y == q then f y else y).find? (fun y => k y == r) = l.find? (fun y => k y == r) := by
  induction l with
  | nil => rfl
  | cons y l ih =>
    rw [List.map_cons, List.find?_cons, List.find?_cons, ih]
    cases e : k y == q with
    | true =>
      have e1 := eq_of_beq e
      have e2 : (k y == r) = false := by
        rw [e1]
        exact beq_eq_false_iff_ne.mpr (Ne.symm h)
      simp [hf, e2]
    | false => simp

/-- Looking a queue up after its own update. -/
theorem queue?_modQueue_self {s : State} {q : QId} {f : Queue → Queue} {x : Queue} (h : s.queue? q = some x)
    (hf : (f x).qid = x.qid) : (s.modQueue q f).queue? q = some (f x) :=
  find_map_self Queue.qid q f s.queues x h hf

/-- Looking another queue up. -/
theorem queue?_modQueue_ne {s : State} {q r : QId} {f : Queue → Queue} (hf : ∀ x, (f x).qid = x.qid) (h : r ≠ q) :
    (s.modQueue q f).queue? r = s.queue? r :=
  find_map_ne Queue.qid q r f s.queues hf h

/-- Looking a job up after its own update. -/
theorem job?_modJob_self {s : State} {uid : Nat} {f : Job → Job} {j : Job} (h : s.job? uid = some j)
    (hf : (f j).uid = j.uid) : (s.modJob uid f).job? uid = some (f j) :=
  find_map_self Job.uid uid f s.jobs j h hf

/-- Looking another job up. -/
theorem job?_modJob_ne {s : State} {uid v : Nat} {f : Job → Job} (hf : ∀ x, (f x).uid = x.uid) (h : v ≠ uid) :
    (s.modJob uid f).job? v = s.job? v :=
  find_map_ne Job.uid uid v f s.jobs hf h

/-- A member of a list after the change of one place. -/
theorem getD_modAt_self {α : Type} (l : List α) (i : Nat) (f : α → α) (d : α) (h : i < l.length) :
    (modAt l i f).getD i d = f (l.getD i d) := by
  induction l generalizing i with
  | nil => simp at h
  | cons x r ih =>
    cases i with
    | zero => rfl
    | succ i => simpa [modAt] using ih i (by simpa using h)

theorem getD_modAt_ne {α : Type} (l : List α) (i k : Nat) (f : α → α) (d : α) (h : k ≠ i) :
    (modAt l i f).getD k d = l.getD k d := by
  induction l generalizing i k with
  | nil => rfl
  | cons x r ih =>
    cases i with
    | zero =>
      cases k with
      | zero => exact absurd rfl h
      | succ k => rfl
    | succ i =>
      cases k with
      | zero => rfl
      | succ k => simpa [modAt] using ih i k (by omega)

end Sys2Proof.Laws
end

