-- ==== Sys2Proof/Laws/Frames.lean ====
section
/-! SUPPORT. What the shared operations leave of the state, as one equation each. -/

namespace Sys2Proof.Laws

open Sys2Proof Sys2Proof.Machine

/-- Waking the central domain changes the central domain only. -/
theorem wakeCentral_eq (s : State) : ∃ c, s.wakeCentral = { s with central := c } := by
  unfold State.wakeCentral
  dsimp only
  split
  · exact ⟨_, rfl⟩
  · exact ⟨_, rfl⟩
  · split
    · exact ⟨_, rfl⟩
    · exact ⟨_, rfl⟩

/-- Settling or raising a span changes spans only. -/
theorem settleRun_eq (s : State) (n : Nat) : ∃ l, s.settleRun n = { s with spans := l } := by
  unfold State.settleRun
  dsimp only
  split
  · exact ⟨_, rfl⟩
  · exact ⟨_, rfl⟩

theorem raiseSpan_eq (s : State) (n : Nat) : ∃ l, s.raiseSpan n = { s with spans := l } := by
  unfold State.raiseSpan
  split
  · exact ⟨_, rfl⟩
  · obtain ⟨l, h⟩ := settleRun_eq (s.modSpan n fun x =>
      match x.trans with
      | some .toSleep => { x with wakeAfter := true }
      | some .toDeep => { x with wakeAfter := true }
      | some _ => x
      | none => match x.power with
        | .sleep => { x with trans := some .exitSleep }
        | .deep => { x with trans := some .exitDeep }
        | _ => x) n
    exact ⟨l, h⟩

theorem raiseSpans_eq (s : State) (l : List Nat) : ∃ x, s.raiseSpans l = { s with spans := x } := by
  unfold State.raiseSpans
  induction l generalizing s with
  | nil => exact ⟨_, rfl⟩
  | cons n r ih =>
    obtain ⟨x, h⟩ := raiseSpan_eq s n
    obtain ⟨y, k⟩ := ih (s.raiseSpan n)
    exact ⟨y, by rw [List.foldl_cons, k, h]⟩

/-- A vote that commits changes spans and the central domain only. -/
theorem voteCommitted_eq (s : State) (floor : Nat) (l : List Nat) :
    ∃ x c, s.voteCommitted floor l = { s with spans := x, central := c } := by
  have run (l : List Nat) (z : State) :
      ∃ x, l.foldl (fun s n => if s.deeperThan floor n then s.raiseSpan n else s.settleRun n) z = { z with spans := x } := by
    induction l generalizing z with
    | nil => exact ⟨_, rfl⟩
    | cons n r ih =>
      rw [List.foldl_cons]
      split
      · obtain ⟨x, h⟩ := raiseSpan_eq z n
        obtain ⟨y, k⟩ := ih (z.raiseSpan n)
        exact ⟨y, by rw [k, h]⟩
      · obtain ⟨x, h⟩ := settleRun_eq z n
        obtain ⟨y, k⟩ := ih (z.settleRun n)
        exact ⟨y, by rw [k, h]⟩
  obtain ⟨c, h⟩ := wakeCentral_eq s
  obtain ⟨x, k⟩ := run l s.wakeCentral
  exact ⟨x, c, by unfold State.voteCommitted; rw [k, h]⟩

/-- A queue found by its ID carries it. -/
theorem qid_of_queue? {s : State} {q : QId} {x : Queue} (h : s.queue? q = some x) : x.qid = q := by
  have := List.find?_some h
  simpa using this

theorem uid_of_job? {s : State} {uid : Nat} {j : Job} (h : s.job? uid = some j) : j.uid = uid := by
  have := List.find?_some h
  simpa using this

/-- A live queue is a queue that is not DESTROYED. -/
theorem live?_some {s : State} {q : QId} {x : Queue} : s.live? q = some x ↔ s.queue? q = some x ∧ x.state ≠ .destroyed := by
  unfold State.live?
  rw [Option.filter_eq_some_iff]
  simp

/-- A doorbell write that the engine evaluates names a live queue. -/
theorem bellWrite_some {s : State} {off width : Nat} {x : Queue} (h : s.bellWrite off width = some x) :
    width = 4 ∧ off % 0x40 = 0 ∧ s.live? x.qid = some x ∧ (s.bellQueue off).bind s.live? = some x := by
  unfold State.bellWrite at h
  split at h
  · next hw =>
    cases hb : s.bellQueue off with
    | none => rw [hb] at h; cases h
    | some q =>
      rw [hb] at h
      have h1 : s.live? q = some x := h
      have h2 := qid_of_queue? (live?_some.1 h1).1
      exact ⟨hw.1, hw.2, by rw [h2]; exact h1, by simpa [hb] using h1⟩
  · cases h

/-- Two updates of one queue are one. -/
theorem modQueue_modQueue (s : State) (q : QId) (f g : Queue → Queue) (hf : ∀ x, (f x).qid = x.qid) :
    (s.modQueue q f).modQueue q g = s.modQueue q fun x => g (f x) := by
  simp only [State.modQueue, List.map_map]
  congr 1
  apply List.map_congr_left
  intro x _
  simp only [Function.comp]
  split <;> simp_all

end Sys2Proof.Laws
end

