-- ==== Sys2Proof/Laws/Lists.lean ====
section
/-! SUPPORT. Lemmas about the list helpers of Machine/Bits.lean: changing one element, association lists. -/

namespace Sys2Proof.Laws

open Sys2Proof.Machine

@[simp] theorem length_modAt {α : Type} (l : List α) (i : Nat) (f : α → α) : (modAt l i f).length = l.length := by
  induction l generalizing i with
  | nil => rfl
  | cons x r ih => cases i <;> simp [modAt, ih]

/-- Element j after element i was changed. -/
theorem getElem?_modAt {α : Type} (l : List α) (i j : Nat) (f : α → α) :
    (modAt l i f)[j]? = if j = i then l[j]?.map f else l[j]? := by
  induction l generalizing i j with
  | nil => simp [modAt]
  | cons x r ih => cases i <;> cases j <;> simp [modAt, ih]

/-- The element changed, read back with the default it had outside the list. -/
theorem getD_modAt_same {α : Type} (l : List α) (i : Nat) (f : α → α) (d : α) (h : i < l.length) :
    (modAt l i f).getD i d = f (l.getD i d) := by
  simp [List.getD_eq_getElem?_getD, getElem?_modAt, List.getElem?_eq_getElem h]

/-- Every other element reads as before. -/
theorem getD_modAt_other {α : Type} (l : List α) (i j : Nat) (f : α → α) (d : α) (h : j ≠ i) :
    (modAt l i f).getD j d = l.getD j d := by
  simp [List.getD_eq_getElem?_getD, getElem?_modAt, h]

/-- A key's value after it was set. -/
theorem lookupD_assocPut {α : Type} (l : List (Nat × α)) (k j : Nat) (v d : α) :
    lookupD (assocPut l k v) j d = if j = k then v else lookupD l j d := by
  induction l with
  | nil => simp [assocPut, lookupD, eq_comm]
  | cons p r ih =>
    obtain ⟨a, w⟩ := p
    simp only [assocPut]
    split
    · next h => subst h; by_cases h2 : j = a <;> simp [lookupD, h2, eq_comm]
    · next h => simp only [lookupD, ih]; by_cases h2 : j = k <;> simp_all

end Sys2Proof.Laws
end

