-- ==== Sys2Proof/Laws/Mem.lean ====
section
/-! SUPPORT. The memories: reads after writes, and every memory operation keeps the canonical form. -/

namespace Sys2Proof.Laws

open Sys2Proof.Machine

/-- A list of cells in canonical form: rising addresses, and no entry equal to what its address reads unlisted. -/
abbrev CellsOk (d : Nat → Byte) (m : List Host.Cell) : Prop := memWf d m = true

theorem cellsOk_iff (d : Nat → Byte) (m : List Host.Cell) :
    CellsOk d m ↔ m.Pairwise (fun x y => x.1 < y.1) ∧ ∀ c ∈ m, c.2 ≠ d c.1 := by
  induction m with
  | nil => simp [CellsOk, memWf]
  | cons c r ih =>
    obtain ⟨a, b⟩ := c
    cases r with
    | nil => simp [CellsOk, memWf]
    | cons e r =>
      obtain ⟨x, y⟩ := e
      simp only [CellsOk, memWf, Bool.and_eq_true, decide_eq_true_eq] at ih ⊢
      rw [ih]
      constructor
      · rintro ⟨⟨h1, h2⟩, hp, hd⟩
        refine ⟨List.pairwise_cons.2 ⟨?_, hp⟩, ?_⟩
        · intro z hz
          rcases List.mem_cons.1 hz with rfl | hz
          · exact h2
          · exact lt_trans h2 ((List.pairwise_cons.1 hp).1 z hz)
        · intro z hz
          rcases List.mem_cons.1 hz with rfl | hz
          · exact h1
          · exact hd z hz
      · rintro ⟨hp, hd⟩
        exact ⟨⟨hd (a, b) (by simp), (List.pairwise_cons.1 hp).1 (x, y) (by simp)⟩, (List.pairwise_cons.1 hp).2,
          fun z hz => hd z (List.mem_cons_of_mem _ hz)⟩

theorem mem_memPut {m : List Host.Cell} {a : Nat} {b d : Byte} {c : Host.Cell} (h : c ∈ memPut m a b d) :
    c ∈ m ∨ (c = (a, b) ∧ b ≠ d) := by
  induction m with
  | nil => simp only [memPut] at h; split at h <;> simp_all
  | cons e r ih =>
    obtain ⟨x, y⟩ := e
    simp only [memPut] at h
    repeat' split at h
    all_goals simp_all
    all_goals grind

/-- Writing a byte keeps the canonical form. -/
theorem cellsOk_memPut (d : Nat → Byte) (m : List Host.Cell) (a : Nat) (b : Byte) (h : CellsOk d m) :
    CellsOk d (memPut m a b (d a)) := by
  rw [cellsOk_iff] at h ⊢
  refine ⟨?_, ?_⟩
  · obtain ⟨hp, -⟩ := h
    induction m with
    | nil => simp only [memPut]; split <;> simp
    | cons e r ih =>
      obtain ⟨x, y⟩ := e
      have hp' := List.pairwise_cons.1 hp
      simp only [memPut]
      split
      · next hlt =>
        split
        · exact hp
        · refine List.pairwise_cons.2 ⟨?_, hp⟩
          intro z hz
          rcases List.mem_cons.1 hz with rfl | hz
          · exact hlt
          · exact lt_trans hlt (hp'.1 z hz)
      · split
        · next hnl heq =>
          subst heq
          split
          · exact hp'.2
          · exact List.pairwise_cons.2 ⟨hp'.1, hp'.2⟩
        · next hnl hne =>
          refine List.pairwise_cons.2 ⟨?_, ih hp'.2⟩
          intro z hz
          rcases mem_memPut hz with hz | ⟨rfl, -⟩
          · exact hp'.1 z hz
          · simp only; omega
  · intro c hc
    rcases mem_memPut hc with hc | ⟨rfl, hb⟩
    · exact h.2 c hc
    · exact hb

/-- Erasing a range keeps the canonical form. -/
theorem cellsOk_memErase (d : Nat → Byte) (m : List Host.Cell) (base len : Nat) (h : CellsOk d m) :
    CellsOk d (memErase m base len) := by
  rw [cellsOk_iff] at h ⊢
  exact ⟨h.1.sublist List.filter_sublist, fun c hc => h.2 c (List.mem_of_mem_filter hc)⟩

/-- The form depends on what the listed addresses read unlisted, and on nothing else. -/
theorem cellsOk_congr {d d' : Nat → Byte} {m : List Host.Cell} (h : ∀ c ∈ m, d c.1 = d' c.1) (hm : CellsOk d m) :
    CellsOk d' m := by
  rw [cellsOk_iff] at hm ⊢
  exact ⟨hm.1, fun c hc => h c hc ▸ hm.2 c hc⟩

/-- In a rising list no address below the first is listed. -/
theorem memGet_below (m : List Host.Cell) (a : Nat) (d : Byte) (h : ∀ c ∈ m, a < c.1) : memGet m a d = d := by
  cases m with
  | nil => rfl
  | cons e r =>
    obtain ⟨x, y⟩ := e
    have := h (x, y) (by simp)
    simp only at this
    have h1 : ¬ x = a := by omega
    simp [memGet, h1, this]

/-- A byte reads back what was written to it. -/
theorem memGet_memPut_same (m : List Host.Cell) (a : Nat) (b d : Byte) (h : m.Pairwise (fun x y => x.1 < y.1)) :
    memGet (memPut m a b d) a d = b := by
  induction m with
  | nil => simp only [memPut]; split <;> simp_all [memGet]
  | cons e r ih =>
    obtain ⟨x, y⟩ := e
    have hp := List.pairwise_cons.1 h
    simp only [memPut]
    split
    · next hlt =>
      have hne : ¬ x = a := by omega
      split <;> simp_all [memGet]
    · split
      · next hnl heq =>
        subst heq
        split
        · next hb => subst hb; exact memGet_below _ _ _ hp.1
        · simp [memGet]
      · next hnl hne =>
        have h1 : ¬ x = a := fun hh => hne hh.symm
        simp [memGet, h1, hnl, ih hp.2]

/-- A write leaves every other byte as it was. -/
theorem memGet_memPut_other (m : List Host.Cell) (a k : Nat) (b d e : Byte) (h : m.Pairwise (fun x y => x.1 < y.1))
    (hk : k ≠ a) : memGet (memPut m a b d) k e = memGet m k e := by
  induction m with
  | nil => simp only [memPut]; split <;> simp [memGet, Ne.symm hk]
  | cons c r ih =>
    obtain ⟨x, y⟩ := c
    have hp := List.pairwise_cons.1 h
    simp only [memPut]
    split
    · next hlt =>
      split
      · rfl
      · have h1 : ¬ a = k := fun hh => hk hh.symm
        simp only [memGet, h1, if_false]
        split
        · have h2 : ¬ x = k := by omega
          have h3 : k < x := by omega
          simp [h2, h3]
        · rfl
    · split
      · next hnl heq =>
        subst heq
        have h1 : ¬ a = k := fun hh => hk hh.symm
        split
        · simp only [memGet, h1, if_false]
          split
          · exact memGet_below _ _ _ (fun c hc => lt_trans (by assumption) (hp.1 c hc))
          · rfl
        · simp [memGet, h1]
      · simp only [memGet, ih hp.2]

/-- An address outside an erased range reads as before. -/
theorem memGet_memErase_other (m : List Host.Cell) (base len k : Nat) (d : Byte) (h : m.Pairwise (fun x y => x.1 < y.1))
    (hk : k < base ∨ base + len ≤ k) : memGet (memErase m base len) k d = memGet m k d := by
  induction m with
  | nil => rfl
  | cons c r ih =>
    obtain ⟨x, y⟩ := c
    have hp := List.pairwise_cons.1 h
    have ih := ih hp.2
    simp only [memErase] at ih ⊢
    by_cases hc : base ≤ x ∧ x < base + len
    · have h1 : ¬ x = k := by omega
      simp only [List.filter_cons, hc, memGet, h1, and_self, decide_true, Bool.not_true, Bool.false_eq_true, if_false]
      rw [ih]
      split
      · exact memGet_below _ _ _ (fun c hc => lt_trans (by assumption) (hp.1 c hc))
      · rfl
    · simp only [List.filter_cons, hc, decide_false, Bool.not_false, if_true, memGet, ih]

theorem wf_put (st : Store) (k : Nat) (b : Byte) (h : Memory.wf st) : Memory.wf (st.put k b) :=
  ⟨cellsOk_memPut _ _ _ _ h.1, h.2⟩

theorem wf_writeAll (st : Store) (l : List (Nat × Byte)) (h : Memory.wf st) : Memory.wf (st.writeAll l) := by
  induction l generalizing st with
  | nil => exact h
  | cons x r ih => exact ih _ (wf_put _ _ _ h)

theorem wf_change (st : Store) (l : List WByte) (h : Memory.wf st) : Memory.wf (st.change l) := by
  induction l generalizing st with
  | nil => exact h
  | cons x r ih => exact ih _ (wf_put _ _ _ h)

/-- Changed bytes leave the codebook caches, the RAM of the cores, the undefined ranges, the poison and the codewords under injection. -/
theorem change_rest (st : Store) (l : List WByte) : { st.change l with mem := st.mem } = st := by
  induction l generalizing st with
  | nil => rfl
  | cons x r ih => exact congrArg (fun u : Store => { u with mem := st.mem }) (ih (st.put _ _))

/-- The same of bytes written whole. -/
theorem writeAll_rest (st : Store) (l : List (Nat × Byte)) : { st.writeAll l with mem := st.mem } = st := by
  induction l generalizing st with
  | nil => rfl
  | cons x r ih => exact congrArg (fun u : Store => { u with mem := st.mem }) (ih (st.put _ _))

theorem wf_foldl {α : Type} (f : Store → α → Store) (l : List α) (st : Store)
    (hf : ∀ st x, Memory.wf st → Memory.wf (f st x)) (h : Memory.wf st) : Memory.wf (l.foldl f st) := by
  induction l generalizing st with
  | nil => exact h
  | cons x r ih => exact ih _ (hf _ _ h)

theorem wf_write (st : Store) (k : Nat) (l : List Byte) (h : Memory.wf st) : Memory.wf (st.write k l) := by
  induction l generalizing st k with
  | nil => exact h
  | cons x r ih => exact ih _ _ (wf_put _ _ _ h)

theorem mem_insertAsc {l : List Nat} {a x : Nat} (h : x ∈ insertAsc l a) : x = a ∨ x ∈ l := by
  induction l with
  | nil => simpa [insertAsc] using h
  | cons y r ih =>
    simp only [insertAsc] at h
    repeat' split at h
    all_goals simp_all
    all_goals tauto

theorem pairwise_insertAsc {l : List Nat} (a : Nat) (h : l.Pairwise (· < ·)) : (insertAsc l a).Pairwise (· < ·) := by
  induction l with
  | nil => simp [insertAsc]
  | cons y r ih =>
    have hp := List.pairwise_cons.1 h
    simp only [insertAsc]
    split
    · next hlt =>
      refine List.pairwise_cons.2 ⟨fun z hz => ?_, h⟩
      rcases List.mem_cons.1 hz with rfl | hz
      · exact hlt
      · exact lt_trans hlt (hp.1 z hz)
    · split
      · exact h
      · refine List.pairwise_cons.2 ⟨fun z hz => ?_, ih hp.2⟩
        rcases mem_insertAsc hz with rfl | hz
        · omega
        · exact hp.1 z hz

theorem wf_setPoison (st : Store) (gs : List Nat) (p : Bool) (h : Memory.wf st) : Memory.wf (st.setPoison gs p) := by
  refine ⟨h.1, h.2.1, ?_⟩
  have hf : ∀ (l gs : List Nat), l.Pairwise (· < ·) → (gs.foldl insertAsc l).Pairwise (· < ·) := by
    intro l gs
    induction gs generalizing l with
    | nil => exact fun h => h
    | cons g r ih => exact fun h => ih _ (pairwise_insertAsc g h)
  cases p with
  | true => exact hf _ _ h.2.2
  | false => exact h.2.2.sublist List.filter_sublist

/-- Byte k after byte a was written. -/
theorem get_put (st : Store) (a k : Nat) (b : Byte) (h : Memory.wf st) :
    (st.put a b).get k = if k = a then b else st.get k := by
  have hp := ((cellsOk_iff _ _).1 h.1).1
  by_cases hk : k = a
  · subst hk; simp [Store.get, Store.put, memGet_memPut_same _ _ _ _ hp]
  · simp [Store.get, Store.put, hk, memGet_memPut_other _ _ _ _ _ _ hp hk]

/-- Bytes that a list of writes does not name read as before. -/
theorem get_writeAll_other (st : Store) (l : List (Nat × Byte)) (k : Nat) (h : Memory.wf st) (hk : ∀ x ∈ l, x.1 ≠ k) :
    (st.writeAll l).get k = st.get k := by
  induction l generalizing st with
  | nil => rfl
  | cons x r ih =>
    obtain ⟨a, b⟩ := x
    have h1 := hk (a, b) (by simp)
    simp only [Store.writeAll]
    rw [ih _ (wf_put _ _ _ h) (fun x hx => hk x (List.mem_cons_of_mem _ hx)), get_put _ _ _ _ h]
    simp [Ne.symm h1]

/-- The undefined ranges without a range that is cut out: what covers an address outside it. -/
theorem undefAt_cut (u : List Undef) (base len k : Nat) (hk : k < base ∨ base + len ≤ k) :
    (undefAt (cutUndef u base len) k).map (·.seed) = (undefAt u k).map (·.seed) := by
  induction u with
  | nil => rfl
  | cons r u ih =>
    simp only [undefAt, cutUndef, List.flatMap_cons, List.find?_append, List.find?_cons] at ih ⊢
    by_cases h1 : r.base ≤ k ∧ k < r.base + r.len
    · by_cases h2 : r.base + r.len ≤ base ∨ base + len ≤ r.base
      · simp [h2, h1]
      · simp only [h2, if_false, List.find?_append]
        simp only [not_or, not_le] at h2
        rcases hk with hk | hk
        · have h3 : r.base < base := by omega
          have h4 : k < r.base + (base - r.base) := by omega
          simp [h3, h1, h4]
        · have h3 : base + len < r.base + r.len := by omega
          have h4 : base + len ≤ k ∧ k < base + len + (r.base + r.len - (base + len)) := by omega
          have h5 (h6 : r.base < base) : ¬ k < r.base + (base - r.base) := by omega
          by_cases h6 : r.base < base
          · have h7 := h5 h6
            simp only [h6, if_true, List.find?_cons, h7, and_false, decide_false, List.find?_nil, h3, h4]
            simp [h1]
          · simp [h3, h1, h4, h6]
    · have hn : ∀ p : List Undef, (p = (if r.base + r.len ≤ base ∨ base + len ≤ r.base then [r] else
          (if r.base < base then [{ r with len := base - r.base }] else []) ++
          (if base + len < r.base + r.len then
            [{ r with base := base + len, len := r.base + r.len - (base + len) }] else []))) →
          p.find? (fun r => decide (r.base ≤ k ∧ k < r.base + r.len)) = none := by
        rintro p rfl
        rw [List.find?_eq_none]
        intro x hx
        split at hx
        · simp only [List.mem_singleton] at hx; subst hx; simpa using h1
        · simp only [List.mem_append] at hx
          simp only [decide_eq_true_eq]
          rcases hx with hx | hx
          · split at hx
            · simp only [List.mem_singleton] at hx; subst hx; simp only; omega
            · simp at hx
          · split at hx
            · simp only [List.mem_singleton] at hx; subst hx; simp only; omega
            · simp at hx
      rw [hn _ rfl]
      simpa [h1] using ih

theorem unlisted_cut (u : List Undef) (base len k : Nat) (hk : k < base ∨ base + len ≤ k) :
    unlisted (cutUndef u base len) k = unlisted u k := by
  have h := undefAt_cut u base len k hk
  unfold unlisted
  cases h1 : undefAt (cutUndef u base len) k <;> cases h2 : undefAt u k <;> simp_all

theorem mem_memErase {m : List Host.Cell} {base len : Nat} {c : Host.Cell} (h : c ∈ memErase m base len) :
    c ∈ m ∧ (c.1 < base ∨ base + len ≤ c.1) := by
  simp only [memErase, List.mem_filter, Bool.not_eq_true', decide_eq_false_iff_not] at h
  exact ⟨h.1, by omega⟩

/-- Zeroing a range keeps the form. -/
theorem wf_zero (st : Store) (base len : Nat) (h : Memory.wf st) : Memory.wf (st.zero base len) :=
  ⟨cellsOk_congr (fun _ hc => (unlisted_cut _ _ _ _ (mem_memErase hc).2).symm) (cellsOk_memErase _ _ _ _ h.1), h.2.1,
    h.2.2.sublist List.filter_sublist⟩

/-- No undefined range covers an address that was cut out. -/
theorem undefAt_cut_inside (u : List Undef) (base len k : Nat) (hk : base ≤ k ∧ k < base + len) :
    undefAt (cutUndef u base len) k = none := by
  unfold undefAt
  rw [List.find?_eq_none]
  intro r hr
  simp only [cutUndef, List.mem_flatMap] at hr
  obtain ⟨x, _, hx⟩ := hr
  simp only [decide_eq_true_eq, not_and, not_lt]
  split at hx
  · simp only [List.mem_singleton] at hx
    subst hx
    omega
  · simp only [List.mem_append] at hx
    rcases hx with hx | hx
    · split at hx
      · simp only [List.mem_singleton] at hx
        subst hx
        simp only
        omega
      · simp at hx
    · split at hx
      · simp only [List.mem_singleton] at hx
        subst hx
        simp only
        omega
      · simp at hx

/-- An address that no cell of a list names reads as unlisted. -/
theorem memGet_absent (m : List Host.Cell) (k : Nat) (d : Byte) (h : ∀ c ∈ m, c.1 ≠ k) : memGet m k d = d := by
  induction m with
  | nil => rfl
  | cons c r ih =>
    obtain ⟨x, y⟩ := c
    have h1 : x ≠ k := h (x, y) (by simp)
    simp only [memGet, h1, if_false]
    split
    · rfl
    · exact ih fun c hc => h c (List.mem_cons_of_mem _ hc)

/-- A zeroed range reads zero. -/
theorem get_zero_inside (st : Store) (base len k : Nat) (hk : base ≤ k ∧ k < base + len) : (st.zero base len).get k = 0 := by
  have h1 : ∀ c ∈ memErase st.mem base len, c.1 ≠ k := fun c hc e => by
    have := (mem_memErase hc).2
    omega
  simp only [Store.get, Store.zero]
  rw [memGet_absent _ _ _ h1]
  simp [unlisted, undefAt_cut_inside _ _ _ _ hk]

/-- Bytes outside a zeroed range read as before. -/
theorem get_zero_outside (st : Store) (base len k : Nat) (h : Memory.wf st) (hk : k < base ∨ base + len ≤ k) :
    (st.zero base len).get k = st.get k := by
  simp only [Store.get, Store.zero]
  rw [unlisted_cut _ _ _ _ hk]
  exact memGet_memErase_other _ _ _ _ _ ((cellsOk_iff _ _).1 h.1).1 hk

/-- Leaving a range undefined keeps the form. -/
theorem wf_undefine (st : Store) (base len seed : Nat) (h : Memory.wf st) : Memory.wf (st.undefine base len seed) := by
  refine ⟨cellsOk_congr (fun c hc => ?_) (cellsOk_memErase _ _ base len h.1), h.2⟩
  have hk := (mem_memErase hc).2
  have h1 : ¬ (base ≤ c.1 ∧ c.1 < base + len) := by omega
  rw [← unlisted_cut _ base len _ hk]
  simp [unlisted, undefAt, Store.undefine, h1]

/-- Loading a codebook keeps the form. -/
theorem wf_loadCodebook (st : Store) (span set : Nat) (bytes : List Byte) (h : Memory.wf st) :
    Memory.wf (st.loadCodebook span set bytes) := by
  refine ⟨h.1, ?_, h.2.2⟩
  have : ∀ (l : List (Nat × Byte)) (m : List Host.Cell), CellsOk (fun _ => 0) m →
      CellsOk (fun _ => 0) (l.foldl (fun m x => memPut m (cbKey span set x.1) x.2 0) m) := by
    intro l
    induction l with
    | nil => exact fun _ h => h
    | cons x r ih => exact fun m hm => ih _ (cellsOk_memPut (fun _ => 0) m _ _ hm)
  exact this _ _ (cellsOk_memErase _ _ _ _ h.2.1)

end Sys2Proof.Laws
end

