-- ==== Sys2Proof/WellFormed.lean ====
section
/-! DEFINITION. Which commands are well formed: operand ranges that the spec gives the ports, queues, registers and units
a command names. A command outside them stands for nothing that can come about at the block's boundary. -/

namespace Sys2Proof

namespace WellFormed

/-- An I/O queue ID is 0 to 4,095, an administrative queue A0 to A8 (03 R80, 13 R293). -/
def qid : QId → Bool
  | .io id => decide (id < 4096)
  | .adm p => decide (p ≤ 8)

/-- The data ports of 19 R424. -/
def port : Port → Bool
  | .host => true
  | .mp n => decide (n < 8)
  | .ap n => decide (n < 8)
  | .tp n => decide (n < 16)
  | .vp n => decide (n < 2)

/-- A partition, 1 to 8 (02). -/
def part (p : Nat) : Bool := decide (1 ≤ p ∧ p ≤ 8)

/-- A span, 0 to 39 (01 R15). -/
def span (n : Nat) : Bool := decide (n < 40)

/-- A unit ID below 0x60 (17 R386). -/
def unit (u : Nat) : Bool := decide (u < 96)

/-- A domain of 16 R361. -/
def domain : Domain → Bool
  | .span n => span n
  | .central => true

/-- A route with a translation (02 R45). -/
def xlatRoute (r : Nat) : Bool := r == 0 || decide (0x10 ≤ r ∧ r ≤ 0x17)

/-- The width of a host-port access, in bytes, and its offset in a 4 MiB window (19 R437); other widths reach the
doorbell window too and are ignored there (03 R81). -/
def hostAccess (off width : Nat) : Bool := decide (off < 0x400000) && [1, 2, 4, 8].contains width

/-- A doorbell access lies in the 1 MiB doorbell window (03 R80). -/
def bellAccess (off width : Nat) : Bool := decide (off < 0x100000) && [1, 2, 4, 8].contains width

/-- A register offset of an access that one row gives its own meaning (20). -/
def regOff (off : Nat) : Bool := decide (off < 0x400000) && off % 4 == 0

/-- A deck peer index and a transport connection (19 R427). -/
def src : MsgSrc → Bool
  | .conn c => decide (c < 2 ^ 32)
  | .deck d => decide (d < 8)

/-- Names of an element with spares are in range (01 R17, R24). -/
def element (k : SpareKind) (n : Nat) : Bool :=
  match k with
  | .core => decide (n < 32)
  | .pipe => decide (n < 5)
  | .lane => decide (n < 18)
  | .sorting => n == 0

/-- A bank of a span (01 R17, R19, R21). -/
def bank : Bank → Bool
  | .staging k => decide (k < 8)
  | .table c => decide (c < 32)
  | .work c => decide (c < 32)
  | .codebook k => decide (k < 8)

def context (c : FaultCtx) : Bool :=
  (c.part.all part) && (c.core.all fun n => decide (n < 32)) && (c.queue.all qid) && (c.element.all fun x => element x.1 x.2) &&
  (c.bank.all bank)

/-- A hardware event in the clock of a register write (00 R12): the bits are those that the registers have. -/
def also (a : Option HwEvent) : Bool :=
  a.all fun e => match e with
    | .fault u src c => unit u && decide (src < 16) && context c
    | .wake bit => [0, 1, 2, 3, 4, 8, 9].contains bit
    | .profile bit => decide (4 ≤ bit ∧ bit ≤ 7)

/-- A power domain's profile copy is 2,048 bytes (15 R345). -/
def image (c : Option (List Byte)) : Bool := c.all fun b => b.length == 2048

/-- The bound of an inbound payload: whole granules, 64 to 4,096 bytes, not crossing 4 KiB (19 R444). -/
def payload (addr len : Nat) : Bool :=
  addr % 64 == 0 && len % 64 == 0 && decide (64 ≤ len ∧ len ≤ 4096) && decide (addr % 4096 + len ≤ 4096)

/-- Bytes of a key: 64 (14 R327). -/
def key (k : List Byte) : Bool := k.length == 64

end WellFormed

open WellFormed in
/-- A well-formed command. -/
def Instr.wf : Instr → Bool
  | .doorbell off w _ => bellAccess off w
  | .doorbellCapture off w _ => bellAccess off w
  | .entryFetch q => qid q
  | .ringUnreadable q _ => qid q
  | .admitJob p => part p
  | .tokenRefill => true
  | .tileRequest sp _ n => span sp && decide (1 ≤ n ∧ n ≤ 64)
  | .threadRetire _ _ => true
  | .completionRecordWrite _ => true
  | .doneWrite _ => true
  | .doneAnswered _ => true
  | .jobTimeout _ => true
  | .move _ _ => true
  | .gather _ _ => true
  | .scatter _ _ => true
  | .indexPass _ => true
  | .stats _ _ => true
  | .contribute _ => true
  | .reduce _ _ => true
  | .collect _ => true
  | .dispatch _ => true
  | .combine _ _ => true
  | .tariff _ _ => true
  | .barrier _ => true
  | .groupBarrier _ => true
  | .fill _ _ => true
  | .sealCheck _ _ => true
  | .nop _ => true
  | .histogramBuild _ => true
  | .folioEntryWrite _ => true
  | .conversionPass _ => true
  | .resendRedo _ _ => true
  | .portWriteResponse p tag _ => port p && decide (tag < 8192)
  | .portReadData p _ _ _ _ _ => port p
  | .portRequestTimeout p _ tag => port p && decide (tag < 8192)
  | .hostWriteError => true
  | .translationResponse r iova _ _ => xlatRoute r && decide (iova < 2 ^ 56) && iova % 4096 == 0
  | .translationTimeout r iova _ => xlatRoute r && decide (iova < 2 ^ 56) && iova % 4096 == 0
  | .createQueue aq => decide (aq ≤ 8)
  | .destroyQueue aq => decide (aq ≤ 8)
  | .cancelQueue aq => decide (aq ≤ 8)
  | .resumeQueue aq => decide (aq ≤ 8)
  | .resetQueue aq => decide (aq ≤ 8)
  | .setShaper aq => decide (aq ≤ 8)
  | .createRegion aq => decide (aq ≤ 8)
  | .destroyRegion aq => decide (aq ≤ 8)
  | .openWindow aq => decide (aq ≤ 8)
  | .closeWindow aq => decide (aq ≤ 8)
  | .createGroup aq => decide (aq ≤ 8)
  | .destroyGroup aq => decide (aq ≤ 8)
  | .bindKey aq => decide (aq ≤ 8)
  | .unbindKey aq => decide (aq ≤ 8)
  | .claimCbset aq => decide (aq ≤ 8)
  | .releaseCbset aq => decide (aq ≤ 8)
  | .setupChannel aq => decide (aq ≤ 8)
  | .armChannel aq => decide (aq ≤ 8)
  | .disarmChannel aq => decide (aq ≤ 8)
  | .releaseChannel aq => decide (aq ≤ 8)
  | .rearmPacer aq => decide (aq ≤ 8)
  | .vote aq => decide (aq ≤ 8)
  | .readHealth aq => decide (aq ≤ 8)
  | .fence aq => decide (aq ≤ 8)
  | .swapSpare aq => decide (aq ≤ 8)
  | .reset aq => decide (aq ≤ 8)
  | .scrubPartition aq => decide (aq ≤ 8)
  | .switchProfile aq => decide (aq ≤ 8)
  | .commandCompletes aq => decide (aq ≤ 8)
  | .contributionArrival _ => true
  | .resendRequest _ => true
  | .reRequest _ => true
  | .groupWaitTimeout _ => true
  | .ready _ => true
  | .closeLetter _ => true
  | .closeLetterRepeat p _ => part p
  | .epochTimeout p _ => part p
  | .abortLetter _ => true
  | .deckBarrierArrival _ => true
  | .producer ch _ => decide (ch < 64)
  | .flushSet ch _ => decide (ch < 64)
  | .runStart p => decide (p < 8)
  | .recordDrained p => decide (p < 8)
  | .runEnd p => decide (p < 8)
  | .evtOutPulse p => decide (p < 8)
  | .commit _ => true
  | .profileWindowWrite off _ => decide (off < 0x800) && off % 4 == 0
  | .create p => decide (p ≤ 8)
  | .contextReset p => decide (p ≤ 8)
  | .resume p => decide (p ≤ 8)
  | .destroy p => decide (p ≤ 8)
  | .offReq _ => true
  | .wakeTimer _ => true
  | .timerWake => true
  | .faultStatusClear u v => unit u && also v.also
  | .faultSevereClear u v => unit u && also v.also
  | .faultPolicyWrite u _ => unit u
  | .faultInject u _ => unit u
  | .lowerWordRead off => regOff off
  | .upperWordWrite off _ => regOff off
  | .incidentWord0Read e => decide (e < 16)
  | .eventSlot p _ => part p
  | .eventPd p _ => part p
  | .ownerEventSlot _ => true
  | .registerWrite off w v => hostAccess off w && also v.also
  | .loadXts slot _ k => decide (slot < 2 ^ 16) && key k
  | .loadGcm slot _ k => decide (slot < 2 ^ 16) && key k
  | .erase r => r.op != 1 && r.op != 2 && decide (r.slot < 2 ^ 16)
  | .profileLoad c _ => image c.1 && image c.2
  | .profileCopyReadFailure _ => true
  | .rstNAssert => true
  | .rstNRelease _ _ _ => true
  | .startupStepTimeout n => decide (1 ≤ n ∧ n ≤ 7)
  | .selfTest _ => true
  | .vinLow => true
  | .vinRecovered _ _ _ => true
  | .sleepDwellExpiry n => span n
  | .deepDwellExpiry n _ _ => span n
  | .centralDwellExpiry _ _ => true
  | .powerEntryDone d => domain d
  | .domainExit d => domain d
  | .powerStepTimeout d n => domain d && decide (1 ≤ n ∧ n ≤ 11)
  | .wakeN _ _ _ => true
  | .linkEnergy mv => decide (mv ≤ 800)
  | .brownout _ => true
  | .offEntryDone => true
  | .faultEvent u sr c => unit u && decide (sr < 16) && context c
  | .faultWindowExpiry u sr => unit u && decide (sr < 16)
  | .lockstep => true
  | .contextCollection u _ => unit u
  | .alive => true
  | .resetLevelFinish _ => true
  | .resetLevelTimeout _ => true
  | .powerCycle => true
  | .swapStepTimeout n => span n
  | .swapComplete n => span n
  | .powerCapCheck _ _ => true
  | .operatingPointDone q => decide (q < 4)
  | .oscCalibration => true
  | .refClkLoss => true
  | .refClkReturn => true
  | .refClkLossTimeout => true
  | .connOpen c p t => decide (c < 2 ^ 32) && part p && decide (t < 16)
  | .connClose c => decide (c < 2 ^ 32)
  | .windowReady p w => part p && decide (w < 128)
  | .linkDown p => match p with | .tp n => decide (n < 16) | .vp n => decide (n < 2) | _ => false
  | .inboundWrite c a d => decide (c < 2 ^ 32) && payload a.toNat d.length
  | .inboundTargetAck _ => true
  | .inboundRead c a g => decide (c < 2 ^ 32) && a.toNat % 64 == 0 && decide (1 ≤ g ∧ a.toNat % 256 / 64 + g ≤ 4)
  | .inboundMessage s _ => src s
  | .viaductLinkUp v p q => decide (v < 2 ∧ p < 8 ∧ q < 2)
  | .deckFlood ps _ => ps.all fun p => decide (p.deckId < 8)
  | .memoryPortReady n _ => decide (n < 8)
  | .extest _ => true
  | .samplePreload _ => true
  | .idcode => true
  | .bypass _ => true
  | .debugArm => true
  | .scanAccess => true
  | .stagingRead n off => span n && decide (off < 0x200000)
  | .keypathTest _ k _ _ => key k
  | .selftestStart _ => true
  | .statusRead u => unit u
  | .trstN => true
  | .deckAccess a b p _ off _ _ => decide (a < 8 ∧ b < 8 ∧ off < 2 ^ 56) && part p
  | .registerRead off w => hostAccess off w || (decide (0x400000 ≤ off ∧ off < 0x500000) && [1, 2, 4, 8].contains w)
  | .creditGrant p _ => port p

end Sys2Proof
end

