-- ==== Sys2Proof/Laws/PerInstr.lean ====
section
/-! SUPPORT. What a well-formed command may name, command by command: every number that a command carries to name a queue, a port, a
unit, a span, a register or the length of what it brings lies in the range the spec gives it, at the alignment the spec gives it. -/

namespace Sys2Proof.Laws.Ranged

/-- A number that a command carries, its least value, the value it stays below, and what it is a multiple of. -/
structure Num where
  value : Nat
  least : Nat
  bound : Nat
  unit  : Nat

/-- The number lies in its range, at its alignment. -/
def Num.ok (x : Num) : Prop := x.least ≤ x.value ∧ x.value < x.bound ∧ x.value % x.unit = 0

/-- A queue: 4,096 I/O queues, nine administrative ones (03 R80, 13 R293). -/
def ofQueue : QId → Num
  | .io n => ⟨n, 0, 4096, 1⟩
  | .adm p => ⟨p, 0, 9, 1⟩

/-- A port of 19 R424. -/
def ofPort : Port → Num
  | .host => ⟨0, 0, 1, 1⟩
  | .mp n => ⟨n, 0, 8, 1⟩
  | .ap n => ⟨n, 0, 8, 1⟩
  | .tp n => ⟨n, 0, 16, 1⟩
  | .vp n => ⟨n, 0, 2, 1⟩

/-- The span of a power domain (16 R361). -/
def ofDomain : Domain → List Num
  | .span n => [⟨n, 0, 40, 1⟩]
  | .central => []

/-- A transport connection or a deck device (19 R427). -/
def ofSrc : MsgSrc → Num
  | .conn c => ⟨c, 0, 2 ^ 32, 1⟩
  | .deck d => ⟨d, 0, 8, 1⟩

/-- A copy of a profile is 2,048 bytes (15 R345). -/
def ofImage (b : List Byte) : Num := ⟨b.length, 2048, 2049, 1⟩

/-- An element with spares (01 R17, R24) and a bank of a span (R17, R19, R21). -/
def ofElement : SpareKind × Nat → Num
  | (.core, n) => ⟨n, 0, 32, 1⟩
  | (.pipe, n) => ⟨n, 0, 5, 1⟩
  | (.lane, n) => ⟨n, 0, 18, 1⟩
  | (.sorting, n) => ⟨n, 0, 1, 1⟩

def ofBank : Bank → Num
  | .staging k => ⟨k, 0, 8, 1⟩
  | .table c => ⟨c, 0, 32, 1⟩
  | .work c => ⟨c, 0, 32, 1⟩
  | .codebook k => ⟨k, 0, 8, 1⟩

/-- What a checker's context names: partition, core, queue, element and bank (17 R393). -/
def ofContext (c : FaultCtx) : List Num :=
  (c.part.map fun n => (⟨n, 1, 9, 1⟩ : Num)).toList ++ (c.core.map fun n => (⟨n, 0, 32, 1⟩ : Num)).toList ++
  (c.queue.map ofQueue).toList ++ (c.element.map ofElement).toList ++ (c.bank.map ofBank).toList

/-- A hardware event in the clock of a register write (00 R12). -/
def ofAlso : Option HwEvent → List Num
  | some (.fault u src c) => [⟨u, 0, 96, 1⟩, ⟨src, 0, 16, 1⟩] ++ ofContext c
  | some (.wake bit) => [⟨bit, 0, 10, 1⟩]
  | some (.profile bit) => [⟨bit, 4, 8, 1⟩]
  | none => []

/-- The numbers of a command. -/
def nums : Instr → List Num
  | .doorbell off width _ => [⟨off, 0, 0x100000, 1⟩, ⟨width, 1, 9, 1⟩]
  | .doorbellCapture off width _ => [⟨off, 0, 0x100000, 1⟩, ⟨width, 1, 9, 1⟩]
  | .entryFetch q => [ofQueue q]
  | .ringUnreadable q _ => [ofQueue q]
  | .admitJob p => [⟨p, 1, 9, 1⟩]
  | .tokenRefill => []
  | .tileRequest span _ n => [⟨span, 0, 40, 1⟩, ⟨n, 1, 65, 1⟩]
  | .threadRetire _ _ => []
  | .completionRecordWrite _ => []
  | .doneWrite _ => []
  | .doneAnswered _ => []
  | .jobTimeout _ => []
  | .move _ _ => []
  | .gather _ _ => []
  | .scatter _ _ => []
  | .indexPass _ => []
  | .stats _ _ => []
  | .contribute _ => []
  | .reduce _ _ => []
  | .collect _ => []
  | .dispatch _ => []
  | .combine _ _ => []
  | .tariff _ _ => []
  | .barrier _ => []
  | .groupBarrier _ => []
  | .fill _ _ => []
  | .sealCheck _ _ => []
  | .nop _ => []
  | .histogramBuild _ => []
  | .folioEntryWrite _ => []
  | .conversionPass _ => []
  | .resendRedo _ _ => []
  | .portWriteResponse port tag _ => [ofPort port, ⟨tag, 0, 8192, 1⟩]
  | .portReadData port _ _ _ _ _ => [ofPort port]
  | .portRequestTimeout port _ tag => [ofPort port, ⟨tag, 0, 8192, 1⟩]
  | .hostWriteError => []
  | .translationResponse route iova _ _ => [⟨route, 0, 0x18, 1⟩, ⟨iova, 0, 2 ^ 56, 4096⟩]
  | .translationTimeout route iova _ => [⟨route, 0, 0x18, 1⟩, ⟨iova, 0, 2 ^ 56, 4096⟩]
  | .createQueue aq => [⟨aq, 0, 9, 1⟩]
  | .destroyQueue aq => [⟨aq, 0, 9, 1⟩]
  | .cancelQueue aq => [⟨aq, 0, 9, 1⟩]
  | .resumeQueue aq => [⟨aq, 0, 9, 1⟩]
  | .resetQueue aq => [⟨aq, 0, 9, 1⟩]
  | .setShaper aq => [⟨aq, 0, 9, 1⟩]
  | .createRegion aq => [⟨aq, 0, 9, 1⟩]
  | .destroyRegion aq => [⟨aq, 0, 9, 1⟩]
  | .openWindow aq => [⟨aq, 0, 9, 1⟩]
  | .closeWindow aq => [⟨aq, 0, 9, 1⟩]
  | .createGroup aq => [⟨aq, 0, 9, 1⟩]
  | .destroyGroup aq => [⟨aq, 0, 9, 1⟩]
  | .bindKey aq => [⟨aq, 0, 9, 1⟩]
  | .unbindKey aq => [⟨aq, 0, 9, 1⟩]
  | .claimCbset aq => [⟨aq, 0, 9, 1⟩]
  | .releaseCbset aq => [⟨aq, 0, 9, 1⟩]
  | .setupChannel aq => [⟨aq, 0, 9, 1⟩]
  | .armChannel aq => [⟨aq, 0, 9, 1⟩]
  | .disarmChannel aq => [⟨aq, 0, 9, 1⟩]
  | .releaseChannel aq => [⟨aq, 0, 9, 1⟩]
  | .rearmPacer aq => [⟨aq, 0, 9, 1⟩]
  | .vote aq => [⟨aq, 0, 9, 1⟩]
  | .readHealth aq => [⟨aq, 0, 9, 1⟩]
  | .fence aq => [⟨aq, 0, 9, 1⟩]
  | .swapSpare aq => [⟨aq, 0, 9, 1⟩]
  | .reset aq => [⟨aq, 0, 9, 1⟩]
  | .scrubPartition aq => [⟨aq, 0, 9, 1⟩]
  | .switchProfile aq => [⟨aq, 0, 9, 1⟩]
  | .commandCompletes aq => [⟨aq, 0, 9, 1⟩]
  | .contributionArrival _ => []
  | .resendRequest _ => []
  | .reRequest _ => []
  | .groupWaitTimeout _ => []
  | .ready _ => []
  | .closeLetter _ => []
  | .closeLetterRepeat p _ => [⟨p, 1, 9, 1⟩]
  | .epochTimeout p _ => [⟨p, 1, 9, 1⟩]
  | .abortLetter _ => []
  | .deckBarrierArrival _ => []
  | .producer ch _ => [⟨ch, 0, 64, 1⟩]
  | .flushSet ch _ => [⟨ch, 0, 64, 1⟩]
  | .runStart pacer => [⟨pacer, 0, 8, 1⟩]
  | .recordDrained pacer => [⟨pacer, 0, 8, 1⟩]
  | .runEnd pacer => [⟨pacer, 0, 8, 1⟩]
  | .evtOutPulse pacer => [⟨pacer, 0, 8, 1⟩]
  | .commit _ => []
  | .profileWindowWrite off _ => [⟨off, 0, 0x800, 4⟩]
  | .create p => [⟨p, 0, 9, 1⟩]
  | .contextReset p => [⟨p, 0, 9, 1⟩]
  | .resume p => [⟨p, 0, 9, 1⟩]
  | .destroy p => [⟨p, 0, 9, 1⟩]
  | .offReq _ => []
  | .wakeTimer _ => []
  | .timerWake => []
  | .faultStatusClear u value => [⟨u, 0, 96, 1⟩] ++ ofAlso value.also
  | .faultSevereClear u value => [⟨u, 0, 96, 1⟩] ++ ofAlso value.also
  | .faultPolicyWrite u _ => [⟨u, 0, 96, 1⟩]
  | .faultInject u _ => [⟨u, 0, 96, 1⟩]
  | .lowerWordRead off => [⟨off, 0, 0x400000, 4⟩]
  | .upperWordWrite off _ => [⟨off, 0, 0x400000, 4⟩]
  | .incidentWord0Read e => [⟨e, 0, 16, 1⟩]
  | .eventSlot p _ => [⟨p, 1, 9, 1⟩]
  | .eventPd p _ => [⟨p, 1, 9, 1⟩]
  | .ownerEventSlot _ => []
  | .registerWrite off width value => [⟨off, 0, 0x400000, 1⟩, ⟨width, 1, 9, 1⟩] ++ ofAlso value.also
  | .loadXts slot _ key => [⟨slot, 0, 2 ^ 16, 1⟩, ⟨key.length, 64, 65, 1⟩]
  | .loadGcm slot _ key => [⟨slot, 0, 2 ^ 16, 1⟩, ⟨key.length, 64, 65, 1⟩]
  | .erase req => [⟨req.slot, 0, 2 ^ 16, 1⟩]
  | .profileLoad copies _ => (copies.1.map ofImage).toList ++ (copies.2.map ofImage).toList
  | .profileCopyReadFailure _ => []
  | .rstNAssert => []
  | .rstNRelease _ _ _ => []
  | .startupStepTimeout step => [⟨step, 1, 8, 1⟩]
  | .selfTest _ => []
  | .vinLow => []
  | .vinRecovered _ _ _ => []
  | .sleepDwellExpiry span => [⟨span, 0, 40, 1⟩]
  | .deepDwellExpiry span _ _ => [⟨span, 0, 40, 1⟩]
  | .centralDwellExpiry _ _ => []
  | .powerEntryDone d => ofDomain d
  | .domainExit d => ofDomain d
  | .powerStepTimeout d step => ofDomain d ++ [⟨step, 1, 12, 1⟩]
  | .wakeN _ _ _ => []
  | .linkEnergy mv => [⟨mv, 0, 801, 1⟩]
  | .brownout _ => []
  | .offEntryDone => []
  | .faultEvent u src ctx => [⟨u, 0, 96, 1⟩, ⟨src, 0, 16, 1⟩] ++ ofContext ctx
  | .faultWindowExpiry u src => [⟨u, 0, 96, 1⟩, ⟨src, 0, 16, 1⟩]
  | .lockstep => []
  | .contextCollection u _ => [⟨u, 0, 96, 1⟩]
  | .alive => []
  | .resetLevelFinish _ => []
  | .resetLevelTimeout _ => []
  | .powerCycle => []
  | .swapStepTimeout span => [⟨span, 0, 40, 1⟩]
  | .swapComplete span => [⟨span, 0, 40, 1⟩]
  | .powerCapCheck _ _ => []
  | .operatingPointDone quadrant => [⟨quadrant, 0, 4, 1⟩]
  | .oscCalibration => []
  | .refClkLoss => []
  | .refClkReturn => []
  | .refClkLossTimeout => []
  | .connOpen conn part port => [⟨conn, 0, 2 ^ 32, 1⟩, ⟨part, 1, 9, 1⟩, ⟨port, 0, 16, 1⟩]
  | .connClose conn => [⟨conn, 0, 2 ^ 32, 1⟩]
  | .windowReady p w => [⟨p, 1, 9, 1⟩, ⟨w, 0, 128, 1⟩]
  | .linkDown port => [ofPort port]
  | .inboundWrite conn addr data => [⟨conn, 0, 2 ^ 32, 1⟩, ⟨addr.toNat, 0, 2 ^ 64, 64⟩, ⟨data.length, 64, 4097, 64⟩, ⟨(addr.toNat % 4096 + data.length), 0, 4097, 1⟩]
  | .inboundTargetAck _ => []
  | .inboundRead conn addr granules => [⟨conn, 0, 2 ^ 32, 1⟩, ⟨addr.toNat, 0, 2 ^ 64, 64⟩, ⟨(addr.toNat % 256 / 64 + granules), 1, 5, 1⟩]
  | .inboundMessage src _ => [ofSrc src]
  | .viaductLinkUp vp peer peerPort => [⟨vp, 0, 2, 1⟩, ⟨peer, 0, 8, 1⟩, ⟨peerPort, 0, 2, 1⟩]
  | .deckFlood peers _ => peers.map fun p => ⟨p.deckId, 0, 8, 1⟩
  | .memoryPortReady n _ => [⟨n, 0, 8, 1⟩]
  | .extest _ => []
  | .samplePreload _ => []
  | .idcode => []
  | .bypass _ => []
  | .debugArm => []
  | .scanAccess => []
  | .stagingRead span off => [⟨span, 0, 40, 1⟩, ⟨off, 0, 0x200000, 1⟩]
  | .keypathTest _ key _ _ => [⟨key.length, 64, 65, 1⟩]
  | .selftestStart _ => []
  | .statusRead u => [⟨u, 0, 96, 1⟩]
  | .trstN => []
  | .deckAccess src dest part _ off _ _ => [⟨src, 0, 8, 1⟩, ⟨dest, 0, 8, 1⟩, ⟨part, 1, 9, 1⟩, ⟨off, 0, 2 ^ 56, 1⟩]
  | .registerRead off width => [⟨off, 0, 0x500000, 1⟩, ⟨width, 1, 9, 1⟩]
  | .creditGrant port _ => [ofPort port]

/-- A well-formed command keeps its numbers in range. -/
def Statement (i : Instr) : Prop :=
  i.wf = true → ∀ x ∈ nums i, x.ok

theorem of_nil {i : Instr} (h : nums i = []) : Statement i := fun _ x hx => by simp [h] at hx

theorem of_eq {i : Instr} {l : List Num} {b : Bool} (hn : nums i = l) (hw : i.wf = b)
    (h : b = true → ∀ x ∈ l, x.ok) : Statement i :=
  fun hi x hx => h (hw ▸ hi) x (hn ▸ hx)

theorem of_aq {i : Instr} {aq : Nat} (hn : nums i = [⟨aq, 0, 9, 1⟩]) (hw : i.wf = decide (aq ≤ 8)) : Statement i :=
  of_eq hn hw (by simp [Num.ok]; omega)

theorem queue_range {q : QId} (h : WellFormed.qid q = true) :
    (ofQueue q).ok := by
  cases q <;> simp [WellFormed.qid] at h <;> simp [ofQueue, Num.ok] <;> omega

theorem port_range {p : Port} (h : WellFormed.port p = true) :
    (ofPort p).ok := by
  cases p <;> simp [WellFormed.port] at h <;> simp [ofPort, Num.ok] <;> omega

theorem src_range {p : MsgSrc} (h : WellFormed.src p = true) :
    (ofSrc p).ok := by
  cases p <;> simp [WellFormed.src] at h <;> simp [ofSrc, Num.ok] <;> omega

theorem domain_range {d : Domain} (h : WellFormed.domain d = true) :
    ∀ x ∈ ofDomain d, x.ok := by
  cases d <;> simp [WellFormed.domain, WellFormed.span] at h <;> simp [ofDomain, Num.ok]
  omega

theorem element_range {x : SpareKind × Nat} (h : WellFormed.element x.1 x.2 = true) : (ofElement x).ok := by
  obtain ⟨k, n⟩ := x
  cases k <;> simp [WellFormed.element] at h <;> simp [ofElement, Num.ok] <;> omega

theorem bank_range {b : Bank} (h : WellFormed.bank b = true) : (ofBank b).ok := by
  cases b <;> simp [WellFormed.bank] at h <;> simp [ofBank, Num.ok] <;> omega

theorem context_range {c : FaultCtx} (h : WellFormed.context c = true) : ∀ x ∈ ofContext c, x.ok := by
  intro x hx
  simp only [WellFormed.context, Bool.and_eq_true, Option.all_eq_true] at h
  simp only [ofContext, List.mem_append, Option.mem_toList, Option.map_eq_some_iff] at hx
  obtain ((((⟨n, hn, rfl⟩ | ⟨n, hn, rfl⟩) | ⟨q, hq, rfl⟩) | ⟨y, hy, rfl⟩) | ⟨b, hb, rfl⟩) := hx
  · have := h.1.1.1.1 n hn; simp [WellFormed.part] at this; simp [Num.ok]; omega
  · have := h.1.1.1.2 n hn; simp at this; simp [Num.ok]; omega
  · exact queue_range (h.1.1.2 q hq)
  · exact element_range (h.1.2 y hy)
  · exact bank_range (h.2 b hb)

theorem also_range {a : Option HwEvent} (h : WellFormed.also a = true) : ∀ x ∈ ofAlso a, x.ok := by
  intro x hx
  match a with
  | none => cases hx
  | some (.fault u src c) =>
    simp only [WellFormed.also, Option.all_some, WellFormed.unit, Bool.and_eq_true, decide_eq_true_eq] at h
    simp only [ofAlso, List.mem_append, List.mem_cons, List.not_mem_nil, or_false] at hx
    obtain ((rfl | rfl) | hx) := hx
    · exact ⟨Nat.zero_le _, h.1.1, Nat.mod_one _⟩
    · exact ⟨Nat.zero_le _, h.1.2, Nat.mod_one _⟩
    · exact context_range h.2 x hx
  | some (.wake bit) =>
    simp [WellFormed.also] at h
    obtain rfl := List.mem_singleton.1 hx
    simp [Num.ok]; omega
  | some (.profile bit) =>
    simp [WellFormed.also] at h
    obtain rfl := List.mem_singleton.1 hx
    simp [Num.ok]; omega

theorem doorbell (off : Nat) (width : Nat) (value : Word32) : Statement (.doorbell off width value) :=
  of_eq (l := [⟨off, 0, 0x100000, 1⟩, ⟨width, 1, 9, 1⟩])
    (b := WellFormed.bellAccess off width) rfl rfl <| by
    simp [Num.ok, WellFormed.bellAccess]
    try omega

theorem doorbellCapture (off : Nat) (width : Nat) (value : Word32) : Statement (.doorbellCapture off width value) :=
  of_eq (l := [⟨off, 0, 0x100000, 1⟩, ⟨width, 1, 9, 1⟩])
    (b := WellFormed.bellAccess off width) rfl rfl <| by
    simp [Num.ok, WellFormed.bellAccess]
    try omega

theorem entryFetch (q : QId) : Statement (.entryFetch q) :=
  of_eq (l := [ofQueue q])
    (b := WellFormed.qid q) rfl rfl <| fun h x hx => by obtain rfl := List.mem_singleton.1 hx; exact queue_range h

theorem ringUnreadable (q : QId) (why : ReadFail) : Statement (.ringUnreadable q why) :=
  of_eq (l := [ofQueue q])
    (b := WellFormed.qid q) rfl rfl <| fun h x hx => by obtain rfl := List.mem_singleton.1 hx; exact queue_range h

theorem admitJob (p : Nat) : Statement (.admitJob p) :=
  of_eq (l := [⟨p, 1, 9, 1⟩])
    (b := WellFormed.part p) rfl rfl <| by
    simp [Num.ok, WellFormed.part]
    try omega

theorem tokenRefill : Statement (.tokenRefill) := of_nil rfl

theorem tileRequest (span : Nat) (uid : Nat) (n : Nat) : Statement (.tileRequest span uid n) :=
  of_eq (l := [⟨span, 0, 40, 1⟩, ⟨n, 1, 65, 1⟩])
    (b := WellFormed.span span && decide (1 ≤ n ∧ n ≤ 64)) rfl rfl <| by
    simp [Num.ok, WellFormed.span]
    try omega

theorem threadRetire (uid : Nat) (tile : Nat) : Statement (.threadRetire uid tile) := of_nil rfl

theorem completionRecordWrite (uid : Nat) : Statement (.completionRecordWrite uid) := of_nil rfl

theorem doneWrite (uid : Nat) : Statement (.doneWrite uid) := of_nil rfl

theorem doneAnswered (uid : Nat) : Statement (.doneAnswered uid) := of_nil rfl

theorem jobTimeout (uid : Nat) : Statement (.jobTimeout uid) := of_nil rfl

theorem move (uid : Nat) (tile : Nat) : Statement (.move uid tile) := of_nil rfl

theorem gather (uid : Nat) (tile : Nat) : Statement (.gather uid tile) := of_nil rfl

theorem scatter (uid : Nat) (tile : Nat) : Statement (.scatter uid tile) := of_nil rfl

theorem indexPass (uid : Nat) : Statement (.indexPass uid) := of_nil rfl

theorem stats (uid : Nat) (tile : Nat) : Statement (.stats uid tile) := of_nil rfl

theorem contribute (uid : Nat) : Statement (.contribute uid) := of_nil rfl

theorem reduce (uid : Nat) (residue : Residue) : Statement (.reduce uid residue) := of_nil rfl

theorem collect (uid : Nat) : Statement (.collect uid) := of_nil rfl

theorem dispatch (uid : Nat) : Statement (.dispatch uid) := of_nil rfl

theorem combine (uid : Nat) (tile : Nat) : Statement (.combine uid tile) := of_nil rfl

theorem tariff (uid : Nat) (tile : Nat) : Statement (.tariff uid tile) := of_nil rfl

theorem barrier (uid : Nat) : Statement (.barrier uid) := of_nil rfl

theorem groupBarrier (uid : Nat) : Statement (.groupBarrier uid) := of_nil rfl

theorem fill (uid : Nat) (tile : Nat) : Statement (.fill uid tile) := of_nil rfl

theorem sealCheck (uid : Nat) (tile : Nat) : Statement (.sealCheck uid tile) := of_nil rfl

theorem nop (uid : Nat) : Statement (.nop uid) := of_nil rfl

theorem histogramBuild (uid : Nat) : Statement (.histogramBuild uid) := of_nil rfl

theorem folioEntryWrite (uid : Nat) : Statement (.folioEntryWrite uid) := of_nil rfl

theorem conversionPass (uid : Nat) : Statement (.conversionPass uid) := of_nil rfl

theorem resendRedo (uid : Nat) (group : Nat) : Statement (.resendRedo uid group) := of_nil rfl

theorem portWriteResponse (port : Port) (tag : Nat) (res : Resp) : Statement (.portWriteResponse port tag res) :=
  of_eq (l := [ofPort port, ⟨tag, 0, 8192, 1⟩])
    (b := WellFormed.port port && decide (tag < 8192)) rfl rfl <| by
    simp only [Bool.and_eq_true, decide_eq_true_eq, List.mem_cons, List.not_mem_nil, or_false]
    rintro h x (rfl | rfl)
    · exact port_range h.1
    · simp [Num.ok]; omega

theorem portReadData (port : Port) (acc : Access) (addr : Nat) (data : Granule) (poison : Bool) (res : Resp) : Statement (.portReadData port acc addr data poison res) :=
  of_eq (l := [ofPort port])
    (b := WellFormed.port port) rfl rfl <| fun h x hx => by obtain rfl := List.mem_singleton.1 hx; exact port_range h

theorem portRequestTimeout (port : Port) (acc : Access) (tag : Nat) : Statement (.portRequestTimeout port acc tag) :=
  of_eq (l := [ofPort port, ⟨tag, 0, 8192, 1⟩])
    (b := WellFormed.port port && decide (tag < 8192)) rfl rfl <| by
    simp only [Bool.and_eq_true, decide_eq_true_eq, List.mem_cons, List.not_mem_nil, or_false]
    rintro h x (rfl | rfl)
    · exact port_range h.1
    · simp [Num.ok]; omega

theorem hostWriteError : Statement (.hostWriteError) := of_nil rfl

theorem translationResponse (route : Nat) (iova : Nat) (acc : Access) (res : XResult) : Statement (.translationResponse route iova acc res) :=
  of_eq (l := [⟨route, 0, 0x18, 1⟩, ⟨iova, 0, 2 ^ 56, 4096⟩])
    (b := WellFormed.xlatRoute route && decide (iova < 2 ^ 56) && iova % 4096 == 0) rfl rfl <| by
    simp [Num.ok, WellFormed.xlatRoute]
    try omega

theorem translationTimeout (route : Nat) (iova : Nat) (acc : Access) : Statement (.translationTimeout route iova acc) :=
  of_eq (l := [⟨route, 0, 0x18, 1⟩, ⟨iova, 0, 2 ^ 56, 4096⟩])
    (b := WellFormed.xlatRoute route && decide (iova < 2 ^ 56) && iova % 4096 == 0) rfl rfl <| by
    simp [Num.ok, WellFormed.xlatRoute]
    try omega

theorem createQueue (aq : Nat) : Statement (.createQueue aq) := of_aq rfl rfl

theorem destroyQueue (aq : Nat) : Statement (.destroyQueue aq) := of_aq rfl rfl

theorem cancelQueue (aq : Nat) : Statement (.cancelQueue aq) := of_aq rfl rfl

theorem resumeQueue (aq : Nat) : Statement (.resumeQueue aq) := of_aq rfl rfl

theorem resetQueue (aq : Nat) : Statement (.resetQueue aq) := of_aq rfl rfl

theorem setShaper (aq : Nat) : Statement (.setShaper aq) := of_aq rfl rfl

theorem createRegion (aq : Nat) : Statement (.createRegion aq) := of_aq rfl rfl

theorem destroyRegion (aq : Nat) : Statement (.destroyRegion aq) := of_aq rfl rfl

theorem openWindow (aq : Nat) : Statement (.openWindow aq) := of_aq rfl rfl

theorem closeWindow (aq : Nat) : Statement (.closeWindow aq) := of_aq rfl rfl

theorem createGroup (aq : Nat) : Statement (.createGroup aq) := of_aq rfl rfl

theorem destroyGroup (aq : Nat) : Statement (.destroyGroup aq) := of_aq rfl rfl

theorem bindKey (aq : Nat) : Statement (.bindKey aq) := of_aq rfl rfl

theorem unbindKey (aq : Nat) : Statement (.unbindKey aq) := of_aq rfl rfl

theorem claimCbset (aq : Nat) : Statement (.claimCbset aq) := of_aq rfl rfl

theorem releaseCbset (aq : Nat) : Statement (.releaseCbset aq) := of_aq rfl rfl

theorem setupChannel (aq : Nat) : Statement (.setupChannel aq) := of_aq rfl rfl

theorem armChannel (aq : Nat) : Statement (.armChannel aq) := of_aq rfl rfl

theorem disarmChannel (aq : Nat) : Statement (.disarmChannel aq) := of_aq rfl rfl

theorem releaseChannel (aq : Nat) : Statement (.releaseChannel aq) := of_aq rfl rfl

theorem rearmPacer (aq : Nat) : Statement (.rearmPacer aq) := of_aq rfl rfl

theorem vote (aq : Nat) : Statement (.vote aq) := of_aq rfl rfl

theorem readHealth (aq : Nat) : Statement (.readHealth aq) := of_aq rfl rfl

theorem fence (aq : Nat) : Statement (.fence aq) := of_aq rfl rfl

theorem swapSpare (aq : Nat) : Statement (.swapSpare aq) := of_aq rfl rfl

theorem reset (aq : Nat) : Statement (.reset aq) := of_aq rfl rfl

theorem scrubPartition (aq : Nat) : Statement (.scrubPartition aq) := of_aq rfl rfl

theorem switchProfile (aq : Nat) : Statement (.switchProfile aq) := of_aq rfl rfl

theorem commandCompletes (aq : Nat) : Statement (.commandCompletes aq) := of_aq rfl rfl

theorem contributionArrival (m : Msg) : Statement (.contributionArrival m) := of_nil rfl

theorem resendRequest (m : Msg) : Statement (.resendRequest m) := of_nil rfl

theorem reRequest (m : Msg) : Statement (.reRequest m) := of_nil rfl

theorem groupWaitTimeout (uid : Nat) : Statement (.groupWaitTimeout uid) := of_nil rfl

theorem ready (m : Msg) : Statement (.ready m) := of_nil rfl

theorem closeLetter (m : Msg) : Statement (.closeLetter m) := of_nil rfl

theorem closeLetterRepeat (p : Nat) (g : Nat) : Statement (.closeLetterRepeat p g) :=
  of_eq (l := [⟨p, 1, 9, 1⟩])
    (b := WellFormed.part p) rfl rfl <| by
    simp [Num.ok, WellFormed.part]
    try omega

theorem epochTimeout (p : Nat) (g : Nat) : Statement (.epochTimeout p g) :=
  of_eq (l := [⟨p, 1, 9, 1⟩])
    (b := WellFormed.part p) rfl rfl <| by
    simp [Num.ok, WellFormed.part]
    try omega

theorem abortLetter (m : Msg) : Statement (.abortLetter m) := of_nil rfl

theorem deckBarrierArrival (m : Msg) : Statement (.deckBarrierArrival m) := of_nil rfl

theorem producer (ch : Nat) (value : Word32) : Statement (.producer ch value) :=
  of_eq (l := [⟨ch, 0, 64, 1⟩])
    (b := decide (ch < 64)) rfl rfl <| by
    simp [Num.ok]
    try omega

theorem flushSet (ch : Nat) (value : Word32) : Statement (.flushSet ch value) :=
  of_eq (l := [⟨ch, 0, 64, 1⟩])
    (b := decide (ch < 64)) rfl rfl <| by
    simp [Num.ok]
    try omega

theorem runStart (pacer : Nat) : Statement (.runStart pacer) :=
  of_eq (l := [⟨pacer, 0, 8, 1⟩])
    (b := decide (pacer < 8)) rfl rfl <| by
    simp [Num.ok]
    try omega

theorem recordDrained (pacer : Nat) : Statement (.recordDrained pacer) :=
  of_eq (l := [⟨pacer, 0, 8, 1⟩])
    (b := decide (pacer < 8)) rfl rfl <| by
    simp [Num.ok]
    try omega

theorem runEnd (pacer : Nat) : Statement (.runEnd pacer) :=
  of_eq (l := [⟨pacer, 0, 8, 1⟩])
    (b := decide (pacer < 8)) rfl rfl <| by
    simp [Num.ok]
    try omega

theorem evtOutPulse (pacer : Nat) : Statement (.evtOutPulse pacer) :=
  of_eq (l := [⟨pacer, 0, 8, 1⟩])
    (b := decide (pacer < 8)) rfl rfl <| by
    simp [Num.ok]
    try omega

theorem commit (value : Word32) : Statement (.commit value) := of_nil rfl

theorem profileWindowWrite (off : Nat) (value : Word32) : Statement (.profileWindowWrite off value) :=
  of_eq (l := [⟨off, 0, 0x800, 4⟩])
    (b := decide (off < 0x800) && off % 4 == 0) rfl rfl <| by
    simp [Num.ok]
    try omega

theorem create (p : Nat) : Statement (.create p) :=
  of_eq (l := [⟨p, 0, 9, 1⟩])
    (b := decide (p ≤ 8)) rfl rfl <| by
    simp [Num.ok]
    try omega

theorem contextReset (p : Nat) : Statement (.contextReset p) :=
  of_eq (l := [⟨p, 0, 9, 1⟩])
    (b := decide (p ≤ 8)) rfl rfl <| by
    simp [Num.ok]
    try omega

theorem resume (p : Nat) : Statement (.resume p) :=
  of_eq (l := [⟨p, 0, 9, 1⟩])
    (b := decide (p ≤ 8)) rfl rfl <| by
    simp [Num.ok]
    try omega

theorem destroy (p : Nat) : Statement (.destroy p) :=
  of_eq (l := [⟨p, 0, 9, 1⟩])
    (b := decide (p ≤ 8)) rfl rfl <| by
    simp [Num.ok]
    try omega

theorem offReq (value : Word32) : Statement (.offReq value) := of_nil rfl

theorem wakeTimer (value : Word32) : Statement (.wakeTimer value) := of_nil rfl

theorem timerWake : Statement (.timerWake) := of_nil rfl

theorem faultStatusClear (u : Nat) (value : RegData 32) : Statement (.faultStatusClear u value) :=
  of_eq (l := [⟨u, 0, 96, 1⟩] ++ ofAlso value.also)
    (b := WellFormed.unit u && WellFormed.also value.also) rfl rfl <| by
    simp only [WellFormed.unit, Bool.and_eq_true, decide_eq_true_eq, List.mem_append, List.mem_singleton]
    rintro h x (rfl | hx)
    · simp [Num.ok]; omega
    · exact also_range h.2 x hx

theorem faultSevereClear (u : Nat) (value : RegData 32) : Statement (.faultSevereClear u value) :=
  of_eq (l := [⟨u, 0, 96, 1⟩] ++ ofAlso value.also)
    (b := WellFormed.unit u && WellFormed.also value.also) rfl rfl <| by
    simp only [WellFormed.unit, Bool.and_eq_true, decide_eq_true_eq, List.mem_append, List.mem_singleton]
    rintro h x (rfl | hx)
    · simp [Num.ok]; omega
    · exact also_range h.2 x hx

theorem faultPolicyWrite (u : Nat) (value : Word32) : Statement (.faultPolicyWrite u value) :=
  of_eq (l := [⟨u, 0, 96, 1⟩])
    (b := WellFormed.unit u) rfl rfl <| by
    simp [Num.ok, WellFormed.unit]
    try omega

theorem faultInject (u : Nat) (value : Word32) : Statement (.faultInject u value) :=
  of_eq (l := [⟨u, 0, 96, 1⟩])
    (b := WellFormed.unit u) rfl rfl <| by
    simp [Num.ok, WellFormed.unit]
    try omega

theorem lowerWordRead (off : Nat) : Statement (.lowerWordRead off) :=
  of_eq (l := [⟨off, 0, 0x400000, 4⟩])
    (b := WellFormed.regOff off) rfl rfl <| by
    simp [Num.ok, WellFormed.regOff]
    try omega

theorem upperWordWrite (off : Nat) (value : Word32) : Statement (.upperWordWrite off value) :=
  of_eq (l := [⟨off, 0, 0x400000, 4⟩])
    (b := WellFormed.regOff off) rfl rfl <| by
    simp [Num.ok, WellFormed.regOff]
    try omega

theorem incidentWord0Read (e : Nat) : Statement (.incidentWord0Read e) :=
  of_eq (l := [⟨e, 0, 16, 1⟩])
    (b := decide (e < 16)) rfl rfl <| by
    simp [Num.ok]
    try omega

theorem eventSlot (p : Nat) (value : Word32) : Statement (.eventSlot p value) :=
  of_eq (l := [⟨p, 1, 9, 1⟩])
    (b := WellFormed.part p) rfl rfl <| by
    simp [Num.ok, WellFormed.part]
    try omega

theorem eventPd (p : Nat) (value : Word32) : Statement (.eventPd p value) :=
  of_eq (l := [⟨p, 1, 9, 1⟩])
    (b := WellFormed.part p) rfl rfl <| by
    simp [Num.ok, WellFormed.part]
    try omega

theorem ownerEventSlot (value : Word32) : Statement (.ownerEventSlot value) := of_nil rfl

theorem registerWrite (off : Nat) (width : Nat) (value : RegData 64) : Statement (.registerWrite off width value) :=
  of_eq (l := [⟨off, 0, 0x400000, 1⟩, ⟨width, 1, 9, 1⟩] ++ ofAlso value.also)
    (b := WellFormed.hostAccess off width && WellFormed.also value.also) rfl rfl <| by
    simp only [WellFormed.hostAccess, Bool.and_eq_true, decide_eq_true_eq, List.mem_append, List.mem_cons, List.not_mem_nil, or_false]
    rintro h x ((rfl | rfl) | hx)
    · simp [Num.ok]; omega
    · have := h.1.2; simp at this; simp [Num.ok]; omega
    · exact also_range h.2 x hx

theorem loadXts (slot : Nat) (check : Word32) (key : List Byte) : Statement (.loadXts slot check key) :=
  of_eq (l := [⟨slot, 0, 2 ^ 16, 1⟩, ⟨key.length, 64, 65, 1⟩])
    (b := decide (slot < 2 ^ 16) && WellFormed.key key) rfl rfl <| by
    simp [Num.ok, WellFormed.key]
    try omega

theorem loadGcm (slot : Nat) (check : Word32) (key : List Byte) : Statement (.loadGcm slot check key) :=
  of_eq (l := [⟨slot, 0, 2 ^ 16, 1⟩, ⟨key.length, 64, 65, 1⟩])
    (b := decide (slot < 2 ^ 16) && WellFormed.key key) rfl rfl <| by
    simp [Num.ok, WellFormed.key]
    try omega

theorem erase (req : EraseReq) : Statement (.erase req) :=
  of_eq (l := [⟨req.slot, 0, 2 ^ 16, 1⟩])
    (b := req.op != 1 && req.op != 2 && decide (req.slot < 2 ^ 16)) rfl rfl <| by
    simp [Num.ok]
    try omega

theorem profileLoad (copies : Option (List Byte) × Option (List Byte)) (ready : LoadReady) : Statement (.profileLoad copies ready) :=
  of_eq (l := (copies.1.map ofImage).toList ++ (copies.2.map ofImage).toList)
    (b := WellFormed.image copies.1 && WellFormed.image copies.2) rfl rfl <| by
    simp only [WellFormed.image, Bool.and_eq_true, Option.all_eq_true, List.mem_append, Option.mem_toList,
      Option.map_eq_some_iff]
    rintro h x (⟨b, hb, rfl⟩ | ⟨b, hb, rfl⟩)
    · have := h.1 b hb; simp at this; simp [ofImage, Num.ok]; omega
    · have := h.2 b hb; simp at this; simp [ofImage, Num.ok]; omega

theorem profileCopyReadFailure (copyB : Bool) : Statement (.profileCopyReadFailure copyB) := of_nil rfl

theorem rstNAssert : Statement (.rstNAssert) := of_nil rfl

theorem rstNRelease (psel : BitVec 2) (deckId : BitVec 3) (fuse : Bool) : Statement (.rstNRelease psel deckId fuse) := of_nil rfl

theorem startupStepTimeout (step : Nat) : Statement (.startupStepTimeout step) :=
  of_eq (l := [⟨step, 1, 8, 1⟩])
    (b := decide (1 ≤ step ∧ step ≤ 7)) rfl rfl <| by
    simp [Num.ok]
    try omega

theorem selfTest (outcome : SelfTest) : Statement (.selfTest outcome) := of_nil rfl

theorem vinLow : Statement (.vinLow) := of_nil rfl

theorem vinRecovered (psel : BitVec 2) (deckId : BitVec 3) (fuse : Bool) : Statement (.vinRecovered psel deckId fuse) := of_nil rfl

theorem sleepDwellExpiry (span : Nat) : Statement (.sleepDwellExpiry span) :=
  of_eq (l := [⟨span, 0, 40, 1⟩])
    (b := WellFormed.span span) rfl rfl <| by
    simp [Num.ok, WellFormed.span]
    try omega

theorem deepDwellExpiry (span : Nat) (tempC : Int) (loadMa : Nat) : Statement (.deepDwellExpiry span tempC loadMa) :=
  of_eq (l := [⟨span, 0, 40, 1⟩])
    (b := WellFormed.span span) rfl rfl <| by
    simp [Num.ok, WellFormed.span]
    try omega

theorem centralDwellExpiry (tempC : Int) (loadMa : Nat) : Statement (.centralDwellExpiry tempC loadMa) := of_nil rfl

theorem powerEntryDone (d : Domain) : Statement (.powerEntryDone d) :=
  of_eq (l := ofDomain d)
    (b := WellFormed.domain d) rfl rfl <| fun h x hx => domain_range h x hx

theorem domainExit (d : Domain) : Statement (.domainExit d) :=
  of_eq (l := ofDomain d)
    (b := WellFormed.domain d) rfl rfl <| fun h x hx => domain_range h x hx

theorem powerStepTimeout (d : Domain) (step : Nat) : Statement (.powerStepTimeout d step) :=
  of_eq (l := ofDomain d ++ [⟨step, 1, 12, 1⟩])
    (b := WellFormed.domain d && decide (1 ≤ step ∧ step ≤ 11)) rfl rfl <| by
    simp only [Bool.and_eq_true, decide_eq_true_eq, List.mem_append, List.mem_singleton]
    rintro h x (hx | rfl)
    · exact domain_range h.1 x hx
    · simp [Num.ok]; omega

theorem wakeN (psel : BitVec 2) (deckId : BitVec 3) (fuse : Bool) : Statement (.wakeN psel deckId fuse) := of_nil rfl

theorem linkEnergy (mv : Nat) : Statement (.linkEnergy mv) :=
  of_eq (l := [⟨mv, 0, 801, 1⟩])
    (b := decide (mv ≤ 800)) rfl rfl <| by
    simp [Num.ok]
    try omega

theorem brownout (aon : Bool) : Statement (.brownout aon) := of_nil rfl

theorem offEntryDone : Statement (.offEntryDone) := of_nil rfl

theorem faultEvent (u : Nat) (src : Nat) (ctx : FaultCtx) : Statement (.faultEvent u src ctx) :=
  of_eq (l := [⟨u, 0, 96, 1⟩, ⟨src, 0, 16, 1⟩] ++ ofContext ctx)
    (b := WellFormed.unit u && decide (src < 16) && WellFormed.context ctx) rfl rfl <| by
    simp only [WellFormed.unit, Bool.and_eq_true, decide_eq_true_eq, List.mem_append, List.mem_cons, List.not_mem_nil, or_false]
    rintro h x ((rfl | rfl) | hx)
    · simp [Num.ok]; omega
    · simp [Num.ok]; omega
    · exact context_range h.2 x hx

theorem faultWindowExpiry (u : Nat) (src : Nat) : Statement (.faultWindowExpiry u src) :=
  of_eq (l := [⟨u, 0, 96, 1⟩, ⟨src, 0, 16, 1⟩])
    (b := WellFormed.unit u && decide (src < 16)) rfl rfl <| by
    simp [Num.ok, WellFormed.unit]
    try omega

theorem lockstep : Statement (.lockstep) := of_nil rfl

theorem contextCollection (u : Nat) (answered : Bool) : Statement (.contextCollection u answered) :=
  of_eq (l := [⟨u, 0, 96, 1⟩])
    (b := WellFormed.unit u) rfl rfl <| by
    simp [Num.ok, WellFormed.unit]
    try omega

theorem alive : Statement (.alive) := of_nil rfl

theorem resetLevelFinish (id : Nat) : Statement (.resetLevelFinish id) := of_nil rfl

theorem resetLevelTimeout (id : Nat) : Statement (.resetLevelTimeout id) := of_nil rfl

theorem powerCycle : Statement (.powerCycle) := of_nil rfl

theorem swapStepTimeout (span : Nat) : Statement (.swapStepTimeout span) :=
  of_eq (l := [⟨span, 0, 40, 1⟩])
    (b := WellFormed.span span) rfl rfl <| by
    simp [Num.ok, WellFormed.span]
    try omega

theorem swapComplete (span : Nat) : Statement (.swapComplete span) :=
  of_eq (l := [⟨span, 0, 40, 1⟩])
    (b := WellFormed.span span) rfl rfl <| by
    simp [Num.ok, WellFormed.span]
    try omega

theorem powerCapCheck (meanMw : Nat) (stayedBelow : Bool) : Statement (.powerCapCheck meanMw stayedBelow) := of_nil rfl

theorem operatingPointDone (quadrant : Nat) : Statement (.operatingPointDone quadrant) :=
  of_eq (l := [⟨quadrant, 0, 4, 1⟩])
    (b := decide (quadrant < 4)) rfl rfl <| by
    simp [Num.ok]
    try omega

theorem oscCalibration : Statement (.oscCalibration) := of_nil rfl

theorem refClkLoss : Statement (.refClkLoss) := of_nil rfl

theorem refClkReturn : Statement (.refClkReturn) := of_nil rfl

theorem refClkLossTimeout : Statement (.refClkLossTimeout) := of_nil rfl

theorem connOpen (conn : Nat) (part : Nat) (port : Nat) : Statement (.connOpen conn part port) :=
  of_eq (l := [⟨conn, 0, 2 ^ 32, 1⟩, ⟨part, 1, 9, 1⟩, ⟨port, 0, 16, 1⟩])
    (b := decide (conn < 2 ^ 32) && WellFormed.part part && decide (port < 16)) rfl rfl <| by
    simp [Num.ok, WellFormed.part]
    try omega

theorem connClose (conn : Nat) : Statement (.connClose conn) :=
  of_eq (l := [⟨conn, 0, 2 ^ 32, 1⟩])
    (b := decide (conn < 2 ^ 32)) rfl rfl <| by
    simp [Num.ok]
    try omega

theorem windowReady (p : Nat) (w : Nat) : Statement (.windowReady p w) :=
  of_eq (l := [⟨p, 1, 9, 1⟩, ⟨w, 0, 128, 1⟩])
    (b := WellFormed.part p && decide (w < 128)) rfl rfl <| by
    simp [Num.ok, WellFormed.part]
    try omega

theorem linkDown (port : Port) : Statement (.linkDown port) := by
  intro h x hx
  obtain rfl := List.mem_singleton.1 hx
  cases port with
  | tp n => have : n < 16 := by simpa using of_decide_eq_true h
            exact ⟨Nat.zero_le _, this, Nat.mod_one _⟩
  | vp n => have : n < 2 := by simpa using of_decide_eq_true h
            exact ⟨Nat.zero_le _, this, Nat.mod_one _⟩
  | _ => cases h

theorem inboundWrite (conn : Nat) (addr : Word64) (data : List Byte) : Statement (.inboundWrite conn addr data) :=
  of_eq (l := [⟨conn, 0, 2 ^ 32, 1⟩, ⟨addr.toNat, 0, 2 ^ 64, 64⟩, ⟨data.length, 64, 4097, 64⟩, ⟨(addr.toNat % 4096 + data.length), 0, 4097, 1⟩])
    (b := decide (conn < 2 ^ 32) && WellFormed.payload addr.toNat data.length) rfl rfl <| by
    simp [Num.ok, WellFormed.payload]
    try omega

theorem inboundTargetAck (id : Nat) : Statement (.inboundTargetAck id) := of_nil rfl

theorem inboundRead (conn : Nat) (addr : Word64) (granules : Nat) : Statement (.inboundRead conn addr granules) :=
  of_eq (l := [⟨conn, 0, 2 ^ 32, 1⟩, ⟨addr.toNat, 0, 2 ^ 64, 64⟩, ⟨(addr.toNat % 256 / 64 + granules), 1, 5, 1⟩])
    (b := decide (conn < 2 ^ 32) && addr.toNat % 64 == 0 && decide (1 ≤ granules ∧ addr.toNat % 256 / 64 + granules ≤ 4)) rfl rfl <| by
    simp [Num.ok]
    try omega

theorem inboundMessage (src : MsgSrc) (m : Msg) : Statement (.inboundMessage src m) :=
  of_eq (l := [ofSrc src])
    (b := WellFormed.src src) rfl rfl <| fun h x hx => by obtain rfl := List.mem_singleton.1 hx; exact src_range h

theorem viaductLinkUp (vp : Nat) (peer : Nat) (peerPort : Nat) : Statement (.viaductLinkUp vp peer peerPort) :=
  of_eq (l := [⟨vp, 0, 2, 1⟩, ⟨peer, 0, 8, 1⟩, ⟨peerPort, 0, 2, 1⟩])
    (b := decide (vp < 2 ∧ peer < 8 ∧ peerPort < 2)) rfl rfl <| by
    simp [Num.ok]
    try omega

theorem deckFlood (peers : List Peer) (faulted : Bool) : Statement (.deckFlood peers faulted) :=
  of_eq (l := peers.map fun p => ⟨p.deckId, 0, 8, 1⟩)
    (b := peers.all fun p => decide (p.deckId < 8)) rfl rfl <| by
    simp only [List.all_eq_true, decide_eq_true_eq, List.mem_map]
    rintro h x ⟨p, hp, rfl⟩
    have := h p hp; simp [Num.ok]; omega

theorem memoryPortReady (n : Nat) (capacity : Nat) : Statement (.memoryPortReady n capacity) :=
  of_eq (l := [⟨n, 0, 8, 1⟩])
    (b := decide (n < 8)) rfl rfl <| by
    simp [Num.ok]
    try omega

theorem extest (bits : List Bool) : Statement (.extest bits) := of_nil rfl

theorem samplePreload (bits : List Bool) : Statement (.samplePreload bits) := of_nil rfl

theorem idcode : Statement (.idcode) := of_nil rfl

theorem bypass (code : BitVec 8) : Statement (.bypass code) := of_nil rfl

theorem debugArm : Statement (.debugArm) := of_nil rfl

theorem scanAccess : Statement (.scanAccess) := of_nil rfl

theorem stagingRead (span : Nat) (off : Nat) : Statement (.stagingRead span off) :=
  of_eq (l := [⟨span, 0, 40, 1⟩, ⟨off, 0, 0x200000, 1⟩])
    (b := WellFormed.span span && decide (off < 0x200000)) rfl rfl <| by
    simp [Num.ok, WellFormed.span]
    try omega

theorem keypathTest (gcm : Bool) (key : List Byte) (tweak : List Byte) (data : List Byte) : Statement (.keypathTest gcm key tweak data) :=
  of_eq (l := [⟨key.length, 64, 65, 1⟩])
    (b := WellFormed.key key) rfl rfl <| by
    simp [Num.ok, WellFormed.key]
    try omega

theorem selftestStart (outcome : SelfTest) : Statement (.selftestStart outcome) := of_nil rfl

theorem statusRead (u : Nat) : Statement (.statusRead u) :=
  of_eq (l := [⟨u, 0, 96, 1⟩])
    (b := WellFormed.unit u) rfl rfl <| by
    simp [Num.ok, WellFormed.unit]
    try omega

theorem trstN : Statement (.trstN) := of_nil rfl

theorem deckAccess (src : Nat) (dest : Nat) (part : Nat) (write : Bool) (off : Nat) (data : List Byte) (len : Nat) : Statement (.deckAccess src dest part write off data len) :=
  of_eq (l := [⟨src, 0, 8, 1⟩, ⟨dest, 0, 8, 1⟩, ⟨part, 1, 9, 1⟩, ⟨off, 0, 2 ^ 56, 1⟩])
    (b := decide (src < 8 ∧ dest < 8 ∧ off < 2 ^ 56) && WellFormed.part part) rfl rfl <| by
    simp [Num.ok, WellFormed.part]
    try omega

theorem registerRead (off : Nat) (width : Nat) : Statement (.registerRead off width) :=
  of_eq (l := [⟨off, 0, 0x500000, 1⟩, ⟨width, 1, 9, 1⟩])
    (b := WellFormed.hostAccess off width || (decide (0x400000 ≤ off ∧ off < 0x500000) && [1, 2, 4, 8].contains width)) rfl rfl <| by
    simp [Num.ok, WellFormed.hostAccess]
    try omega

theorem creditGrant (port : Port) (wd : Bool) : Statement (.creditGrant port wd) :=
  of_eq (l := [ofPort port])
    (b := WellFormed.port port) rfl rfl <| fun h x hx => by obtain rfl := List.mem_singleton.1 hx; exact port_range h

end Sys2Proof.Laws.Ranged
end

