-- ==== Sys2Proof/Laws/Within/Base.lean ====
section
/-! SUPPORT. How `Within` is put together: what an operation may do, as one relation of the state before and after it. The other
files of this folder say, once for each shared operation and each meaning, what it stays within. -/

namespace Sys2Proof.Laws

-- One theorem at a time: many at once, in one text, hold more threads than the memory limit allows.
set_option Elab.async false

open Sys2Proof.Machine

/-- From s to t the queue of waiting commands stands, the invariant is kept, and nothing changes but the parts named. -/
structure Within (l : List Field) (s t : State) : Prop where
  keeps : Keeps s t
  only  : Only l s t

theorem same_refl (f : Field) (s : State) : f.same s s := by
  cases f <;> exact Eq.refl _

theorem same_trans {f : Field} {s t u : State} (h : f.same s t) (k : f.same t u) : f.same s u := by
  cases f <;> exact Eq.trans k h

theorem within_refl {l : List Field} (s : State) : Within l s s := ⟨⟨Eq.refl _, id⟩, fun f => .inr (same_refl f s)⟩

/-- What changes fewer parts changes no more than more parts. -/
theorem Within.mono {l m : List Field} {s t : State} (h : Within l s t) (hl : (l.all fun f => m.contains f) = true := by decide) :
    Within m s t :=
  ⟨h.keeps, fun f => (h.only f).imp (fun k => by simpa using List.all_eq_true.mp hl f k) id⟩

/-- One operation after another. -/
theorem Within.step {l m : List Field} {s0 s t : State} (h : Within m s0 s) (k : Within l s t)
    (hl : (l.all fun f => m.contains f) = true := by decide) : Within m s0 t :=
  ⟨⟨k.keeps.pending.trans h.keeps.pending, fun i => k.keeps.inv (h.keeps.inv i)⟩, fun f =>
    match h.only f, (k.mono hl).only f with
    | .inl x, _ => .inl x
    | _, .inl x => .inl x
    | .inr x, .inr y => .inr (same_trans x y)⟩

/-- Fewer parts of fewer parts are fewer parts. -/
theorem sub_trans {l m k : List Field} (h1 : (l.all fun f => m.contains f) = true) (h2 : (m.all fun f => k.contains f) = true) :
    (l.all fun f => k.contains f) = true := by
  refine List.all_eq_true.mpr fun f hf => List.all_eq_true.mp h2 f ?_
  simpa using List.all_eq_true.mp h1 f hf

/-- A state put together anew from its fields over the same queue; what is not said of a field is that it stands. -/
theorem Within.put {l : List Field} {s0 s : State} {block : Block} {keeper : Keeper} {regs : RegFile} {prof : Prof} {queues : List Queue}
    {jobs : List Job} {uidNext : Nat} {orderNext : Nat} {store : Store} {parts : List Part} {tables : Tables} {spans : List Span}
    {lanes : Lanes} {central : Central} {units : List FUnit} {levels : List Level} {levelNext : Nat} {quads : List Quad}
    {ports : Ports} {chans : List Chan} {pacers : List Pacer} {tap : Tap} (h : Within l s0 s)
    (hstore : Memory.wf s.store → Memory.wf store := by exact fun w => w)
    (hprof : memWf (fun _ => 0) s.prof.image = true → memWf (fun _ => 0) prof.image = true := by exact fun w => w)
    (hcentral : s.central.captured.length ≤ 64 → central.captured.length ≤ 64 := by exact fun w => w)
    (hparts : s.parts.length = 9 → parts.length = 9 := by exact fun w => w)
    (hspans : s.spans.length = 40 → spans.length = 40 := by exact fun w => w)
    (hchans : s.chans.length = 64 → chans.length = 64 := by exact fun w => w)
    (hpacers : s.pacers.length = 8 → pacers.length = 8 := by exact fun w => w)
    (hunits : s.units.length = 96 → units.length = 96 := by exact fun w => w)
    (hquads : s.quads.length = 4 → quads.length = 4 := by exact fun w => w)
    (hring : s.keeper.ring.length = 16 → keeper.ring.length = 16 := by first | exact fun w => w | simp)
    (only : ∀ f : Field, f ∈ l ∨ f.same s ⟨block, keeper, regs, prof, queues, jobs, uidNext, orderNext, store, parts, tables, spans, lanes,
        central, units, levels, levelNext, quads, ports, chans, pacers, tap, s.pending⟩ := by
      intro f; cases f <;> first | exact .inl (by decide) | exact .inr rfl) :
    Within l s0 ⟨block, keeper, regs, prof, queues, jobs, uidNext, orderNext, store, parts, tables, spans, lanes, central,
      units, levels, levelNext, quads, ports, chans, pacers, tap, s.pending⟩ :=
  h.step (hl := List.all_eq_true.mpr fun f hf => by simpa using hf)
    ⟨⟨rfl, fun i => ⟨hstore i.mem, hprof i.image, hcentral i.captured, hparts i.parts, hspans i.spans, hchans i.chans,
      hpacers i.pacers, hunits i.units, hquads i.quads, hring i.ring⟩⟩, only⟩

theorem ite_within {l : List Field} {s0 a b : State} {c : Prop} {d : Decidable c} (ha : Within l s0 a) (hb : Within l s0 b) :
    Within l s0 (@ite _ c d a b) := by
  split
  · exact ha
  · exact hb

theorem foldl_within {l : List Field} {α : Type} {s0 s : State} {f : State → α → State} {xs : List α}
    (hf : ∀ t x, Within l s0 t → Within l s0 (f t x)) (h : Within l s0 s) : Within l s0 (xs.foldl f s) := by
  induction xs generalizing s with
  | nil => exact h
  | cons x r ih => exact ih (hf _ _ h)

theorem foldl_fst_within {l : List Field} {α β : Type} {s0 : State} {f : State × β → α → State × β} {xs : List α} {s : State × β}
    (hf : ∀ t x, Within l s0 t.1 → Within l s0 (f t x).1) (h : Within l s0 s.1) : Within l s0 (xs.foldl f s).1 := by
  induction xs generalizing s with
  | nil => exact h
  | cons x r ih => exact ih (hf _ _ h)

theorem fst_within {l : List Field} {β : Type} {s0 s : State} {b : β} {p : State × β} (e : p = (s, b)) (h : Within l s0 p.1) :
    Within l s0 s := by
  subst e; exact h

/-- What the work of a tile that lands stays within. -/
def LandWithin (l : List Field) (s : State) : State.Land → Prop
  | .done t => Within l s t
  | _ => True

theorem Within.land {l m : List Field} {s0 s : State} {d : State.Land} (h : Within m s0 s) (k : LandWithin l s d)
    (hl : (l.all fun f => m.contains f) = true := by decide) : LandWithin m s0 d := by
  cases d with
  | done t => exact h.step k hl
  | _ => exact trivial

theorem LandWithin.mono {l m : List Field} {s : State} {d : State.Land} (k : LandWithin l s d)
    (hl : (l.all fun f => m.contains f) = true := by decide) : LandWithin m s d := (within_refl s).land k hl

theorem land_within {l : List Field} {s0 s : State} {d : State.Land} (e : d = .done s) (h : LandWithin l s0 d) : Within l s0 s := by
  subst e; exact h

/-- A fold leaves what each of its steps leaves. -/
theorem foldl_same {α β γ : Type} (g : α → γ) (f : α → β → α) (xs : List β) (a : α) (h : ∀ a x, g (f a x) = g a) :
    g (xs.foldl f a) = g a := by
  induction xs generalizing a with
  | nil => rfl
  | cons x r ih => exact (ih _).trans (h _ _)

/-- An update of one place of a list leaves what another view of its elements shows. -/
theorem map_modAt {α β : Type} (g : α → β) (xs : List α) (i : Nat) (f : α → α) (h : ∀ x, g (f x) = g x) :
    (modAt xs i f).map g = xs.map g := by
  induction xs generalizing i with
  | nil => rfl
  | cons x r ih =>
    cases i with
    | zero => simp [modAt, h]
    | succ i => simp [modAt, ih]

end Sys2Proof.Laws
end

