-- ==== Sys2Proof/Laws/Within/Sets.lean ====
section
/-! SUPPORT. The sets of parts of the state that operations and meanings stay within: each is named after the first that has it. -/

namespace Sys2Proof.Laws

open Sys2Proof.Machine

abbrev emitParts : List Field := [.out]

abbrev modQueueParts : List Field := [.queues]

abbrev modJobParts : List Field := [.jobs]

abbrev modPartParts : List Field := [.parts, .bytes]

abbrev modSpanParts : List Field := [.spans]

abbrev modUnitParts : List Field := [.units, .inject]

abbrev modChanParts : List Field := [.chans]

abbrev modPacerParts : List Field := [.pacers]

abbrev useFreeParts : List Field := [.free]

abbrev askXlatParts : List Field := [.xreqs]

abbrev putPortParts : List Field := [.requests]

abbrev countBytesParts : List Field := [.bytes]

abbrev noteInjectedParts : List Field := [.inj, .inject]

abbrev noteWrittenParts : List Field := [.jobs, .requests]

abbrev landBytesParts : List Field := [.jobs, .mem, .inj, .inject, .requests]

abbrev spoilBytesParts : List Field := [.free, .jobs, .mem, .requests]

abbrev landBodyParts : List Field := [.free, .jobs, .mem, .inj, .inject, .requests]

abbrev hostDoneParts : List Field := [.free, .out, .jobs, .mem, .inj, .inject, .requests]

abbrev pumpGoParts : List Field := [.free, .out, .jobs, .mem, .inj, .bytes, .inject, .requests]

abbrev flushDueParts : List Field := [.free, .out, .queues, .jobs, .mem, .inj, .bytes, .inject, .requests, .xreqs]

abbrev wakeCentralParts : List Field := [.central]

abbrev voteCommittedParts : List Field := [.spans, .central]

abbrev afterKillParts : List Field := [.free, .out, .queues, .jobs, .mem, .inj, .bytes, .spans, .inject, .requests,
  .xreqs]

abbrev endRawParts : List Field := [.free, .out, .queues, .jobs, .mem, .inj, .parts, .bytes, .spans, .inject, .requests,
  .xreqs]

abbrev sendMsgParts : List Field := [.free, .out, .jobs, .mem, .inj, .bytes, .inject, .requests, .inbox]

abbrev addUnreadParts : List Field := [.jobs, .uidNext]

abbrev endQueueParts : List Field := [.free, .out, .queues, .jobs, .uidNext, .mem, .inj, .parts, .bytes, .spans,
  .inject, .requests, .xreqs]

abbrev rebuildBanksParts : List Field := [.jobs, .rams]

abbrev clearSpanParts : List Field := [.jobs, .mem, .books]

abbrev clearCoresParts : List Field := [.rams]

abbrev fenceSpanParts : List Field := [.jobs, .mem, .books, .rams, .spans, .requests]

abbrev levelBeginParts : List Field := [.life, .free, .out, .keeper, .prof, .queues, .jobs, .uidNext, .mem, .inj,
  .parts, .bytes, .spans, .central, .inject, .requests, .xreqs, .chans, .pacers]

abbrev startLevelParts : List Field := [.life, .free, .out, .keeper, .prof, .queues, .jobs, .uidNext, .mem, .inj,
  .parts, .bytes, .spans, .central, .inject, .levels, .levelNext, .requests, .xreqs, .chans, .pacers]

abbrev slotWriteParts : List Field := [.out, .keeper, .xreqs]

abbrev tryCloseParts : List Field := [.out, .keeper, .spans, .units, .inject, .xreqs]

abbrev beginSwapParts : List Field := [.jobs, .rams, .spans, .lanes, .requests]

abbrev reactParts : List Field := [.life, .free, .out, .keeper, .prof, .queues, .jobs, .uidNext, .mem, .books, .rams,
  .inj, .parts, .bytes, .spans, .central, .units, .inject, .levels, .levelNext, .requests, .xreqs, .chans, .pacers]

abbrev openIncidentParts : List Field := [.keeper, .spans, .central, .units, .inject]

abbrev severeParts : List Field := [.life, .free, .out, .keeper, .prof, .queues, .jobs, .uidNext, .mem, .books, .rams,
  .inj, .parts, .bytes, .spans, .lanes, .central, .units, .inject, .levels, .levelNext, .requests, .xreqs, .chans,
  .pacers]

abbrev causeParts : List Field := [.out, .keeper, .spans, .central, .units, .inject, .xreqs]

abbrev escalateUnitsParts : List Field := [.out, .keeper, .units, .inject, .xreqs]

abbrev levelEndParts : List Field := [.free, .out, .queues, .jobs, .mem, .books, .rams, .inj, .bytes, .spans, .inject,
  .requests, .xreqs]

abbrev dropUnretainedParts : List Field := [.jobs, .mem, .books, .rams]

abbrev spanEnteredParts : List Field := [.jobs, .mem, .books, .rams, .spans]

abbrev dropCentralParts : List Field := [.queues, .parts, .bytes, .tables, .requests, .inbox]

abbrev keeperTickParts : List Field := [.life, .central]

abbrev evalBellParts : List Field := [.free, .out, .queues, .jobs, .mem, .inj, .bytes, .spans, .central, .inject,
  .requests, .xreqs]

abbrev captureBellParts : List Field := [.out, .central]

abbrev settleEraseParts : List Field := [.out, .tables]

abbrev completedParts : List Field := [.free, .out, .queues, .jobs, .mem, .inj, .bytes, .tables, .inject, .requests,
  .xreqs]

abbrev lowerClocksParts : List Field := [.quads]

abbrev discardAllParts : List Field := [.free, .out, .queues, .jobs, .mem, .inj, .parts, .bytes, .tables, .inject,
  .requests, .xreqs, .chans]

abbrev loadProfileParts : List Field := [.life, .free, .out, .keeper, .prof, .queues, .jobs, .uidNext, .mem, .books,
  .rams, .inj, .parts, .bytes, .tables, .spans, .lanes, .central, .units, .inject, .levels, .levelNext, .quads,
  .requests, .xreqs, .chans, .pacers]

abbrev commitWriteParts : List Field := [.prof, .jobs, .mem, .books, .rams, .spans, .units, .inject, .quads]

abbrev windowWriteParts : List Field := [.prof]

abbrev assertResetParts : List Field := [.life, .keeper, .regs, .prof, .queues, .jobs, .orderNext, .mem, .books, .rams,
  .inj, .parts, .bytes, .tables, .spans, .lanes, .central, .units, .inject, .levels, .levelNext, .quads, .requests,
  .xreqs, .inbox, .inbound, .links, .chans, .pacers]

abbrev coldStartParts : List Field := [.life, .keeper, .prof]

abbrev readyBelowParts : List Field := [.keeper]

abbrev retestLanesParts : List Field := [.out, .keeper, .spans, .lanes, .central, .units, .inject, .xreqs]

abbrev execCommitParts : List Field := [.prof, .jobs, .mem, .books, .rams, .spans, .central, .units, .inject, .quads]

abbrev execProfileWindowWriteParts : List Field := [.prof, .central]

abbrev endWaitersParts : List Field := [.jobs, .parts, .bytes]

abbrev finishLevelParts : List Field := [.free, .out, .keeper, .queues, .jobs, .mem, .books, .rams, .inj, .parts,
  .bytes, .spans, .units, .inject, .levels, .requests, .xreqs]

abbrev escalateParts : List Field := [.life, .free, .out, .keeper, .prof, .queues, .jobs, .uidNext, .mem, .inj, .parts,
  .bytes, .spans, .central, .units, .inject, .levels, .levelNext, .requests, .xreqs, .chans, .pacers]

abbrev forgetQueueParts : List Field := [.out, .queues, .jobs, .tables, .spans, .requests]

abbrev loseContextsParts : List Field := [.life, .free, .out, .keeper, .prof, .queues, .jobs, .uidNext, .mem, .inj,
  .parts, .bytes, .tables, .spans, .central, .units, .inject, .levels, .levelNext, .requests, .xreqs, .chans, .pacers]

abbrev faultEventParts : List Field := [.life, .free, .out, .keeper, .prof, .queues, .jobs, .uidNext, .mem, .books,
  .rams, .inj, .parts, .bytes, .tables, .spans, .lanes, .central, .units, .inject, .levels, .levelNext, .requests,
  .xreqs, .chans, .pacers]

abbrev execFaultPolicyWriteParts : List Field := [.central, .units, .inject]

abbrev execPowerCycleParts : List Field := [.life]

abbrev putKeyParts : List Field := [.tables]

abbrev setIrParts : List Field := [.tap]

abbrev bypassParts : List Field := [.out, .tap]

abbrev execDebugArmParts : List Field := [.life, .out, .tables, .tap]

abbrev execSelftestStartParts : List Field := [.out, .keeper, .spans, .lanes, .central, .units, .inject, .xreqs, .tap]

abbrev runAdminParts : List Field := [.queues, .jobs, .tables]

abbrev actSetShaperParts : List Field := [.queues, .jobs]

abbrev actOpenWindowParts : List Field := [.jobs, .parts, .bytes, .spans, .central]

abbrev actCloseWindowParts : List Field := [.out, .jobs, .parts, .bytes]

abbrev actCreateGroupParts : List Field := [.queues, .jobs, .parts, .bytes, .xreqs]

abbrev actBindKeyParts : List Field := [.jobs, .tables]

abbrev actReleaseParts : List Field := [.jobs, .mem, .books, .tables]

abbrev actSetupChannelParts : List Field := [.jobs, .chans]

abbrev actArmParts : List Field := [.jobs, .spans, .central, .chans]

abbrev actRearmParts : List Field := [.jobs, .chans, .pacers]

abbrev fenceDoneParts : List Field := [.jobs, .units, .inject]

abbrev actFenceOnParts : List Field := [.out, .keeper, .jobs, .mem, .books, .rams, .spans, .central, .units, .inject,
  .requests, .xreqs]

abbrev joinSpanParts : List Field := [.jobs, .spans]

abbrev actSwapParts : List Field := [.queues, .jobs, .rams, .spans, .lanes, .requests]

abbrev scrubPartParts : List Field := [.free, .out, .jobs, .mem, .books, .rams, .inj, .parts, .bytes, .tables, .inject,
  .requests]

abbrev actSwitchParts : List Field := [.free, .out, .prof, .queues, .jobs, .mem, .books, .rams, .inj, .parts, .bytes,
  .tables, .inject, .requests, .xreqs]

abbrev execCancelQueueParts : List Field := [.free, .out, .queues, .jobs, .uidNext, .mem, .inj, .parts, .bytes, .tables,
  .spans, .inject, .requests, .xreqs]

abbrev execResetQueueParts : List Field := [.life, .free, .out, .keeper, .prof, .queues, .jobs, .uidNext, .mem, .inj,
  .parts, .bytes, .tables, .spans, .central, .inject, .levels, .levelNext, .requests, .xreqs, .chans, .pacers]

abbrev execCreateRegionParts : List Field := [.queues, .jobs, .parts, .bytes, .tables]

abbrev execOpenWindowParts : List Field := [.queues, .jobs, .parts, .bytes, .tables, .spans, .central]

abbrev execCloseWindowParts : List Field := [.out, .queues, .jobs, .parts, .bytes, .tables]

abbrev execCreateGroupParts : List Field := [.queues, .jobs, .parts, .bytes, .tables, .xreqs]

abbrev execReleaseCbsetParts : List Field := [.queues, .jobs, .mem, .books, .tables]

abbrev execSetupChannelParts : List Field := [.queues, .jobs, .tables, .chans]

abbrev execArmChannelParts : List Field := [.queues, .jobs, .tables, .spans, .central, .chans]

abbrev execRearmPacerParts : List Field := [.queues, .jobs, .tables, .chans, .pacers]

abbrev execFenceParts : List Field := [.out, .keeper, .queues, .jobs, .mem, .books, .rams, .tables, .spans, .central,
  .units, .inject, .requests, .xreqs]

abbrev execSwapSpareParts : List Field := [.queues, .jobs, .rams, .tables, .spans, .lanes, .requests]

abbrev execScrubPartitionParts : List Field := [.free, .out, .queues, .jobs, .mem, .books, .rams, .inj, .parts, .bytes,
  .tables, .inject, .requests]

abbrev startRunParts : List Field := [.spans, .chans, .pacers]

abbrev endRunParts : List Field := [.free, .out, .jobs, .mem, .inj, .bytes, .inject, .requests, .xreqs, .chans]

abbrev pulseRunParts : List Field := [.out, .chans]

abbrev execFlushSetParts : List Field := [.central, .chans]

abbrev aqCreateParts : List Field := [.free, .out, .queues, .jobs, .mem, .inj, .parts, .bytes, .inject, .requests,
  .xreqs]

abbrev readWordParts : List Field := [.keeper, .regs]

abbrev doReadParts : List Field := [.out, .keeper, .regs]

abbrev hostReadParts : List Field := [.out, .keeper, .regs, .central]

abbrev write64Parts : List Field := [.keeper, .parts, .bytes, .central]

abbrev writeLowerParts : List Field := [.regs]

abbrev centralWriteParts : List Field := [.life, .prof, .central]

abbrev writeWordParts : List Field := [.life, .free, .out, .keeper, .regs, .prof, .queues, .jobs, .uidNext, .mem,
  .books, .rams, .inj, .parts, .bytes, .spans, .lanes, .central, .units, .inject, .levels, .levelNext, .quads,
  .requests, .xreqs, .chans, .pacers]

abbrev execEventPdParts : List Field := [.parts, .bytes, .central]

abbrev execRegisterWriteParts : List Field := [.life, .free, .out, .keeper, .regs, .prof, .queues, .jobs, .uidNext,
  .mem, .books, .rams, .inj, .parts, .bytes, .tables, .spans, .lanes, .central, .units, .inject, .levels, .levelNext,
  .quads, .requests, .xreqs, .chans, .pacers]

abbrev centralEnteredParts : List Field := [.queues, .parts, .bytes, .tables, .central, .requests, .inbox]

abbrev comparatorParts : List Field := [.life, .free, .out, .keeper, .prof, .queues, .jobs, .uidNext, .mem, .books,
  .rams, .inj, .parts, .bytes, .spans, .lanes, .central, .units, .inject, .levels, .levelNext, .requests, .xreqs,
  .links, .chans, .pacers]

abbrev execPowerEntryDoneParts : List Field := [.queues, .jobs, .mem, .books, .rams, .parts, .bytes, .tables, .spans,
  .central, .requests, .inbox]

abbrev execWakeNParts : List Field := [.life, .keeper, .prof, .spans, .central]

abbrev execRefClkLossParts : List Field := [.life, .out, .keeper, .spans, .central, .units, .inject, .xreqs]

abbrev countHoldParts : List Field := [.queues, .parts, .bytes]

abbrev admitIntoParts : List Field := [.queues, .jobs, .orderNext]

abbrev admitOneParts : List Field := [.life, .free, .out, .keeper, .prof, .queues, .jobs, .uidNext, .orderNext, .mem,
  .books, .rams, .inj, .parts, .bytes, .spans, .lanes, .central, .units, .inject, .levels, .levelNext, .requests,
  .xreqs, .chans, .pacers]

abbrev loadBooksParts : List Field := [.jobs, .books]

abbrev askPassParts : List Field := [.free, .out, .jobs, .mem, .inj, .bytes, .spans, .inject, .requests]

abbrev passWaitParts : List Field := [.free, .out, .jobs, .mem, .inj, .bytes, .spans, .inject, .requests, .xreqs]

abbrev spoilScratchParts : List Field := [.free, .mem]

abbrev onMsgParts : List Field := [.inbox]

abbrev sendContributionParts : List Field := [.life, .free, .out, .keeper, .prof, .queues, .jobs, .uidNext, .mem,
  .books, .rams, .inj, .parts, .bytes, .spans, .lanes, .central, .units, .inject, .levels, .levelNext, .requests,
  .xreqs, .inbox, .chans, .pacers]

abbrev arrivalFailsParts : List Field := [.free, .out, .queues, .jobs, .mem, .inj, .parts, .bytes, .spans, .inject,
  .requests, .xreqs, .inbox]

abbrev reduceFinishParts : List Field := [.free, .out, .jobs, .mem, .rams, .inj, .bytes, .inject, .requests]

abbrev groupBarrierStepParts : List Field := [.free, .out, .jobs, .mem, .inj, .parts, .bytes, .inject, .requests,
  .inbox]

abbrev adminFailsParts : List Field := [.queues, .jobs, .parts, .bytes]

abbrev inboundFailsParts : List Field := [.out, .inbound]

abbrev accessFailsParts : List Field := [.life, .free, .out, .keeper, .prof, .queues, .jobs, .uidNext, .mem, .books,
  .rams, .inj, .parts, .bytes, .spans, .lanes, .central, .units, .inject, .levels, .levelNext, .requests, .xreqs,
  .inbound, .chans, .pacers]

abbrev answeredParts : List Field := [.life, .free, .out, .keeper, .prof, .queues, .jobs, .uidNext, .mem, .books, .rams,
  .inj, .parts, .bytes, .spans, .lanes, .central, .units, .inject, .levels, .levelNext, .requests, .xreqs, .inbox,
  .inbound, .chans, .pacers]

abbrev storeGranuleParts : List Field := [.mem]

abbrev readDataParts : List Field := [.life, .free, .out, .keeper, .prof, .queues, .jobs, .uidNext, .mem, .books, .rams,
  .inj, .parts, .bytes, .spans, .lanes, .central, .units, .inject, .levels, .levelNext, .requests, .xreqs, .inbox,
  .inbound, .links, .chans, .pacers]

abbrev flushSlotParts : List Field := [.free, .out, .keeper, .jobs, .mem, .inj, .bytes, .inject, .requests]

abbrev inboundGoParts : List Field := [.free, .out, .jobs, .mem, .inj, .bytes, .inject, .requests, .xreqs, .inbound]

abbrev openConnParts : List Field := [.links]

abbrev readyWindowParts : List Field := [.out, .parts, .bytes]

abbrev inboundWriteParts : List Field := [.free, .out, .jobs, .mem, .inj, .parts, .bytes, .inject, .requests, .xreqs,
  .inbound]

abbrev inboundAckParts : List Field := [.out, .jobs, .inbound]

end Sys2Proof.Laws
end

