-- ==== Sys2Proof/Laws/Within/Ops.lean ====
section
/-! SUPPORT. What the operations of Machine/Ops.lean (the shared operations over the state) stay within. -/

namespace Sys2Proof.Laws

-- One theorem at a time: many at once, in one text, hold more threads than the memory limit allows.
set_option Elab.async false

open Sys2Proof Sys2Proof.Machine

theorem within_emit (s : State) (o : Out) :
    Within emitParts s (State.emit s o) := by
  have h : Within emitParts s s := within_refl _
  unfold State.emit
  exact h.put

theorem within_modQueue (s : State) (q : QId) (f : Queue → Queue) :
    Within modQueueParts s (State.modQueue s q f) := by
  have h : Within modQueueParts s s := within_refl _
  unfold State.modQueue
  exact h.put

theorem within_putQueue (s : State) (x : Queue) :
    Within modQueueParts s (State.putQueue s x) := by
  have h : Within modQueueParts s s := within_refl _
  unfold State.putQueue
  exact h.put

theorem within_modJob (s : State) (uid : Nat) (f : Job → Job) :
    Within modJobParts s (State.modJob s uid f) := by
  have h : Within modJobParts s s := within_refl _
  unfold State.modJob
  exact h.put

theorem within_dropJob (s : State) (uid : Nat) :
    Within modJobParts s (State.dropJob s uid) := by
  have h : Within modJobParts s s := within_refl _
  unfold State.dropJob
  exact h.put

theorem within_modPart (s : State) (p : Nat) (f : Part → Part) :
    Within modPartParts s (State.modPart s p f) := by
  have h : Within modPartParts s s := within_refl _
  unfold State.modPart
  exact h.put (hparts := by simp)

theorem within_modSpan (s : State) (n : Nat) (f : Span → Span) :
    Within modSpanParts s (State.modSpan s n f) := by
  have h : Within modSpanParts s s := within_refl _
  unfold State.modSpan
  exact h.put (hspans := by simp)

theorem within_modUnit (s : State) (u : Nat) (f : FUnit → FUnit) :
    Within modUnitParts s (State.modUnit s u f) := by
  have h : Within modUnitParts s s := within_refl _
  unfold State.modUnit
  exact h.put (hunits := by simp)

theorem within_modChan (s : State) (c : Nat) (f : Chan → Chan) :
    Within modChanParts s (State.modChan s c f) := by
  have h : Within modChanParts s s := within_refl _
  unfold State.modChan
  exact h.put (hchans := by simp)

theorem within_modPacer (s : State) (p : Nat) (f : Pacer → Pacer) :
    Within modPacerParts s (State.modPacer s p f) := by
  have h : Within modPacerParts s s := within_refl _
  unfold State.modPacer
  exact h.put (hpacers := by simp)

theorem within_useFree (s : State) :
    Within useFreeParts s (State.useFree s) := by
  have h : Within useFreeParts s s := within_refl _
  unfold State.useFree
  exact h.put

theorem within_askXlat (s : State) (own : XOwner) (p : Nat) (access : Nat) (as : List Nat) :
    Within askXlatParts s (State.askXlat s own p access as) := by
  have h : Within askXlatParts s s := within_refl _
  unfold State.askXlat
  exact h.put

theorem within_askRange (s : State) (own : XOwner) (p : Nat) (xl : List Xlat) (access : Nat) (a : Nat) (n : Nat) :
    Within askXlatParts s (State.askRange s own p xl access a n) := by
  have h : Within askXlatParts s s := within_refl _
  unfold State.askRange
  exact h.step (within_askXlat _ _ _ _ _)

theorem within_putPort (s : State) (x : PortState) :
    Within putPortParts s (State.putPort s x) := by
  have h : Within putPortParts s s := within_refl _
  unfold State.putPort
  exact h.put

theorem within_countBytes (s : State) (part : Nat) (p : Port) (dir granules : Nat) :
    Within countBytesParts s (State.countBytes s part p dir granules) := by
  have h : Within countBytesParts s s := within_refl _
  unfold State.countBytes State.modPart
  split
  · exact h
  · exact h.put (hparts := by simp) (only := fun f => by
      cases f <;> first | exact .inl (by decide) | exact .inr rfl | exact .inr (map_modAt _ _ _ _ fun _ => rfl))

theorem within_noteInjected (s : State) (gs : List Nat) :
    Within noteInjectedParts s (State.noteInjected s gs) := by
  unfold State.noteInjected State.modUnit
  extract_lets _ a1
  have h : Within noteInjectedParts s a1 := (within_refl s).put
  refine foldl_within (fun t _ k => ?_) h
  beta_reduce
  split
  · extract_lets
    split
    · exact k.put.put (hunits := by simp) (only := fun f => by
        cases f <;> first | exact .inl (by decide) | exact .inr rfl | exact .inr (map_modAt _ _ _ _ fun _ => rfl))
    · exact k
  · exact k

theorem within_noteWritten (s : State) (own : Owner) (keys : List Nat) :
    Within noteWrittenParts s (State.noteWritten s own keys) := by
  have h : Within noteWrittenParts s s := within_refl _
  unfold State.noteWritten
  exact h.put

/-- Changed bytes and poison: the memories but for them stand. -/
theorem Within.change {l : List Field} {s0 s : State} (h : Within l s0 s) {st : Store}
    (hr : { st with mem := s.store.mem, poison := s.store.poison } = s.store) (hw : Memory.wf s.store → Memory.wf st)
    (hl : .mem ∈ l) : Within l s0 { s with store := st } := by
  have hb := congrArg Store.cbMem hr
  have hi := congrArg Store.inj hr
  have ht := congrArg (fun u : Store => (u.tables, u.work)) hr
  exact h.put (hstore := hw) (only := fun f => by
    cases f <;> first | exact .inl hl | exact .inr rfl | exact .inr hb | exact .inr hi | exact .inr ht)

theorem within_landBytes (s : State) (own : Owner) (bs : List WByte) (poison : List Nat) :
    Within landBytesParts s (State.landBytes s own bs poison) := by
  unfold State.landBytes
  exact (((within_refl s).change (congrArg (fun u : Store => { u with poison := s.store.poison }) (change_rest s.store bs))
    (fun w => wf_setPoison _ _ _ (wf_setPoison _ _ _ (wf_change _ _ w))) (by decide)).step (within_noteInjected _ _)).step
    (within_noteWritten _ _ _)

theorem within_spoilBytes (s : State) (own : Owner) (bs : List WByte) :
    Within spoilBytesParts s (State.spoilBytes s own bs) := by
  unfold State.spoilBytes
  exact (((within_refl s).change (congrArg (fun u : Store => { u with poison := s.store.poison }) (change_rest s.store _))
    (wf_change _ _) (by decide)).step (within_noteWritten _ _ _)).step (within_useFree _)

theorem within_landBody (s : State) (r : Request) (res : Resp) :
    Within landBodyParts s (State.landBody s r res) := by
  have h : Within landBodyParts s s := within_refl _
  unfold State.landBody
  split
  · exact h.step (within_landBytes _ _ _ _)
  · split
    · exact h.step (within_spoilBytes _ _ _)
    · exact h
  · exact h.put (hstore := wf_zero _ _ _)
  · exact h

theorem within_hostDone (s : State) (r : Request) :
    Within hostDoneParts s (State.hostDone s r) := by
  have h : Within hostDoneParts s s := within_refl _
  unfold State.hostDone
  extract_lets -underBinder -merge a1
  have h2 : Within hostDoneParts s a1 := h.step (within_landBody _ _ _)
  clear_value a1
  split
  · exact h2.step (within_emit _ _)
  · exact h2

theorem within_pumpGo (p : Port) (n : Nat) (s : State) (acc : List Request) :
    Within pumpGoParts s (State.pumpGo p n s acc).1 := by
  induction n generalizing s acc with
  | zero => exact within_refl s
  | succ n ih =>
    have h : Within pumpGoParts s s := within_refl _
    unfold State.pumpGo
    split
    · extract_lets
      split
      · exact h
      · exact h.step (within_putPort _ _)
    · extract_lets _ _ _ s1 s2 s3 _ _ _ s4
      split
      · exact h
      · refine Within.step ?_ (ih _ _)
        have h1 : Within pumpGoParts s s1 := h.step (within_putPort _ _)
        have h2 : Within pumpGoParts s s2 := by
          unfold s2
          split
          · exact h1
          · exact h1.step (within_countBytes _ _ _ _ _)
        have h3 : Within pumpGoParts s s3 := by
          unfold s3
          split
          · exact h2.step (within_emit _ _)
          · exact h2
        have h4 : Within pumpGoParts s s4 := h3.put
        split
        · exact h4.step (within_hostDone _ _)
        · exact h4

theorem within_pump (s : State) (p : Port) :
    Within pumpGoParts s (State.pump s p).1 := by
  have h : Within pumpGoParts s s := within_refl _
  unfold State.pump
  exact h.step (within_pumpGo _ _ _ _)

theorem within_addRequests (s : State) (rs : List Request) :
    Within pumpGoParts s (State.addRequests s rs) := by
  have h : Within pumpGoParts s s := within_refl _
  unfold State.addRequests
  exact foldl_within (fun t1 _ h2 => h2.step (within_pump _ _)) h.put

theorem within_giveTags (s : State) (span : Nat) :
    Within putPortParts s (State.giveTags s span) := by
  have h : Within putPortParts s s := within_refl _
  unfold State.giveTags
  exact h.put

theorem within_fetchGranules (s : State) (uid : Nat) (tile : Nat) (part : Nat) (span : Nat) (gs : List (Target × Nat)) :
    Within pumpGoParts s (State.fetchGranules s uid tile part span gs) := by
  have h : Within pumpGoParts s s := within_refl _
  unfold State.fetchGranules
  extract_lets -underBinder -merge _ _ _ _ a1
  have h2 : Within pumpGoParts s a1 := h.put.step (within_giveTags _ _)
  clear_value a1
  exact foldl_within (fun t3 _ h4 => h4.step (within_pump _ _)) h2

theorem within_drainReads (s : State) (uid : Nat) (f : Nat → Bool) :
    Within putPortParts s (State.drainReads s uid f) := by
  have h : Within putPortParts s s := within_refl _
  unfold State.drainReads
  exact foldl_within (fun t1 _ h2 => h2.step (within_giveTags _ _)) h.put

theorem within_issueElems (s : State) (own : Owner) (part : Nat) (route : Nat) (bs : List State.Put8) (poison : List Nat)
  (span : Option Nat) :
    Within pumpGoParts s (State.issueElems s own part route bs poison span) := by
  have h : Within pumpGoParts s s := within_refl _
  unfold State.issueElems
  extract_lets -underBinder -merge _ a1
  have h2 : Within pumpGoParts s a1 := ite_within h (h.step (within_landBytes _ _ _ _))
  clear_value a1
  exact h2.step (within_addRequests _ _)

theorem within_issue (s : State) (own : Owner) (part : Nat) (elem : Nat) (route : Nat) (bs : List (Target × Nat × Byte))
  (poison : List Nat) (span : Option Nat) :
    Within pumpGoParts s (State.issue s own part elem route bs poison span) := by
  have h : Within pumpGoParts s s := within_refl _
  unfold State.issue
  exact h.step (within_issueElems _ _ _ _ _ _ _)

theorem within_postMsg (s : State) (part : Nat) (dst : MsgSrc) (m : Msg) :
    Within pumpGoParts s (State.postMsg s part dst m) := by
  have h : Within pumpGoParts s s := within_refl _
  unfold State.postMsg
  split
  · exact h.step (within_addRequests _ _)
  · exact h

theorem within_flushDue (s : State) (q : QId) :
    Within flushDueParts s (State.flushDue s q) := by
  have h : Within flushDueParts s s := within_refl _
  unfold State.flushDue
  split
  · exact h
  · refine ite_within h ?_
    split
    · exact (h.step (within_modQueue _ _ _)).step (within_issue _ _ _ _ _ _ _ _)
    · exact h.step (within_askRange _ _ _ _ _ _ _)

theorem within_writeStatus (s : State) (q : QId) :
    Within flushDueParts s (State.writeStatus s q) := by
  have h : Within flushDueParts s s := within_refl _
  unfold State.writeStatus
  split
  · exact h
  · exact ite_within h ((h.step (within_modQueue _ _ _)).step (within_flushDue _ _))

theorem within_setQState (s : State) (q : QId) (st : QState) :
    Within flushDueParts s (State.setQState s q st) := by
  have h : Within flushDueParts s s := within_refl _
  unfold State.setQState
  exact (h.step (within_modQueue _ _ _)).step (within_writeStatus _ _)

theorem within_noteHalts (s : State) (q : QId) :
    Within flushDueParts s (State.noteHalts s q) := by
  have h : Within flushDueParts s s := within_refl _
  unfold State.noteHalts
  split
  · exact ite_within (h.step (within_writeStatus _ _)) h
  · exact h

end Sys2Proof.Laws
end

