-- ==== Sys2Proof/Laws/Rings.lean ====
section
/-! SUPPORT. What evaluating a doorbell can do (03 R84, R85, R101), writing a status line, and fetching an entry: one lemma for each
case. -/

namespace Sys2Proof.Laws

open Sys2Proof Sys2Proof.Machine

/-- A queue in ERROR, or one that is lost, evaluates no doorbell. -/
theorem evalBell_ignored {s : State} {q : QId} {t : Word32} {x : Queue} (h : s.live? q = some x) (hs : x.state = .error ∨ x.lost = true) :
    s.evalBell q t = s := by
  unfold State.evalBell
  rw [h]
  simp only
  rw [if_pos hs]

/-- Rule 1 broken. -/
theorem evalBell_rule1 {s : State} {q : QId} {t : Word32} {x : Queue} (h : s.live? q = some x) (hs : x.state ≠ .error) (hl : x.lost = false)
    (hd : (t - x.head).toNat = 0 ∨ 2 ^ x.log2 < (t - x.head).toNat) :
    s.evalBell q t = (s.modQueue q fun y => { y with lastDb := t }).enterError q 0xF1 1 0 := by
  unfold State.evalBell
  rw [h]
  simp only
  rw [if_neg (by simp [hs, hl]), if_pos hd]

/-- Rule 2 broken. -/
theorem evalBell_rule2 {s : State} {q : QId} {t : Word32} {x : Queue} {e : Word32} (h : s.live? q = some x) (hs : x.state ≠ .error)
    (hl : x.lost = false) (hd : ¬((t - x.head).toNat = 0 ∨ 2 ^ x.log2 < (t - x.head).toNat))
    (hn : (x.tail - x.head).toNat < (t - x.head).toNat) (ho : State.overwritten x t = some e) :
    s.evalBell q t = (s.modQueue q fun y => { y with lastDb := t }).enterError q 0xF1 2 e := by
  unfold State.evalBell
  rw [h]
  simp only
  rw [if_neg (by simp [hs, hl]), if_neg hd, if_pos hn, ho]

/-- Accepted, and the tail moves. -/
theorem evalBell_moves {s : State} {q : QId} {t : Word32} {x : Queue} (h : s.live? q = some x) (hs : x.state ≠ .error)
    (hl : x.lost = false) (hd : ¬((t - x.head).toNat = 0 ∨ 2 ^ x.log2 < (t - x.head).toNat))
    (hn : (x.tail - x.head).toNat < (t - x.head).toNat) (ho : State.overwritten x t = none) :
    s.evalBell q t = (s.modQueue q fun y =>
      { y with lastDb := t, tail := t, open_ := y.open_ ++ State.indicesTo x.tail t }).voteCommitted 1 (s.partSpans (State.queuePart x)) := by
  unfold State.evalBell
  rw [h]
  simp only
  rw [if_neg (by simp [hs, hl]), if_neg hd, if_pos hn, ho]
  simp only
  rw [modQueue_modQueue]
  intro y
  rfl

/-- Accepted without effect on the tail. -/
theorem evalBell_stands {s : State} {q : QId} {t : Word32} {x : Queue} (h : s.live? q = some x) (hs : x.state ≠ .error)
    (hl : x.lost = false) (hd : ¬((t - x.head).toNat = 0 ∨ 2 ^ x.log2 < (t - x.head).toNat))
    (hn : ¬(x.tail - x.head).toNat < (t - x.head).toNat) : s.evalBell q t = s.modQueue q fun y => { y with lastDb := t } := by
  unfold State.evalBell
  rw [h]
  simp only
  rw [if_neg (by simp [hs, hl]), if_neg hd, if_neg hn]

/-- What issuing a write changes is no queue. -/
theorem issue_queues (s : State) (own : Owner) (part elem route : Nat) (bs : List (Target × Nat × Byte)) (poison : List Nat)
    (span : Option Nat) : (s.issue own part elem route bs poison span).queues = s.queues :=
  ((within_issue s own part elem route bs poison span).only .queues).resolve_left (by decide)

/-- What a question for a translation changes is no queue. -/
theorem askRange_queues (s : State) (own : XOwner) (p : Nat) (xl : List Xlat) (access a n : Nat) :
    (s.askRange own p xl access a n).queues = s.queues := rfl

/-- Issuing a status line that is due changes of the queue only what is due, SEQUENCE and its translations, of no other queue
anything. -/
theorem flushDue_queue {s : State} {q : QId} {x : Queue} (h : s.queue? q = some x) :
    (∃ d n l, (s.flushDue q).queue? q = some { x with due := d, seq := n, xlat := l }) ∧
      ∀ r, r ≠ q → (s.flushDue q).queue? r = s.queue? r := by
  unfold State.flushDue
  rw [h]
  simp only
  split
  · exact ⟨⟨x.due, x.seq, x.xlat, h⟩, fun _ _ => rfl⟩
  · split
    · next bs _ =>
      have e (r : QId) (z : State) : (z.issue (.status q) (State.queuePart x) 0 0 bs []).queue? r = z.queue? r := by
        unfold State.queue?
        rw [issue_queues]
      refine ⟨⟨x.due - 1, x.seq + 1, [], ?_⟩, fun r hr => ?_⟩
      · rw [e]
        exact queue?_modQueue_self h rfl
      · rw [e]
        exact queue?_modQueue_ne (fun _ => rfl) hr
    · exact ⟨⟨x.due, x.seq, x.xlat, h⟩, fun _ _ => rfl⟩

/-- A status line written: the queue's own state stands but for what the line itself holds. -/
theorem writeStatus_queue {s : State} {q : QId} {x : Queue} (h : s.queue? q = some x) (hl : x.lost = false) :
    (∃ i n d o l, (s.writeStatus q).queue? q = some { x with haltIndex := i, haltCount := n, due := d, seq := o, xlat := l }) ∧
      ∀ r, r ≠ q → (s.writeStatus q).queue? r = s.queue? r := by
  unfold State.writeStatus
  rw [h]
  dsimp only
  rw [if_neg (by rw [hl]; exact Bool.false_ne_true)]
  generalize s.haltIndex q = i
  generalize s.haltCount q = n
  have h1 : (s.modQueue q fun y => { y with due := y.due + 1, haltIndex := i, haltCount := n }).queue? q = _ :=
    queue?_modQueue_self h rfl
  obtain ⟨⟨d, o, l, k⟩, k2⟩ := flushDue_queue h1
  exact ⟨⟨i, n, d, o, l, k⟩, fun r hr => (k2 r hr).trans (queue?_modQueue_ne (fun _ => rfl) hr)⟩

/-- A queue that enters ERROR. -/
theorem enterError_queue {s : State} {q : QId} {x : Queue} {code detail : Nat} {idx : Word32} (h : s.queue? q = some x) (hl : x.lost = false) :
    (∃ i n d o l, (s.enterError q code detail idx).queue? q =
        some { x with state := .error, errCode := BitVec.ofNat 8 code, errDetail := BitVec.ofNat 16 detail, errIndex := idx,
                      haltIndex := i, haltCount := n, due := d, seq := o, xlat := l }) ∧
      ∀ r, r ≠ q → (s.enterError q code detail idx).queue? r = s.queue? r := by
  unfold State.enterError
  have h1 : (s.modQueue q fun x => { x with state := .error, errCode := BitVec.ofNat 8 code, errDetail := BitVec.ofNat 16 detail,
                                            errIndex := idx }).queue? q = _ := queue?_modQueue_self h rfl
  obtain ⟨⟨i, n, d, o, l, k⟩, k2⟩ := writeStatus_queue h1 hl
  exact ⟨⟨i, n, d, o, l, k⟩, fun r hr => (k2 r hr).trans (queue?_modQueue_ne (fun _ => rfl) hr)⟩

end Sys2Proof.Laws
end

