-- ==== Sys2Proof/Laws/Within/Votes.lean ====
section
/-! SUPPORT. What the operations of Machine/Votes.lean (votes and raised spans) stay within. -/

namespace Sys2Proof.Laws

-- One theorem at a time: many at once, in one text, hold more threads than the memory limit allows.
set_option Elab.async false

open Sys2Proof Sys2Proof.Machine

theorem within_settleRun (s : State) (n : Nat) :
    Within modSpanParts s (State.settleRun s n) := by
  have h : Within modSpanParts s s := within_refl _
  unfold State.settleRun
  exact ite_within (h.step (within_modSpan _ _ _)) h

theorem within_raiseSpan (s : State) (n : Nat) :
    Within modSpanParts s (State.raiseSpan s n) := by
  have h : Within modSpanParts s s := within_refl _
  unfold State.raiseSpan
  exact ite_within h ((h.step (within_modSpan _ _ _)).step (within_settleRun _ _))

theorem within_raiseSpans (s : State) (l : List Nat) :
    Within modSpanParts s (State.raiseSpans s l) := by
  have h : Within modSpanParts s s := within_refl _
  unfold State.raiseSpans
  exact foldl_within (fun t1 _ h2 => h2.step (within_raiseSpan _ _)) h

theorem within_wakeCentral (s : State) :
    Within wakeCentralParts s (State.wakeCentral s) := by
  have h : Within wakeCentralParts s s := within_refl _
  unfold State.wakeCentral
  extract_lets -underBinder -merge
  split
  · exact h.put
  · exact h
  · exact ite_within (h.put) h

theorem within_wakeBit (s : State) (i : Nat) :
    Within wakeCentralParts s (State.wakeBit s i) := by
  have h : Within wakeCentralParts s s := within_refl _
  unfold State.wakeBit
  exact h.put

theorem within_voteCommitted (s : State) (floor : Nat) (spans : List Nat) :
    Within voteCommittedParts s (State.voteCommitted s floor spans) := by
  have h : Within voteCommittedParts s s := within_refl _
  unfold State.voteCommitted
  exact foldl_within (fun t1 _ h2 => ite_within (h2.step (within_raiseSpan _ _)) (h2.step (within_settleRun _ _))) (h.step
    (within_wakeCentral _))

end Sys2Proof.Laws
end

