-- ==== Sys2Proof/Laws/Within/Jobs.lean ====
section
/-! SUPPORT. What the operations of Machine/Jobs.lean (the life of a job) stay within. -/

namespace Sys2Proof.Laws

-- One theorem at a time: many at once, in one text, hold more threads than the memory limit allows.
set_option Elab.async false

open Sys2Proof Sys2Proof.Machine

theorem within_modGroup (s : State) (p : Nat) (g : Nat) (f : Group → Group) :
    Within modPartParts s (State.modGroup s p g f) := by
  have h : Within modPartParts s s := within_refl _
  unfold State.modGroup
  exact h.step (within_modPart _ _ _)

theorem within_afterKill (s : State) (uid : Nat) (q : QId) (spans : List Nat) (f : Nat → Bool) :
    Within afterKillParts s (State.afterKill s uid q spans f) := by
  have h : Within afterKillParts s s := within_refl _
  unfold State.afterKill
  exact (foldl_within (fun t1 _ h2 => h2.step (within_settleRun _ _)) (h.step (within_drainReads _ _ _))).step
    (within_noteHalts _ _)

theorem within_adminEffect (s : State) (j : Job) :
    Within modPartParts s (State.adminEffect s j) := by
  have h : Within modPartParts s s := within_refl _
  unfold State.adminEffect
  split
  · exact h
  · extract_lets -underBinder -merge
    refine ite_within h ?_
    split
    · exact h.step (within_modPart _ _ _)
    · exact h.step (within_modPart _ _ _)
    · exact h

theorem within_endRaw (s : State) (uid : Nat) (code : Nat) (detail : Nat) (pos : Nat) :
    Within endRawParts s (State.endRaw s uid code detail pos) := by
  have h : Within endRawParts s s := within_refl _
  unfold State.endRaw
  split
  · exact h
  · exact (((h.step (within_adminEffect _ _)).step (within_modJob _ _ _)).step (within_modQueue _ _ _)).step
      (within_afterKill _ _ _ _ _)

theorem within_sendMsg (s : State) (p : Nat) (dst : Option MsgSrc) (m : Msg) :
    Within sendMsgParts s (State.sendMsg s p dst m) := by
  have h : Within sendMsgParts s s := within_refl _
  unfold State.sendMsg
  split
  · exact h.step (within_postMsg _ _ _ _)
  · extract_lets -underBinder -merge
    exact h.put

theorem within_endGroupJobs (s : State) (p : Nat) (g : Nat) (cause : AbortCause) :
    Within endRawParts s (State.endGroupJobs s p g cause) := by
  have h : Within endRawParts s s := within_refl _
  unfold State.endGroupJobs
  exact foldl_within (fun t1 _ h2 => h2.step (within_endRaw _ _ _ _ _)) h

theorem within_abortGroup (s : State) (p : Nat) (g : Nat) (cause : AbortCause) :
    Within endRawParts s (State.abortGroup s p g cause) := by
  have h : Within endRawParts s s := within_refl _
  unfold State.abortGroup
  split
  · exact h
  · extract_lets -underBinder -merge a1 a3
    have h2 : Within endRawParts s a1 := h.step (within_modGroup _ _ _ _)
    clear_value a1
    have h4 : Within endRawParts s a3 := foldl_within (fun t5 _ h6 => h6.step (within_postMsg _ _ _ _)) h2
    clear_value a3
    exact ite_within h (h4.step (within_endGroupJobs _ _ _ _))

theorem within_endJob (s : State) (uid : Nat) (code : Nat) (detail : Nat) (pos : Nat) :
    Within endRawParts s (State.endJob s uid code detail pos) := by
  have h : Within endRawParts s s := within_refl _
  unfold State.endJob
  split
  · exact h
  · extract_lets -underBinder -merge a1
    have h2 : Within endRawParts s a1 := h.step (within_endRaw _ _ _ _ _)
    clear_value a1
    exact ite_within h2 (ite_within (ite_within h2 (h2.step (within_modGroup _ _ _ _))) (h2.step (within_abortGroup _ _ _ _)))

theorem within_noteEarly (s : State) (uid : Nat) (e : Early) :
    Within afterKillParts s (State.noteEarly s uid e) := by
  have h : Within afterKillParts s s := within_refl _
  unfold State.noteEarly
  split
  · exact h
  · extract_lets -underBinder -merge
    exact ite_within h ((h.step (within_modJob _ _ _)).step (within_afterKill _ _ _ _ _))

theorem within_haltJob (s : State) (uid : Nat) (n : Nat) (noTile : Bool) :
    Within afterKillParts s (State.haltJob s uid n noTile) := by
  have h : Within afterKillParts s s := within_refl _
  unfold State.haltJob
  split
  · exact h
  · extract_lets -underBinder -merge _ a1 a3
    have h2 : Within afterKillParts s a1 := h.step (within_modJob _ _ _)
    clear_value a1
    have h4 : Within afterKillParts s a3 := foldl_within (fun t5 _ h6 => h6.step (within_settleRun _ _)) (h2.step
      (within_drainReads _ _ _))
    clear_value a3
    split
    · exact ite_within (h4.step (within_setQState _ _ _)) h4
    · exact h4

theorem within_settleEarly (s : State) (uid : Nat) :
    Within endRawParts s (State.settleEarly s uid) := by
  have h : Within endRawParts s s := within_refl _
  unfold State.settleEarly
  split
  · exact h
  · refine ite_within h ?_
    split
    · exact h
    · exact ite_within h (ite_within (h.step (within_haltJob _ _ _ _)) (h.step (within_endJob _ _ _ _ _)))

theorem within_addUnread (s : State) (x : Queue) (idx : Word32) (code : Nat) (detail : Nat) :
    Within addUnreadParts s (State.addUnread s x idx code detail) := by
  have h : Within addUnreadParts s s := within_refl _
  unfold State.addUnread
  exact h.put

theorem within_endQueue (s : State) (q : QId) (code : Nat) (detail : Nat) :
    Within endQueueParts s (State.endQueue s q code detail) := by
  have h : Within endQueueParts s s := within_refl _
  unfold State.endQueue
  split
  · exact h
  · extract_lets -underBinder -merge a1
    have h2 : Within endQueueParts s a1 := by
      unfold a1
      refine foldl_within (fun t3 _ h4 => ?_) h
      beta_reduce
      split
      · exact h4.step (within_addUnread _ _ _ _ _)
      · exact ite_within (ite_within (h4.step (within_modJob _ _ _)) h4) (ite_within ((ite_within (h4.step (within_endRaw _
          _ _ _ _)) (h4.step (within_endJob _ _ _ _ _))).step (within_modJob _ _ _)) h4)
    clear_value a1
    exact ite_within h (h2.step (within_modQueue _ _ _))

theorem within_rerunThreads (s : State) (n : Nat) (f : Thread → Bool) (busy : Nat) :
    Within noteWrittenParts s (State.rerunThreads s n f busy).1 := by
  have h : Within noteWrittenParts s s := within_refl _
  unfold State.rerunThreads
  extract_lets -underBinder -merge _ a1 a3
  have h2 : Within noteWrittenParts s a1 := foldl_within (fun t7 _ h8 => (h8.step (within_modJob _ _ _)).step
    (within_drainReads _ _ _)) h
  clear_value a1
  have h4 : Within noteWrittenParts s a3 := foldl_within (fun t5 _ h6 => h6.step (within_modJob _ _ _)) h2
  clear_value a3
  exact h4

theorem within_dropPassReads (s : State) (n : Nat) :
    Within putPortParts s (State.dropPassReads s n) := by
  have h : Within putPortParts s s := within_refl _
  unfold State.dropPassReads
  exact foldl_within (fun t1 _ h2 => ite_within (h2.step (within_drainReads _ _ _)) h2) h

theorem within_takeThreads (s0 : State) (n : Nat) :
    Within noteWrittenParts s0 (State.takeThreads s0 n).1 := by
  have h : Within noteWrittenParts s0 s0 := within_refl _
  unfold State.takeThreads
  extract_lets -underBinder -merge a1
  have h2 : Within noteWrittenParts s0 a1 := h.step (within_dropPassReads _ _)
  clear_value a1
  exact foldl_within (fun t3 _ h4 => (h4.step (within_modJob _ _ _)).step (within_drainReads _ _ _)) h2

theorem within_rebuildBanks (s : State) (n : Nat) (f : Nat → Bool) :
    Within rebuildBanksParts s (State.rebuildBanks s n f) := by
  have h : Within rebuildBanksParts s s := within_refl _
  unfold State.rebuildBanks
  refine foldl_within (fun t1 _ h2 => ?_) h
  beta_reduce
  split
  · exact h2
  · extract_lets -underBinder -merge
    exact ite_within h2 (h2.put.step (within_modJob _ _ _))

theorem within_clearSpan (s : State) (n : Nat) (banks : List Nat) (sets : List Nat) :
    Within clearSpanParts s (State.clearSpan s n banks sets) := by
  unfold State.clearSpan
  have hr {α : Type} (g : Store → α) (h1 : ∀ st b, g (st.zero (locKey (.staging n) (b * 2 ^ 18)) (2 ^ 18)) = g st)
      (h2 : ∀ (st : Store) (m : List Host.Cell), g { st with cbMem := m } = g st) :=
    (foldl_same g (fun (st : Store) (k : Nat) => { st with cbMem := memErase st.cbMem (cbKey n k 0) 16384 }) sets
      (banks.foldl (fun st b => st.zero (locKey (.staging n) (b * 2 ^ 18)) (2 ^ 18)) s.store) (fun _ _ => h2 _ _)).trans
      (foldl_same g _ banks s.store h1)
  have hi := hr Store.inj (fun _ _ => rfl) (fun _ _ => rfl)
  have ht := hr (fun u => (u.tables, u.work)) (fun _ _ => rfl) (fun _ _ => rfl)
  exact (within_refl s).put
    (hstore := fun w => wf_foldl _ _ _ (fun st k v => ⟨v.1, cellsOk_memErase _ _ _ _ v.2.1, v.2.2⟩)
      (wf_foldl _ _ _ (fun st b v => wf_zero _ _ _ v) w))
    (only := fun f => by cases f <;> first | exact .inl (by decide) | exact .inr rfl | exact .inr hi | exact .inr ht)

theorem within_clearCores (s : State) (n : Nat) (f : Nat → Bool) :
    Within clearCoresParts s (State.clearCores s n f) := by
  have h : Within clearCoresParts s s := within_refl _
  unfold State.clearCores
  exact h.put

theorem within_fenceSpan (s : State) (n : Nat) (by_ : SpanFence) :
    Within fenceSpanParts s (State.fenceSpan s n by_).1 := by
  have h : Within fenceSpanParts s s := within_refl _
  unfold State.fenceSpan
  extract_lets -underBinder -merge a1 a3
  have h2 : Within fenceSpanParts s a1.1 := h.step (within_takeThreads _ _)
  have h4 : Within fenceSpanParts s a3 := h2.step (within_modSpan _ _ _)
  clear_value a3
  exact ((h4.step (within_rebuildBanks _ _ _)).step (within_clearCores _ _ _)).step (within_clearSpan _ _ _ _)

theorem within_fenceCore (s : State) (n : Nat) (c : Nat) (keeper : Bool) :
    Within fenceSpanParts s (State.fenceCore s n c keeper).1 := by
  have h : Within fenceSpanParts s s := within_refl _
  unfold State.fenceCore
  extract_lets -underBinder -merge _ a1 a3 a5 a7
  have h2 : Within fenceSpanParts s a1 := h.step (within_modSpan _ _ _)
  clear_value a1
  have h4 : Within fenceSpanParts s a3.1 := h2.step (within_rerunThreads _ _ _ _)
  have h6 : Within fenceSpanParts s a5 := h4.step (within_rebuildBanks _ _ _)
  clear_value a5
  have h8 : Within fenceSpanParts s a7.1 := h6.step (within_fenceSpan _ _ _)
  split
  · exact h8
  · exact h6

end Sys2Proof.Laws
end

