-- ==== Sys2Proof/Laws/Within/Faults.lean ====
section
/-! SUPPORT. What the operations of Machine/Faults.lean (faults and incidents) stay within. -/

namespace Sys2Proof.Laws

-- One theorem at a time: many at once, in one text, hold more threads than the memory limit allows.
set_option Elab.async false

open Sys2Proof Sys2Proof.Machine

theorem within_dropChannel (s : State) (c : Nat) (st : ChState) :
    Within modChanParts s (State.dropChannel s c st) := by
  have h : Within modChanParts s s := within_refl _
  unfold State.dropChannel
  exact h.step (within_modChan _ _ _)

theorem within_cycleSpans (s : State) (l : List Nat) :
    Within modSpanParts s (State.cycleSpans s l) := by
  have h : Within modSpanParts s s := within_refl _
  unfold State.cycleSpans
  exact foldl_within (fun t1 _ h2 => ite_within (h2.step (within_modSpan _ _ _)) h2) h

theorem within_suspendSwaps (s : State) (sc : Scope) :
    Within modSpanParts s (State.suspendSwaps s sc) := by
  have h : Within modSpanParts s s := within_refl _
  unfold State.suspendSwaps
  exact foldl_within (fun t1 _ h2 => ite_within (h2.step (within_modSpan _ _ _)) h2) h

theorem within_levelBegin (s : State) (sc : Scope) :
    Within levelBeginParts s (State.levelBegin s sc) := by
  have h : Within levelBeginParts s s := within_refl _
  unfold State.levelBegin
  split
  · exact h.step (within_endQueue _ _ _ _)
  · extract_lets -underBinder -merge _ _ a1 a3
    have h2 : Within levelBeginParts s a1 := foldl_within (fun t7 _ h8 => (h8.step (within_endJob _ _ _ _ _)).step
      (within_modJob _ _ _)) h
    clear_value a1
    have h4 : Within levelBeginParts s a3 := foldl_within (fun t5 _ h6 => h6.step (within_modJob _ _ _)) h2
    clear_value a3
    exact (h4.step (within_dropPassReads _ _)).step (within_raiseSpan _ _)
  · extract_lets -underBinder -merge _ a9 a11
    have h10 : Within levelBeginParts s a9 := foldl_within (fun t15 _ h16 => h16.step (within_endQueue _ _ _ _)) h
    clear_value a9
    have h12 : Within levelBeginParts s a11 := by
      unfold a11
      refine foldl_within (fun t13 _ h14 => ?_) h10
      beta_reduce
      exact ite_within (h14.step (within_dropChannel _ _ _)) h14
    clear_value a11
    exact h12.step (within_cycleSpans _ _)
  · extract_lets -underBinder -merge _ a17 a19
    have h18 : Within levelBeginParts s a17 := foldl_within (fun t23 _ h24 => h24.step (within_endQueue _ _ _ _)) h
    clear_value a17
    have h20 : Within levelBeginParts s a19 := (foldl_within (fun t21 _ h22 => h22.step (within_dropChannel _ _ _))
      h18).step (within_cycleSpans _ _)
    clear_value a19
    exact h20.put (hpacers := by simp)
  · extract_lets -underBinder -merge
    exact h.put

theorem within_startLevel (s : State) (sc : Scope) (units : List Nat) (origin : Option QId) :
    Within startLevelParts s (State.startLevel s sc units origin).1 := by
  have h : Within startLevelParts s s := within_refl _
  unfold State.startLevel
  split
  · exact h.put
  · extract_lets -underBinder -merge _ _ _ a1
    have h2 : Within startLevelParts s a1 := h.put
    clear_value a1
    exact (h2.step (within_suspendSwaps _ _)).step (within_levelBegin _ _)

theorem within_slotWrite (s : State) (p : Nat) (bs : List Byte) :
    Within slotWriteParts s (State.slotWrite s p bs) := by
  have h : Within slotWriteParts s s := within_refl _
  unfold State.slotWrite
  extract_lets -underBinder -merge _ a1
  have h2 : Within slotWriteParts s a1 := ite_within h (h.put.step (within_askXlat _ _ _ _ _))
  clear_value a1
  exact h2.step (within_emit _ _)

theorem within_writeRecord (s : State) (u : Nat) (closed : Bool) :
    Within slotWriteParts s (State.writeRecord s u closed) := by
  have h : Within slotWriteParts s s := within_refl _
  unfold State.writeRecord
  split
  · exact h
  · extract_lets -underBinder -merge _ _ _ a1 a3
    have h2 : Within slotWriteParts s a1 := h.put
    clear_value a1
    have h4 : Within slotWriteParts s a3 := h2.step (within_slotWrite _ _ _)
    clear_value a3
    exact ite_within h4 (h4.step (within_slotWrite _ _ _))

theorem within_modIncident (s : State) (u : Nat) (f : Incident → Incident) :
    Within modUnitParts s (State.modIncident s u f) := by
  have h : Within modUnitParts s s := within_refl _
  unfold State.modIncident
  exact h.step (within_modUnit _ _ _)

theorem within_tryClose (s : State) (u : Nat) :
    Within tryCloseParts s (State.tryClose s u) := by
  have h : Within tryCloseParts s s := within_refl _
  unfold State.tryClose
  split
  · exact h
  · exact ite_within (((h.step (within_writeRecord _ _ _)).step (within_modUnit _ _ _)).step (within_settleRun _ _)) h

theorem within_settleFences (s : State) :
    Within tryCloseParts s (State.settleFences s) := by
  have h : Within tryCloseParts s s := within_refl _
  unfold State.settleFences
  refine foldl_within (fun t1 _ h2 => ?_) h
  beta_reduce
  split
  · exact ite_within (h2.step (within_tryClose _ _)) h2
  · exact h2

theorem within_beginSwap (s : State) (u : Nat) (k : SpareKind) (n : Nat) :
    Within beginSwapParts s (State.beginSwap s u k n) := by
  have h : Within beginSwapParts s s := within_refl _
  unfold State.beginSwap
  split
  · exact h
  · split
    · extract_lets -underBinder -merge a1 _ a3
      have h2 : Within beginSwapParts s a1 := h.step (within_modSpan _ _ _)
      clear_value a1
      have h4 : Within beginSwapParts s a3 := h2.step (within_rerunThreads _ _ _ _)
      clear_value a3
      exact ite_within h (ite_within (h.step (within_modSpan _ _ _)) (ite_within (h4.step (within_rebuildBanks _ _ _)) h4))
    · extract_lets -underBinder -merge a5 _ a7
      have h6 : Within beginSwapParts s a5 := h.step (within_modSpan _ _ _)
      clear_value a5
      have h8 : Within beginSwapParts s a7 := h6.step (within_rerunThreads _ _ _ _)
      clear_value a7
      exact ite_within h (ite_within (h.step (within_modSpan _ _ _)) (ite_within (h8.step (within_rebuildBanks _ _ _)) h8))
    · extract_lets -underBinder -merge
      exact h.put
    · extract_lets -underBinder -merge
      exact h.put

theorem within_nextSwap (s : State) (u : Nat) :
    Within beginSwapParts s (State.nextSwap s u) := by
  have h : Within beginSwapParts s s := within_refl _
  unfold State.nextSwap
  split
  · exact h.step (within_modSpan _ _ _)
  · exact (h.step (within_modSpan _ _ _)).step (within_beginSwap _ _ _ _)

theorem within_react (s : State) (u : Nat) (lvl : Nat) (c : FaultCtx) :
    Within reactParts s (State.react s u lvl c) := by
  have h : Within reactParts s s := within_refl _
  unfold State.react
  split
  · exact h.step (within_modIncident _ _ _)
  · extract_lets -underBinder -merge a1
    have h2 : Within reactParts s a1.1 := h.step (within_fenceCore _ _ _ _)
    exact h2.step (within_modIncident _ _ _)
  · split
    · exact h.step (within_startLevel _ _ _ _)
    · exact h
  · exact h.step (within_startLevel _ _ _ _)
  · exact h.step (within_startLevel _ _ _ _)
  · exact h.step (within_startLevel _ _ _ _)
  · exact h.step (within_startLevel _ _ _ _)

theorem within_openIncident (s : State) (u : Nat) (x : Incident) :
    Within openIncidentParts s (State.openIncident s u x) := by
  have h : Within openIncidentParts s s := within_refl _
  unfold State.openIncident
  extract_lets -underBinder -merge _ a1 _ a3
  have h2 : Within openIncidentParts s a1 := h.step (within_modUnit _ _ _)
  clear_value a1
  have h4 : Within openIncidentParts s a3 := h2.put
  clear_value a3
  exact ite_within (h4.step (within_voteCommitted _ _ _)) h4

theorem within_rewrite (s : State) (u : Nat) :
    Within slotWriteParts s (State.rewrite s u) := by
  have h : Within slotWriteParts s s := within_refl _
  unfold State.rewrite
  split
  · exact ite_within (h.step (within_writeRecord _ _ _)) h
  · exact h

theorem within_severe (s : State) (u : Nat) (src : Nat) (c : FaultCtx) :
    Within severeParts s (State.severe s u src c) := by
  have h : Within severeParts s s := within_refl _
  unfold State.severe
  extract_lets -underBinder -merge _ _ a1
  have h2 : Within severeParts s a1 := by
    unfold a1
    split
    · exact ite_within (h.step (within_beginSwap _ _ _ _)) h
    · exact h
  clear_value a1
  split
  · exact ite_within (((h2.step (within_modIncident _ _ _)).step (within_rewrite _ _)).step (within_react _ _ _ _)) h2
  · extract_lets -underBinder -merge
    exact (h2.step (within_openIncident _ _ _)).step (within_react _ _ _ _)

theorem within_countEvent (s : State) (u : Nat) (src : Nat) (c : FaultCtx) :
    Within severeParts s (State.countEvent s u src c) := by
  have h : Within severeParts s s := within_refl _
  unfold State.countEvent
  extract_lets -underBinder -merge _ _ a1
  have h2 : Within severeParts s a1 := h.step (within_modUnit _ _ _)
  clear_value a1
  exact ite_within h (ite_within (h2.step (within_severe _ _ _ _)) h2)

theorem within_countRead (s : State) (code : Nat) (u : Option Nat) (c : FaultCtx) :
    Within severeParts s (State.countRead s code u c) := by
  have h : Within severeParts s s := within_refl _
  unfold State.countRead
  split
  · exact h.step (within_countEvent _ _ _ _)
  · exact h

theorem within_cause (s : State) (u : Nat) (x : Incident) :
    Within causeParts s (State.cause s u x) := by
  have h : Within causeParts s s := within_refl _
  unfold State.cause
  split
  · exact ite_within ((h.step (within_modIncident _ _ _)).step (within_rewrite _ _)) h
  · exact h.step (within_openIncident _ _ _)

theorem within_finishUnits (s : State) (us : List Nat) :
    Within tryCloseParts s (State.finishUnits s us) := by
  have h : Within tryCloseParts s s := within_refl _
  unfold State.finishUnits
  exact foldl_within (fun t1 _ h2 => ite_within h2 ((h2.step (within_modIncident _ _ _)).step (within_tryClose _ _))) h

theorem within_escalateUnits (s : State) (us : List Nat) (lvl : Nat) :
    Within escalateUnitsParts s (State.escalateUnits s us lvl) := by
  have h : Within escalateUnitsParts s s := within_refl _
  unfold State.escalateUnits
  refine foldl_within (fun t1 _ h2 => ?_) h
  beta_reduce
  split
  · exact ite_within ((h2.step (within_modIncident _ _ _)).step (within_rewrite _ _)) h2
  · exact h2

theorem within_levelEnd (s : State) (sc : Scope) :
    Within levelEndParts s (State.levelEnd s sc) := by
  have h : Within levelEndParts s s := within_refl _
  unfold State.levelEnd
  split
  · split
    · exact ite_within h (h.step (within_setQState _ _ _))
    · exact h
  · exact (((h.step (within_clearSpan _ _ _ _)).step (within_clearCores _ _ _)).step (within_modSpan _ _ _)).step
      (within_settleRun _ _)
  · extract_lets -underBinder -merge _ a1
    have h2 : Within levelEndParts s a1 := foldl_within (fun t5 _ h6 => h6.step (within_setQState _ _ _)) h
    clear_value a1
    exact foldl_within (fun t3 _ h4 => (h4.step (within_modSpan _ _ _)).step (within_settleRun _ _)) h2
  · exact h
  · exact h

end Sys2Proof.Laws
end

