-- ==== Sys2Proof/Laws/Within/Power.lean ====
section
/-! SUPPORT. What the operations of Machine/Power.lean (power) stay within. -/

namespace Sys2Proof.Laws

-- One theorem at a time: many at once, in one text, hold more threads than the memory limit allows.
set_option Elab.async false

open Sys2Proof Sys2Proof.Machine

theorem within_refuseSpan (s : State) (n : Nat) (code : Nat) :
    Within modSpanParts s (State.refuseSpan s n code) := by
  have h : Within modSpanParts s s := within_refl _
  unfold State.refuseSpan
  exact h.step (within_modSpan _ _ _)

theorem within_refuseCentral (s : State) (code : Nat) :
    Within wakeCentralParts s (State.refuseCentral s code) := by
  have h : Within wakeCentralParts s s := within_refl _
  unfold State.refuseCentral
  exact h.put

theorem within_dropUnretained (s : State) (n : Nat) :
    Within dropUnretainedParts s (State.dropUnretained s n) := by
  have h : Within dropUnretainedParts s s := within_refl _
  unfold State.dropUnretained
  exact (h.step (within_clearCores _ _ _)).step (within_clearSpan _ _ _ _)

theorem within_spanEntered (s : State) (n : Nat) :
    Within spanEnteredParts s (State.spanEntered s n) := by
  have h : Within spanEnteredParts s s := within_refl _
  unfold State.spanEntered
  extract_lets -underBinder -merge
  split
  · extract_lets -underBinder -merge a1
    have h2 : Within spanEnteredParts s a1 := h.step (within_modSpan _ _ _)
    clear_value a1
    exact ite_within (h2.step (within_raiseSpan _ _)) h2
  · extract_lets -underBinder -merge a3
    have h4 : Within spanEnteredParts s a3 := (h.step (within_dropUnretained _ _)).step (within_modSpan _ _ _)
    clear_value a3
    exact ite_within (h4.step (within_raiseSpan _ _)) h4
  · exact h

theorem within_spanExited (s : State) (n : Nat) :
    Within modSpanParts s (State.spanExited s n) := by
  have h : Within modSpanParts s s := within_refl _
  unfold State.spanExited
  split
  · exact (h.step (within_modSpan _ _ _)).step (within_settleRun _ _)
  · exact (h.step (within_modSpan _ _ _)).step (within_settleRun _ _)
  · exact h

theorem within_dropCentral (s : State) :
    Within dropCentralParts s (State.dropCentral s) := by
  have h : Within dropCentralParts s s := within_refl _
  unfold State.dropCentral
  exact h.put (hparts := by simp)

theorem within_deferAccess (s : State) (off : Nat) (v : Option Word32) :
    Within wakeCentralParts s (State.deferAccess s off v) := by
  have h : Within wakeCentralParts s s := within_refl _
  unfold State.deferAccess
  exact ((h.put).step (within_wakeBit _ _)).step (within_wakeCentral _)

theorem within_regWrite {l : List Field} (s : State) (off : Nat) (v : Word32) (f : State → State) (hf : ∀ t, Within l t (f t))
    (hl : (wakeCentralParts.all fun f => l.contains f) = true := by decide) : Within l s (State.regWrite s off v f) := by
  unfold State.regWrite
  split
  · exact within_refl s
  · split
    · exact (within_deferAccess _ _ _).mono hl
    · exact hf s

theorem within_keeperTick (s : State) : Within keeperTickParts s (keeperTick s) := by
  have h : Within keeperTickParts s s := within_refl _
  unfold keeperTick
  extract_lets _ _ c
  exact h.put (hcentral := by unfold c; split <;> exact id)

end Sys2Proof.Laws
end

