-- ==== Sys2Proof/Laws/Within/Rings.lean ====
section
/-! SUPPORT. What the operations of Machine/Rings.lean (rings) stay within. -/

namespace Sys2Proof.Laws

-- One theorem at a time: many at once, in one text, hold more threads than the memory limit allows.
set_option Elab.async false

open Sys2Proof Sys2Proof.Machine

theorem within_enterError (s : State) (q : QId) (code : Nat) (detail : Nat) (idx : Word32) :
    Within flushDueParts s (State.enterError s q code detail idx) := by
  have h : Within flushDueParts s s := within_refl _
  unfold State.enterError
  exact (h.step (within_modQueue _ _ _)).step (within_writeStatus _ _)

theorem within_evalBell (s : State) (q : QId) (t : Word32) :
    Within evalBellParts s (State.evalBell s q t) := by
  have h : Within evalBellParts s s := within_refl _
  unfold State.evalBell
  split
  · exact h
  · extract_lets -underBinder -merge a1
    have h2 : Within evalBellParts s a1 := h.step (within_modQueue _ _ _)
    clear_value a1
    refine ite_within h ?_
    refine ite_within (h2.step (within_enterError _ _ _ _ _)) ?_
    refine ite_within ?_ h2
    split
    · exact h2.step (within_enterError _ _ _ _ _)
    · exact (h2.step (within_modQueue _ _ _)).step (within_voteCommitted _ _ _)

theorem within_captureBell (s : State) (q : QId) (t : Word32) :
    Within captureBellParts s (State.captureBell s q t) := by
  have h : Within captureBellParts s s := within_refl _
  unfold State.captureBell
  split
  · exact ((h.put (hcentral := by simp; omega)).step (within_wakeBit _ _)).step (within_wakeCentral _)
  · exact h.step (within_emit _ _)

theorem within_ringFail (s : State) (q : QId) (why : ReadFail) :
    Within severeParts s (State.ringFail s q why) := by
  have h : Within severeParts s s := within_refl _
  unfold State.ringFail
  split
  · exact h
  · extract_lets -underBinder -merge b1 a2
    clear_value b1
    have h3 : Within severeParts s a2 := by
      unfold a2
      split
      · exact h.step (within_countEvent _ _ _ _)
      · exact h.step (within_countEvent _ _ _ _)
      · exact h
    clear_value a2
    exact ite_within ((h3.step (within_modQueue _ _ _)).step (within_enterError _ _ _ _ _)) h

theorem within_fetchEntry (s : State) (q : QId) :
    Within severeParts s (State.fetchEntry s q) := by
  have h : Within severeParts s s := within_refl _
  unfold State.fetchEntry
  split
  · exact h
  · refine ite_within h ?_
    split
    · exact h.step (within_askRange _ _ _ _ _ _ _)
    · extract_lets -underBinder -merge _ _ a1 a3
      have h2 : Within severeParts s a1 := h.put
      clear_value a1
      have h4 : Within severeParts s a3 := h2.step (within_modQueue _ _ _)
      clear_value a3
      refine ite_within (h.step (within_ringFail _ _ _)) ?_
      split
      · exact ite_within h4 (h4.step (within_endRaw _ _ _ _ _))
      · exact h4

theorem within_recordWrite (s : State) (uid : Nat) :
    Within flushDueParts s (State.recordWrite s uid) := by
  have h : Within flushDueParts s s := within_refl _
  unfold State.recordWrite
  split
  · exact h
  · split
    · exact h
    · refine ite_within h ?_
      split
      · exact h.step (within_askRange _ _ _ _ _ _ _)
      · extract_lets -underBinder -merge _ a1
        have h2 : Within flushDueParts s a1 := h.step (within_issue _ _ _ _ _ _ _ _)
        clear_value a1
        exact (h2.step (within_modJob _ _ _)).step (within_modQueue _ _ _)

theorem within_doneByte (s : State) (uid : Nat) :
    Within flushDueParts s (State.doneByte s uid) := by
  have h : Within flushDueParts s s := within_refl _
  unfold State.doneByte
  split
  · exact h
  · split
    · exact h
    · refine ite_within h ?_
      split
      · exact h.step (within_askRange _ _ _ _ _ _ _)
      · extract_lets -underBinder -merge a1
        have h2 : Within flushDueParts s a1 := h.step (within_issue _ _ _ _ _ _ _ _)
        clear_value a1
        exact (h2.step (within_modJob _ _ _)).step (within_modQueue _ _ _)

theorem within_settleErase (s : State) (uid : Nat) :
    Within settleEraseParts s (State.settleErase s uid) := by
  have h : Within settleEraseParts s s := within_refl _
  unfold State.settleErase
  exact foldl_within (fun t1 _ h2 => h2.step (within_emit _ _)) h.put

theorem within_countFor (s : State) (j : Job) :
    Within modJobParts s (State.countFor s j) := by
  have h : Within modJobParts s s := within_refl _
  unfold State.countFor
  exact h.put

theorem within_lineAfter (s : State) (q : QId) (uid : Nat) :
    Within flushDueParts s (State.lineAfter s q uid) := by
  have h : Within flushDueParts s s := within_refl _
  unfold State.lineAfter
  split
  · extract_lets -underBinder -merge _ a1
    have h2 : Within flushDueParts s a1 := h.step (within_modQueue _ _ _)
    clear_value a1
    exact ite_within (ite_within (h2.step (within_writeStatus _ _)) h2) h
  · exact h

theorem within_completed (s : State) (uid : Nat) :
    Within completedParts s (State.completed s uid) := by
  have h : Within completedParts s s := within_refl _
  unfold State.completed
  split
  · exact h
  · extract_lets -underBinder -merge a1 a3
    have h2 : Within completedParts s a1 := (h.step (within_dropJob _ _)).step (within_modQueue _ _ _)
    clear_value a1
    have h4 : Within completedParts s a3 := ((h2.step (within_settleErase _ _)).step (within_countFor _ _)).step
      (within_lineAfter _ _ _)
    clear_value a3
    exact ite_within h (ite_within (h4.step (within_emit _ _)) h4)

end Sys2Proof.Laws
end

