-- ==== Sys2Proof/Laws/Within/Profile.lean ====
section
/-! SUPPORT. What the operations of Machine/Profile.lean (the profile and start-up) stay within. -/

namespace Sys2Proof.Laws

-- One theorem at a time: many at once, in one text, hold more threads than the memory limit allows.
set_option Elab.async false

open Sys2Proof Sys2Proof.Machine

theorem within_zeroSpan (s : State) (n : Nat) :
    Within dropUnretainedParts s (State.zeroSpan s n) := by
  have h : Within dropUnretainedParts s s := within_refl _
  unfold State.zeroSpan
  exact (h.step (within_clearCores _ _ _)).step (within_clearSpan _ _ _ _)

theorem within_placeSpans (s : State) :
    Within spanEnteredParts s (State.placeSpans s) := by
  have h : Within spanEnteredParts s s := within_refl _
  unfold State.placeSpans
  exact foldl_within (fun t1 _ h2 => ite_within ((h2.step (within_zeroSpan _ _)).step (within_modSpan _ _ _)) (h2.step
    (within_raiseSpan _ _))) h

theorem within_lowerClocks (s : State) : Within lowerClocksParts s (State.lowerClocks s) := by
  unfold State.lowerClocks
  exact (within_refl s).put (hquads := fun i => by simp [i])

theorem within_loadPolicies (s : State) : Within modUnitParts s (State.loadPolicies s) := by
  unfold State.loadPolicies
  exact (within_refl s).put (hunits := fun _ => by simp)

theorem within_scrubMoved (s : State) (old : State) :
    Within dropUnretainedParts s (State.scrubMoved s old) := by
  have h : Within dropUnretainedParts s s := within_refl _
  unfold State.scrubMoved
  exact foldl_within (fun t1 _ h2 => ite_within (h2.step (within_zeroSpan _ _)) h2) h

theorem within_destroyQueues (s : State) (f : Queue → Bool) :
    Within flushDueParts s (State.destroyQueues s f) := by
  have h : Within flushDueParts s s := within_refl _
  unfold State.destroyQueues
  exact foldl_within (fun t1 _ h2 => h2.step (within_setQState _ _ _)) h

theorem within_discardAll (s : State) (keepCounters : Bool) :
    Within discardAllParts s (State.discardAll s keepCounters) := by
  unfold State.discardAll
  extract_lets s1
  have h : Within discardAllParts s s1 := (within_refl s).step (within_destroyQueues _ _)
  clear_value s1
  exact h.put (hparts := fun i => by simp [i]) (hchans := by simp)

theorem within_memoryTimeouts (s : State) :
    Within severeParts s (State.memoryTimeouts s) := by
  have h : Within severeParts s s := within_refl _
  unfold State.memoryTimeouts
  exact foldl_within (fun t1 _ h2 => ite_within (h2.step (within_countEvent _ _ _ _)) h2) h

theorem within_copyUnread (s : State) (reported : Bool) (copy : Option (List Byte)) :
    Within severeParts s (State.copyUnread s reported copy) := by
  have h : Within severeParts s s := within_refl _
  unfold State.copyUnread
  exact ite_within (h.step (within_countEvent _ _ _ _)) h

theorem wf_imageCells (b : List Byte) : memWf (fun _ => 0) (imageCells b) = true := by
  refine (cellsOk_iff _ _).2 ⟨List.Pairwise.sublist List.filter_sublist ?_, fun c hc => ?_⟩
  · rw [List.pairwise_iff_getElem]
    intro i j hi hj hij
    simpa using hij
  · have := (List.mem_filter.1 hc).2
    simpa using this

theorem within_loadProfile (s : State) (a b : Option (List Byte)) (attach : BitVec 8) :
    Within loadProfileParts s (State.loadProfile s a b attach) := by
  have h : Within loadProfileParts s s := within_refl _
  unfold State.loadProfile
  extract_lets _ _ _ s1 _ _ _ _ img _ p t t2
  have hp : memWf (fun _ => 0) p.image = true := by
    dsimp -zetaDelta only [p]
    exact wf_imageCells img
  clear_value p img
  have h1 : Within loadProfileParts s s1 := (h.put.step (within_copyUnread _ _ _)).step (within_copyUnread _ _ _)
  clear_value s1
  have h4 : Within loadProfileParts s t := h1.step (within_discardAll _ _)
  clear_value t
  have h5 : Within loadProfileParts s t2 := (h4.put (hprof := fun _ => hp)).step (within_scrubMoved _ _)
  clear_value t2
  exact ((h5.step (within_loadPolicies _)).step (within_placeSpans _)).step (within_lowerClocks _)

theorem within_loadFinished (s : State) (logic : Bool) :
    Within severeParts s (State.loadFinished s logic) := by
  have h : Within severeParts s s := within_refl _
  unfold State.loadFinished
  extract_lets -underBinder -merge _ a1 _ a3
  have h2 : Within severeParts s a1 := h.step (within_memoryTimeouts _)
  clear_value a1
  have h4 : Within severeParts s a3 := h.step (within_memoryTimeouts _)
  clear_value a3
  exact ite_within h.put (ite_within h2.put h4.put)

theorem within_commitWrite (s : State) (v : Word32) :
    Within commitWriteParts s (State.commitWrite s v) := by
  have h : Within commitWriteParts s s := within_refl _
  unfold State.commitWrite
  exact ite_within h (ite_within (((h.put.step (within_loadPolicies _)).step (within_placeSpans _)).step (within_lowerClocks
    _)) h.put)

theorem within_windowWrite (s : State) (off : Nat) (v : Word32) :
    Within windowWriteParts s (State.windowWrite s off v) := by
  unfold State.windowWrite
  split
  · exact within_refl s
  · have hw (l : List (Nat × Byte)) (m : List Host.Cell) (hm : CellsOk (fun _ => 0) m) :
        CellsOk (fun _ => 0) (l.foldl (fun m x => memPut m (off + x.1) x.2 0) m) := by
      induction l generalizing m with
      | nil => exact hm
      | cons x r ih => exact ih _ (cellsOk_memPut (fun _ => 0) m _ _ hm)
    exact (within_refl s).put (hprof := hw _ _)

theorem within_assertReset (s : State) : Within assertResetParts s (State.assertReset s) := by
  refine ⟨⟨rfl, fun i => ⟨⟨?_, rfl, i.mem.2.2⟩, rfl, Nat.zero_le _, rfl, rfl, rfl, rfl, by simp [State.assertReset,
    State.reset],
    rfl, rfl⟩⟩, fun f => by cases f <;> first | exact .inl (by decide) | exact .inr rfl⟩
  have hm := (cellsOk_iff _ _).1 i.mem.1
  exact (cellsOk_iff _ _).2 ⟨hm.1.sublist List.filter_sublist, fun c hc => hm.2 c (List.mem_of_mem_filter hc)⟩

theorem within_coldStart (s : State) (psel : BitVec 2) (deckId : BitVec 3) (fuse : Bool) :
    Within coldStartParts s (State.coldStart s psel deckId fuse) := by
  have h : Within coldStartParts s s := within_refl _
  unfold State.coldStart
  exact h.put

theorem within_released (s : State) (psel : BitVec 2) (deckId : BitVec 3) (fuse : Bool) :
    Within coldStartParts s (State.released s psel deckId fuse) := by
  have h : Within coldStartParts s s := within_refl _
  unfold State.released
  exact h.put.step (within_coldStart _ _ _ _)

theorem within_readyBelow (s : State) (step : Nat) :
    Within readyBelowParts s (State.readyBelow s step) := by
  have h : Within readyBelowParts s s := within_refl _
  unfold State.readyBelow
  exact h.put

theorem within_stopStartup (s : State) (step : Nat) (sticky : Bool) :
    Within severeParts s (State.stopStartup s step sticky) := by
  have h : Within severeParts s s := within_refl _
  unfold State.stopStartup
  extract_lets -underBinder -merge a1 a3
  have h2 : Within severeParts s a1 := h.step (within_cause _ _ _)
  clear_value a1
  have h4 : Within severeParts s a3 := ite_within (h2.step (within_countEvent _ _ _ _)) h2
  clear_value a3
  exact h4.put

theorem within_selfTestIncident (s : State) (u : Nat) (part : Nat) (lvl : Nat) :
    Within causeParts s (State.selfTestIncident s u part lvl) := by
  have h : Within causeParts s s := within_refl _
  unfold State.selfTestIncident
  exact ite_within h ((h.step (within_openIncident _ _ _)).step (within_tryClose _ _))

theorem within_retestSpan (s : State) (n : Nat) (o : SelfTest) :
    Within causeParts s (State.retestSpan s n o) := by
  have h : Within causeParts s s := within_refl _
  unfold State.retestSpan
  extract_lets -underBinder -merge _ _ _ _ _ _ _ a1
  have h2 : Within causeParts s a1 := h.step (within_modSpan _ _ _)
  clear_value a1
  exact foldl_within (fun t3 _ h4 => h4.step (within_selfTestIncident _ _ _ _)) h2

theorem within_retestLanes (s : State) (o : SelfTest) :
    Within retestLanesParts s (State.retestLanes s o) := by
  have h : Within retestLanesParts s s := within_refl _
  unfold State.retestLanes
  extract_lets -underBinder -merge _ a1
  have h2 : Within retestLanesParts s a1 := foldl_within (fun t3 _ h4 => h4.step (within_selfTestIncident _ _ _ _)) h
  clear_value a1
  exact h2.put

theorem within_retestAll (s : State) (o : SelfTest) :
    Within retestLanesParts s (State.retestAll s o) := by
  have h : Within retestLanesParts s s := within_refl _
  unfold State.retestAll
  exact (foldl_within (fun t1 _ h2 => h2.step (within_retestSpan _ _ _)) h).step (within_retestLanes _ _)

theorem within_runSelfTest (s : State) (o : SelfTest) :
    Within severeParts s (State.runSelfTest s o) := by
  have h : Within severeParts s s := within_refl _
  unfold State.runSelfTest
  extract_lets -underBinder -merge a1 _ _ _ _ a3
  have h2 : Within severeParts s a1 := ((foldl_within (fun t5 _ h6 => h6.step (within_zeroSpan _ _)) h).step
    (within_retestAll _ _)).step (within_readyBelow _ _)
  clear_value a1
  have h4 : Within severeParts s a3 := h2.put (hunits := by simp)
  clear_value a3
  exact ite_within (h4.step (within_stopStartup _ _ _)) h4

end Sys2Proof.Laws
end

