-- ==== Sys2Proof/Laws/Within/Resets.lean ====
section
/-! SUPPORT. What the operations of Machine/Resets.lean (reset levels) stay within. -/

namespace Sys2Proof.Laws

-- One theorem at a time: many at once, in one text, hold more threads than the memory limit allows.
set_option Elab.async false

open Sys2Proof Sys2Proof.Machine

theorem within_endAdmin (s : State) (uid : Nat) (code : Nat) (detail : Nat) (count : Nat) (aux : Nat) :
    Within modJobParts s (State.endAdmin s uid code detail count aux) := by
  have h : Within modJobParts s s := within_refl _
  unfold State.endAdmin
  exact h.step (within_modJob _ _ _)

theorem within_endWaiters (s : State) (l : Level) :
    Within endWaitersParts s (State.endWaiters s l) := by
  have h : Within endWaitersParts s s := within_refl _
  unfold State.endWaiters
  extract_lets -underBinder -merge _ _ a1
  have h2 : Within endWaitersParts s a1 := foldl_within (fun t3 _ h4 => ite_within (h4.step (within_endAdmin _ _ _ _ _ _))
    (h4.step (within_endAdmin _ _ _ _ _ _))) h
  clear_value a1
  exact h2.put (hparts := by simp)

theorem within_finishLevel (s : State) (l : Level) :
    Within finishLevelParts s (State.finishLevel s l) := by
  have h : Within finishLevelParts s s := within_refl _
  unfold State.finishLevel
  extract_lets -underBinder -merge a1 a3 a5 a7
  have h2 : Within finishLevelParts s a1 := h.put
  clear_value a1
  have h4 : Within finishLevelParts s a3 := h2.step (within_levelEnd _ _)
  clear_value a3
  have h6 : Within finishLevelParts s a5 := by
    unfold a5
    split
    · exact ite_within h4 (h4.step (within_levelEnd _ _))
    · exact h4
  clear_value a5
  have h8 : Within finishLevelParts s a7 := ite_within h6 (h6.step (within_endWaiters _ _))
  clear_value a7
  exact (h8.step (within_finishUnits _ _)).step (within_settleFences _)

theorem within_escalate (s : State) (l : Level) :
    Within escalateParts s (State.escalate s l) := by
  have h : Within escalateParts s s := within_refl _
  unfold State.escalate
  extract_lets -underBinder -merge a1
  have h2 : Within escalateParts s a1 := h.put
  clear_value a1
  refine foldl_within (fun t3 _ h4 => ?_) h2
  beta_reduce
  extract_lets -underBinder -merge _ a5 _ a7 a9
  have h6 : Within escalateParts s a5.1 := h4.step (within_startLevel _ _ _ _)
  have h8 : Within escalateParts s a7 := h6
  clear_value a7
  have h10 : Within escalateParts s a9 := h8.put
  clear_value a9
  exact h10.step (within_escalateUnits _ _ _)

theorem within_internalFault (s : State) (u : Nat) (src : Nat) (c : FaultCtx) :
    Within endRawParts s (State.internalFault s u src c) := by
  have h : Within endRawParts s s := within_refl _
  unfold State.internalFault
  refine ite_within ?_ h
  split
  · split
    · exact ite_within ((h.step (within_noteEarly _ _ _)).step (within_settleEarly _ _)) (ite_within (h.step (within_endJob
        _ _ _ _ _)) h)
    · exact h
  · exact h

theorem within_zeroBank (s : State) (n : Nat) (b : Bank) :
    Within dropUnretainedParts s (State.zeroBank s n b) := by
  have h : Within dropUnretainedParts s s := within_refl _
  unfold State.zeroBank
  split
  · exact h.step (within_clearSpan _ _ _ _)
  · exact h.step (within_clearSpan _ _ _ _)
  · extract_lets -underBinder -merge
    exact h.put
  · extract_lets -underBinder -merge
    exact h.put

theorem within_mismatch (s : State) :
    Within readyBelowParts s (State.mismatch s) := by
  have h : Within readyBelowParts s s := within_refl _
  unfold State.mismatch
  exact h.put

theorem within_forgetQueue (s : State) (q : QId) :
    Within forgetQueueParts s (State.forgetQueue s q) := by
  have h : Within forgetQueueParts s s := within_refl _
  unfold State.forgetQueue
  extract_lets -underBinder -merge _ a1
  have h2 : Within forgetQueueParts s a1 := foldl_within (fun t3 _ h4 => foldl_within (fun t5 _ h6 => h6.step
    (within_settleRun _ _)) (((h4.step (within_drainReads _ _ _)).step (within_dropJob _ _)).step (within_settleErase _ _)))
    h
  clear_value a1
  exact h2.step (within_modQueue _ _ _)

theorem within_loseContexts (s : State) (qs : List QId) (source : Nat) :
    Within loseContextsParts s (State.loseContexts s qs source) := by
  have h : Within loseContextsParts s s := within_refl _
  unfold State.loseContexts
  extract_lets -underBinder -merge a1
  have h2 : Within loseContextsParts s a1 := (foldl_within (fun t3 _ h4 => h4.step (within_forgetQueue _ _)) h).step
    (within_cause _ _ _)
  clear_value a1
  exact h2.step (within_startLevel _ _ _ _)

theorem within_statusClear (s : State) (u : Nat) (v : Word32) :
    Within modUnitParts s (State.statusClear s u v) := by
  have h : Within modUnitParts s s := within_refl _
  unfold State.statusClear
  exact h.step (within_modUnit _ _ _)

theorem within_severeClear (s : State) (u : Nat) (v : Word32) :
    Within modUnitParts s (State.severeClear s u v) := by
  have h : Within modUnitParts s s := within_refl _
  unfold State.severeClear
  exact h.step (within_modUnit _ _ _)

theorem within_policyWrite (s : State) (u : Nat) (v : Word32) :
    Within modUnitParts s (State.policyWrite s u v) := by
  have h : Within modUnitParts s s := within_refl _
  unfold State.policyWrite
  exact ite_within (h.step (within_modUnit _ _ _)) h

theorem within_injectWrite (s : State) (u : Nat) (v : Word32) :
    Within modUnitParts s (State.injectWrite s u v) := by
  have h : Within modUnitParts s s := within_refl _
  unfold State.injectWrite
  split
  · exact h.step (within_modUnit _ _ _)
  · exact h

theorem within_faultEvent (s : State) (u : Nat) (src : Nat) (c : FaultCtx) :
    Within faultEventParts s (State.faultEvent s u src c) := by
  have h : Within faultEventParts s s := within_refl _
  unfold State.faultEvent
  extract_lets -underBinder -merge a1 a3 a5
  have h2 : Within faultEventParts s a1 := ite_within (h.step (within_mismatch _)) h
  clear_value a1
  have h4 : Within faultEventParts s a3 := by
    unfold a3
    split
    · exact ite_within (h2.step (within_zeroBank _ _ _)) h2
    · exact h2
  clear_value a3
  have h6 : Within faultEventParts s a5 := (h4.step (within_countEvent _ _ _ _)).step (within_internalFault _ _ _ _)
  clear_value a5
  refine ite_within ?_ h
  split
  · exact ite_within (h6.step (within_loseContexts _ _ _)) h6
  · exact h6

theorem within_hwEvent (s : State) (e : Option HwEvent) :
    Within faultEventParts s (State.hwEvent s e) := by
  have h : Within faultEventParts s s := within_refl _
  unfold State.hwEvent
  refine ite_within h ?_
  split
  · exact h
  · exact h.step (within_faultEvent _ _ _ _)
  · exact ite_within (h.step (within_wakeBit _ _)) h
  · extract_lets -underBinder -merge
    exact h.put

end Sys2Proof.Laws
end

