-- ==== Sys2Proof/Laws/Within/Keys.lean ====
section
/-! SUPPORT. What the operations of Machine/Keys.lean (keys and the test access port) stay within. -/

namespace Sys2Proof.Laws

-- One theorem at a time: many at once, in one text, hold more threads than the memory limit allows.
set_option Elab.async false

open Sys2Proof Sys2Proof.Machine

theorem within_putKey (s : State) (slot : Nat) (k : Option Key) :
    Within putKeyParts s (State.putKey s slot k) := by
  have h : Within putKeyParts s s := within_refl _
  unfold State.putKey
  exact h.put

theorem within_loadKey (s : State) (slot : Nat) (check : Word32) (key : List Byte) (gcm : Bool) :
    Within settleEraseParts s (State.loadKey s slot check key gcm) := by
  have h : Within settleEraseParts s s := within_refl _
  unfold State.loadKey
  extract_lets -underBinder -merge _ a1
  have h2 : Within settleEraseParts s a1 := ite_within (h.step (within_putKey _ _ _)) h
  clear_value a1
  exact ite_within h (h2.step (within_emit _ _))

theorem within_eraseKey (s : State) (op : BitVec 8) (slot : Nat) :
    Within settleEraseParts s (State.eraseKey s op slot) := by
  have h : Within settleEraseParts s s := within_refl _
  unfold State.eraseKey
  extract_lets -underBinder -merge _ _ a1
  have h2 : Within settleEraseParts s a1 := h.step (within_putKey _ _ _)
  clear_value a1
  exact ite_within h (ite_within (h.step (within_emit _ _)) (ite_within (h.step (within_emit _ _)) (ite_within h2.put
    (h2.step (within_emit _ _)))))

theorem within_setIr (s : State) (code : BitVec 8) :
    Within setIrParts s (State.setIr s code) := by
  have h : Within setIrParts s s := within_refl _
  unfold State.setIr
  exact h.put

theorem within_bypass (s : State) (code : BitVec 8) :
    Within bypassParts s (State.bypass s code) := by
  have h : Within bypassParts s s := within_refl _
  unfold State.bypass
  exact (h.step (within_setIr _ _)).step (within_emit _ _)

theorem within_retestSpares (s : State) (o : SelfTest) :
    Within retestLanesParts s (State.retestSpares s o) := by
  have h : Within retestLanesParts s s := within_refl _
  unfold State.retestSpares
  extract_lets -underBinder -merge _ a1
  have h2 : Within retestLanesParts s a1 := foldl_within (fun t3 _ h4 => ite_within (h4.step (within_retestSpan _ _ _))
    (h4.step (within_modSpan _ _ _))) h
  clear_value a1
  exact h2.put

end Sys2Proof.Laws
end

