-- ==== Sys2Proof/Laws/Within/Admin.lean ====
section
/-! SUPPORT. What the operations of Machine/Admin.lean (administrative commands) stay within. -/

namespace Sys2Proof.Laws

-- One theorem at a time: many at once, in one text, hold more threads than the memory limit allows.
set_option Elab.async false

open Sys2Proof Sys2Proof.Machine

theorem within_runAdmin {l : List Field} (s : State) (aq op : Nat) (qs : State.CmdQueues) (sc : State.CmdScope)
    (fs : List State.FieldSpec) (limits : State → Nat → List Byte → List (Bool × Nat)) (act : State → Job → Nat → State)
    (detail : Nat → Nat) (hf : ∀ t j p, Within l t (act t j p)) (hl : (runAdminParts.all fun f => l.contains f) = true := by
      decide) :
    Within l s (State.runAdmin s aq op qs sc fs limits act detail) := by
  have h : Within runAdminParts s s := within_refl _
  unfold State.runAdmin
  split
  · exact h.mono hl
  · extract_lets _ _ _ s0 s1
    have h0 : Within runAdminParts s s0 := h.put
    clear_value s0
    have h1 : Within runAdminParts s s1 := h0.step (within_modQueue _ _ _)
    clear_value s1
    split
    · exact h.mono hl
    · split
      · exact (h1.step (within_endAdmin _ _ _ _ _ _)).mono hl
      · split
        · exact (h1.step (within_endAdmin _ _ _ _ _ _)).mono hl
        · split
          · exact (h1.step (within_endAdmin _ _ _ _ _ _)).mono hl
          · split
            · exact (h1.step (within_endAdmin _ _ _ _ _ _)).mono hl
            · exact (h1.mono hl).step (hf _ _ _) (by simp)

theorem within_waitAdmin (s : State) (uid : Nat) (w : Wait) (count : Nat) (aux : Nat) :
    Within modJobParts s (State.waitAdmin s uid w count aux) := by
  have h : Within modJobParts s s := within_refl _
  unfold State.waitAdmin
  exact h.step (within_modJob _ _ _)

theorem within_retryAdmin (s : State) (j : Job) :
    Within modQueueParts s (State.retryAdmin s j) := by
  have h : Within modQueueParts s s := within_refl _
  unfold State.retryAdmin
  exact h.step (within_modQueue _ _ _)

theorem within_createQueue_ (s : State) (x : Queue) :
    Within flushDueParts s (State.createQueue_ s x) := by
  have h : Within flushDueParts s s := within_refl _
  unfold State.createQueue_
  exact (h.step (within_putQueue _ _)).step (within_writeStatus _ _)

theorem within_actCreateQueue (s : State) (j : Job) (p : Nat) :
    Within flushDueParts s (State.actCreateQueue s j p) := by
  have h : Within flushDueParts s s := within_refl _
  unfold State.actCreateQueue
  extract_lets -underBinder -merge
  split
  · exact h.step (within_endAdmin _ _ _ _ _ _)
  · exact ite_within (h.step (within_endAdmin _ _ _ _ _ _)) ((h.step (within_createQueue_ _ _)).step (within_endAdmin _ _ _
      _ _ _))

theorem within_actDestroyQueue (s : State) (j : Job) (_p : Nat) :
    Within flushDueParts s (State.actDestroyQueue s j _p) := by
  have h : Within flushDueParts s s := within_refl _
  unfold State.actDestroyQueue
  extract_lets -underBinder -merge
  split
  · exact ite_within ((h.step (within_setQState _ _ _)).step (within_endAdmin _ _ _ _ _ _)) (h.step (within_endAdmin _ _ _ _
      _ _))
  · exact h

theorem within_actCancelQueue (s : State) (j : Job) (_p : Nat) :
    Within endQueueParts s (State.actCancelQueue s j _p) := by
  have h : Within endQueueParts s s := within_refl _
  unfold State.actCancelQueue
  extract_lets -underBinder -merge _ _ _ a1 a3
  have h2 : Within endQueueParts s a1 := ite_within (h.step (within_modQueue _ _ _)) h
  clear_value a1
  have h4 : Within endQueueParts s a3 := h2.step (within_endQueue _ _ _ _)
  clear_value a3
  exact (ite_within (h4.step (within_modQueue _ _ _)) h4).step (within_waitAdmin _ _ _ _ _)

theorem within_resumeQ (s : State) (q : QId) :
    Within flushDueParts s (State.resumeQ s q) := by
  have h : Within flushDueParts s s := within_refl _
  unfold State.resumeQ
  extract_lets -underBinder -merge _ a1
  have h2 : Within flushDueParts s a1 := h.put
  clear_value a1
  exact h2.step (within_setQState _ _ _)

theorem within_actResumeQueue (s : State) (j : Job) (_p : Nat) :
    Within flushDueParts s (State.actResumeQueue s j _p) := by
  have h : Within flushDueParts s s := within_refl _
  unfold State.actResumeQueue
  exact (h.step (within_resumeQ _ _)).step (within_endAdmin _ _ _ _ _ _)

theorem within_actResetQueue (s : State) (j : Job) (_p : Nat) :
    Within startLevelParts s (State.actResetQueue s j _p) := by
  have h : Within startLevelParts s s := within_refl _
  unfold State.actResetQueue
  extract_lets -underBinder -merge a1
  have h2 : Within startLevelParts s a1.1 := h.step (within_startLevel _ _ _ _)
  exact h2.step (within_waitAdmin _ _ _ _ _)

theorem within_actSetShaper (s : State) (j : Job) (_p : Nat) :
    Within actSetShaperParts s (State.actSetShaper s j _p) := by
  have h : Within actSetShaperParts s s := within_refl _
  unfold State.actSetShaper
  exact (h.step (within_modQueue _ _ _)).step (within_endAdmin _ _ _ _ _ _)

theorem within_actCreateRegion (s : State) (j : Job) (p : Nat) :
    Within endWaitersParts s (State.actCreateRegion s j p) := by
  have h : Within endWaitersParts s s := within_refl _
  unfold State.actCreateRegion
  exact ite_within (h.step (within_endAdmin _ _ _ _ _ _)) ((h.step (within_modPart _ _ _)).step (within_endAdmin _ _ _ _ _ _))

theorem within_actDestroyRegion (s : State) (j : Job) (p : Nat) :
    Within endWaitersParts s (State.actDestroyRegion s j p) := by
  have h : Within endWaitersParts s s := within_refl _
  unfold State.actDestroyRegion
  extract_lets -underBinder -merge a1
  have h2 : Within endWaitersParts s a1 := h.step (within_modPart _ _ _)
  clear_value a1
  exact ite_within (h.step (within_endAdmin _ _ _ _ _ _)) (h2.step (within_waitAdmin _ _ _ _ _))

theorem within_actOpenWindow (s : State) (j : Job) (p : Nat) :
    Within actOpenWindowParts s (State.actOpenWindow s j p) := by
  have h : Within actOpenWindowParts s s := within_refl _
  unfold State.actOpenWindow
  exact ite_within (h.step (within_endAdmin _ _ _ _ _ _)) (((h.step (within_modPart _ _ _)).step (within_voteCommitted _ _
    _)).step (within_endAdmin _ _ _ _ _ _))

theorem within_actCloseWindow (s : State) (j : Job) (p : Nat) :
    Within actCloseWindowParts s (State.actCloseWindow s j p) := by
  have h : Within actCloseWindowParts s s := within_refl _
  unfold State.actCloseWindow
  extract_lets -underBinder -merge _ _ _ _ a1
  have h2 : Within actCloseWindowParts s a1 := h.step (within_modPart _ _ _)
  clear_value a1
  exact ite_within (h.step (within_endAdmin _ _ _ _ _ _)) ((h2.step (within_emit _ _)).step (within_waitAdmin _ _ _ _ _))

theorem within_actCreateGroup (s : State) (j : Job) (p : Nat) :
    Within actCreateGroupParts s (State.actCreateGroup s j p) := by
  have h : Within actCreateGroupParts s s := within_refl _
  unfold State.actCreateGroup
  extract_lets -underBinder -merge
  split
  · exact h.step (within_endAdmin _ _ _ _ _ _)
  · split
    · exact (h.step (within_askRange _ _ _ _ _ _ _)).step (within_retryAdmin _ _)
    · extract_lets -underBinder -merge
      refine ite_within (h.step (within_endAdmin _ _ _ _ _ _)) ?_
      split
      · exact h.step (within_endAdmin _ _ _ _ _ _)
      · extract_lets -underBinder -merge
        refine ite_within (h.step (within_endAdmin _ _ _ _ _ _)) ?_
        split
        · exact h.step (within_endAdmin _ _ _ _ _ _)
        · exact ite_within (h.step (within_endAdmin _ _ _ _ _ _)) (ite_within (h.step (within_endAdmin _ _ _ _ _ _))
            ((h.step (within_modPart _ _ _)).step (within_endAdmin _ _ _ _ _ _)))

theorem within_actDestroyGroup (s : State) (j : Job) (p : Nat) :
    Within endWaitersParts s (State.actDestroyGroup s j p) := by
  have h : Within endWaitersParts s s := within_refl _
  unfold State.actDestroyGroup
  exact ite_within (h.step (within_endAdmin _ _ _ _ _ _)) ((h.step (within_modPart _ _ _)).step (within_endAdmin _ _ _ _ _ _))

theorem within_actBindKey (s : State) (j : Job) (_p : Nat) :
    Within actBindKeyParts s (State.actBindKey s j _p) := by
  have h : Within actBindKeyParts s s := within_refl _
  unfold State.actBindKey
  extract_lets -underBinder -merge
  split
  · exact h.step (within_endAdmin _ _ _ _ _ _)
  · exact ite_within (h.step (within_endAdmin _ _ _ _ _ _)) ((h.step (within_putKey _ _ _)).step (within_endAdmin _ _ _ _ _ _))

theorem within_actUnbindKey (s : State) (j : Job) (_p : Nat) :
    Within actBindKeyParts s (State.actUnbindKey s j _p) := by
  have h : Within actBindKeyParts s s := within_refl _
  unfold State.actUnbindKey
  extract_lets -underBinder -merge
  split
  · exact h.step (within_endAdmin _ _ _ _ _ _)
  · exact ite_within (h.step (within_endAdmin _ _ _ _ _ _)) ((h.step (within_putKey _ _ _)).step (within_waitAdmin _ _ _ _ _))

theorem within_actClaim (s : State) (j : Job) (p : Nat) :
    Within actBindKeyParts s (State.actClaim s j p) := by
  have h : Within actBindKeyParts s s := within_refl _
  unfold State.actClaim
  exact ite_within (h.step (within_endAdmin _ _ _ _ _ _)) (h.put.step (within_endAdmin _ _ _ _ _ _))

theorem within_actRelease (s : State) (j : Job) (p : Nat) :
    Within actReleaseParts s (State.actRelease s j p) := by
  have h : Within actReleaseParts s s := within_refl _
  unfold State.actRelease
  extract_lets -underBinder -merge _ _ _ _ a1
  have h2 : Within actReleaseParts s a1 := h.put
  clear_value a1
  exact ite_within (h.step (within_endAdmin _ _ _ _ _ _)) (ite_within (h.step (within_endAdmin _ _ _ _ _ _)) ((foldl_within
    (fun t3 _ h4 => h4.step (within_clearSpan _ _ _ _)) h2).step (within_endAdmin _ _ _ _ _ _)))

theorem within_actSetupChannel (s : State) (j : Job) (p : Nat) :
    Within actSetupChannelParts s (State.actSetupChannel s j p) := by
  have h : Within actSetupChannelParts s s := within_refl _
  unfold State.actSetupChannel
  extract_lets -underBinder -merge
  split
  · exact h.step (within_endAdmin _ _ _ _ _ _)
  · refine ite_within (h.step (within_endAdmin _ _ _ _ _ _)) ?_
    refine ite_within (h.step (within_endAdmin _ _ _ _ _ _)) ?_
    refine ite_within (h.step (within_endAdmin _ _ _ _ _ _)) ?_
    split
    · exact h.step (within_endAdmin _ _ _ _ _ _)
    · exact ite_within (h.step (within_endAdmin _ _ _ _ _ _)) ((h.step (within_modChan _ _ _)).step (within_endAdmin _ _ _ _
        _ _))

theorem within_chanCheck {l : List Field} (s : State) (j : Job) (p : Nat) (rows : List ChState) (f : State → Nat → State)
    (hf : ∀ t c, Within l t (f t c)) (hl : (modJobParts.all fun f => l.contains f) = true := by decide) :
    Within l s (State.chanCheck s j p rows f) := by
  have h : Within l s s := within_refl _
  unfold State.chanCheck
  extract_lets
  split
  · exact h.step (within_endAdmin _ _ _ _ _ _) hl
  · split
    · exact h.step (within_endAdmin _ _ _ _ _ _) hl
    · exact hf _ _

theorem within_actArm (s : State) (j : Job) (p : Nat) :
    Within actArmParts s (State.actArm s j p) := by
  have h : Within actArmParts s s := within_refl _
  unfold State.actArm
  exact h.step (within_chanCheck (l := actArmParts) _ _ _ _ _ (fun t1 _ => (((within_refl t1).step (within_modChan _ _
    _)).step (within_voteCommitted _ _ _)).step (within_endAdmin _ _ _ _ _ _)))

theorem within_actDisarm (s : State) (j : Job) (p : Nat) :
    Within actSetupChannelParts s (State.actDisarm s j p) := by
  have h : Within actSetupChannelParts s s := within_refl _
  unfold State.actDisarm
  exact h.step (within_chanCheck (l := actSetupChannelParts) _ _ _ _ _ (fun t1 _ => ite_within (((within_refl t1).step
    (within_modChan _ _ _)).step (within_waitAdmin _ _ _ _ _)) (((within_refl t1).step (within_dropChannel _ _ _)).step
    (within_endAdmin _ _ _ _ _ _))))

theorem within_actReleaseChannel (s : State) (j : Job) (p : Nat) :
    Within actSetupChannelParts s (State.actReleaseChannel s j p) := by
  have h : Within actSetupChannelParts s s := within_refl _
  unfold State.actReleaseChannel
  exact h.step (within_chanCheck (l := actSetupChannelParts) _ _ _ _ _ (fun t1 _ => ((within_refl t1).step
    (within_dropChannel _ _ _)).step (within_endAdmin _ _ _ _ _ _)))

theorem within_actRearm (s : State) (j : Job) (_p : Nat) :
    Within actRearmParts s (State.actRearm s j _p) := by
  have h : Within actRearmParts s s := within_refl _
  unfold State.actRearm
  extract_lets -underBinder -merge _ a1
  have h2 : Within actRearmParts s a1 := h.step (within_modPacer _ _ _)
  clear_value a1
  exact (foldl_within (fun t3 _ h4 => ite_within (h4.step (within_modChan _ _ _)) h4) h2).step (within_endAdmin _ _ _ _ _ _)

theorem within_actVote (s : State) (j : Job) (p : Nat) :
    Within actOpenWindowParts s (State.actVote s j p) := by
  have h : Within actOpenWindowParts s s := within_refl _
  unfold State.actVote
  extract_lets -underBinder -merge _ _ _ _ a1 a3
  have h2 : Within actOpenWindowParts s a1 := h.step (within_modPart _ _ _)
  clear_value a1
  have h4 : Within actOpenWindowParts s a3 := h2.step (within_modPart _ _ _)
  clear_value a3
  exact ite_within ((foldl_within (fun t5 _ h6 => h6.step (within_settleRun _ _)) h2).step (within_endAdmin _ _ _ _ _ _))
    (((foldl_within (fun t7 _ h8 => h8.step (within_settleRun _ _)) h4).step (within_voteCommitted _ _ _)).step
    (within_waitAdmin _ _ _ _ _))

theorem within_actReadHealth (s : State) (j : Job) (_p : Nat) :
    Within flushDueParts s (State.actReadHealth s j _p) := by
  have h : Within flushDueParts s s := within_refl _
  unfold State.actReadHealth
  extract_lets -underBinder -merge
  split
  · exact h.step (within_endAdmin _ _ _ _ _ _)
  · split
    · exact (h.step (within_askRange _ _ _ _ _ _ _)).step (within_retryAdmin _ _)
    · exact ((h.step (within_issue _ _ _ _ _ _ _ _)).step (within_useFree _)).step (within_waitAdmin _ _ _ _ _)

theorem within_cmdIncident (s : State) (u : Nat) (lvl : Nat) (part : Nat) :
    Within causeParts s (State.cmdIncident s u lvl part) := by
  have h : Within causeParts s s := within_refl _
  unfold State.cmdIncident
  exact h.step (within_cause _ _ _)

theorem within_fenceDone (s : State) (j : Job) (n : Nat) (ks : List (Nat × Nat)) :
    Within fenceDoneParts s (State.fenceDone s j n ks) := by
  have h : Within fenceDoneParts s s := within_refl _
  unfold State.fenceDone
  exact (h.step (within_modIncident _ _ _)).step (within_waitAdmin _ _ _ _ _)

theorem within_actFenceOn (s : State) (j : Job) (n : Nat) (c : Nat) :
    Within actFenceOnParts s (State.actFenceOn s j n c) := by
  have h : Within actFenceOnParts s s := within_refl _
  unfold State.actFenceOn
  extract_lets -underBinder -merge a1 _ a3
  have h2 : Within actFenceOnParts s a1.1 := (h.step (within_cmdIncident _ _ _ _)).step (within_fenceSpan _ _ _)
  have h4 : Within actFenceOnParts s a3.1 := (h.step (within_cmdIncident _ _ _ _)).step (within_fenceCore _ _ _ _)
  exact ite_within (ite_within ((ite_within (h.step (within_modSpan _ _ _)) h).step (within_endAdmin _ _ _ _ _ _))
    (ite_within (h.step (within_endAdmin _ _ _ _ _ _)) (h2.step (within_fenceDone _ _ _ _)))) (ite_within (h.step
    (within_endAdmin _ _ _ _ _ _)) (ite_within (h.step (within_endAdmin _ _ _ _ _ _)) (h4.step (within_fenceDone _ _ _ _))))

theorem within_joinSpan (s : State) (j : Job) (n : Nat) :
    Within joinSpanParts s (State.joinSpan s j n) := by
  have h : Within joinSpanParts s s := within_refl _
  unfold State.joinSpan
  extract_lets -underBinder -merge a1
  have h2 : Within joinSpanParts s a1 := (h.step (within_modSpan _ _ _)).step (within_raiseSpan _ _)
  clear_value a1
  exact ite_within (h2.step (within_endAdmin _ _ _ _ _ _)) (h2.step (within_waitAdmin _ _ _ _ _))

theorem within_actUnfence (s : State) (j : Job) (n : Nat) (c : Nat) :
    Within joinSpanParts s (State.actUnfence s j n c) := by
  have h : Within joinSpanParts s s := within_refl _
  unfold State.actUnfence
  refine ite_within ?_ ?_
  · split
    · exact h.step (within_endAdmin _ _ _ _ _ _)
    · exact h.step (within_endAdmin _ _ _ _ _ _)
    · exact h.step (within_joinSpan _ _ _)
  · split
    · exact h.step (within_endAdmin _ _ _ _ _ _)
    · extract_lets -underBinder -merge _ a1
      have h2 : Within joinSpanParts s a1 := h.step (within_modSpan _ _ _)
      clear_value a1
      exact ite_within (h2.step (within_joinSpan _ _ _)) (h2.step (within_endAdmin _ _ _ _ _ _))
    · exact h.step (within_endAdmin _ _ _ _ _ _)

theorem within_actFence (s : State) (j : Job) (_p : Nat) :
    Within actFenceOnParts s (State.actFence s j _p) := by
  have h : Within actFenceOnParts s s := within_refl _
  unfold State.actFence
  exact ite_within (h.step (within_actFenceOn _ _ _ _)) (h.step (within_actUnfence _ _ _ _))

theorem within_actSwap (s : State) (j : Job) (_p : Nat) :
    Within actSwapParts s (State.actSwap s j _p) := by
  have h : Within actSwapParts s s := within_refl _
  unfold State.actSwap
  exact ite_within (h.step (within_endAdmin _ _ _ _ _ _)) (ite_within (ite_within (h.step (within_retryAdmin _ _)) ((h.step
    (within_beginSwap _ _ _ _)).step (within_waitAdmin _ _ _ _ _))) ((h.step (within_beginSwap _ _ _ _)).step
    (within_endAdmin _ _ _ _ _ _)))

theorem within_actReset (s : State) (j : Job) (p : Nat) :
    Within escalateParts s (State.actReset s j p) := by
  have h : Within escalateParts s s := within_refl _
  unfold State.actReset
  extract_lets -underBinder -merge _ _ a1
  have h2 : Within escalateParts s a1.1 := by
    unfold a1
    split
    · exact ((h.step (within_cmdIncident _ _ _ _)).step (within_waitAdmin _ _ _ _ _)).step (within_startLevel _ _ _ _)
    · exact ((h.step (within_cmdIncident _ _ _ _)).step (within_waitAdmin _ _ _ _ _)).step (within_startLevel _ _ _ _)
    · exact ((h.step (within_cmdIncident _ _ _ _)).step (within_waitAdmin _ _ _ _ _)).step (within_startLevel _ _ _ _)
  exact h2.step (within_modJob _ _ _)

theorem within_scrubPart (s : State) (p : Nat) (carveout : Bool) :
    Within scrubPartParts s (State.scrubPart s p carveout).1 := by
  have h : Within scrubPartParts s s := within_refl _
  unfold State.scrubPart
  extract_lets -underBinder -merge _ _ _ a1 a3 a5
  have h2 : Within scrubPartParts s a1 := h.put
  clear_value a1
  have h4 : Within scrubPartParts s a3 := h2.step (within_modPart _ _ _)
  clear_value a3
  have h6 : Within scrubPartParts s a5 := foldl_within (fun t7 _ h8 => h8.step (within_zeroSpan _ _)) h4
  clear_value a5
  exact h6.step (within_addRequests _ _)

theorem within_actScrub (s : State) (j : Job) (p : Nat) :
    Within scrubPartParts s (State.actScrub s j p) := by
  have h : Within scrubPartParts s s := within_refl _
  unfold State.actScrub
  extract_lets -underBinder -merge _ a1
  have h2 : Within scrubPartParts s a1.1 := h.step (within_scrubPart _ _ _)
  exact ite_within (h.step (within_endAdmin _ _ _ _ _ _)) ((h2.step (within_modPart _ _ _)).step (within_waitAdmin _ _ _ _ _))

theorem within_actSwitch (s : State) (j : Job) (_p : Nat) :
    Within actSwitchParts s (State.actSwitch s j _p) := by
  have h : Within actSwitchParts s s := within_refl _
  unfold State.actSwitch
  extract_lets -underBinder -merge _ a1 a3
  have h2 : Within actSwitchParts s a1 := foldl_within (fun t5 _ h6 => ite_within (h6.step (within_scrubPart _ _ _)) h6) h
  clear_value a1
  have h4 : Within actSwitchParts s a3 := h2.step (within_destroyQueues _ _)
  clear_value a3
  exact ite_within (h.step (within_endAdmin _ _ _ _ _ _)) (h4.put.step (within_waitAdmin _ _ _ _ _))

theorem within_completeAdmin (s : State) (aq : Nat) :
    Within endWaitersParts s (State.completeAdmin s aq) := by
  have h : Within endWaitersParts s s := within_refl _
  unfold State.completeAdmin
  split
  · exact h
  · exact ite_within h ((h.step (within_adminEffect _ _)).step (within_endAdmin _ _ _ _ _ _))

end Sys2Proof.Laws
end

