-- ==== Sys2Proof/Laws/Within/Channels.lean ====
section
/-! SUPPORT. What the operations of Machine/Channels.lean (paced channels) stay within. -/

namespace Sys2Proof.Laws

-- One theorem at a time: many at once, in one text, hold more threads than the memory limit allows.
set_option Elab.async false

open Sys2Proof Sys2Proof.Machine

theorem within_producerWrite (s : State) (ch : Nat) (v : Word32) :
    Within severeParts s (State.producerWrite s ch v) := by
  have h : Within severeParts s s := within_refl _
  unfold State.producerWrite
  exact ite_within (h.step (within_modChan _ _ _)) ((h.step (within_modChan _ _ _)).step (within_countEvent _ _ _ _))

theorem within_flushWrite (s : State) (ch : Nat) (v : Word32) :
    Within modChanParts s (State.flushWrite s ch v) := by
  have h : Within modChanParts s s := within_refl _
  unfold State.flushWrite
  exact ite_within (h.step (within_modChan _ _ _)) h

theorem within_startRun (s : State) (p : Nat) :
    Within startRunParts s (State.startRun s p) := by
  have h : Within startRunParts s s := within_refl _
  unfold State.startRun
  refine ite_within h ?_
  split
  · exact h
  · extract_lets -underBinder -merge _ a1
    have h2 : Within startRunParts s a1 := h.step (within_modChan _ _ _)
    clear_value a1
    exact (h2.step (within_modPacer _ _ _)).step (within_raiseSpan _ _)

theorem within_stopPacer (s : State) (p : Nat) (cause : Nat) :
    Within severeParts s (State.stopPacer s p cause) := by
  have h : Within severeParts s s := within_refl _
  unfold State.stopPacer
  extract_lets -underBinder -merge a1
  have h2 : Within severeParts s a1 := (h.step (within_modPacer _ _ _)).step (within_countEvent _ _ _ _)
  clear_value a1
  refine ite_within h ?_
  refine foldl_within (fun t3 _ h4 => ?_) h2
  beta_reduce
  extract_lets -underBinder -merge _ _ _ a5
  have h6 : Within severeParts s a5 := h4.step (within_modChan _ _ _)
  clear_value a5
  exact ite_within (ite_within (h6.step (within_dropChannel _ _ _)) h6) h4

theorem within_drainRecord (s : State) (p : Nat) :
    Within severeParts s (State.drainRecord s p) := by
  have h : Within severeParts s s := within_refl _
  unfold State.drainRecord
  split
  · exact h
  · extract_lets -underBinder -merge
    refine ite_within h ?_
    split
    · exact (h.step (within_countRead _ _ _ _)).step (within_stopPacer _ _ _)
    · split
      · exact h.step (within_askRange _ _ _ _ _ _ _)
      · extract_lets -underBinder -merge
        split
        · exact h.step (within_askRange _ _ _ _ _ _ _)
        · extract_lets -underBinder -merge _ a1 a3
          have h2 : Within severeParts s a1 := h.step (within_issue _ _ _ _ _ _ _ _)
          clear_value a1
          have h4 : Within severeParts s a3 := ite_within (h2.step (within_countEvent _ _ _ _)) h2
          clear_value a3
          exact h4.step (within_modChan _ _ _)

theorem within_endRun (s : State) (p : Nat) :
    Within endRunParts s (State.endRun s p) := by
  have h : Within endRunParts s s := within_refl _
  unfold State.endRun
  split
  · exact h
  · extract_lets -underBinder -merge
    refine ite_within h ?_
    split
    · exact h.step (within_askRange _ _ _ _ _ _ _)
    · exact (h.step (within_issue _ _ _ _ _ _ _ _)).step (within_modChan _ _ _)

theorem within_pulseRun (s : State) (p : Nat) :
    Within pulseRunParts s (State.pulseRun s p) := by
  have h : Within pulseRunParts s s := within_refl _
  unfold State.pulseRun
  split
  · exact h
  · extract_lets -underBinder -merge _ a1
    have h2 : Within pulseRunParts s a1 := (h.step (within_modChan _ _ _)).step (within_emit _ _)
    clear_value a1
    exact ite_within h (ite_within (h2.step (within_dropChannel _ _ _)) h2)

end Sys2Proof.Laws
end

