-- ==== Sys2Proof/Laws/Within/Registers.lean ====
section
/-! SUPPORT. What the operations of Machine/Registers.lean (the register window) stay within. -/

namespace Sys2Proof.Laws

-- One theorem at a time: many at once, in one text, hold more threads than the memory limit allows.
set_option Elab.async false

open Sys2Proof Sys2Proof.Machine

theorem within_aqDone (s : State) (p : Nat) (cmd : Nat) (code : Nat) :
    Within modPartParts s (State.aqDone s p cmd code) := by
  have h : Within modPartParts s s := within_refl _
  unfold State.aqDone
  exact h.step (within_modPart _ _ _)

theorem within_aqCreate (s : State) (p : Nat) :
    Within aqCreateParts s (State.aqCreate s p) := by
  have h : Within aqCreateParts s s := within_refl _
  unfold State.aqCreate
  exact ite_within (h.step (within_aqDone _ _ _ _)) ((h.step (within_createQueue_ _ _)).step (within_aqDone _ _ _ _))

theorem within_aqReset (s : State) (p : Nat) :
    Within startLevelParts s (State.aqReset s p) := by
  have h : Within startLevelParts s s := within_refl _
  unfold State.aqReset
  split
  · exact h.step (within_aqDone _ _ _ _)
  · extract_lets -underBinder -merge a1
    have h2 : Within startLevelParts s a1.1 := h.step (within_startLevel _ _ _ _)
    exact ite_within (h.step (within_aqDone _ _ _ _)) (h2.step (within_modPart _ _ _))

theorem within_aqResume (s : State) (p : Nat) :
    Within aqCreateParts s (State.aqResume s p) := by
  have h : Within aqCreateParts s s := within_refl _
  unfold State.aqResume
  split
  · exact h.step (within_aqDone _ _ _ _)
  · exact ite_within ((h.step (within_setQState _ _ _)).step (within_aqDone _ _ _ _)) (h.step (within_aqDone _ _ _ _))

theorem within_aqDestroy (s : State) (p : Nat) :
    Within aqCreateParts s (State.aqDestroy s p) := by
  have h : Within aqCreateParts s s := within_refl _
  unfold State.aqDestroy
  split
  · exact h.step (within_aqDone _ _ _ _)
  · exact ite_within (h.step (within_aqDone _ _ _ _)) ((h.step (within_setQState _ _ _)).step (within_aqDone _ _ _ _))

theorem within_aqCommand (s : State) (p : Nat) (cmd : Nat) :
    Within startLevelParts s (State.aqCommand s p cmd) := by
  have h : Within startLevelParts s s := within_refl _
  unfold State.aqCommand
  refine ite_within h ?_
  split
  · exact h.step (within_aqCreate _ _)
  · exact h.step (within_aqReset _ _)
  · exact h.step (within_aqResume _ _)
  · exact h.step (within_aqDestroy _ _)
  · exact h

theorem within_setEventSlot (s : State) (p : Nat) (v : Word64) :
    Within modPartParts s (State.setEventSlot s p v) := by
  have h : Within modPartParts s s := within_refl _
  unfold State.setEventSlot
  exact ite_within (h.step (within_modPart _ _ _)) (h.step (within_modPart _ _ _))

theorem within_setEventPd (s : State) (p : Nat) (v : Word32) :
    Within modPartParts s (State.setEventPd s p v) := by
  have h : Within modPartParts s s := within_refl _
  unfold State.setEventPd
  exact ite_within (h.step (within_modPart _ _ _)) (ite_within (h.step (within_modPart _ _ _)) (h.step (within_modPart _ _ _)))

theorem within_setOwnerSlot (s : State) (v : Word64) :
    Within readyBelowParts s (State.setOwnerSlot s v) := by
  have h : Within readyBelowParts s s := within_refl _
  unfold State.setOwnerSlot
  exact ite_within h.put h

theorem within_offRequest (s : State) :
    Within keeperTickParts s (State.offRequest s) := by
  have h : Within keeperTickParts s s := within_refl _
  unfold State.offRequest
  split
  · exact h.step (within_refuseCentral _ _)
  · extract_lets -underBinder -merge
    exact h.put

theorem within_readWord (s : State) (off : Nat) :
    Within readWordParts s (State.readWord s off).1 := by
  have h : Within readWordParts s s := within_refl _
  unfold State.readWord
  extract_lets -underBinder -merge
  split
  · split
    · exact h.put
    · exact h
  · split
    · extract_lets -underBinder -merge
      exact h.put
    · split
      · exact h
      · exact h

theorem within_doRead (s : State) (off : Nat) :
    Within doReadParts s (State.doRead s off) := by
  have h : Within doReadParts s s := within_refl _
  unfold State.doRead
  extract_lets -underBinder -merge a1
  have h2 : Within doReadParts s a1.1 := h.step (within_readWord _ _)
  exact h2.step (within_emit _ _)

theorem within_hostRead (s : State) (off : Nat) :
    Within hostReadParts s (State.hostRead s off) := by
  have h : Within hostReadParts s s := within_refl _
  unfold State.hostRead
  exact ite_within h (ite_within (h.step (within_deferAccess _ _ _)) (h.step (within_doRead _ _)))

theorem within_write64 (s : State) (off : Nat) (v : Word64) :
    Within write64Parts s (State.write64 s off v) := by
  have h : Within write64Parts s s := within_refl _
  unfold State.write64
  extract_lets -underBinder -merge
  refine ite_within (h.step (within_setOwnerSlot _ _)) ?_
  refine ite_within (h.put) ?_
  refine ite_within (h.put) ?_
  refine ite_within (h.step (within_modPart _ _ _)) ?_
  refine ite_within (h.step (within_modPart _ _ _)) ?_
  split
  · exact h.step (within_modPart _ _ _)
  · exact h.step (within_modPart _ _ _)
  · exact h.step (within_setEventSlot _ _ _)
  · exact h

theorem within_writeLower (s : State) (off : Nat) (v : Word32) :
    Within writeLowerParts s (State.writeLower s off v) := by
  have h : Within writeLowerParts s s := within_refl _
  unfold State.writeLower
  exact h.put

theorem within_writeUpper (s : State) (off : Nat) (v : Word32) :
    Within write64Parts s (State.writeUpper s off v) := by
  have h : Within write64Parts s s := within_refl _
  unfold State.writeUpper
  exact h.step (within_write64 _ _ _)

theorem within_writeAqBlock (s : State) (p : Nat) (o : Nat) (v : Word32) :
    Within startLevelParts s (State.writeAqBlock s p o v) := by
  have h : Within startLevelParts s s := within_refl _
  unfold State.writeAqBlock
  split
  · exact ite_within h (h.step (within_modPart _ _ _))
  · exact h.step (within_aqCommand _ _ _)
  · exact h

theorem within_profStatusWrite (s : State) (v : Word32) :
    Within windowWriteParts s (State.profStatusWrite s v) := by
  have h : Within windowWriteParts s s := within_refl _
  unfold State.profStatusWrite
  exact h.put

theorem within_wakeTimerWrite (s : State) (v : Word32) :
    Within wakeCentralParts s (State.wakeTimerWrite s v) := by
  have h : Within wakeCentralParts s s := within_refl _
  unfold State.wakeTimerWrite
  exact h.put

theorem within_centralWrite (s : State) (o : Nat) (v : Word32) :
    Within centralWriteParts s (State.centralWrite s o v) := by
  have h : Within centralWriteParts s s := within_refl _
  unfold State.centralWrite
  split
  · extract_lets _ s1
    have h1 : Within centralWriteParts s s1 := h.put
    clear_value s1
    exact ite_within (h1.step (within_offRequest _)) h1
  · exact h.put
  · exact h.step (within_wakeTimerWrite _ _)
  · exact ite_within h (h.put (hprof := fun w => cellsOk_memPut (fun _ => 0) _ _ _ w))
  · exact h

theorem within_faultWrite (s : State) (u : Nat) (o : Nat) (v : Word32) :
    Within modUnitParts s (State.faultWrite s u o v) := by
  have h : Within modUnitParts s s := within_refl _
  unfold State.faultWrite
  split
  · exact h.step (within_statusClear _ _ _)
  · exact h.step (within_severeClear _ _ _)
  · exact h.step (within_modUnit _ _ _)
  · exact h.step (within_policyWrite _ _ _)
  · exact h.step (within_injectWrite _ _ _)
  · exact h

theorem within_spanWrite (s : State) (n : Nat) (o : Nat) (v : Word32) :
    Within modSpanParts s (State.spanWrite s n o v) := by
  have h : Within modSpanParts s s := within_refl _
  unfold State.spanWrite
  split
  · exact h.step (within_modSpan _ _ _)
  · exact h.step (within_modSpan _ _ _)
  · exact h

theorem within_writeWord (s : State) (off : Nat) (v : Word32) :
    Within writeWordParts s (State.writeWord s off v) := by
  have h : Within writeWordParts s s := within_refl _
  unfold State.writeWord
  exact ite_within (h.step (within_writeLower _ _ _)) (ite_within (h.step (within_writeUpper _ _ _)) (ite_within (h.step
    (within_profStatusWrite _ _)) (ite_within (h.step (within_commitWrite _ _)) (ite_within h.put (ite_within (h.step
    (within_centralWrite _ _ _)) (ite_within (h.step (within_writeAqBlock _ _ _ _)) (ite_within (h.step (within_windowWrite
    _ _ _)) (ite_within (h.step (within_faultWrite _ _ _ _)) (ite_within (h.step (within_spanWrite _ _ _ _)) (ite_within
    (ite_within (h.step (within_producerWrite _ _ _)) (ite_within (h.step (within_flushWrite _ _ _)) h)) (ite_within
    (ite_within h (ite_within (h.step (within_setEventPd _ _ _)) (h.step (within_writeAqBlock _ _ _ _)))) h)))))))))))

theorem within_hostWrite (s : State) (off : Nat) (v : Word32) :
    Within writeWordParts s (State.hostWrite s off v) := by
  have h : Within writeWordParts s s := within_refl _
  unfold State.hostWrite
  exact h.step (within_regWrite (l := writeWordParts) _ _ _ _ (fun t1 => (within_refl t1).step (within_writeWord _ _ _)))

theorem within_runDeferred (s : State) :
    Within writeWordParts s (State.runDeferred s) := by
  have h : Within writeWordParts s s := within_refl _
  unfold State.runDeferred
  extract_lets -underBinder -merge
  refine foldl_within (fun t1 _ h2 => ?_) (h.put)
  beta_reduce
  split
  · exact h2.step (within_writeWord _ _ _)
  · exact h2.step (within_doRead _ _)

end Sys2Proof.Laws
end

