-- ==== Sys2Proof/Laws/Within/Domains.lean ====
section
/-! SUPPORT. What the operations of Machine/Domains.lean (power domains, supply and clocks) stay within. -/

namespace Sys2Proof.Laws

-- One theorem at a time: many at once, in one text, hold more threads than the memory limit allows.
set_option Elab.async false

open Sys2Proof Sys2Proof.Machine

theorem within_setTemp (s : State) (t : Int) :
    Within wakeCentralParts s (State.setTemp s t) := by
  have h : Within wakeCentralParts s s := within_refl _
  unfold State.setTemp
  exact h.put

theorem within_sleepEntry (s : State) (n : Nat) :
    Within modSpanParts s (State.sleepEntry s n) := by
  have h : Within modSpanParts s s := within_refl _
  unfold State.sleepEntry
  refine ite_within h ?_
  split
  · exact ite_within (h.step (within_refuseSpan _ _ _)) (h.step (within_modSpan _ _ _))
  · exact h.step (within_modSpan _ _ _)

theorem within_deepEntry (s : State) (n : Nat) (t : Int) (load : Nat) :
    Within voteCommittedParts s (State.deepEntry s n t load) := by
  have h : Within voteCommittedParts s s := within_refl _
  unfold State.deepEntry
  extract_lets -underBinder -merge a1
  have h2 : Within voteCommittedParts s a1 := h.step (within_setTemp _ _)
  clear_value a1
  refine ite_within h ?_
  split
  · exact h2.step (within_refuseSpan _ _ _)
  · exact ite_within (h2.step (within_refuseSpan _ _ _)) (ite_within (h2.step (within_modSpan _ _ _)) (h2.step
      (within_modSpan _ _ _)))

theorem within_centralEntry (s : State) (t : Int) (load : Nat) :
    Within wakeCentralParts s (State.centralEntry s t load) := by
  have h : Within wakeCentralParts s s := within_refl _
  unfold State.centralEntry
  extract_lets -underBinder -merge _ a1
  have h2 : Within wakeCentralParts s a1 := h.step (within_setTemp _ _)
  clear_value a1
  refine ite_within h ?_
  split
  · exact h2.step (within_refuseCentral _ _)
  · extract_lets -underBinder -merge
    exact ite_within (h2.put) (h2.put)

theorem within_centralEntered (s : State) :
    Within centralEnteredParts s (State.centralEntered s) := by
  have h : Within centralEnteredParts s s := within_refl _
  unfold State.centralEntered
  extract_lets -underBinder -merge a1 _ a3
  have h2 : Within centralEnteredParts s a1 := h.step (within_dropCentral _)
  clear_value a1
  have h4 : Within centralEnteredParts s a3 := h2.put
  clear_value a3
  exact ite_within (ite_within (h4.step (within_wakeCentral _)) h4) h

theorem within_runCaptured (s : State) : Within evalBellParts s (State.runCaptured s) := by
  unfold State.runCaptured
  exact foldl_within (fun t _ h => h.step (within_evalBell _ _ _)) ((within_refl s).put (hcentral := fun _ => Nat.zero_le _))

theorem within_runKept (s : State) : Within evalBellParts s (State.runKept s) := by
  unfold State.runKept
  exact ((within_refl s).put (hcentral := fun w => (List.length_filter_le _ _).trans w)).step (within_runCaptured _)

theorem within_centralExited (s : State) :
    Within execRegisterWriteParts s (State.centralExited s) := by
  have h : Within execRegisterWriteParts s s := within_refl _
  unfold State.centralExited
  extract_lets -underBinder -merge _ a1 _ a3 _ a5
  have h2 : Within execRegisterWriteParts s a1 := h.put
  clear_value a1
  have h4 : Within execRegisterWriteParts s a3 := h2.put
  clear_value a3
  have h6 : Within execRegisterWriteParts s a5 := ite_within (h4.step (within_startLevel _ _ _ _)) (h4.step
    (within_loseContexts _ _ _))
  clear_value a5
  exact ite_within (ite_within (((h6.put).step (within_runKept _)).step (within_runDeferred _)) (ite_within ((h2.step
    (within_runKept _)).step (within_runDeferred _)) ((h2.step (within_runCaptured _)).step (within_runDeferred _)))) h

theorem within_spanMissed (s : State) (n : Nat) (step : Nat) :
    Within severeParts s (State.spanMissed s n step) := by
  have h : Within severeParts s s := within_refl _
  unfold State.spanMissed
  extract_lets -underBinder -merge a1 _ a3 a5
  have h2 : Within severeParts s a1 := h.step (within_countEvent _ _ _ _)
  clear_value a1
  have h4 : Within severeParts s a3.1 := (h2.step (within_cause _ _ _)).step (within_fenceSpan _ _ _)
  have h6 : Within severeParts s a5 := (h2.step (within_cause _ _ _)).step (within_modSpan _ _ _)
  clear_value a5
  exact ite_within (ite_within ((h2.step (within_cause _ _ _)).step (within_startLevel _ _ _ _)) (h4.step
    (within_modIncident _ _ _))) (h6.step (within_startLevel _ _ _ _))

theorem within_centralMissed (s : State) (step : Nat) :
    Within severeParts s (State.centralMissed s step) := by
  have h : Within severeParts s s := within_refl _
  unfold State.centralMissed
  extract_lets -underBinder -merge a1
  have h2 : Within severeParts s a1 := (h.step (within_countEvent _ _ _ _)).step (within_cause _ _ _)
  clear_value a1
  exact h2.put.step (within_startLevel _ _ _ _)

theorem within_wakeBy (s : State) (bit : Nat) (mask : Word64) :
    Within voteCommittedParts s (State.wakeBy s bit mask) := by
  have h : Within voteCommittedParts s s := within_refl _
  unfold State.wakeBy
  exact ((h.step (within_wakeBit _ _)).step (within_wakeCentral _)).step (within_raiseSpans _ _)

theorem within_comparator (s : State) (mv : Nat) :
    Within comparatorParts s (State.comparator s mv) := by
  have h : Within comparatorParts s s := within_refl _
  unfold State.comparator
  extract_lets -underBinder -merge _ _ _ a1 _ a3
  have h2 : Within comparatorParts s a1 := h.put
  clear_value a1
  have h4 : Within comparatorParts s a3 := h2.put
  clear_value a3
  exact ite_within h (ite_within (h4.step (within_countEvent _ _ _ _)) (ite_within (h2.step (within_wakeBy _ _ _)) h2))

theorem within_retentionLost (s : State) :
    Within severeParts s (State.retentionLost s) := by
  have h : Within severeParts s s := within_refl _
  unfold State.retentionLost
  extract_lets -underBinder -merge a1 _ a3 _ a5 a7
  have h2 : Within severeParts s a1 := foldl_within (fun t9 _ h10 => ite_within (h10.step (within_clearSpan _ _ _ _)) h10) h
  clear_value a1
  have h4 : Within severeParts s a3 := ite_within h2.put h2
  clear_value a3
  have h6 : Within severeParts s a5 := h4.put
  clear_value a5
  have h8 : Within severeParts s a7 := (h6.step (within_wakeBit _ _)).step (within_countEvent _ _ _ _)
  clear_value a7
  exact ite_within h8 ((h8.step (within_openIncident _ _ _)).step (within_react _ _ _ _))

theorem within_aonLost (s : State) :
    Within severeParts s (State.aonLost s) := by
  have h : Within severeParts s s := within_refl _
  unfold State.aonLost
  extract_lets -underBinder -merge a1
  have h2 : Within severeParts s a1 := (h.step (within_wakeBit _ _)).step (within_countEvent _ _ _ _)
  clear_value a1
  exact h2.put

theorem within_setQuad (s : State) (q : Nat) (f : Quad → Quad) :
    Within lowerClocksParts s (State.setQuad s q f) := by
  have h : Within lowerClocksParts s s := within_refl _
  unfold State.setQuad
  exact h.put (hquads := by simp)

theorem within_powerCheck (s : State) (mean : Nat) (below : Bool) :
    Within lowerClocksParts s (State.powerCheck s mean below) := by
  have h : Within lowerClocksParts s s := within_refl _
  unfold State.powerCheck
  refine ite_within h ?_
  refine ite_within ?_ ?_
  · split
    · exact h.step (within_setQuad _ _ _)
    · exact h
  · refine ite_within ?_ h
    split
    · exact h.step (within_setQuad _ _ _)
    · exact h

end Sys2Proof.Laws
end

