-- ==== Sys2Proof/Laws/Within/Admission.lean ====
section
/-! SUPPORT. What the operations of Machine/Admission.lean (admission) stay within. -/

namespace Sys2Proof.Laws

-- One theorem at a time: many at once, in one text, hold more threads than the memory limit allows.
set_option Elab.async false

open Sys2Proof Sys2Proof.Machine

theorem within_dropFails (q : QId) (n k : Nat) (s : State) : Within severeParts s (State.dropFails q n k s) := by
  induction n generalizing k s with
  | zero => exact within_refl s
  | succ n ih =>
    have h : Within severeParts s s := within_refl _
    unfold State.dropFails
    split
    · exact h
    · split
      · exact h
      · split
        · exact h
        · split
          · extract_lets s1
            have h1 : Within severeParts s s1 := (h.step (within_countRead _ _ _ _)).step (within_endJob _ _ _ _ _)
            clear_value s1
            exact (h1.step (within_modQueue _ _ _)).step (ih _ _)
          · exact h.step (ih _ _)
          · exact h.step (within_askXlat _ _ _ _ _)

theorem within_recheckJob (s : State) (uid : Nat) :
    Within severeParts s (State.recheckJob s uid) := by
  have h : Within severeParts s s := within_refl _
  unfold State.recheckJob
  split
  · exact h
  · split
    · exact h
    · refine ite_within h ?_
      split
      · exact (h.step (within_countRead _ _ _ _)).step (within_endJob _ _ _ _ _)
      · exact h.step (within_askXlat _ _ _ _ _)
      · exact h.step (within_modJob _ _ _)

theorem within_countHold (s : State) (h : State.Head) (n : Nat) :
    Within countHoldParts s (State.countHold s h n) := by
  have h : Within countHoldParts s s := within_refl _
  unfold State.countHold
  split
  · exact h.step (within_modQueue _ _ _)
  · exact h.step (within_modPart _ _ _)
  · exact h

theorem within_admitInto (s : State) (h : State.Head) :
    Within admitIntoParts s (State.admitInto s h) := by
  have h : Within admitIntoParts s s := within_refl _
  unfold State.admitInto
  extract_lets -underBinder -merge _ _ _ _ _ _ a1 a3
  have h2 : Within admitIntoParts s a1 := h.put
  clear_value a1
  have h4 : Within admitIntoParts s a3 := h2.step (within_modJob _ _ _)
  clear_value a3
  exact h4.step (within_modQueue _ _ _)

theorem within_passTurns (s : State) (p : Nat) (live : List State.Head) (ring : List State.Head) (last : Nat) (rounds : Nat)
  (winner : QId) :
    Within countHoldParts s (State.passTurns s p live ring last rounds winner) := by
  have h : Within countHoldParts s s := within_refl _
  unfold State.passTurns
  extract_lets -underBinder -merge _ a1
  have h2 : Within countHoldParts s a1 := by
    unfold a1
    refine foldl_within (fun t5 _ h6 => ?_) h
    beta_reduce
    exact ite_within (h6.step (within_modQueue _ _ _)) (h6.step (within_countHold _ _ _))
  clear_value a1
  exact foldl_within (fun t3 _ h4 => h4.step (within_modQueue _ _ _)) h2

theorem within_admitOne (s : State) (p : Nat) :
    Within admitOneParts s (State.admitOne s p) := by
  have h : Within admitOneParts s s := within_refl _
  unfold State.admitOne
  extract_lets -underBinder -merge a1 _ _ a3 _ _ _ b5
  clear_value b5
  have h2 : Within admitOneParts s a1 := foldl_within (fun t16 _ h17 => h17.step (within_dropFails _ _ _ _)) h
  clear_value a1
  have h4 : Within admitOneParts s a3 := foldl_within (fun t14 _ h15 => h15.step (within_countHold _ _ _)) h2
  clear_value a3
  refine ite_within ((foldl_within (fun t6 _ h7 => h7.step (within_modQueue _ _ _)) h4).step (within_modPart _ _ _)) ?_
  split
  · exact h2.step (within_admitInto _ _)
  · split
    · exact h2
    · extract_lets -underBinder -merge _ a8 a10
      have h9 : Within admitOneParts s a8 := (foldl_within (fun t12 _ h13 => h13.step (within_countHold _ _ _)) h2).step
        (within_passTurns _ _ _ _ _ _ _)
      clear_value a8
      have h11 : Within admitOneParts s a10 := h9.step (within_modPart _ _ _)
      clear_value a10
      exact h11.step (within_admitInto _ _)

theorem within_timeoutJob (s : State) (uid : Nat) :
    Within endRawParts s (State.timeoutJob s uid) := by
  have h : Within endRawParts s s := within_refl _
  unfold State.timeoutJob
  split
  · exact h
  · extract_lets -underBinder -merge
    exact ite_within h (ite_within (h.step (within_endJob _ _ _ _ _)) (h.step (within_endJob _ _ _ _ _)))

end Sys2Proof.Laws
end

