-- ==== Sys2Proof/Laws/Within/Stages.lean ====
section
/-! SUPPORT. What the operations of Machine/Stages.lean (the stages of a tile) stay within. -/

namespace Sys2Proof.Laws

-- One theorem at a time: many at once, in one text, hold more threads than the memory limit allows.
set_option Elab.async false

open Sys2Proof Sys2Proof.Machine

theorem within_loadBooks (s : State) (w : Work) (span : Nat) (fs : List (Nat × Folio)) :
    Within loadBooksParts s (State.loadBooks s w span fs) := by
  unfold State.loadBooks
  refine foldl_within (fun t _ h => ?_) (within_refl s)
  beta_reduce
  split
  · exact h
  · refine ite_within h ?_
    split
    · exact (h.put (hstore := wf_loadCodebook _ _ _ _)).step (within_modJob _ _ _)
    · exact h

end Sys2Proof.Laws
end

