-- ==== Sys2Proof/Laws/Within/Threads.lean ====
section
/-! SUPPORT. What the operations of Machine/Threads.lean (threads) stay within. -/

namespace Sys2Proof.Laws

-- One theorem at a time: many at once, in one text, hold more threads than the memory limit allows.
set_option Elab.async false

open Sys2Proof Sys2Proof.Machine

theorem within_landCells (s : State) (j : Job) (own : Owner) (route : Nat) (cs : List Cell) (free : Bool) (mine : Nat →
  Bool) (span : Option Nat) :
    LandWithin pumpGoParts s (State.landCells s j own route cs free mine span) := by
  have h : Within pumpGoParts s s := within_refl _
  unfold State.landCells
  split
  · split
    · exact trivial
    · exact trivial
  · extract_lets -underBinder -merge
    split
    · exact trivial
    · extract_lets -underBinder -merge _ _ _ _ a1
      have h2 : Within pumpGoParts s a1 := h.step (within_issueElems _ _ _ _ _ _ _)
      clear_value a1
      exact (h2.step (within_modJob _ _ _)).step (within_useFree _)

theorem within_askPass (s : State) (j : Job) (gs : List (Target × Nat)) :
    Within askPassParts s (State.askPass s j gs) := by
  have h : Within askPassParts s s := within_refl _
  unfold State.askPass
  split
  · exact h.step (within_fetchGranules _ _ _ _ _ _)
  · split
    · exact h.step (within_raiseSpan _ _)
    · exact h

theorem within_passWait (s : State) (j : Job) (as : List Nat) (gs : List (Target × Nat)) :
    Within passWaitParts s (State.passWait s j as gs) := by
  have h : Within passWaitParts s s := within_refl _
  unfold State.passWait
  extract_lets -underBinder -merge a1
  have h2 : Within passWaitParts s a1 := h.step (within_askXlat _ _ _ _ _)
  clear_value a1
  exact ite_within h2 (h2.step (within_askPass _ _ _))

theorem within_lostWrite (s : State) (j : Job) (elem : Nat) (route : Nat) :
    Within severeParts s (State.lostWrite s j elem route) := by
  have h : Within severeParts s s := within_refl _
  unfold State.lostWrite
  exact (h.step (within_countRead _ _ _ _)).step (within_noteEarly _ _ _)

theorem within_matchTo (span uid g n : Nat) (s : State) : Within severeParts s (State.matchTo span uid g n s).1 := by
  induction n generalizing s with
  | zero => exact within_refl s
  | succ n ih =>
    have h : Within severeParts s s := within_refl _
    unfold State.matchTo
    split
    · exact h
    · extract_lets
      split
      · exact h
      · split
        · exact (h.step (within_askXlat _ _ _ _ _)).step (within_fetchGranules _ _ _ _ _ _)
        · exact (h.step (within_countRead _ _ _ _)).step (within_noteEarly _ _ _)
        · split
          · exact (h.step (within_modJob _ _ _)).step (ih _)
          · exact h.step (within_noteEarly _ _ _)

theorem within_handTile (s : State) (span : Nat) (uid : Nat) :
    Within severeParts s (State.handTile s span uid).1 := by
  have h : Within severeParts s s := within_refl _
  unfold State.handTile
  split
  · exact h
  · extract_lets -underBinder -merge _ _ _ _ a1
    have h2 : Within severeParts s a1.1 := by
      unfold a1
      split
      · exact h.step (within_matchTo _ _ _ _ _)
      · exact h
    split
    · exact h
    · split
      · exact h2
      · exact h2.step (within_modJob _ _ _)

theorem within_handTiles (span uid n : Nat) (s : State) : Within severeParts s (State.handTiles span uid n s) := by
  induction n generalizing s with
  | zero => exact within_refl s
  | succ n ih =>
    unfold State.handTiles
    extract_lets
    split
    · exact ((within_refl s).step (within_handTile _ _ _)).step (ih _)
    · exact (within_refl s).step (within_handTile _ _ _)

theorem within_requestTiles (s : State) (span : Nat) (uid : Nat) (n : Nat) :
    Within severeParts s (State.requestTiles s span uid n) := by
  have h : Within severeParts s s := within_refl _
  unfold State.requestTiles
  split
  · exact h
  · exact ite_within h (ite_within (ite_within ((h.step (within_endJob _ _ _ _ _)).step (within_modJob _ _ _)) h)
      (ite_within (ite_within (h.step (within_raiseSpan _ _)) h) (((h.step (within_handTiles _ _ _ _)).step
      (within_settleEarly _ _)).step (within_settleRun _ _))))

/-- A thread that may go on has taken a free core of its span, at most. -/
theorem within_readyThread {s t : State} {uid tile : Nat} {w : Work} {x : Thread} (e : s.readyThread uid tile = some (t, w,
  x)) :
    Within modJobParts s t := by
  unfold State.readyThread at e
  obtain ⟨j, -, e⟩ := Option.bind_eq_some_iff.1 e
  split at e
  · cases e
  · obtain ⟨y, -, e⟩ := Option.bind_eq_some_iff.1 e
    extract_lets at e
    split at e
    · simp only [Option.some.injEq, Prod.mk.injEq] at e
      obtain ⟨rfl, -⟩ := e
      exact within_refl _
    · split at e
      · cases e
      · simp only [Option.some.injEq, Prod.mk.injEq] at e
        obtain ⟨rfl, -⟩ := e
        exact (within_refl s).step (within_modJob _ _ _)

theorem within_threadEvent (s : State) (j : Job) (r : Res Unit) :
    Within severeParts s (State.threadEvent s j r) := by
  have h : Within severeParts s s := within_refl _
  unfold State.threadEvent
  split
  · exact (h.step (within_countRead _ _ _ _)).step (within_noteEarly _ _ _)
  · exact h

theorem within_threadRan (s : State) (uid : Nat) (tile : Nat) (cs : List Contrib) (ms : List Mark) (xs : List ((Nat × Nat) ×
  Nat × Int)) :
    Within rebuildBanksParts s (State.threadRan s uid tile cs ms xs) := by
  have h : Within rebuildBanksParts s s := within_refl _
  unfold State.threadRan
  extract_lets -underBinder -merge b1 _ _ a2
  clear_value b1
  have h3 : Within rebuildBanksParts s a2 := h.put
  clear_value a2
  exact h3.step (within_modJob _ _ _)

theorem within_runThread {l : List Field} {α : Type} (s : State) (uid tile : Nat) (work : State → Work → Thread → State.Run α)
    (finish : State → Work → Thread → List (Nat × α) → State.Land) (hf : ∀ t w x r, LandWithin l t (finish t w x r))
    (hl : (severeParts.all fun f => l.contains f) = true := by decide) : Within l s (State.runThread s uid tile work finish)
      := by
  have h : Within severeParts s s := within_refl _
  unfold State.runThread
  split
  · exact h.mono hl
  · next s0 w t e =>
    have h0 : Within severeParts s s0 := h.step (within_readyThread e)
    extract_lets
    split
    · exact ((((h0.step (within_askXlat _ _ _ _ _)).step (within_fetchGranules _ _ _ _ _ _)).step (within_threadEvent _ _
        _)).step
        (within_settleEarly _ _)).mono hl
    · split
      · exact h0.mono hl
      · split
        · exact (h0.step (within_askXlat _ _ _ _ _)).mono hl
        · exact (((h0.step (within_threadEvent _ _ _)).step (within_lostWrite _ _ _ _)).step (within_settleEarly _ _)).mono hl
        · next s1 e1 =>
          have h1 : Within l s s1 := land_within e1 ((h0.mono hl).land (hf _ _ _ _) (by simp))
          exact (h1.step (within_threadEvent _ _ _) (sub_trans (by decide) hl)).step (within_settleEarly _ _)
            (sub_trans (by decide) hl)

theorem within_probeThread {α : Type} (s : State) (uid : Nat) (tile : Nat) (work : State → Work → Thread → State.Run α) :
    Within severeParts s (State.probeThread s uid tile work) := by
  have h : Within severeParts s s := within_refl _
  unfold State.probeThread
  split
  · exact h
  · next t3 _ _ e2 =>
      have k1 : Within severeParts s t3 := h.step (within_readyThread e2)
      exact (h.step (within_threadEvent _ _ _)).step (within_settleEarly _ _)

theorem within_correctStaging (s : State) (c : FaultCtx) (ks : List Nat) :
    Within severeParts s (State.correctStaging s c ks) := by
  have h : Within severeParts s s := within_refl _
  unfold State.correctStaging
  extract_lets -underBinder -merge
  refine foldl_within (fun t1 _ h2 => ?_) h
  beta_reduce
  exact h2.put.step (within_countEvent _ _ _ _)

theorem within_viewFinish (s : State) (w : Work) (t : Thread) (l : List (Nat × State.Put)) :
    LandWithin severeParts s (State.viewFinish s w t l) := by
  have h : Within severeParts s s := within_refl _
  unfold State.viewFinish
  extract_lets -underBinder -merge _ _ a1
  have h2 : Within severeParts s a1 := ite_within (h.step (within_loadBooks _ _ _ _)) h
  clear_value a1
  split
  · next t5 e4 =>
      have k3 : Within severeParts s t5 := land_within e4 (h2.land (within_landCells _ _ _ _ _ _ _ _))
      exact (k3.step (within_correctStaging _ _ _)).step (within_threadRan _ _ _ _ _ _)
  · exact h2.land (within_landCells _ _ _ _ _ _ _ _)

theorem within_runTile (s : State) (op : Nat) (uid : Nat) (tile : Nat) :
    Within severeParts s (State.runTile s op uid tile) := by
  have h : Within severeParts s s := within_refl _
  unfold State.runTile
  split
  · exact h
  · exact ite_within h (h.step (within_runThread (l := severeParts) _ _ _ _ _ (fun _ _ _ _ => (within_viewFinish _ _ _
      _).mono)))

theorem within_lowerPos (s : State) (uid : Nat) (elem : Nat) :
    Within modJobParts s (State.lowerPos s uid elem) := by
  have h : Within modJobParts s s := within_refl _
  unfold State.lowerPos
  exact h.step (within_modJob _ _ _)

theorem within_closeOne (s : State) (uid : Nat) (c : Nat × Nat) :
    Within severeParts s (State.closeOne s uid c) := by
  have h : Within severeParts s s := within_refl _
  unfold State.closeOne
  split
  · exact h
  · extract_lets -underBinder -merge
    split
    · exact ite_within (((h.step (within_modJob _ _ _)).step (within_lostWrite _ _ _ _)).step (within_lowerPos _ _ _))
        ((h.step (within_modJob _ _ _)).step (within_askRange _ _ _ _ _ _ _))
    · extract_lets -underBinder -merge
      exact (h.step (within_issue _ _ _ _ _ _ _ _)).step (within_modJob _ _ _)

theorem within_flushClosings (s : State) (uid : Nat) :
    Within severeParts s (State.flushClosings s uid) := by
  have h : Within severeParts s s := within_refl _
  unfold State.flushClosings
  split
  · exact h
  · exact foldl_within (fun t1 _ h2 => h2.step (within_closeOne _ _ _)) h

theorem within_closeRange (s : State) (uid : Nat) (a : Nat) (b : Nat) :
    Within severeParts s (State.closeRange s uid a b) := by
  have h : Within severeParts s s := within_refl _
  unfold State.closeRange
  extract_lets -underBinder -merge a1
  have h2 : Within severeParts s a1 := by
    unfold a1
    split
    · exact foldl_within (fun t5 _ h6 => h6.step (within_closeOne _ _ _)) h
    · exact h
  clear_value a1
  split
  · exact foldl_within (fun t3 _ h4 => h4.step (within_closeOne _ _ _)) h2
  · exact h2

theorem within_finalClosings (s : State) (uid : Nat) :
    Within severeParts s (State.finalClosings s uid) := by
  have h : Within severeParts s s := within_refl _
  unfold State.finalClosings
  split
  · exact h
  · extract_lets -underBinder -merge
    exact ite_within h ((h.step (within_modJob _ _ _)).step (within_closeRange _ _ _ _))

theorem within_measureRow (s : State) (uid : Nat) (r : Nat) :
    Within modJobParts s (State.measureRow s uid r) := by
  have h : Within modJobParts s s := within_refl _
  unfold State.measureRow
  split
  · exact h
  · extract_lets -underBinder -merge
    exact ite_within h (h.step (within_modJob _ _ _))

theorem within_measureRows (s : State) (uid : Nat) (a : Nat) (b : Nat) :
    Within modJobParts s (State.measureRows s uid a b) := by
  have h : Within modJobParts s s := within_refl _
  unfold State.measureRows
  split
  · exact h
  · extract_lets -underBinder -merge
    exact ite_within h (foldl_within (fun t1 _ h2 => h2.step (within_measureRow _ _ _)) h)

theorem within_settleJob (s : State) (uid : Nat) :
    Within endRawParts s (State.settleJob s uid) := by
  have h : Within endRawParts s s := within_refl _
  unfold State.settleJob
  split
  · exact h
  · extract_lets -underBinder -merge
    exact ite_within h (h.step (within_endJob _ _ _ _ _))

theorem within_settle (s : State) (uid : Nat) :
    Within endRawParts s (State.settle s uid) := by
  have h : Within endRawParts s s := within_refl _
  unfold State.settle
  exact (h.step (within_settleEarly _ _)).step (within_settleJob _ _)

theorem within_retireThread (s : State) (uid : Nat) (tile : Nat) :
    Within severeParts s (State.retireThread s uid tile) := by
  have h : Within severeParts s s := within_refl _
  unfold State.retireThread
  split
  · exact h
  · split
    · exact h
    · extract_lets -underBinder -merge a1
      have h2 : Within severeParts s a1 := (h.step (within_modJob _ _ _)).step (within_drainReads _ _ _)
      clear_value a1
      exact ite_within h ((((h2.step (within_measureRows _ _ _ _)).step (within_closeRange _ _ _ _)).step (within_settle _
        _)).step (within_settleRun _ _))

theorem within_statsFinish (s : State) (w : Work) (t : Thread) (l : List (Nat × State.Put)) :
    LandWithin severeParts s (State.statsFinish s w t l) := by
  have h : Within severeParts s s := within_refl _
  unfold State.statsFinish
  extract_lets -underBinder -merge
  split
  · next t3 e2 =>
      have k1 : Within severeParts s t3 := land_within e2 (h.land (within_landCells _ _ _ _ _ _ _ _))
      extract_lets -underBinder -merge a4
      have h5 : Within severeParts s a4 := (k1.step (within_correctStaging _ _ _)).step (within_modJob _ _ _)
      clear_value a4
      exact h5.step (within_threadRan _ _ _ _ _ _)
  · exact h.land (within_landCells _ _ _ _ _ _ _ _)

theorem within_runStats (s : State) (uid : Nat) (tile : Nat) :
    Within severeParts s (State.runStats s uid tile) := by
  have h : Within severeParts s s := within_refl _
  unfold State.runStats
  split
  · exact h
  · exact ite_within h (h.step (within_runThread (l := severeParts) _ _ _ _ _ (fun _ _ _ _ => (within_statsFinish _ _ _
      _).mono)))

theorem within_indexPass (s0 : State) (uid : Nat) :
    Within severeParts s0 (State.indexPass s0 uid) := by
  have h : Within severeParts s0 s0 := within_refl _
  unfold State.indexPass
  extract_lets -underBinder -merge a1
  have h2 : Within severeParts s0 a1 := h.step (within_recheckJob _ _)
  clear_value a1
  split
  · exact h2
  · extract_lets -underBinder -merge _ _ a3 _ _ _ a5
    have h4 : Within severeParts s0 a3 := by
      unfold a3
      refine foldl_within (fun t7 _ h8 => ?_) h2
      beta_reduce
      split
      · extract_lets -underBinder -merge
        exact (h8.step (within_countRead _ _ _ _)).step (within_noteEarly _ _ _)
      · exact h8
    clear_value a3
    have h6 : Within severeParts s0 a5 := h4.step (within_correctStaging _ _ _)
    clear_value a5
    exact ite_within h2 (ite_within ((h4.step (within_passWait _ _ _ _)).step (within_settleEarly _ _)) ((h6.step
      (within_modJob _ _ _)).step (within_settleEarly _ _)))

theorem within_scalePass (s0 : State) (op : Nat) (uid : Nat) (g : Nat) :
    Within severeParts s0 (State.scalePass s0 op uid g) := by
  have h : Within severeParts s0 s0 := within_refl _
  unfold State.scalePass
  extract_lets -underBinder -merge a1
  have h2 : Within severeParts s0 a1 := h.step (within_recheckJob _ _)
  clear_value a1
  split
  · exact h2
  · extract_lets -underBinder -merge
    refine ite_within h2 ?_
    split
    · exact h2.step (within_askPass _ _ _)
    · split
      · exact ((h2.step (within_countRead _ _ _ _)).step (within_noteEarly _ _ _)).step (within_settleEarly _ _)
      · exact h2.step (within_passWait _ _ _ _)
      · extract_lets -underBinder -merge
        split
        · exact ite_within ((h2.step (within_lostWrite _ _ _ _)).step (within_settleEarly _ _)) (h2.step (within_askRange _
            _ _ _ _ _ _))
        · extract_lets -underBinder -merge a3
          have h4 : Within severeParts s0 a3 := h2.step (within_correctStaging _ _ _)
          clear_value a3
          exact ((h4.step (within_loadBooks _ _ _ _)).step (within_issue _ _ _ _ _ _ _ _)).step (within_modJob _ _ _)

theorem within_viewStep (s : State) (op : Nat) (uid : Nat) (tile : Nat) :
    Within severeParts s (State.viewStep s op uid tile) := by
  have h : Within severeParts s s := within_refl _
  unfold State.viewStep
  split
  · exact h
  · exact ite_within (h.step (within_scalePass _ _ _ _)) (h.step (within_runTile _ _ _ _))

theorem within_conversionPass (s : State) (uid : Nat) :
    Within modJobParts s (State.conversionPass s uid) := by
  have h : Within modJobParts s s := within_refl _
  unfold State.conversionPass
  split
  · exact h
  · extract_lets -underBinder -merge
    exact ite_within (h.step (within_modJob _ _ _)) h

theorem within_cancelRedo (s : State) (uid : Nat) (g : Nat) :
    Within severeParts s (State.cancelRedo s uid g) := by
  have h : Within severeParts s s := within_refl _
  unfold State.cancelRedo
  split
  · exact h
  · extract_lets -underBinder -merge
    exact ite_within h ((h.step (within_modJob _ _ _)).step (within_closeRange _ _ _ _))

theorem within_redoMeasure (s : State) (j : Job) (g : Nat) (span : Nat) :
    Within severeParts s (State.redoMeasure s j g span) := by
  have h : Within severeParts s s := within_refl _
  unfold State.redoMeasure
  extract_lets -underBinder -merge
  split
  · exact ((h.step (within_cancelRedo _ _ _)).step (within_countRead _ _ _ _)).step (within_settle _ _)
  · exact h.step (within_passWait _ _ _ _)
  · extract_lets -underBinder -merge _ _ _ a1
    have h2 : Within severeParts s a1 := h.step (within_correctStaging _ _ _)
    clear_value a1
    exact (h2.step (within_loadBooks _ _ _ _)).step (within_modJob _ _ _)

theorem within_redoConvert (s : State) (j : Job) (rec_ : ScaleRec) (span : Nat) :
    Within severeParts s (State.redoConvert s j rec_ span) := by
  have h : Within severeParts s s := within_refl _
  unfold State.redoConvert
  extract_lets -underBinder -merge
  refine ite_within (h.step (within_passWait _ _ _ _)) ?_
  split
  · exact (((h.step (within_countRead _ _ _ _)).step (within_noteEarly _ _ _)).step (within_cancelRedo _ _ _)).step
      (within_settle _ _)
  · split
    · exact h.step (within_askXlat _ _ _ _ _)
    · exact ((h.step (within_lostWrite _ _ _ _)).step (within_cancelRedo _ _ _)).step (within_settle _ _)
    · next t3 e2 =>
        have k1 : Within severeParts s t3 := land_within e2 (h.land (within_landCells _ _ _ _ _ _ _ _))
        exact (k1.step (within_loadBooks _ _ _ _)).step (within_modJob _ _ _)
  · exact h

theorem within_redoGroup (s : State) (uid : Nat) (g : Nat) :
    Within severeParts s (State.redoGroup s uid g) := by
  have h : Within severeParts s s := within_refl _
  unfold State.redoGroup
  split
  · exact h
  · refine ite_within h ?_
    split
    · exact h.step (within_askPass _ _ _)
    · refine ite_within h ?_
      split
      · exact h.step (within_redoMeasure _ _ _ _)
      · exact ite_within (h.step (within_redoConvert _ _ _ _)) h

theorem within_finishRedo (s : State) (uid : Nat) (rec_ : ScaleRec) :
    Within severeParts s (State.finishRedo s uid rec_) := by
  have h : Within severeParts s s := within_refl _
  unfold State.finishRedo
  split
  · exact h
  · extract_lets -underBinder -merge
    refine ite_within h ?_
    split
    · exact (((h.step (within_lostWrite _ _ _ _)).step (within_cancelRedo _ _ _)).step (within_lowerPos _ _ _)).step
        (within_settle _ _)
    · split
      · extract_lets -underBinder -merge a1 a3
        have h2 : Within severeParts s a1 := (h.step (within_issue _ _ _ _ _ _ _ _)).step (within_issue _ _ _ _ _ _ _ _)
        clear_value a1
        have h4 : Within severeParts s a3 := h2.step (within_modJob _ _ _)
        clear_value a3
        exact h4.step (within_closeRange _ _ _ _)
      · exact (h.step (within_askRange _ _ _ _ _ _ _)).step (within_askRange _ _ _ _ _ _ _)

theorem within_flushRedos (s : State) (uid : Nat) :
    Within severeParts s (State.flushRedos s uid) := by
  have h : Within severeParts s s := within_refl _
  unfold State.flushRedos
  split
  · exact h
  · exact foldl_within (fun t1 _ h2 => h2.step (within_finishRedo _ _ _)) h

theorem within_nop_ (s : State) (uid : Nat) :
    Within endRawParts s (State.nop_ s uid) := by
  have h : Within endRawParts s s := within_refl _
  unfold State.nop_
  split
  · exact h
  · exact ite_within (h.step (within_endJob _ _ _ _ _)) h

end Sys2Proof.Laws
end

