-- ==== Sys2Proof/Laws/Within/Tariff.lean ====
section
/-! SUPPORT. What the operations of Machine/Tariff.lean (TARIFF) stay within. -/

namespace Sys2Proof.Laws

-- One theorem at a time: many at once, in one text, hold more threads than the memory limit allows.
set_option Elab.async false

open Sys2Proof Sys2Proof.Machine

theorem within_storeTables (s : State) (j : Job) (book : List Byte) (acts : List (List Byte)) :
    Within rebuildBanksParts s (State.storeTables s j book acts) := by
  have h : Within rebuildBanksParts s s := within_refl _
  unfold State.storeTables
  extract_lets -underBinder -merge _ _ _ _ a1
  have h2 : Within rebuildBanksParts s a1 := h.put
  clear_value a1
  exact h2.step (within_modJob _ _ _)

theorem within_buildTables (s0 : State) (uid : Nat) :
    Within severeParts s0 (State.buildTables s0 uid) := by
  have h : Within severeParts s0 s0 := within_refl _
  unfold State.buildTables
  extract_lets -underBinder -merge a1
  have h2 : Within severeParts s0 a1 := h.step (within_recheckJob _ _)
  clear_value a1
  split
  · exact h2
  · refine ite_within h2 ?_
    split
    · exact h2.step (within_askPass _ _ _)
    · extract_lets -underBinder -merge a3
      have h4 : Within severeParts s0 a3.1 := by
        unfold a3
        split
        · exact h2.step (within_matchTo _ _ _ _ _)
        · exact h2
      split
      · exact h4
      · extract_lets -underBinder -merge
        refine ite_within h4 ?_
        refine ite_within (h4.step (within_settleEarly _ _)) ?_
        split
        · exact h4.step (within_storeTables _ _ _ _)
        · exact ((h4.step (within_countRead _ _ _ _)).step (within_noteEarly _ _ _)).step (within_settleEarly _ _)
        · exact h4.step (within_passWait _ _ _ _)

theorem within_tileFinish (route : Entry → Nat) (ranges : State → Job → Nat → State.Ranges) (s : State) (w : Work) (t :
  Thread) (l : List (Nat × State.Put)) :
    LandWithin severeParts s (State.tileFinish route ranges s w t l) := by
  have h : Within severeParts s s := within_refl _
  unfold State.tileFinish
  extract_lets -underBinder -merge
  split
  · next t3 e2 =>
      have k1 : Within severeParts s t3 := land_within e2 (h.land (within_landCells _ _ _ _ _ _ _ _))
      exact (k1.step (within_correctStaging _ _ _)).step (within_threadRan _ _ _ _ _ _)
  · exact h.land (within_landCells _ _ _ _ _ _ _ _)

theorem within_tariffFinish (s : State) (w : Work) (t : Thread) (l : List (Nat × State.Put)) :
    LandWithin severeParts s (State.tariffFinish s w t l) := by
  have h : Within severeParts s s := within_refl _
  unfold State.tariffFinish
  exact h.land (within_tileFinish _ _ _ _ _ _)

theorem within_runTariff (s : State) (uid : Nat) (tile : Nat) :
    Within severeParts s (State.runTariff s uid tile) := by
  have h : Within severeParts s s := within_refl _
  unfold State.runTariff
  split
  · exact h
  · exact ite_within h (ite_within (h.step (within_buildTables _ _)) (h.step (within_runThread (l := severeParts) _ _ _ _ _
      (fun _ _ _ _ => (within_tariffFinish _ _ _ _).mono))))

end Sys2Proof.Laws
end

