-- ==== Sys2Proof/Laws/Within/Histogram.lean ====
section
/-! SUPPORT. What the operations of Machine/Histogram.lean (HISTOGRAM_BUILD) stay within. -/

namespace Sys2Proof.Laws

-- One theorem at a time: many at once, in one text, hold more threads than the memory limit allows.
set_option Elab.async false

open Sys2Proof Sys2Proof.Machine

theorem within_spoilScratch (s : State) (ks : List Nat) : Within spoilScratchParts s (State.spoilScratch s ks) := by
  unfold State.spoilScratch
  have hr {α : Type} (g : Store → α) (hg : ∀ st k, g (st.undefine k 4096 s.block.free) = g st) := foldl_same g _ ks s.store hg
  have hb := hr Store.cbMem (fun _ _ => rfl)
  have hi := hr Store.inj (fun _ _ => rfl)
  have ht := hr (fun u => (u.tables, u.work)) (fun _ _ => rfl)
  refine Within.step ((within_refl s).put (hstore := fun w => wf_foldl _ _ _ (fun st k v => wf_undefine _ _ _ _ v) w) (only
    := ?_))
    (within_useFree _)
  intro f
  cases f <;> first | exact .inl (by decide) | exact .inr rfl | exact .inr hb | exact .inr hi | exact .inr ht

theorem within_histBuild (s : State) (j : Job) (ws : List Nat) :
    Within severeParts s (State.histBuild s j ws) := by
  have h : Within severeParts s s := within_refl _
  unfold State.histBuild
  extract_lets -underBinder -merge
  refine ite_within (h.step (within_endJob _ _ _ _ _)) ?_
  split
  · exact ite_within ((h.step (within_lostWrite _ _ _ _)).step (within_settleEarly _ _)) (h.step (within_askRange _ _ _ _ _
      _ _))
  · extract_lets -underBinder -merge
    exact ((h.step (within_useFree _)).step (within_issue _ _ _ _ _ _ _ _)).step (within_modJob _ _ _)

theorem within_histPass (s : State) (j : Job) :
    Within severeParts s (State.histPass s j) := by
  have h : Within severeParts s s := within_refl _
  unfold State.histPass
  extract_lets -underBinder -merge
  split
  · exact h.step (within_askPass _ _ _)
  · exact h.step (within_askXlat _ _ _ _ _)
  · extract_lets -underBinder -merge a1
    have h2 : Within severeParts s a1 := ite_within ((h.step (within_spoilScratch _ _)).step (within_modJob _ _ _)) h
    clear_value a1
    split
    · exact ((h2.step (within_countRead _ _ _ _)).step (within_noteEarly _ _ _)).step (within_settleEarly _ _)
    · exact h2.step (within_passWait _ _ _ _)
    · exact (h2.step (within_correctStaging _ _ _)).step (within_histBuild _ _ _)

theorem within_histFinish (s : State) (w : Work) (t : Thread) (l : List (Nat × List Byte)) :
    LandWithin severeParts s (State.histFinish s w t l) := by
  have h : Within severeParts s s := within_refl _
  unfold State.histFinish
  extract_lets -underBinder -merge
  split
  · next t3 e2 =>
      have k1 : Within severeParts s t3 := land_within e2 (h.land (within_landCells _ _ _ _ _ _ _ _))
      exact (k1.step (within_correctStaging _ _ _)).step (within_threadRan _ _ _ _ _ _)
  · exact h.land (within_landCells _ _ _ _ _ _ _ _)

theorem within_settleHist (s : State) (uid : Nat) :
    Within endRawParts s (State.settleHist s uid) := by
  have h : Within endRawParts s s := within_refl _
  unfold State.settleHist
  split
  · exact h
  · exact ite_within h (h.step (within_endJob _ _ _ _ _))

theorem within_histStep (s0 : State) (uid : Nat) :
    Within severeParts s0 (State.histStep s0 uid) := by
  have h : Within severeParts s0 s0 := within_refl _
  unfold State.histStep
  extract_lets -underBinder -merge a1
  have h2 : Within severeParts s0 a1 := h.step (within_recheckJob _ _)
  clear_value a1
  split
  · exact h2
  · exact ite_within h2 (ite_within (ite_within h2 ((h2.step (within_histPass _ _)).step (within_settleHist _ _)))
      (foldl_within (fun t3 _ h4 => h4.step (within_runThread (l := severeParts) _ _ _ _ _ (fun _ _ _ _ =>
      (within_histFinish _ _ _ _).mono))) h2))

theorem within_writeFolio (s : State) (uid : Nat) :
    Within severeParts s (State.writeFolio s uid) := by
  have h : Within severeParts s s := within_refl _
  unfold State.writeFolio
  split
  · exact h
  · extract_lets -underBinder -merge
    refine ite_within h ?_
    split
    · exact ite_within ((h.step (within_lostWrite _ _ _ _)).step (within_settleEarly _ _)) (h.step (within_askRange _ _ _ _
        _ _ _))
    · exact ((h.step (within_issue _ _ _ _ _ _ _ _)).step (within_modJob _ _ _)).step (within_settleHist _ _)

end Sys2Proof.Laws
end

