-- ==== Sys2Proof/Laws/Within/Groups.lean ====
section
/-! SUPPORT. What the operations of Machine/Groups.lean (groups and barriers) stay within. -/

namespace Sys2Proof.Laws

-- One theorem at a time: many at once, in one text, hold more threads than the memory limit allows.
set_option Elab.async false

open Sys2Proof Sys2Proof.Machine

theorem within_onMsg {l : List Field} (s : State) (m : Msg) (tag epoch : Nat) (f : State → Nat → Group → State)
    (hf : ∀ t p g, Within l s t → Within l s (f t p g)) (hl : (onMsgParts.all fun f => l.contains f) = true := by decide) :
    Within l s (State.onMsg s m tag epoch f) := by
  have h : Within onMsgParts s s := within_refl _
  unfold State.onMsg
  extract_lets _ s1
  have h1 : Within onMsgParts s s1 := h.put
  clear_value s1
  split
  · exact h.mono hl
  · split
    · exact h1.mono hl
    · split
      · exact h1.mono hl
      · split
        · exact h.mono hl
        · split
          · exact hf _ _ _ (h1.mono hl)
          · exact h1.mono hl

theorem within_addWhole (s : State) (uid : Nat) (cnt : Nat) (aux : Nat) :
    Within modJobParts s (State.addWhole s uid cnt aux) := by
  have h : Within modJobParts s s := within_refl _
  unfold State.addWhole
  exact h.step (within_modJob _ _ _)

theorem within_uncontribute (s : State) (p : Nat) (g : Nat) (rank : Nat) (chunk : Nat) :
    Within modPartParts s (State.uncontribute s p g rank chunk) := by
  have h : Within modPartParts s s := within_refl _
  unfold State.uncontribute
  exact h.step (within_modGroup _ _ _ _)

theorem within_actReply (s : State) (m : Msg) :
    Within endRawParts s (State.actReply s m) := by
  have h : Within endRawParts s s := within_refl _
  unfold State.actReply
  extract_lets -underBinder -merge a1
  split
  · unfold a1
    split
    · exact h
    · refine ite_within h ?_
      split
      · exact (h.step (within_addWhole _ _ _ _)).step (within_endJob _ _ _ _ _)
      · exact h
  · unfold a1
    split
    · exact h
    · refine ite_within h ?_
      split
      · exact (h.step (within_uncontribute _ _ _ _ _)).step (within_endJob _ _ _ _ _)
      · exact h
  · unfold a1
    split
    · exact h
    · refine ite_within h ?_
      split
      · exact h.step (within_endJob _ _ _ _ _)
      · exact h
  · split
    · exact h
    · extract_lets -underBinder -merge
      exact ite_within h (h.step (within_modGroup _ _ _ _))
  · split
    · exact h.step (within_endJob _ _ _ _ _)
    · exact h
  · exact h

theorem within_reply (s : State) (p : Nat) (dst : Option MsgSrc) (m : Msg) :
    Within endRawParts s (State.reply s p dst m) := by
  have h : Within endRawParts s s := within_refl _
  unfold State.reply
  split
  · exact h.step (within_postMsg _ _ _ _)
  · exact h.step (within_actReply _ _)

theorem within_contributeFinish (s : State) (w : Work) (t : Thread) (l : List (Nat × List Byte)) :
    LandWithin severeParts s (State.contributeFinish s w t l) := by
  have h : Within severeParts s s := within_refl _
  unfold State.contributeFinish
  exact (h.step (within_correctStaging _ _ _)).step (within_threadRan _ _ _ _ _ _)

theorem within_sendContribution (s : State) (j : Job) (g : Group) (again : Bool) :
    Within sendContributionParts s (State.sendContribution s j g again) := by
  have h : Within sendContributionParts s s := within_refl _
  unfold State.sendContribution
  extract_lets -underBinder -merge
  split
  · exact ((h.step (within_countRead _ _ _ _)).step (within_noteEarly _ _ _)).step (within_settleEarly _ _)
  · extract_lets -underBinder -merge _ a1 a3
    have h2 : Within sendContributionParts s a1 := (h.step (within_useFree _)).step (within_modJob _ _ _)
    clear_value a1
    have h4 : Within sendContributionParts s a3 := h2.step (within_modGroup _ _ _ _)
    clear_value a3
    exact h4.step (within_sendMsg _ _ _ _)
  · exact h

theorem within_contributeStep (s : State) (uid : Nat) :
    Within sendContributionParts s (State.contributeStep s uid) := by
  have h : Within sendContributionParts s s := within_refl _
  unfold State.contributeStep
  split
  · exact h
  · exact ite_within (foldl_within (fun t1 _ h2 => h2.step (within_runThread (l := sendContributionParts) _ _ _ _ _ (fun _ _
      _ _ => (within_contributeFinish _ _ _ _).mono))) h) (ite_within h (ite_within (h.step (within_endJob _ _ _ _ _))
      (h.step (within_sendContribution _ _ _ _))))

theorem within_modChunk (s : State) (p : Nat) (g : Nat) (c : Nat) (f : Chunk → Chunk) :
    Within modPartParts s (State.modChunk s p g c f) := by
  have h : Within modPartParts s s := within_refl _
  unfold State.modChunk
  exact h.step (within_modGroup _ _ _ _)

theorem within_openChunk (s : State) (p : Nat) (g : Group) (c : Nat) :
    Within modPartParts s (State.openChunk s p g c) := by
  have h : Within modPartParts s s := within_refl _
  unfold State.openChunk
  exact ite_within h (h.step (within_modGroup _ _ _ _))

theorem within_fixChunk (s : State) (p : Nat) (g : Group) (c : Nat) (elems : Nat) :
    Within modPartParts s (State.fixChunk s p g c elems) := by
  have h : Within modPartParts s s := within_refl _
  unfold State.fixChunk
  exact (h.step (within_openChunk _ _ _ _)).step (within_modChunk _ _ _ _ _)

theorem within_arrivalFails (s : State) (p : Nat) (g : Group) (c : Nat) (r : Nat) :
    Within arrivalFailsParts s (State.arrivalFails s p g c r) := by
  have h : Within arrivalFailsParts s s := within_refl _
  unfold State.arrivalFails
  exact ite_within (h.step (within_abortGroup _ _ _ _)) (((h.step (within_openChunk _ _ _ _)).step (within_modChunk _ _ _ _
    _)).step (within_sendMsg _ _ _ _))

theorem within_acceptStored (s : State) (p : Nat) (g : Group) (c : Nat) (r : Nat) :
    Within endRawParts s (State.acceptStored s p g c r) := by
  have h : Within endRawParts s s := within_refl _
  unfold State.acceptStored
  exact (h.step (within_modChunk _ _ _ _ _)).step (within_reply _ _ _ _)

theorem within_slotAnswered (s : State) (p : Nat) (n : Nat) (c : Nat) (r : Nat) (okay : Bool) :
    Within arrivalFailsParts s (State.slotAnswered s p n c r okay) := by
  have h : Within arrivalFailsParts s s := within_refl _
  unfold State.slotAnswered
  extract_lets -underBinder -merge
  split
  · exact h
  · extract_lets -underBinder -merge
    exact ite_within h (ite_within (h.put.step (within_arrivalFails _ _ _ _ _)) (ite_within h (h.step (within_acceptStored _
      _ _ _ _))))

theorem within_acceptContribution (s : State) (m : Msg) :
    Within arrivalFailsParts s (State.acceptContribution s m) := by
  have h : Within arrivalFailsParts s s := within_refl _
  unfold State.acceptContribution
  split
  · refine h.step (within_onMsg (l := arrivalFailsParts) _ _ _ _ _ (fun t1 _ _ k2 => ?_))
    beta_reduce
    extract_lets -underBinder -merge _ _ a3
    have h4 : Within arrivalFailsParts s a3 := k2.step (within_fixChunk _ _ _ _ _)
    clear_value a3
    refine ite_within k2 ?_
    refine ite_within (k2.step (within_reply _ _ _ _)) ?_
    refine ite_within (k2.step (within_arrivalFails _ _ _ _ _)) ?_
    refine ite_within (k2.step (within_reply _ _ _ _)) ?_
    refine ite_within (h.step (within_fixChunk _ _ _ _ _)) ?_
    split
    · exact h4.step (within_issue _ _ _ _ _ _ _ _)
    · exact h4.step (within_arrivalFails _ _ _ _ _)
  · exact h

theorem within_resendContribution (s : State) (m : Msg) :
    Within sendContributionParts s (State.resendContribution s m) := by
  have h : Within sendContributionParts s s := within_refl _
  unfold State.resendContribution
  split
  · refine h.step (within_onMsg (l := sendContributionParts) _ _ _ _ _ (fun t1 _ _ k2 => ?_))
    beta_reduce
    split
    · exact k2.step (within_sendContribution _ _ _ _)
    · exact k2
  · exact h

theorem within_reduceFinish (s : State) (w : Work) (t : Thread) (l : List (Nat × Nat × Nat × Nat)) :
    LandWithin reduceFinishParts s (State.reduceFinish s w t l) := by
  have h : Within reduceFinishParts s s := within_refl _
  unfold State.reduceFinish
  split
  · exact trivial
  · extract_lets -underBinder -merge
    split
    · exact trivial
    · extract_lets -underBinder -merge
      exact (h.step (within_issueElems _ _ _ _ _ _ _)).step (within_threadRan _ _ _ _ _ _)

theorem within_fanWrite (s : State) (j : Job) (g : Group) (r : Nat) (header : Bool) :
    Within severeParts s (State.fanWrite s j g r header) := by
  have h : Within severeParts s s := within_refl _
  unfold State.fanWrite
  extract_lets -underBinder -merge
  refine ite_within (h.step (within_lostWrite _ _ _ _)) ?_
  split
  · exact h.step (within_askXlat _ _ _ _ _)
  · extract_lets -underBinder -merge
    exact (h.step (within_issueElems _ _ _ _ _ _ _)).step (within_modJob _ _ _)

theorem within_reduceFlow (s : State) (uid : Nat) :
    Within severeParts s (State.reduceFlow s uid) := by
  have h : Within severeParts s s := within_refl _
  unfold State.reduceFlow
  split
  · exact h
  · extract_lets -underBinder -merge _ _ _ a1 a3
    have h2 : Within severeParts s a1 := foldl_within (fun t7 _ h8 => h8.step (within_fanWrite _ _ _ _ _)) h
    clear_value a1
    have h4 : Within severeParts s a3 := foldl_within (fun t5 _ h6 => h6.step (within_fanWrite _ _ _ _ _)) h2
    clear_value a3
    refine ite_within h ?_
    refine ite_within ?_ (ite_within h (ite_within ((h4.step (within_modChunk _ _ _ _ _)).step (within_endJob _ _ _ _ _))
      (h4.step (within_settleEarly _ _))))
    refine ite_within h ?_
    split
    · exact (h.step (within_noteEarly _ _ _)).step (within_settleEarly _ _)
    · exact (h.step (within_issue _ _ _ _ _ _ _ _)).step (within_modJob _ _ _)

theorem within_countResidue (s : State) (j : Job) (r : Residue) :
    Within severeParts s (State.countResidue s j r) := by
  have h : Within severeParts s s := within_refl _
  unfold State.countResidue
  exact ite_within (foldl_within (fun t1 _ h2 => h2.step (within_countEvent _ _ _ _)) h) h

theorem within_reduceStep (s : State) (uid : Nat) (residue : Residue) :
    Within severeParts s (State.reduceStep s uid residue) := by
  have h : Within severeParts s s := within_refl _
  unfold State.reduceStep
  split
  · exact h
  · extract_lets -underBinder -merge _ _ a1
    have h2 : Within severeParts s a1 := h.step (within_countResidue _ _ _)
    clear_value a1
    split
    · exact h2.step (within_abortGroup _ _ _ _)
    · extract_lets -underBinder -merge a3 _ a5 a7
      have h4 : Within severeParts s a3 := ite_within h2 ((h2.step (within_fixChunk _ _ _ _ _)).step (within_modJob _ _ _))
      clear_value a3
      have h6 : Within severeParts s a5 := ite_within (h4.step (within_modJob _ _ _)) h4
      clear_value a5
      have h8 : Within severeParts s a7 := foldl_within (fun t9 _ h10 => h10.step (within_runThread (l := severeParts) _ _ _
        _ _ (fun _ _ _ _ => (within_reduceFinish _ _ _ _).mono))) h6
      clear_value a7
      exact ite_within (h2.step (within_endJob _ _ _ _ _)) (h8.step (within_reduceFlow _ _))

theorem within_collectFinish (s : State) (w : Work) (t : Thread) (l : List (Nat × List Byte)) :
    LandWithin reduceFinishParts s (State.collectFinish s w t l) := by
  have h : Within reduceFinishParts s s := within_refl _
  unfold State.collectFinish
  split
  · exact trivial
  · extract_lets -underBinder -merge
    split
    · next t3 e2 =>
        have k1 : Within reduceFinishParts s t3 := land_within e2 (h.land (within_landCells _ _ _ _ _ _ _ _))
        exact k1.step (within_threadRan _ _ _ _ _ _)
    · exact h.land (within_landCells _ _ _ _ _ _ _ _)

theorem within_collectFlow (s : State) (uid : Nat) :
    Within endRawParts s (State.collectFlow s uid) := by
  have h : Within endRawParts s s := within_refl _
  unfold State.collectFlow
  split
  · exact h
  · exact ite_within ((h.step (within_addWhole _ _ _ _)).step (within_endJob _ _ _ _ _)) h

theorem within_collectStep (s0 : State) (uid : Nat) :
    Within sendContributionParts s0 (State.collectStep s0 uid) := by
  have h : Within sendContributionParts s0 s0 := within_refl _
  unfold State.collectStep
  extract_lets -underBinder -merge a1
  have h2 : Within sendContributionParts s0 a1 := h.step (within_recheckJob _ _)
  clear_value a1
  split
  · exact h2
  · extract_lets -underBinder -merge _ _ a3
    refine ite_within h2 ?_
    refine ite_within ((foldl_within (fun t4 _ h5 => h5.step (within_runThread (l := sendContributionParts) _ _ _ _ _ (fun _
      _ _ _ => (within_collectFinish _ _ _ _).mono))) h2).step (within_collectFlow _ _)) ?_
    refine ite_within h2 ?_
    split
    · exact ((h2.step (within_countRead _ _ _ _)).step (within_noteEarly _ _ _)).step (within_settleEarly _ _)
    · exact h2.step (within_passWait _ _ _ _)
    · unfold a3
      exact h2.step (within_modJob _ _ _)
    · refine Within.step ?_ (within_modJob _ _ _)
      unfold a3
      exact h2.step (within_modJob _ _ _)
    · refine ite_within (h2.step (within_abortGroup _ _ _ _)) ?_
      refine Within.step ?_ (within_sendMsg _ _ _ _)
      refine Within.step ?_ (within_modJob _ _ _)
      unfold a3
      exact h2.step (within_modJob _ _ _)

theorem within_rewritten (s : State) (f : Job → Bool) :
    Within modJobParts s (State.rewritten s f) := by
  have h : Within modJobParts s s := within_refl _
  unfold State.rewritten
  exact h.put

theorem within_rewriteDone (s : State) (p : Nat) (g : Nat) (c : Nat) (r : Nat) :
    Within modJobParts s (State.rewriteDone s p g c r) := by
  have h : Within modJobParts s s := within_refl _
  unfold State.rewriteDone
  exact ite_within h (h.step (within_rewritten _ _))

theorem within_rewriteResult (s : State) (m : Msg) :
    Within sendMsgParts s (State.rewriteResult s m) := by
  have h : Within sendMsgParts s s := within_refl _
  unfold State.rewriteResult
  split
  · refine h.step (within_onMsg (l := sendMsgParts) _ _ _ _ _ (fun t1 _ _ k2 => ?_))
    beta_reduce
    split
    · exact k2
    · extract_lets -underBinder -merge
      split
      · exact h
      · exact (k2.step (within_issueElems _ _ _ _ _ _ _)).step (within_rewriteDone _ _ _ _ _)
  · exact h

theorem within_groupWait (s : State) (uid : Nat) :
    Within endRawParts s (State.groupWait s uid) := by
  have h : Within endRawParts s s := within_refl _
  unfold State.groupWait
  split
  · extract_lets -underBinder -merge
    refine ite_within h ?_
    split
    · exact h.step (within_endJob _ _ _ _ _)
    · exact h
  · exact ite_within h (h.step (within_endJob _ _ _ _ _))
  · exact h

theorem within_groupBarrierStep (s : State) (uid : Nat) :
    Within groupBarrierStepParts s (State.groupBarrierStep s uid) := by
  have h : Within groupBarrierStepParts s s := within_refl _
  unfold State.groupBarrierStep
  split
  · exact h
  · split
    · exact h
    · extract_lets -underBinder -merge
      exact ite_within h ((h.step (within_modGroup _ _ _ _)).step (within_sendMsg _ _ _ _))

theorem within_sendClose (s : State) (p : Nat) (g : Group) (epoch : Nat) (dst : List (Option MsgSrc)) :
    Within sendMsgParts s (State.sendClose s p g epoch dst) := by
  have h : Within sendMsgParts s s := within_refl _
  unfold State.sendClose
  exact foldl_within (fun t1 _ h2 => h2.step (within_sendMsg _ _ _ _)) h

theorem within_readyArrives (s : State) (m : Msg) :
    Within groupBarrierStepParts s (State.readyArrives s m) := by
  have h : Within groupBarrierStepParts s s := within_refl _
  unfold State.readyArrives
  split
  · refine h.step (within_onMsg (l := groupBarrierStepParts) _ _ _ _ _ (fun t1 _ _ k2 => ?_))
    beta_reduce
    extract_lets -underBinder -merge _ a3
    have h4 : Within groupBarrierStepParts s a3 := k2.step (within_modGroup _ _ _ _)
    clear_value a3
    exact ite_within k2 (ite_within (h4.step (within_sendClose _ _ _ _ _)) (k2.step (within_modGroup _ _ _ _)))
  · exact h

theorem within_closeArrives (s : State) (m : Msg) :
    Within arrivalFailsParts s (State.closeArrives s m) := by
  have h : Within arrivalFailsParts s s := within_refl _
  unfold State.closeArrives
  split
  · extract_lets -underBinder -merge _ a1
    have h2 : Within arrivalFailsParts s a1 := h.put
    clear_value a1
    refine ite_within h ?_
    split
    · exact h2
    · extract_lets -underBinder -merge a3 a4
      have h5 : Within arrivalFailsParts s a4 := foldl_within (fun t6 _ h7 => h7.step (within_endJob _ _ _ _ _)) h2
      clear_value a4
      refine ite_within h2 ?_
      refine ite_within ?_ ?_
      · unfold a3
        exact (h5.step (within_modGroup _ _ _ _)).step (within_reply _ _ _ _)
      · refine ite_within h ?_
        unfold a3
        exact h2.step (within_reply _ _ _ _)
  · exact h

theorem within_repeatClose (s : State) (p : Nat) (n : Nat) :
    Within sendMsgParts s (State.repeatClose s p n) := by
  have h : Within sendMsgParts s s := within_refl _
  unfold State.repeatClose
  split
  · exact h
  · split
    · exact h
    · extract_lets -underBinder -merge
      exact h.step (within_sendClose _ _ _ _ _)

theorem within_epochTimesOut (s : State) (p : Nat) (n : Nat) :
    Within endRawParts s (State.epochTimesOut s p n) := by
  have h : Within endRawParts s s := within_refl _
  unfold State.epochTimesOut
  split
  · exact h
  · refine ite_within h ?_
    split
    · exact h.step (within_endJob _ _ _ _ _)
    · exact h

theorem within_abortArrives (s : State) (m : Msg) :
    Within arrivalFailsParts s (State.abortArrives s m) := by
  have h : Within arrivalFailsParts s s := within_refl _
  unfold State.abortArrives
  split
  · extract_lets -underBinder -merge _ a1
    have h2 : Within arrivalFailsParts s a1 := h.put
    clear_value a1
    refine ite_within h ?_
    split
    · exact h2
    · extract_lets -underBinder -merge a3
      refine ite_within ?_ ?_
      · unfold a3
        exact ite_within (foldl_within (fun t4 _ h5 => h5.step (within_postMsg _ _ _ _)) h2) h2
      · refine ite_within h ?_
        refine ite_within ?_ ?_
        · refine ite_within h2 ?_
          refine Within.step ?_ (within_endGroupJobs _ _ _ _)
          refine Within.step ?_ (within_modGroup _ _ _ _)
          unfold a3
          exact ite_within (foldl_within (fun t6 _ h7 => h7.step (within_postMsg _ _ _ _)) h2) h2
        · unfold a3
          exact ite_within (foldl_within (fun t8 _ h9 => h9.step (within_postMsg _ _ _ _)) h2) h2
  · exact h

theorem within_exchangePass (s : State) (j : Job) :
    Within severeParts s (State.exchangePass s j).1 := by
  have h : Within severeParts s s := within_refl _
  unfold State.exchangePass
  split
  · exact ((h.step (within_countRead _ _ _ _)).step (within_noteEarly _ _ _)).step (within_settleEarly _ _)
  · exact h
  · exact h.step (within_passWait _ _ _ _)

theorem within_issueParts {s t : State} {own : Owner} {j : Job} {g : Group} {parts : List (Nat × Nat × List (Byte × Nat))}
    {f : State.Put8 → State.Put8} {span : Option Nat} (e : s.issueParts own j g parts f span = some t) : Within pumpGoParts
      s t := by
  unfold State.issueParts at e
  split at e
  · cases e
  · cases e
    refine foldl_within (fun t _ h => ?_) (within_refl s)
    split
    · split
      · exact h
      · exact h.step (within_issueElems _ _ _ _ _ _ _)
    · exact h

theorem within_dispatchIndex (s : State) (j : Job) (g : Group) :
    Within severeParts s (State.dispatchIndex s j g) := by
  have h : Within severeParts s s := within_refl _
  unfold State.dispatchIndex
  extract_lets -underBinder -merge
  split
  · next t3 e2 =>
      have k1 : Within severeParts s t3 := fst_within e2 (h.step (within_exchangePass _ _))
      exact k1
  · next t6 _ e5 =>
      have k4 : Within severeParts s t6 := fst_within e5 (h.step (within_exchangePass _ _))
      extract_lets -underBinder -merge
      split
      · exact (h.step (within_lostWrite _ _ _ _)).step (within_settleEarly _ _)
      · extract_lets -underBinder -merge
        split
        · exact h.step (within_askXlat _ _ _ _ _)
        · next t9 e8 =>
            have k7 : Within severeParts s t9 := h.step (within_issueParts e8)
            exact k7.step (within_modJob _ _ _)

theorem within_dispatchFinish (s : State) (w : Work) (t : Thread) (l : List (Nat × List Byte)) :
    LandWithin severeParts s (State.dispatchFinish s w t l) := by
  have h : Within severeParts s s := within_refl _
  unfold State.dispatchFinish
  split
  · exact trivial
  · extract_lets -underBinder -merge
    split
    · exact trivial
    · split
      · exact trivial
      · next t3 e2 =>
          have k1 : Within severeParts s t3 := h.step (within_issueParts e2)
          exact ((k1.step (within_useFree _)).step (within_correctStaging _ _ _)).step (within_threadRan _ _ _ _ _ _)

theorem within_dispatchFlow (s : State) (uid : Nat) :
    Within severeParts s (State.dispatchFlow s uid) := by
  have h : Within severeParts s s := within_refl _
  unfold State.dispatchFlow
  split
  · exact h
  · extract_lets -underBinder -merge
    refine ite_within h ?_
    refine ite_within (h.step (within_endJob _ _ _ _ _)) ?_
    split
    · exact (h.step (within_lostWrite _ _ _ _)).step (within_settleEarly _ _)
    · extract_lets -underBinder -merge
      split
      · next t3 _ e2 _ =>
          have k1 : Within severeParts s t3 := h.step (within_issueParts e2)
          exact (k1.step (within_issueElems _ _ _ _ _ _ _)).step (within_modJob _ _ _)
      · exact (h.step (within_askXlat _ _ _ _ _)).step (within_askRange _ _ _ _ _ _ _)

theorem within_dispatchStep (s0 : State) (uid : Nat) :
    Within severeParts s0 (State.dispatchStep s0 uid) := by
  have h : Within severeParts s0 s0 := within_refl _
  unfold State.dispatchStep
  extract_lets -underBinder -merge a1
  have h2 : Within severeParts s0 a1 := h.step (within_recheckJob _ _)
  clear_value a1
  split
  · exact h2
  · exact ite_within h2 (ite_within (ite_within h2 (h2.step (within_dispatchIndex _ _ _))) ((foldl_within (fun t3 _ h4 =>
      h4.step (within_runThread (l := severeParts) _ _ _ _ _ (fun _ _ _ _ => (within_dispatchFinish _ _ _ _).mono)))
      h2).step (within_dispatchFlow _ _)))

theorem within_combineFinish (s : State) (w : Work) (t : Thread) (l : List (Nat × State.Put)) :
    LandWithin severeParts s (State.combineFinish s w t l) := by
  have h : Within severeParts s s := within_refl _
  unfold State.combineFinish
  exact h.land (within_tileFinish _ _ _ _ _ _)

theorem within_combineStep (s0 : State) (uid : Nat) (tile : Nat) :
    Within severeParts s0 (State.combineStep s0 uid tile) := by
  have h : Within severeParts s0 s0 := within_refl _
  unfold State.combineStep
  extract_lets -underBinder -merge a1
  have h2 : Within severeParts s0 a1 := h.step (within_recheckJob _ _)
  clear_value a1
  split
  · exact h2
  · refine ite_within h2 ?_
    refine ite_within (h2.step (within_runThread (l := severeParts) _ _ _ _ _ (fun _ _ _ _ => (within_combineFinish _ _ _
      _).mono))) ?_
    refine ite_within h2 ?_
    split
    · next t5 e4 =>
        have k3 : Within severeParts s0 t5 := fst_within e4 (h2.step (within_exchangePass _ _))
        exact k3
    · next t8 _ e7 =>
        have k6 : Within severeParts s0 t8 := fst_within e7 (h2.step (within_exchangePass _ _))
        exact h2.step (within_modJob _ _ _)

theorem within_groupFlow (s : State) (uid : Nat) :
    Within severeParts s (State.groupFlow s uid) := by
  have h : Within severeParts s s := within_refl _
  unfold State.groupFlow
  exact ((h.step (within_reduceFlow _ _)).step (within_collectFlow _ _)).step (within_dispatchFlow _ _)

theorem within_barrierStep (s : State) (uid : Nat) :
    Within endRawParts s (State.barrierStep s uid) := by
  have h : Within endRawParts s s := within_refl _
  unfold State.barrierStep
  split
  · exact h
  · extract_lets -underBinder -merge _ _ _ _ _ a1 a3
    have h2 : Within endRawParts s a1 := (h.step (within_modPart _ _ _)).step (within_modJob _ _ _)
    clear_value a1
    have h4 : Within endRawParts s a3 := ite_within h (foldl_within (fun t5 _ h6 => h6.step (within_postMsg _ _ _ _)) h2)
    clear_value a3
    refine ite_within h ?_
    refine ite_within h ?_
    refine ite_within (ite_within (h.step (within_endJob _ _ _ _ _)) h) ?_
    refine ite_within (h.step (within_endJob _ _ _ _ _)) ?_
    split
    · exact ite_within (h4.step (within_endJob _ _ _ _ _)) h4
    · exact h4

theorem within_deckArrives (s : State) (m : Msg) :
    Within arrivalFailsParts s (State.deckArrives s m) := by
  have h : Within arrivalFailsParts s s := within_refl _
  unfold State.deckArrives
  split
  · extract_lets -underBinder -merge _ a1
    have h2 : Within arrivalFailsParts s a1 := h.put
    clear_value a1
    refine ite_within h ?_
    split
    · exact (h2.step (within_modJob _ _ _)).step (within_barrierStep _ _)
    · exact ite_within (h2.step (within_modPart _ _ _)) (h2.step (within_postMsg _ _ _ _))
  · exact h

end Sys2Proof.Laws
end

