-- ==== Sys2Proof/Laws/Within/Ports.lean ====
section
/-! SUPPORT. What the operations of Machine/Ports.lean (the ports) stay within. -/

namespace Sys2Proof.Laws

-- One theorem at a time: many at once, in one text, hold more threads than the memory limit allows.
set_option Elab.async false

open Sys2Proof Sys2Proof.Machine

theorem within_settleAll (s : State) (uid : Nat) :
    Within severeParts s (State.settleAll s uid) := by
  have h : Within severeParts s s := within_refl _
  unfold State.settleAll
  exact ((((h.step (within_flushClosings _ _)).step (within_flushRedos _ _)).step (within_settle _ _)).step
    (within_settleHist _ _)).step (within_groupFlow _ _)

theorem within_jobEvent (s : State) (uid : Nat) (elem : Nat) (code : Nat) (route : Nat) (rank : Nat) (halt : Bool) :
    Within severeParts s (State.jobEvent s uid elem code route rank halt) := by
  have h : Within severeParts s s := within_refl _
  unfold State.jobEvent
  split
  · extract_lets -underBinder -merge
    exact (h.step (within_noteEarly _ _ _)).step (within_settleAll _ _)
  · exact h

theorem within_closingFails (s : State) (uid : Nat) (elem : Nat) (code : Nat) (route : Nat) (halt : Bool) :
    Within severeParts s (State.closingFails s uid elem code route halt) := by
  have h : Within severeParts s s := within_refl _
  unfold State.closingFails
  extract_lets -underBinder -merge a1
  have h2 : Within severeParts s a1 := h.step (within_modJob _ _ _)
  clear_value a1
  exact ((h2.step (within_noteEarly _ _ _)).step (within_lowerPos _ _ _)).step (within_settleAll _ _)

theorem within_decodeFails (s : State) (uid : Nat) (code : Nat) (route : Nat) (halt : Bool) :
    Within endRawParts s (State.decodeFails s uid code route halt) := by
  have h : Within endRawParts s s := within_refl _
  unfold State.decodeFails
  split
  · exact h
  · exact ite_within h (ite_within (h.step (within_haltJob _ _ _ _)) ((h.step (within_endJob _ _ _ _ _)).step
      (within_modQueue _ _ _)))

theorem within_redoFails (s : State) (uid : Nat) (g : Nat) (code : Nat) (route : Nat) (second : Option Nat) (halt : Bool) :
    Within severeParts s (State.redoFails s uid g code route second halt) := by
  have h : Within severeParts s s := within_refl _
  unfold State.redoFails
  split
  · exact h
  · refine ite_within h ?_
    split
    · exact ((h.step (within_noteEarly _ _ _)).step (within_cancelRedo _ _ _)).step (within_settleAll _ _)
    · exact ite_within ((h.step (within_noteEarly _ _ _)).step (within_settleAll _ _)) ((h.step (within_cancelRedo _ _
        _)).step (within_settleAll _ _))

theorem within_ringStop (s : State) (q : QId) (code : Nat) :
    Within flushDueParts s (State.ringStop s q code) := by
  have h : Within flushDueParts s s := within_refl _
  unfold State.ringStop
  split
  · exact h
  · exact ite_within ((h.step (within_modQueue _ _ _)).step (within_enterError _ _ _ _ _)) h

theorem within_adminFails (s : State) (aq : Nat) (code : Nat) (route : Nat) :
    Within adminFailsParts s (State.adminFails s aq code route) := by
  have h : Within adminFailsParts s s := within_refl _
  unfold State.adminFails
  split
  · exact h
  · exact ite_within (((h.step (within_adminEffect _ _)).step (within_modQueue _ _ _)).step (within_endAdmin _ _ _ _ _ _)) h

theorem within_inboundFails (s : State) (id : Nat) :
    Within inboundFailsParts s (State.inboundFails s id) := by
  have h : Within inboundFailsParts s s := within_refl _
  unfold State.inboundFails
  split
  · exact h
  · extract_lets -underBinder -merge
    exact h.put.step (within_emit _ _)

theorem within_accessFails (s : State) (a : Access) (code : Nat) (route : Nat) (halt : Bool) :
    Within accessFailsParts s (State.accessFails s a code route halt) := by
  have h : Within accessFailsParts s s := within_refl _
  unfold State.accessFails
  split
  · exact h.step (within_jobEvent _ _ _ _ _ _ _)
  · exact h.step (within_jobEvent _ _ _ _ _ _ _)
  · exact h.step (within_closingFails _ _ _ _ _ _)
  · exact h.step (within_decodeFails _ _ _ _ _)
  · exact h.step (within_redoFails _ _ _ _ _ _ _)
  · exact h.step (within_ringStop _ _ _)
  · exact ite_within h (h.step (within_stopPacer _ _ _))
  · exact h.step (within_adminFails _ _ _ _)
  · extract_lets -underBinder -merge
    exact h.put
  · exact h.step (within_inboundFails _ _)
  · exact h
  · exact h
  · exact h

theorem within_redoWriteFails (s : State) (uid : Nat) (a : Nat) :
    Within severeParts s (State.redoWriteFails s uid a) := by
  have h : Within severeParts s s := within_refl _
  unfold State.redoWriteFails
  split
  · exact h
  · split
    · exact (h.step (within_cancelRedo _ _ _)).step (within_lowerPos _ _ _)
    · exact h

theorem within_answered (s : State) (w : Request) (code : Option Nat) :
    Within answeredParts s (State.answered s w code) := by
  have h : Within answeredParts s s := within_refl _
  unfold State.answered
  extract_lets -underBinder -merge a1 a3
  have h2 : Within answeredParts s a1 := by
    unfold a1
    split
    · exact h.step (within_closingFails _ _ _ _ _ _)
    · exact h
    · exact h
    · exact (h.step (within_noteEarly _ _ _)).step (within_redoWriteFails _ _ _)
    · exact h.step (within_noteEarly _ _ _)
    · exact h.step (within_slotAnswered _ _ _ _ _ _)
    · exact h.step (within_rewriteDone _ _ _ _ _)
    · exact h.step (within_stopPacer _ _ _)
    · exact h.step (within_stopPacer _ _ _)
    · exact h.step (within_adminFails _ _ _ _)
    · extract_lets -underBinder -merge
      exact h.put
    · exact h
  clear_value a1
  have h4 : Within answeredParts s a3 := by
    unfold a3
    split
    · exact h2.step (within_settleAll _ _)
    · exact h2
  clear_value a3
  exact h4.step (within_settleFences _)

theorem within_pumpPort (s : State) (p : Port) :
    Within answeredParts s (State.pumpPort s p) := by
  have h : Within answeredParts s s := within_refl _
  unfold State.pumpPort
  extract_lets -underBinder -merge a1
  have h2 : Within answeredParts s a1.1 := h.step (within_pump _ _)
  exact foldl_within (fun t3 _ h4 => h4.step (within_answered _ _ _)) h2

theorem within_modSent (s : State) (read : Bool) (p : Port) (tag : Nat) (f : Request → Option Request) :
    Within putPortParts s (State.modSent s read p tag f) := by
  have h : Within putPortParts s s := within_refl _
  unfold State.modSent
  exact h.put

theorem within_writeResponse (s : State) (p : Port) (tag : Nat) (res : Resp) :
    Within answeredParts s (State.writeResponse s p tag res) := by
  have h : Within answeredParts s s := within_refl _
  unfold State.writeResponse
  split
  · exact h.step (within_countEvent _ _ _ _)
  · extract_lets -underBinder -merge a1 _ a3
    have h2 : Within answeredParts s a1 := h.step (within_modSent _ _ _ _ _)
    clear_value a1
    have h4 : Within answeredParts s a3 := ite_within (h2.step (within_countEvent _ _ _ _)) h2
    clear_value a3
    exact ite_within (h2.step (within_pumpPort _ _)) (((h4.step (within_landBody _ _ _)).step (within_answered _ _ _)).step
      (within_pumpPort _ _))

theorem within_storeGranule (s : State) (t : Target × Nat) (data : Granule) (poison : Bool) (newer : List Nat) :
    Within storeGranuleParts s (State.storeGranule s t data poison newer) := by
  unfold State.storeGranule
  extract_lets k bytes st
  have hr : { st with mem := s.store.mem } = s.store := writeAll_rest _ _
  have hw : Memory.wf s.store → Memory.wf st := wf_writeAll _ _
  clear_value st
  refine (within_refl s).change ?_ (fun w => ?_) (by decide)
  · split
    · exact congrArg (fun u : Store => { u with poison := s.store.poison }) hr
    · exact congrArg (fun u : Store => { u with poison := s.store.poison }) hr
  · split
    · exact hw w
    · exact wf_setPoison _ _ _ (hw w)

theorem within_correctRead (s : State) (port : Port) (t : Target × Nat) (c : FaultCtx) :
    Within severeParts s (State.correctRead s port t c) := by
  have h : Within severeParts s s := within_refl _
  unfold State.correctRead
  split
  · exact ite_within (h.step (within_countEvent _ _ _ _)) h
  · exact h

theorem within_otherData (s : State) (port : Port) (a : Access) (addr : Nat) (data : Granule) (poison : Bool) (bad : Resp) :
    Within accessFailsParts s (State.otherData s port a addr data poison bad) := by
  have h : Within accessFailsParts s s := within_refl _
  unfold State.otherData
  extract_lets -underBinder -merge _ _ _ a1
  have h2 : Within accessFailsParts s a1 := h.step (within_countBytes _ _ _ _ _)
  clear_value a1
  refine ite_within (h.step (within_countEvent _ _ _ _)) ?_
  split
  · exact (ite_within (h2.step (within_countEvent _ _ _ _)) h2).step (within_accessFails _ _ _ _ _)
  · exact h2
  · extract_lets -underBinder -merge a3
    have h4 : Within accessFailsParts s a3 := (h2.step (within_correctRead _ _ _ _)).step (within_storeGranule _ _ _ _ _)
    clear_value a3
    exact ite_within ((h4.step (within_countEvent _ _ _ _)).step (within_accessFails _ _ _ _ _)) h4

theorem within_modSeen (s : State) (uid : Nat) (tile : Nat) (f : Seen → Seen) :
    Within modJobParts s (State.modSeen s uid tile f) := by
  have h : Within modJobParts s s := within_refl _
  unfold State.modSeen
  exact h.step (within_modJob _ _ _)

theorem within_wakeReader (s : State) (uid : Nat) (tile : Nat) :
    Within sendContributionParts s (State.wakeReader s uid tile) := by
  have h : Within sendContributionParts s s := within_refl _
  unfold State.wakeReader
  split
  · exact h
  · extract_lets -underBinder -merge b1
    clear_value b1
    refine ite_within ?_ ?_
    · split
      · exact h.step (within_probeThread _ _ _ _)
      · exact h.step (within_probeThread _ _ _ _)
      · exact h.step (within_probeThread _ _ _ _)
      · exact h.step (within_probeThread _ _ _ _)
      · exact h.step (within_probeThread _ _ _ _)
      · exact h.step (within_probeThread _ _ _ _)
      · exact h.step (within_probeThread _ _ _ _)
      · exact h.step (within_probeThread _ _ _ _)
      · exact h.step (within_probeThread _ _ _ _)
    · split
      · exact h.step (within_redoGroup _ _ _)
      · refine ite_within (h.step (within_indexPass _ _)) ?_
        refine ite_within (h.step (within_scalePass _ _ _ _)) ?_
        refine ite_within h ?_
        split
        · exact h.step (within_collectStep _ _)
        · exact h.step (within_dispatchStep _ _)
        · exact h.step (within_combineStep _ _ _)
        · exact h.step (within_buildTables _ _)
        · exact h.step (within_histStep _ _)
        · exact h

theorem within_returned (s : State) (p : Port) (tag : Nat) (r : Request) (f : Fetch) (gs : List Nat) :
    Within answeredParts s (State.returned s p tag r f gs) := by
  have h : Within answeredParts s s := within_refl _
  unfold State.returned
  extract_lets -underBinder -merge _ a1
  have h2 : Within answeredParts s a1 := h.step (within_modSent _ _ _ _ _)
  clear_value a1
  refine ite_within ?_ (h.step (within_modSent _ _ _ _ _))
  refine Within.step ?_ (within_pumpPort _ _)
  split
  · exact h2.step (within_giveTags _ _)
  · exact h2

theorem within_fetchData (s : State) (port : Port) (tag : Nat) (addr : Nat) (data : Granule) (poison : Bool) (bad : Resp) :
    Within answeredParts s (State.fetchData s port tag addr data poison bad) := by
  have h : Within answeredParts s s := within_refl _
  unfold State.fetchData
  extract_lets -underBinder -merge _ b1
  clear_value b1
  split
  · exact h.step (within_countEvent _ _ _ _)
  · extract_lets -underBinder -merge _ _ a2 a4 _ a6 a8
    have h3 : Within answeredParts s a2 := ite_within (h.step (within_storeGranule _ _ _ _ _)) h
    clear_value a2
    have h5 : Within answeredParts s a4 := h3.step (within_returned _ _ _ _ _ _)
    clear_value a4
    have h7 : Within answeredParts s a6 := h5.step (within_countBytes _ _ _ _ _)
    clear_value a6
    have h9 : Within answeredParts s a8 := ite_within (h7.step (within_countEvent _ _ _ _)) (ite_within (h7.step
      (within_countEvent _ _ _ _)) h7)
    clear_value a8
    refine ite_within h5 ?_
    refine ite_within (ite_within h9 (h9.step (within_countEvent _ _ _ _))) ?_
    split
    · split
      · exact (h9.step (within_modSeen _ _ _ _)).step (within_wakeReader _ _ _)
      · extract_lets -underBinder -merge a10
        have h11 : Within answeredParts s a10 := (h9.step (within_correctRead _ _ _ _)).step (within_modSeen _ _ _ _)
        clear_value a10
        exact ite_within (h11.step (within_wakeReader _ _ _)) h11
    · exact h9

theorem within_readData (s : State) (port : Port) (a : Access) (addr : Nat) (data : Granule) (poison : Bool) (res : Resp) :
    Within readDataParts s (State.readData s port a addr data poison res) := by
  have h : Within readDataParts s s := within_refl _
  unfold State.readData
  extract_lets -underBinder -merge
  refine ite_within h.put ?_
  split
  · exact h.step (within_fetchData _ _ _ _ _ _ _)
  · exact h.step (within_countEvent _ _ _ _)
  · exact h.step (within_countEvent _ _ _ _)
  · exact h.step (within_countEvent _ _ _ _)
  · exact h.step (within_countEvent _ _ _ _)
  · exact h.step (within_countEvent _ _ _ _)
  · extract_lets -underBinder -merge a1
    have h2 : Within readDataParts s a1 := ite_within (h.step (within_countEvent _ _ _ _)) (ite_within (h.step
      (within_countEvent _ _ _ _)) h)
    clear_value a1
    exact ite_within h2 (h2.step (within_countEvent _ _ _ _))
  · exact h.step (within_otherData _ _ _ _ _ _ _)

theorem within_fetchTimeout (s : State) (port : Port) (tag : Nat) :
    Within answeredParts s (State.fetchTimeout s port tag) := by
  have h : Within answeredParts s s := within_refl _
  unfold State.fetchTimeout
  split
  · exact h
  · extract_lets -underBinder -merge _ a1 a3
    have h2 : Within answeredParts s a1 := (h.step (within_modSent _ _ _ _ _)).step (within_countEvent _ _ _ _)
    clear_value a1
    have h4 : Within answeredParts s a3 := by
      unfold a3
      split
      · exact (h2.step (within_giveTags _ _)).step (within_pumpPort _ _)
      · exact h2
    clear_value a3
    refine ite_within (h4.step (within_countEvent _ _ _ _)) ?_
    split
    · exact (h4.step (within_modSeen _ _ _ _)).step (within_wakeReader _ _ _)
    · exact h4

theorem within_requestTimeout (s : State) (port : Port) (a : Access) (tag : Nat) :
    Within readDataParts s (State.requestTimeout s port a tag) := by
  have h : Within readDataParts s s := within_refl _
  unfold State.requestTimeout
  split
  · exact h.step (within_fetchTimeout _ _ _)
  · split
    · exact (((h.step (within_modSent _ _ _ _ _)).step (within_countEvent _ _ _ _)).step (within_landBody _ _ _)).step
        (within_answered _ _ _)
    · extract_lets -underBinder -merge _ a1
      have h2 : Within readDataParts s a1 := h.put.step (within_countEvent _ _ _ _)
      clear_value a1
      refine ite_within h ?_
      split
      · exact h2.step (within_countEvent _ _ _ _)
      · exact h2.step (within_accessFails _ _ _ _ _)

theorem within_flushSlot (s : State) (p : Nat) (x : Xlat) :
    Within flushSlotParts s (State.flushSlot s p x) := by
  have h : Within flushSlotParts s s := within_refl _
  unfold State.flushSlot
  extract_lets -underBinder -merge
  refine foldl_within (fun t1 _ h2 => ?_) h
  beta_reduce
  split
  · extract_lets -underBinder -merge
    exact h2.put.step (within_issue _ _ _ _ _ _ _ _)
  · exact h2

theorem within_seenResult (s : State) (p : Nat) (addr : Nat) (len : Nat) :
    Within modJobParts s (State.seenResult s p addr len) := by
  have h : Within modJobParts s s := within_refl _
  unfold State.seenResult
  exact h.step (within_rewritten _ _)

theorem within_inboundGo (s : State) (id : Nat) (xl : List Xlat) :
    Within inboundGoParts s (State.inboundGo s id xl) := by
  have h : Within inboundGoParts s s := within_refl _
  unfold State.inboundGo
  split
  · exact h
  · refine ite_within (h.step (within_inboundFails _ _)) ?_
    refine ite_within ?_ ?_
    · split
      · exact h.step (within_askRange _ _ _ _ _ _ _)
      · extract_lets -underBinder -merge _ a1
        have h2 : Within inboundGoParts s a1 := h.put
        clear_value a1
        exact h2.step (within_issue _ _ _ _ _ _ _ _)
    · split
      · exact h.step (within_askRange _ _ _ _ _ _ _)
      · extract_lets -underBinder -merge
        exact h.put.step (within_emit _ _)

theorem within_mapped (s : State) (a : Access) (x : Xlat) :
    Within accessFailsParts s (State.mapped s a x) := by
  have h : Within accessFailsParts s s := within_refl _
  unfold State.mapped
  split
  · exact (h.step (within_modQueue _ _ _)).step (within_flushDue _ _)
  · exact h.step (within_modChan _ _ _)
  · split
    · exact h.step (within_modJob _ _ _)
    · exact h
  · exact h.step (within_flushSlot _ _ _)
  · exact h.step (within_inboundGo _ _ _)
  · split
    · exact (h.step (within_modJob _ _ _)).step (within_settleAll _ _)
    · exact h

theorem within_ringXlatFails (s : State) (q : QId) (iova : Nat) :
    Within flushDueParts s (State.ringXlatFails s q iova) := by
  have h : Within flushDueParts s s := within_refl _
  unfold State.ringXlatFails
  split
  · exact h
  · refine ite_within (h.step (within_modQueue _ _ _)) ?_
    split
    · exact h.step (within_modJob _ _ _)
    · exact h.step (within_ringStop _ _ _)

theorem within_xlatFails (s : State) (route : Nat) (iova : Nat) (a : Access) (fault : Bool) :
    Within accessFailsParts s (State.xlatFails s route iova a fault) := by
  have h : Within accessFailsParts s s := within_refl _
  unfold State.xlatFails
  extract_lets -underBinder -merge _ a1
  have h2 : Within accessFailsParts s a1 := ite_within (h.step (within_countEvent _ _ _ _)) h
  clear_value a1
  split
  · exact h2.step (within_ringXlatFails _ _ _)
  · exact h2.step (within_accessFails _ _ _ _ _)

theorem within_xreqDone (s : State) (x : XReq) :
    Within askXlatParts s (State.xreqDone s x) := by
  have h : Within askXlatParts s s := within_refl _
  unfold State.xreqDone
  exact h.put

theorem within_translation (s0 : State) (route : Nat) (iova : Nat) (a : Access) (res : XResult) :
    Within accessFailsParts s0 (State.translation s0 route iova a res) := by
  have h : Within accessFailsParts s0 s0 := within_refl _
  unfold State.translation
  split
  · exact h
  · extract_lets -underBinder -merge a1
    have h2 : Within accessFailsParts s0 a1 := h.step (within_xreqDone _ _)
    clear_value a1
    refine ite_within h2 ?_
    split
    · exact ite_within (h2.step (within_mapped _ _ _)) (h2.step (within_xlatFails _ _ _ _ _))
    · exact h2.step (within_xlatFails _ _ _ _ _)
    · exact h2.step (within_xlatFails _ _ _ _ _)
    · exact h2.step (within_xlatFails _ _ _ _ _)

theorem within_grant (s : State) (p : Port) (wd : Bool) :
    Within answeredParts s (State.grant s p wd) := by
  have h : Within answeredParts s s := within_refl _
  unfold State.grant
  exact (h.step (within_putPort _ _)).step (within_pumpPort _ _)

theorem within_openConn (s : State) (c : Nat) (p : Nat) (t : Nat) :
    Within openConnParts s (State.openConn s c p t) := by
  have h : Within openConnParts s s := within_refl _
  unfold State.openConn
  exact h.put

theorem within_closeConn (s : State) (c : Nat) :
    Within openConnParts s (State.closeConn s c) := by
  have h : Within openConnParts s s := within_refl _
  unfold State.closeConn
  exact h.put

theorem within_readyWindow (s : State) (p : Nat) (w : Nat) :
    Within readyWindowParts s (State.readyWindow s p w) := by
  have h : Within readyWindowParts s s := within_refl _
  unfold State.readyWindow
  split
  · exact h
  · extract_lets -underBinder -merge
    exact ite_within h ((h.step (within_modPart _ _ _)).step (within_emit _ _))

theorem within_takeInbound (s : State) (src : MsgSrc) (p : Nat) (addr : Nat) (wr : Bool) (data : List Byte) (len : Nat) :
    Within inboundGoParts s (State.takeInbound s src p addr wr data len) := by
  have h : Within inboundGoParts s s := within_refl _
  unfold State.takeInbound
  exact h.put.step (within_inboundGo _ _ _)

theorem within_countInbound (s : State) (src : MsgSrc) (p : Nat) (len : Nat) :
    Within countBytesParts s (State.countInbound s src p len) := by
  have h : Within countBytesParts s s := within_refl _
  unfold State.countInbound
  split
  · exact h.step (within_countBytes _ _ _ _ _)
  · exact h

theorem within_inboundWrite (s : State) (c : Nat) (addr : Nat) (data : List Byte) :
    Within inboundWriteParts s (State.inboundWrite s c addr data) := by
  have h : Within inboundWriteParts s s := within_refl _
  unfold State.inboundWrite
  split
  · exact h.step (within_emit _ _)
  · exact ite_within ((((h.step (within_modPart _ _ _)).step (within_countInbound _ _ _ _)).step (within_emit _ _)).step
      (within_takeInbound _ _ _ _ _ _ _)) ((h.step (within_modPart _ _ _)).step (within_emit _ _))

theorem within_inboundAck (s : State) (id : Nat) :
    Within inboundAckParts s (State.inboundAck s id) := by
  have h : Within inboundAckParts s s := within_refl _
  unfold State.inboundAck
  split
  · exact h
  · extract_lets -underBinder -merge _ a1
    have h2 : Within inboundAckParts s a1 := h.put
    clear_value a1
    exact ite_within h ((h2.step (within_seenResult _ _ _ _)).step (within_emit _ _))

theorem within_inboundRead (s : State) (c : Nat) (addr : Nat) (len : Nat) :
    Within inboundGoParts s (State.inboundRead s c addr len) := by
  have h : Within inboundGoParts s s := within_refl _
  unfold State.inboundRead
  split
  · exact ite_within (h.step (within_takeInbound _ _ _ _ _ _ _)) (h.step (within_emit _ _))
  · exact h.step (within_emit _ _)

theorem within_inboundMessage (s : State) (src : MsgSrc) (m : Msg) :
    Within arrivalFailsParts s (State.inboundMessage s src m) := by
  have h : Within arrivalFailsParts s s := within_refl _
  unfold State.inboundMessage
  extract_lets -underBinder -merge _ a1
  have h2 : Within arrivalFailsParts s a1 := h.step (within_emit _ _)
  clear_value a1
  exact ite_within (h.step (within_emit _ _)) (ite_within (h2.step (within_actReply _ _)) h2.put)

theorem within_cutOff (s : State) (r : Request) :
    Within answeredParts s (State.cutOff s r) := by
  have h : Within answeredParts s s := within_refl _
  unfold State.cutOff
  extract_lets -underBinder -merge a1
  have h2 : Within answeredParts s a1 := h.step (within_countEvent _ _ _ _)
  clear_value a1
  split
  · extract_lets -underBinder -merge a3
    have h4 : Within answeredParts s a3 := by
      unfold a3
      split
      · exact h2.step (within_giveTags _ _)
      · exact h2
    clear_value a3
    exact ite_within (h4.step (within_countEvent _ _ _ _)) ((h4.step (within_modSeen _ _ _ _)).step (within_wakeReader _ _ _))
  · exact (h2.step (within_landBody _ _ _)).step (within_answered _ _ _)

theorem within_cutPaths (s : State) (f : Port → Bool) :
    Within answeredParts s (State.cutPaths s f) := by
  have h : Within answeredParts s s := within_refl _
  unfold State.cutPaths
  extract_lets -underBinder -merge _ _ a1
  have h2 : Within answeredParts s a1 := h.put
  clear_value a1
  exact foldl_within (fun t3 _ h4 => h4.step (within_cutOff _ _)) (h2.step (within_countEvent _ _ _ _))

theorem within_faultDeck (s : State) :
    Within readDataParts s (State.faultDeck s) := by
  have h : Within readDataParts s s := within_refl _
  unfold State.faultDeck
  exact h.put.step (within_cutPaths _ _)

theorem within_viaductUp (s : State) (vp : Nat) (peer : Nat) (peerPort : Nat) :
    Within readDataParts s (State.viaductUp s vp peer peerPort) := by
  have h : Within readDataParts s s := within_refl _
  unfold State.viaductUp
  exact ite_within (h.step (within_faultDeck _)) h.put

theorem within_deckFlood (s : State) (peers : List Peer) (faulted : Bool) :
    Within readDataParts s (State.deckFlood s peers faulted) := by
  have h : Within readDataParts s s := within_refl _
  unfold State.deckFlood
  exact ite_within (h.step (within_faultDeck _)) h.put

theorem within_linkGone (s : State) (p : Port) :
    Within readDataParts s (State.linkGone s p) := by
  have h : Within readDataParts s s := within_refl _
  unfold State.linkGone
  split
  · exact h.step (within_countEvent _ _ _ _)
  · extract_lets -underBinder -merge
    exact h.put.step (within_cutPaths _ _)
  · exact h

theorem within_deckItem (s : State) (src : Nat) (dest : Nat) (p : Nat) (wr : Bool) (off : Nat) (data : List Byte) (len : Nat) :
    Within inboundGoParts s (State.deckItem s src dest p wr off data len) := by
  have h : Within inboundGoParts s s := within_refl _
  unfold State.deckItem
  exact ite_within (h.step (within_emit _ _)) (ite_within (h.step (within_emit _ _)) (ite_within (h.step (within_emit _ _))
    ((ite_within (h.step (within_countInbound _ _ _ _)) h).step (within_takeInbound _ _ _ _ _ _ _))))

end Sys2Proof.Laws
end

