-- ==== Sys2Proof/Laws/Within/ExecA.lean ====
section
/-! SUPPORT. Every meaning answers a next state and stays within its parts of the state. -/

namespace Sys2Proof.Laws

-- One theorem at a time: many at once, in one text, hold more threads than the memory limit allows.
set_option Elab.async false

open Sys2Proof Sys2Proof.Machine

theorem within_execDoorbell (off : Nat) (width : Nat) (value : Word32) (s : State) :
    ∃ t, execDoorbell off width value s = .next t ∧ Within evalBellParts s t := by
  have h : Within evalBellParts s s := within_refl _
  unfold execDoorbell
  refine ⟨_, rfl, ?_⟩
  split
  · exact h
  · exact ite_within (h.step (within_captureBell _ _ _)) (h.step (within_evalBell _ _ _))

theorem within_execDoorbellCapture (off : Nat) (width : Nat) (value : Word32) (s : State) :
    ∃ t, execDoorbellCapture off width value s = .next t ∧ Within captureBellParts s t := by
  have h : Within captureBellParts s s := within_refl _
  unfold execDoorbellCapture
  refine ⟨_, rfl, ?_⟩
  split
  · exact h
  · exact ite_within (h.step (within_captureBell _ _ _)) h

theorem within_execEntryFetch (q : QId) (s : State) :
    ∃ t, execEntryFetch q s = .next t ∧ Within severeParts s t := by
  have h : Within severeParts s s := within_refl _
  unfold execEntryFetch
  exact ⟨_, rfl, h.step (within_fetchEntry _ _)⟩

theorem within_execRingUnreadable (q : QId) (why : ReadFail) (s : State) :
    ∃ t, execRingUnreadable q why s = .next t ∧ Within severeParts s t := by
  have h : Within severeParts s s := within_refl _
  unfold execRingUnreadable
  exact ⟨_, rfl, h.step (within_ringFail _ _ _)⟩

theorem within_execDoneWrite (uid : Nat) (s : State) :
    ∃ t, execDoneWrite uid s = .next t ∧ Within flushDueParts s t := by
  have h : Within flushDueParts s s := within_refl _
  unfold execDoneWrite
  exact ⟨_, rfl, h.step (within_doneByte _ _)⟩

theorem within_execDoneAnswered (uid : Nat) (s : State) :
    ∃ t, execDoneAnswered uid s = .next t ∧ Within completedParts s t := by
  have h : Within completedParts s s := within_refl _
  unfold execDoneAnswered
  exact ⟨_, rfl, h.step (within_completed _ _)⟩

theorem within_execProfileLoad (copies : Option (List Byte) × Option (List Byte)) (ready : LoadReady) (s : State) :
    ∃ t, execProfileLoad copies ready s = .next t ∧ Within loadProfileParts s t := by
  have h : Within loadProfileParts s s := within_refl _
  unfold execProfileLoad
  exact ⟨_, rfl, ite_within ((h.step (within_loadProfile _ _ _ _)).step (within_loadFinished _ _)) h⟩

theorem within_execProfileCopyReadFailure (copyB : Bool) (s : State) :
    ∃ t, execProfileCopyReadFailure copyB s = .next t ∧ Within severeParts s t := by
  have h : Within severeParts s s := within_refl _
  unfold execProfileCopyReadFailure
  refine ⟨_, rfl, ?_⟩
  extract_lets -underBinder -merge a1
  have h2 : Within severeParts s a1 := h.step (within_countEvent _ _ _ _)
  clear_value a1
  exact ite_within h2.put h

theorem within_execCommit (value : Word32) (s : State) :
    ∃ t, execCommit value s = .next t ∧ Within execCommitParts s t := by
  have h : Within execCommitParts s s := within_refl _
  unfold execCommit
  exact ⟨_, rfl, h.step (within_regWrite (l := execCommitParts) _ _ _ _ (fun t1 => (within_refl t1).step (within_commitWrite
    _ _)))⟩

theorem within_execProfileWindowWrite (off : Nat) (value : Word32) (s : State) :
    ∃ t, execProfileWindowWrite off value s = .next t ∧ Within execProfileWindowWriteParts s t := by
  have h : Within execProfileWindowWriteParts s s := within_refl _
  unfold execProfileWindowWrite
  exact ⟨_, rfl, h.step (within_regWrite (l := execProfileWindowWriteParts) _ _ _ _ (fun t1 => (within_refl t1).step
    (within_windowWrite _ _ _)))⟩

theorem within_execRstNAssert (s : State) :
    ∃ t, execRstNAssert s = .next t ∧ Within assertResetParts s t := by
  have h : Within assertResetParts s s := within_refl _
  unfold execRstNAssert
  exact ⟨_, rfl, h.step (within_assertReset _)⟩

theorem within_execRstNRelease (psel : BitVec 2) (deckId : BitVec 3) (fuse : Bool) (s : State) :
    ∃ t, execRstNRelease psel deckId fuse s = .next t ∧ Within coldStartParts s t := by
  have h : Within coldStartParts s s := within_refl _
  unfold execRstNRelease
  exact ⟨_, rfl, ite_within (h.step (within_released _ _ _ _)) h⟩

theorem within_execStartupStepTimeout (step : Nat) (s : State) :
    ∃ t, execStartupStepTimeout step s = .next t ∧ Within severeParts s t := by
  have h : Within severeParts s s := within_refl _
  unfold execStartupStepTimeout
  exact ⟨_, rfl, ite_within ((h.step (within_readyBelow _ _)).step (within_stopStartup _ _ _)) h⟩

theorem within_execSelfTest (outcome : SelfTest) (s : State) :
    ∃ t, execSelfTest outcome s = .next t ∧ Within severeParts s t := by
  have h : Within severeParts s s := within_refl _
  unfold execSelfTest
  exact ⟨_, rfl, ite_within (h.step (within_runSelfTest _ _)) h⟩

theorem within_execVinLow (s : State) :
    ∃ t, execVinLow s = .next t ∧ Within assertResetParts s t := by
  have h : Within assertResetParts s s := within_refl _
  unfold execVinLow
  refine ⟨_, rfl, ?_⟩
  exact h.put.step (within_assertReset _)

theorem within_execVinRecovered (psel : BitVec 2) (deckId : BitVec 3) (fuse : Bool) (s : State) :
    ∃ t, execVinRecovered psel deckId fuse s = .next t ∧ Within coldStartParts s t := by
  have h : Within coldStartParts s s := within_refl _
  unfold execVinRecovered
  refine ⟨_, rfl, ?_⟩
  exact ite_within (h.put.step (within_released _ _ _ _)) h

theorem within_execFaultEvent (u : Nat) (src : Nat) (ctx : FaultCtx) (s : State) :
    ∃ t, execFaultEvent u src ctx s = .next t ∧ Within faultEventParts s t := by
  have h : Within faultEventParts s s := within_refl _
  unfold execFaultEvent
  exact ⟨_, rfl, h.step (within_faultEvent _ _ _ _)⟩

theorem within_execFaultWindowExpiry (u : Nat) (src : Nat) (s : State) :
    ∃ t, execFaultWindowExpiry u src s = .next t ∧ Within modUnitParts s t := by
  have h : Within modUnitParts s s := within_refl _
  unfold execFaultWindowExpiry
  exact ⟨_, rfl, h.step (within_modUnit _ _ _)⟩

theorem within_execFaultStatusClear (u : Nat) (value : RegData 32) (s : State) :
    ∃ t, execFaultStatusClear u value s = .next t ∧ Within faultEventParts s t := by
  have h : Within faultEventParts s s := within_refl _
  unfold execFaultStatusClear
  exact ⟨_, rfl, (h.step (within_regWrite (l := faultEventParts) _ _ _ _ (fun t1 => (within_refl t1).step
    (within_statusClear _ _ _)))).step (within_hwEvent _ _)⟩

theorem within_execFaultSevereClear (u : Nat) (value : RegData 32) (s : State) :
    ∃ t, execFaultSevereClear u value s = .next t ∧ Within faultEventParts s t := by
  have h : Within faultEventParts s s := within_refl _
  unfold execFaultSevereClear
  exact ⟨_, rfl, (h.step (within_regWrite (l := faultEventParts) _ _ _ _ (fun t1 => (within_refl t1).step
    (within_severeClear _ _ _)))).step (within_hwEvent _ _)⟩

theorem within_execFaultPolicyWrite (u : Nat) (value : Word32) (s : State) :
    ∃ t, execFaultPolicyWrite u value s = .next t ∧ Within execFaultPolicyWriteParts s t := by
  have h : Within execFaultPolicyWriteParts s s := within_refl _
  unfold execFaultPolicyWrite
  exact ⟨_, rfl, h.step (within_regWrite (l := execFaultPolicyWriteParts) _ _ _ _ (fun t1 => (within_refl t1).step
    (within_policyWrite _ _ _)))⟩

theorem within_execFaultInject (u : Nat) (value : Word32) (s : State) :
    ∃ t, execFaultInject u value s = .next t ∧ Within execFaultPolicyWriteParts s t := by
  have h : Within execFaultPolicyWriteParts s s := within_refl _
  unfold execFaultInject
  exact ⟨_, rfl, h.step (within_regWrite (l := execFaultPolicyWriteParts) _ _ _ _ (fun t1 => (within_refl t1).step
    (within_injectWrite _ _ _)))⟩

theorem within_execLockstep (s : State) :
    ∃ t, execLockstep s = .next t ∧ Within severeParts s t := by
  have h : Within severeParts s s := within_refl _
  unfold execLockstep
  exact ⟨_, rfl, ite_within ((h.step (within_mismatch _)).step (within_countEvent _ _ _ _)) h⟩

theorem within_execContextCollection (u : Nat) (answered : Bool) (s : State) :
    ∃ t, execContextCollection u answered s = .next t ∧ Within tryCloseParts s t := by
  have h : Within tryCloseParts s s := within_refl _
  unfold execContextCollection
  refine ⟨_, rfl, ?_⟩
  split
  · exact ite_within h (((h.step (within_modIncident _ _ _)).step (within_writeRecord _ _ _)).step (within_tryClose _ _))
  · exact h

theorem within_execAlive (s : State) :
    ∃ t, execAlive s = .next t ∧ Within readyBelowParts s t := by
  have h : Within readyBelowParts s s := within_refl _
  unfold execAlive
  refine ⟨_, rfl, ?_⟩
  exact ite_within h.put h

theorem within_execResetLevelFinish (id : Nat) (s : State) :
    ∃ t, execResetLevelFinish id s = .next t ∧ Within finishLevelParts s t := by
  have h : Within finishLevelParts s s := within_refl _
  unfold execResetLevelFinish
  refine ⟨_, rfl, ?_⟩
  split
  · exact ite_within (h.step (within_finishLevel _ _)) h
  · exact h

theorem within_execResetLevelTimeout (id : Nat) (s : State) :
    ∃ t, execResetLevelTimeout id s = .next t ∧ Within escalateParts s t := by
  have h : Within escalateParts s s := within_refl _
  unfold execResetLevelTimeout
  refine ⟨_, rfl, ?_⟩
  split
  · exact h.step (within_escalate _ _)
  · exact h

theorem within_execPowerCycle (s : State) :
    ∃ t, execPowerCycle s = .next t ∧ Within execPowerCycleParts s t := by
  have h : Within execPowerCycleParts s s := within_refl _
  unfold execPowerCycle
  refine ⟨_, rfl, ?_⟩
  exact ite_within h.put h

theorem within_execSwapStepTimeout (span : Nat) (s : State) :
    ∃ t, execSwapStepTimeout span s = .next t ∧ Within severeParts s t := by
  have h : Within severeParts s s := within_refl _
  unfold execSwapStepTimeout
  refine ⟨_, rfl, ?_⟩
  extract_lets -underBinder -merge a1
  have h2 : Within severeParts s a1 := (h.step (within_countEvent _ _ _ _)).step (within_modSpan _ _ _)
  clear_value a1
  exact ite_within (h2.step (within_startLevel _ _ _ _)) h

theorem within_execSwapComplete (span : Nat) (s : State) :
    ∃ t, execSwapComplete span s = .next t ∧ Within beginSwapParts s t := by
  have h : Within beginSwapParts s s := within_refl _
  unfold execSwapComplete
  refine ⟨_, rfl, ?_⟩
  split
  · extract_lets -underBinder -merge _ a1
    have h2 : Within beginSwapParts s a1 := by
      unfold a1
      split
      · exact ite_within ((h.step (within_modSpan _ _ _)).step (within_rebuildBanks _ _ _)) (h.step (within_modSpan _ _ _))
      · exact h.step (within_modSpan _ _ _)
    clear_value a1
    exact ite_within h (h2.step (within_nextSwap _ _))
  · exact h

theorem within_execLoadXts (slot : Nat) (check : Word32) (key : List Byte) (s : State) :
    ∃ t, execLoadXts slot check key s = .next t ∧ Within settleEraseParts s t := by
  have h : Within settleEraseParts s s := within_refl _
  unfold execLoadXts
  exact ⟨_, rfl, h.step (within_loadKey _ _ _ _ _)⟩

theorem within_execLoadGcm (slot : Nat) (check : Word32) (key : List Byte) (s : State) :
    ∃ t, execLoadGcm slot check key s = .next t ∧ Within settleEraseParts s t := by
  have h : Within settleEraseParts s s := within_refl _
  unfold execLoadGcm
  exact ⟨_, rfl, h.step (within_loadKey _ _ _ _ _)⟩

theorem within_execErase (req : EraseReq) (s : State) :
    ∃ t, execErase req s = .next t ∧ Within settleEraseParts s t := by
  have h : Within settleEraseParts s s := within_refl _
  unfold execErase
  exact ⟨_, rfl, h.step (within_eraseKey _ _ _)⟩

theorem within_execExtest (bits : List Bool) (s : State) :
    ∃ t, execExtest bits s = .next t ∧ Within bypassParts s t := by
  have h : Within bypassParts s s := within_refl _
  unfold execExtest
  dsimp -iota -proj only
  exact ⟨_, rfl, ((h.step (within_setIr _ _)).step (within_emit _ _)).put⟩

theorem within_execSamplePreload (bits : List Bool) (s : State) :
    ∃ t, execSamplePreload bits s = .next t ∧ Within bypassParts s t := by
  have h : Within bypassParts s s := within_refl _
  unfold execSamplePreload
  dsimp -iota -proj only
  exact ⟨_, rfl, ((h.step (within_setIr _ _)).step (within_emit _ _)).put⟩

theorem within_execIdcode (s : State) :
    ∃ t, execIdcode s = .next t ∧ Within bypassParts s t := by
  have h : Within bypassParts s s := within_refl _
  unfold execIdcode
  exact ⟨_, rfl, (h.step (within_setIr _ _)).step (within_emit _ _)⟩

theorem within_execBypass (code : BitVec 8) (s : State) :
    ∃ t, execBypass code s = .next t ∧ Within bypassParts s t := by
  have h : Within bypassParts s s := within_refl _
  unfold execBypass
  exact ⟨_, rfl, h.step (within_bypass _ _)⟩

theorem within_execDebugArm (s : State) :
    ∃ t, execDebugArm s = .next t ∧ Within execDebugArmParts s t := by
  have h : Within execDebugArmParts s s := within_refl _
  unfold execDebugArm
  refine ⟨_, rfl, ?_⟩
  extract_lets -underBinder -merge a1
  have h2 : Within execDebugArmParts s a1 := h.step (within_setIr _ _)
  clear_value a1
  exact ite_within (h.step (within_bypass _ _)) h2.put

theorem within_execScanAccess (s : State) :
    ∃ t, execScanAccess s = .next t ∧ Within bypassParts s t := by
  have h : Within bypassParts s s := within_refl _
  unfold execScanAccess
  refine ⟨_, rfl, ?_⟩
  extract_lets -underBinder -merge a1
  have h2 : Within bypassParts s a1 := h.step (within_setIr _ _)
  clear_value a1
  exact ite_within h2.put (h.step (within_bypass _ _))

theorem within_execStagingRead (span : Nat) (off : Nat) (s : State) :
    ∃ t, execStagingRead span off s = .next t ∧ Within bypassParts s t := by
  have h : Within bypassParts s s := within_refl _
  unfold execStagingRead
  exact ⟨_, rfl, ite_within ((h.step (within_setIr _ _)).step (within_emit _ _)) (h.step (within_bypass _ _))⟩

theorem within_execKeypathTest (gcm : Bool) (key : List Byte) (tweak : List Byte) (data : List Byte) (s : State) :
    ∃ t, execKeypathTest gcm key tweak data s = .next t ∧ Within bypassParts s t := by
  have h : Within bypassParts s s := within_refl _
  unfold execKeypathTest
  refine ⟨_, rfl, ?_⟩
  exact ite_within ((h.step (within_setIr _ _)).step (within_emit _ _)) (h.step (within_bypass _ _))

theorem within_execSelftestStart (outcome : SelfTest) (s : State) :
    ∃ t, execSelftestStart outcome s = .next t ∧ Within execSelftestStartParts s t := by
  have h : Within execSelftestStartParts s s := within_refl _
  unfold execSelftestStart
  refine ⟨_, rfl, ?_⟩
  extract_lets -underBinder -merge a1
  have h2 : Within execSelftestStartParts s a1 := h.step (within_setIr _ _)
  clear_value a1
  exact ite_within (ite_within (h2.step (within_retestSpares _ _)) (h2.step (within_retestAll _ _))) (h.step (within_setIr _ _))

theorem within_execStatusRead (u : Nat) (s : State) :
    ∃ t, execStatusRead u s = .next t ∧ Within bypassParts s t := by
  have h : Within bypassParts s s := within_refl _
  unfold execStatusRead
  exact ⟨_, rfl, (h.step (within_setIr _ _)).step (within_emit _ _)⟩

theorem within_execTrstN (s : State) :
    ∃ t, execTrstN s = .next t ∧ Within setIrParts s t := by
  have h : Within setIrParts s s := within_refl _
  unfold execTrstN
  exact ⟨_, rfl, h.put⟩

theorem within_execCreateQueue (aq : Nat) (s : State) :
    ∃ t, execCreateQueue aq s = .next t ∧ Within completedParts s t := by
  have h : Within completedParts s s := within_refl _
  unfold execCreateQueue
  exact ⟨_, rfl, h.step (within_runAdmin (l := completedParts) _ _ _ _ _ _ _ _ _ (fun t1 _ _ => (within_refl t1).step
    (within_actCreateQueue _ _ _)))⟩

theorem within_execDestroyQueue (aq : Nat) (s : State) :
    ∃ t, execDestroyQueue aq s = .next t ∧ Within completedParts s t := by
  have h : Within completedParts s s := within_refl _
  unfold execDestroyQueue
  exact ⟨_, rfl, h.step (within_runAdmin (l := completedParts) _ _ _ _ _ _ _ _ _ (fun t1 _ _ => (within_refl t1).step
    (within_actDestroyQueue _ _ _)))⟩

theorem within_execCancelQueue (aq : Nat) (s : State) :
    ∃ t, execCancelQueue aq s = .next t ∧ Within execCancelQueueParts s t := by
  have h : Within execCancelQueueParts s s := within_refl _
  unfold execCancelQueue
  exact ⟨_, rfl, h.step (within_runAdmin (l := execCancelQueueParts) _ _ _ _ _ _ _ _ _ (fun t1 _ _ => (within_refl t1).step
    (within_actCancelQueue _ _ _)))⟩

theorem within_execResumeQueue (aq : Nat) (s : State) :
    ∃ t, execResumeQueue aq s = .next t ∧ Within completedParts s t := by
  have h : Within completedParts s s := within_refl _
  unfold execResumeQueue
  exact ⟨_, rfl, h.step (within_runAdmin (l := completedParts) _ _ _ _ _ _ _ _ _ (fun t1 _ _ => (within_refl t1).step
    (within_actResumeQueue _ _ _)))⟩

theorem within_execResetQueue (aq : Nat) (s : State) :
    ∃ t, execResetQueue aq s = .next t ∧ Within execResetQueueParts s t := by
  have h : Within execResetQueueParts s s := within_refl _
  unfold execResetQueue
  exact ⟨_, rfl, h.step (within_runAdmin (l := execResetQueueParts) _ _ _ _ _ _ _ _ _ (fun t1 _ _ => (within_refl t1).step
    (within_actResetQueue _ _ _)))⟩

theorem within_execSetShaper (aq : Nat) (s : State) :
    ∃ t, execSetShaper aq s = .next t ∧ Within runAdminParts s t := by
  have h : Within runAdminParts s s := within_refl _
  unfold execSetShaper
  exact ⟨_, rfl, h.step (within_runAdmin (l := runAdminParts) _ _ _ _ _ _ _ _ _ (fun t1 _ _ => (within_refl t1).step
    (within_actSetShaper _ _ _)))⟩

theorem within_execCreateRegion (aq : Nat) (s : State) :
    ∃ t, execCreateRegion aq s = .next t ∧ Within execCreateRegionParts s t := by
  have h : Within execCreateRegionParts s s := within_refl _
  unfold execCreateRegion
  exact ⟨_, rfl, h.step (within_runAdmin (l := execCreateRegionParts) _ _ _ _ _ _ _ _ _ (fun t1 _ _ => (within_refl t1).step
    (within_actCreateRegion _ _ _)))⟩

theorem within_execDestroyRegion (aq : Nat) (s : State) :
    ∃ t, execDestroyRegion aq s = .next t ∧ Within execCreateRegionParts s t := by
  have h : Within execCreateRegionParts s s := within_refl _
  unfold execDestroyRegion
  exact ⟨_, rfl, h.step (within_runAdmin (l := execCreateRegionParts) _ _ _ _ _ _ _ _ _ (fun t1 _ _ => (within_refl t1).step
    (within_actDestroyRegion _ _ _)))⟩

theorem within_execOpenWindow (aq : Nat) (s : State) :
    ∃ t, execOpenWindow aq s = .next t ∧ Within execOpenWindowParts s t := by
  have h : Within execOpenWindowParts s s := within_refl _
  unfold execOpenWindow
  exact ⟨_, rfl, h.step (within_runAdmin (l := execOpenWindowParts) _ _ _ _ _ _ _ _ _ (fun t1 _ _ => (within_refl t1).step
    (within_actOpenWindow _ _ _)))⟩

theorem within_execCloseWindow (aq : Nat) (s : State) :
    ∃ t, execCloseWindow aq s = .next t ∧ Within execCloseWindowParts s t := by
  have h : Within execCloseWindowParts s s := within_refl _
  unfold execCloseWindow
  exact ⟨_, rfl, h.step (within_runAdmin (l := execCloseWindowParts) _ _ _ _ _ _ _ _ _ (fun t1 _ _ => (within_refl t1).step
    (within_actCloseWindow _ _ _)))⟩

theorem within_execCreateGroup (aq : Nat) (s : State) :
    ∃ t, execCreateGroup aq s = .next t ∧ Within execCreateGroupParts s t := by
  have h : Within execCreateGroupParts s s := within_refl _
  unfold execCreateGroup
  exact ⟨_, rfl, h.step (within_runAdmin (l := execCreateGroupParts) _ _ _ _ _ _ _ _ _ (fun t1 _ _ => (within_refl t1).step
    (within_actCreateGroup _ _ _)))⟩

theorem within_execDestroyGroup (aq : Nat) (s : State) :
    ∃ t, execDestroyGroup aq s = .next t ∧ Within execCreateRegionParts s t := by
  have h : Within execCreateRegionParts s s := within_refl _
  unfold execDestroyGroup
  exact ⟨_, rfl, h.step (within_runAdmin (l := execCreateRegionParts) _ _ _ _ _ _ _ _ _ (fun t1 _ _ => (within_refl t1).step
    (within_actDestroyGroup _ _ _)))⟩

theorem within_execBindKey (aq : Nat) (s : State) :
    ∃ t, execBindKey aq s = .next t ∧ Within runAdminParts s t := by
  have h : Within runAdminParts s s := within_refl _
  unfold execBindKey
  exact ⟨_, rfl, h.step (within_runAdmin (l := runAdminParts) _ _ _ _ _ _ _ _ _ (fun t1 _ _ => (within_refl t1).step
    (within_actBindKey _ _ _)))⟩

theorem within_execUnbindKey (aq : Nat) (s : State) :
    ∃ t, execUnbindKey aq s = .next t ∧ Within runAdminParts s t := by
  have h : Within runAdminParts s s := within_refl _
  unfold execUnbindKey
  exact ⟨_, rfl, h.step (within_runAdmin (l := runAdminParts) _ _ _ _ _ _ _ _ _ (fun t1 _ _ => (within_refl t1).step
    (within_actUnbindKey _ _ _)))⟩

theorem within_execClaimCbset (aq : Nat) (s : State) :
    ∃ t, execClaimCbset aq s = .next t ∧ Within runAdminParts s t := by
  have h : Within runAdminParts s s := within_refl _
  unfold execClaimCbset
  exact ⟨_, rfl, h.step (within_runAdmin (l := runAdminParts) _ _ _ _ _ _ _ _ _ (fun t1 _ _ => (within_refl t1).step
    (within_actClaim _ _ _)))⟩

theorem within_execReleaseCbset (aq : Nat) (s : State) :
    ∃ t, execReleaseCbset aq s = .next t ∧ Within execReleaseCbsetParts s t := by
  have h : Within execReleaseCbsetParts s s := within_refl _
  unfold execReleaseCbset
  exact ⟨_, rfl, h.step (within_runAdmin (l := execReleaseCbsetParts) _ _ _ _ _ _ _ _ _ (fun t1 _ _ => (within_refl t1).step
    (within_actRelease _ _ _)))⟩

theorem within_execSetupChannel (aq : Nat) (s : State) :
    ∃ t, execSetupChannel aq s = .next t ∧ Within execSetupChannelParts s t := by
  have h : Within execSetupChannelParts s s := within_refl _
  unfold execSetupChannel
  exact ⟨_, rfl, h.step (within_runAdmin (l := execSetupChannelParts) _ _ _ _ _ _ _ _ _ (fun t1 _ _ => (within_refl t1).step
    (within_actSetupChannel _ _ _)))⟩

theorem within_execArmChannel (aq : Nat) (s : State) :
    ∃ t, execArmChannel aq s = .next t ∧ Within execArmChannelParts s t := by
  have h : Within execArmChannelParts s s := within_refl _
  unfold execArmChannel
  exact ⟨_, rfl, h.step (within_runAdmin (l := execArmChannelParts) _ _ _ _ _ _ _ _ _ (fun t1 _ _ => (within_refl t1).step
    (within_actArm _ _ _)))⟩

theorem within_execDisarmChannel (aq : Nat) (s : State) :
    ∃ t, execDisarmChannel aq s = .next t ∧ Within execSetupChannelParts s t := by
  have h : Within execSetupChannelParts s s := within_refl _
  unfold execDisarmChannel
  exact ⟨_, rfl, h.step (within_runAdmin (l := execSetupChannelParts) _ _ _ _ _ _ _ _ _ (fun t1 _ _ => (within_refl t1).step
    (within_actDisarm _ _ _)))⟩

theorem within_execReleaseChannel (aq : Nat) (s : State) :
    ∃ t, execReleaseChannel aq s = .next t ∧ Within execSetupChannelParts s t := by
  have h : Within execSetupChannelParts s s := within_refl _
  unfold execReleaseChannel
  exact ⟨_, rfl, h.step (within_runAdmin (l := execSetupChannelParts) _ _ _ _ _ _ _ _ _ (fun t1 _ _ => (within_refl t1).step
    (within_actReleaseChannel _ _ _)))⟩

theorem within_execRearmPacer (aq : Nat) (s : State) :
    ∃ t, execRearmPacer aq s = .next t ∧ Within execRearmPacerParts s t := by
  have h : Within execRearmPacerParts s s := within_refl _
  unfold execRearmPacer
  exact ⟨_, rfl, h.step (within_runAdmin (l := execRearmPacerParts) _ _ _ _ _ _ _ _ _ (fun t1 _ _ => (within_refl t1).step
    (within_actRearm _ _ _)))⟩

theorem within_execVote (aq : Nat) (s : State) :
    ∃ t, execVote aq s = .next t ∧ Within execOpenWindowParts s t := by
  have h : Within execOpenWindowParts s s := within_refl _
  unfold execVote
  exact ⟨_, rfl, h.step (within_runAdmin (l := execOpenWindowParts) _ _ _ _ _ _ _ _ _ (fun t1 _ _ => (within_refl t1).step
    (within_actVote _ _ _)))⟩

theorem within_execReadHealth (aq : Nat) (s : State) :
    ∃ t, execReadHealth aq s = .next t ∧ Within completedParts s t := by
  have h : Within completedParts s s := within_refl _
  unfold execReadHealth
  exact ⟨_, rfl, h.step (within_runAdmin (l := completedParts) _ _ _ _ _ _ _ _ _ (fun t1 _ _ => (within_refl t1).step
    (within_actReadHealth _ _ _)))⟩

theorem within_execFence (aq : Nat) (s : State) :
    ∃ t, execFence aq s = .next t ∧ Within execFenceParts s t := by
  have h : Within execFenceParts s s := within_refl _
  unfold execFence
  exact ⟨_, rfl, h.step (within_runAdmin (l := execFenceParts) _ _ _ _ _ _ _ _ _ (fun t1 _ _ => (within_refl t1).step
    (within_actFence _ _ _)))⟩

theorem within_execSwapSpare (aq : Nat) (s : State) :
    ∃ t, execSwapSpare aq s = .next t ∧ Within execSwapSpareParts s t := by
  have h : Within execSwapSpareParts s s := within_refl _
  unfold execSwapSpare
  exact ⟨_, rfl, h.step (within_runAdmin (l := execSwapSpareParts) _ _ _ _ _ _ _ _ _ (fun t1 _ _ => (within_refl t1).step
    (within_actSwap _ _ _)))⟩

theorem within_execReset (aq : Nat) (s : State) :
    ∃ t, execReset aq s = .next t ∧ Within loseContextsParts s t := by
  have h : Within loseContextsParts s s := within_refl _
  unfold execReset
  exact ⟨_, rfl, h.step (within_runAdmin (l := loseContextsParts) _ _ _ _ _ _ _ _ _ (fun t1 _ _ => (within_refl t1).step
    (within_actReset _ _ _)))⟩

theorem within_execScrubPartition (aq : Nat) (s : State) :
    ∃ t, execScrubPartition aq s = .next t ∧ Within execScrubPartitionParts s t := by
  have h : Within execScrubPartitionParts s s := within_refl _
  unfold execScrubPartition
  exact ⟨_, rfl, h.step (within_runAdmin (l := execScrubPartitionParts) _ _ _ _ _ _ _ _ _ (fun t1 _ _ => (within_refl
    t1).step (within_actScrub _ _ _)))⟩

theorem within_execSwitchProfile (aq : Nat) (s : State) :
    ∃ t, execSwitchProfile aq s = .next t ∧ Within actSwitchParts s t := by
  have h : Within actSwitchParts s s := within_refl _
  unfold execSwitchProfile
  exact ⟨_, rfl, h.step (within_runAdmin (l := actSwitchParts) _ _ _ _ _ _ _ _ _ (fun t1 _ _ => (within_refl t1).step
    (within_actSwitch _ _ _)))⟩

theorem within_execCommandCompletes (aq : Nat) (s : State) :
    ∃ t, execCommandCompletes aq s = .next t ∧ Within endWaitersParts s t := by
  have h : Within endWaitersParts s s := within_refl _
  unfold execCommandCompletes
  exact ⟨_, rfl, h.step (within_completeAdmin _ _)⟩

theorem within_execProducer (ch : Nat) (value : Word32) (s : State) :
    ∃ t, execProducer ch value s = .next t ∧ Within severeParts s t := by
  have h : Within severeParts s s := within_refl _
  unfold execProducer
  exact ⟨_, rfl, h.step (within_regWrite (l := severeParts) _ _ _ _ (fun t1 => (within_refl t1).step (within_producerWrite _
    _ _)))⟩

theorem within_execFlushSet (ch : Nat) (value : Word32) (s : State) :
    ∃ t, execFlushSet ch value s = .next t ∧ Within execFlushSetParts s t := by
  have h : Within execFlushSetParts s s := within_refl _
  unfold execFlushSet
  exact ⟨_, rfl, h.step (within_regWrite (l := execFlushSetParts) _ _ _ _ (fun t1 => (within_refl t1).step
    (within_flushWrite _ _ _)))⟩

theorem within_execRunStart (pacer : Nat) (s : State) :
    ∃ t, execRunStart pacer s = .next t ∧ Within startRunParts s t := by
  have h : Within startRunParts s s := within_refl _
  unfold execRunStart
  exact ⟨_, rfl, h.step (within_startRun _ _)⟩

theorem within_execRecordDrained (pacer : Nat) (s : State) :
    ∃ t, execRecordDrained pacer s = .next t ∧ Within severeParts s t := by
  have h : Within severeParts s s := within_refl _
  unfold execRecordDrained
  exact ⟨_, rfl, h.step (within_drainRecord _ _)⟩

theorem within_execRunEnd (pacer : Nat) (s : State) :
    ∃ t, execRunEnd pacer s = .next t ∧ Within endRunParts s t := by
  have h : Within endRunParts s s := within_refl _
  unfold execRunEnd
  exact ⟨_, rfl, h.step (within_endRun _ _)⟩

theorem within_execEvtOutPulse (pacer : Nat) (s : State) :
    ∃ t, execEvtOutPulse pacer s = .next t ∧ Within pulseRunParts s t := by
  have h : Within pulseRunParts s s := within_refl _
  unfold execEvtOutPulse
  exact ⟨_, rfl, h.step (within_pulseRun _ _)⟩

theorem within_execCreate (p : Nat) (s : State) :
    ∃ t, execCreate p s = .next t ∧ Within startLevelParts s t := by
  have h : Within startLevelParts s s := within_refl _
  unfold execCreate
  exact ⟨_, rfl, h.step (within_regWrite (l := startLevelParts) _ _ _ _ (fun t1 => (within_refl t1).step (within_aqCommand _
    _ _)))⟩

theorem within_execContextReset (p : Nat) (s : State) :
    ∃ t, execContextReset p s = .next t ∧ Within startLevelParts s t := by
  have h : Within startLevelParts s s := within_refl _
  unfold execContextReset
  exact ⟨_, rfl, h.step (within_regWrite (l := startLevelParts) _ _ _ _ (fun t1 => (within_refl t1).step (within_aqCommand _
    _ _)))⟩

theorem within_execResume (p : Nat) (s : State) :
    ∃ t, execResume p s = .next t ∧ Within startLevelParts s t := by
  have h : Within startLevelParts s s := within_refl _
  unfold execResume
  exact ⟨_, rfl, h.step (within_regWrite (l := startLevelParts) _ _ _ _ (fun t1 => (within_refl t1).step (within_aqCommand _
    _ _)))⟩

end Sys2Proof.Laws
end

