-- ==== Sys2Proof/Laws/Within/ExecB.lean ====
section
/-! SUPPORT. Every meaning answers a next state and stays within its parts of the state. -/

namespace Sys2Proof.Laws

-- One theorem at a time: many at once, in one text, hold more threads than the memory limit allows.
set_option Elab.async false

open Sys2Proof Sys2Proof.Machine

theorem within_execDestroy (p : Nat) (s : State) :
    ∃ t, execDestroy p s = .next t ∧ Within startLevelParts s t := by
  have h : Within startLevelParts s s := within_refl _
  unfold execDestroy
  exact ⟨_, rfl, h.step (within_regWrite (l := startLevelParts) _ _ _ _ (fun t1 => (within_refl t1).step (within_aqCommand _
    _ _)))⟩

theorem within_execOffReq (value : Word32) (s : State) :
    ∃ t, execOffReq value s = .next t ∧ Within centralWriteParts s t := by
  have h : Within centralWriteParts s s := within_refl _
  unfold execOffReq
  exact ⟨_, rfl, h.step (within_regWrite (l := centralWriteParts) _ _ _ _ (fun t1 => (within_refl t1).step
    (within_centralWrite _ _ _)))⟩

theorem within_execWakeTimer (value : Word32) (s : State) :
    ∃ t, execWakeTimer value s = .next t ∧ Within wakeCentralParts s t := by
  have h : Within wakeCentralParts s s := within_refl _
  unfold execWakeTimer
  exact ⟨_, rfl, h.step (within_regWrite (l := wakeCentralParts) _ _ _ _ (fun t1 => (within_refl t1).step
    (within_wakeTimerWrite _ _)))⟩

theorem within_execLowerWordRead (off : Nat) (s : State) :
    ∃ t, execLowerWordRead off s = .next t ∧ Within hostReadParts s t := by
  have h : Within hostReadParts s s := within_refl _
  unfold execLowerWordRead
  exact ⟨_, rfl, ite_within (h.step (within_hostRead _ _)) h⟩

theorem within_execUpperWordWrite (off : Nat) (value : Word32) (s : State) :
    ∃ t, execUpperWordWrite off value s = .next t ∧ Within write64Parts s t := by
  have h : Within write64Parts s s := within_refl _
  unfold execUpperWordWrite
  exact ⟨_, rfl, ite_within (h.step (within_regWrite (l := write64Parts) _ _ _ _ (fun t1 => (within_refl t1).step
    (within_writeUpper _ _ _)))) h⟩

theorem within_execIncidentWord0Read (e : Nat) (s : State) :
    ∃ t, execIncidentWord0Read e s = .next t ∧ Within hostReadParts s t := by
  have h : Within hostReadParts s s := within_refl _
  unfold execIncidentWord0Read
  exact ⟨_, rfl, h.step (within_hostRead _ _)⟩

theorem within_execEventSlot (p : Nat) (value : Word32) (s : State) :
    ∃ t, execEventSlot p value s = .next t ∧ Within writeWordParts s t := by
  have h : Within writeWordParts s s := within_refl _
  unfold execEventSlot
  exact ⟨_, rfl, ite_within (h.step (within_hostWrite _ _ _)) h⟩

theorem within_execEventPd (p : Nat) (value : Word32) (s : State) :
    ∃ t, execEventPd p value s = .next t ∧ Within execEventPdParts s t := by
  have h : Within execEventPdParts s s := within_refl _
  unfold execEventPd
  exact ⟨_, rfl, ite_within (h.step (within_regWrite (l := execEventPdParts) _ _ _ _ (fun t1 => (within_refl t1).step
    (within_setEventPd _ _ _)))) h⟩

theorem within_execOwnerEventSlot (value : Word32) (s : State) :
    ∃ t, execOwnerEventSlot value s = .next t ∧ Within write64Parts s t := by
  have h : Within write64Parts s s := within_refl _
  unfold execOwnerEventSlot
  exact ⟨_, rfl, h.step (within_regWrite (l := write64Parts) _ _ _ _ (fun t1 => (within_refl t1).step (within_writeUpper _ _
    _)))⟩

theorem within_execRegisterWrite (off : Nat) (width : Nat) (value : RegData 64) (s : State) :
    ∃ t, execRegisterWrite off width value s = .next t ∧ Within execRegisterWriteParts s t := by
  have h : Within execRegisterWriteParts s s := within_refl _
  unfold execRegisterWrite
  exact ⟨_, rfl, (ite_within h (ite_within (h.step (within_hostWrite _ _ _)) (ite_within ((h.step (within_hostWrite _ _
    _)).step (within_hostWrite _ _ _)) h))).step (within_hwEvent _ _)⟩

theorem within_execRegisterRead (off : Nat) (width : Nat) (s : State) :
    ∃ t, execRegisterRead off width s = .next t ∧ Within hostReadParts s t := by
  have h : Within hostReadParts s s := within_refl _
  unfold execRegisterRead
  refine ⟨_, rfl, ?_⟩
  extract_lets -underBinder -merge a1
  have h2 : Within hostReadParts s a1 := h.step (within_emit _ _)
  clear_value a1
  exact ite_within h (ite_within (h.step (within_emit _ _)) (ite_within (ite_within h2 (h2.step (within_emit _ _)))
    (ite_within (h.step (within_hostRead _ _)) ((h.step (within_hostRead _ _)).step (within_hostRead _ _)))))

theorem within_execTimerWake (s : State) :
    ∃ t, execTimerWake s = .next t ∧ Within voteCommittedParts s t := by
  have h : Within voteCommittedParts s s := within_refl _
  unfold execTimerWake
  refine ⟨_, rfl, ?_⟩
  extract_lets -underBinder -merge _ a1
  have h2 : Within voteCommittedParts s a1 := h.put
  clear_value a1
  exact ite_within (h2.step (within_wakeBy _ _ _)) h

theorem within_execSleepDwellExpiry (span : Nat) (s : State) :
    ∃ t, execSleepDwellExpiry span s = .next t ∧ Within modSpanParts s t := by
  have h : Within modSpanParts s s := within_refl _
  unfold execSleepDwellExpiry
  exact ⟨_, rfl, h.step (within_sleepEntry _ _)⟩

theorem within_execDeepDwellExpiry (span : Nat) (tempC : Int) (loadMa : Nat) (s : State) :
    ∃ t, execDeepDwellExpiry span tempC loadMa s = .next t ∧ Within voteCommittedParts s t := by
  have h : Within voteCommittedParts s s := within_refl _
  unfold execDeepDwellExpiry
  exact ⟨_, rfl, h.step (within_deepEntry _ _ _ _)⟩

theorem within_execCentralDwellExpiry (tempC : Int) (loadMa : Nat) (s : State) :
    ∃ t, execCentralDwellExpiry tempC loadMa s = .next t ∧ Within wakeCentralParts s t := by
  have h : Within wakeCentralParts s s := within_refl _
  unfold execCentralDwellExpiry
  exact ⟨_, rfl, h.step (within_centralEntry _ _ _)⟩

theorem within_execPowerEntryDone (d : Domain) (s : State) :
    ∃ t, execPowerEntryDone d s = .next t ∧ Within execPowerEntryDoneParts s t := by
  have h : Within execPowerEntryDoneParts s s := within_refl _
  unfold execPowerEntryDone
  refine ⟨_, rfl, ?_⟩
  split
  · exact h.step (within_spanEntered _ _)
  · exact h.step (within_centralEntered _)

theorem within_execDomainExit (d : Domain) (s : State) :
    ∃ t, execDomainExit d s = .next t ∧ Within execRegisterWriteParts s t := by
  have h : Within execRegisterWriteParts s s := within_refl _
  unfold execDomainExit
  refine ⟨_, rfl, ?_⟩
  refine ite_within ?_ h
  split
  · exact h.step (within_spanExited _ _)
  · exact h.step (within_centralExited _)

theorem within_execPowerStepTimeout (d : Domain) (step : Nat) (s : State) :
    ∃ t, execPowerStepTimeout d step s = .next t ∧ Within severeParts s t := by
  have h : Within severeParts s s := within_refl _
  unfold execPowerStepTimeout
  refine ⟨_, rfl, ?_⟩
  split
  · exact ite_within (h.step (within_spanMissed _ _ _)) h
  · exact ite_within (h.step (within_centralMissed _ _)) h

theorem within_execWakeN (psel : BitVec 2) (deckId : BitVec 3) (fuse : Bool) (s : State) :
    ∃ t, execWakeN psel deckId fuse s = .next t ∧ Within execWakeNParts s t := by
  have h : Within execWakeNParts s s := within_refl _
  unfold execWakeN
  exact ⟨_, rfl, ite_within (h.step (within_coldStart _ _ _ _)) (ite_within (h.step (within_wakeBy _ _ _)) h)⟩

theorem within_execLinkEnergy (mv : Nat) (s : State) :
    ∃ t, execLinkEnergy mv s = .next t ∧ Within comparatorParts s t := by
  have h : Within comparatorParts s s := within_refl _
  unfold execLinkEnergy
  exact ⟨_, rfl, ite_within (h.step (within_comparator _ _)) h⟩

theorem within_execBrownout (aon : Bool) (s : State) :
    ∃ t, execBrownout aon s = .next t ∧ Within severeParts s t := by
  have h : Within severeParts s s := within_refl _
  unfold execBrownout
  exact ⟨_, rfl, ite_within (ite_within (h.step (within_aonLost _)) h) (ite_within (h.step (within_retentionLost _)) h)⟩

theorem within_execOffEntryDone (s : State) :
    ∃ t, execOffEntryDone s = .next t ∧ Within assertResetParts s t := by
  have h : Within assertResetParts s s := within_refl _
  unfold execOffEntryDone
  refine ⟨_, rfl, ?_⟩
  extract_lets -underBinder -merge a1
  have h2 : Within assertResetParts s a1 := h.step (within_assertReset _)
  clear_value a1
  exact ite_within h2.put h

theorem within_execPowerCapCheck (meanMw : Nat) (stayedBelow : Bool) (s : State) :
    ∃ t, execPowerCapCheck meanMw stayedBelow s = .next t ∧ Within lowerClocksParts s t := by
  have h : Within lowerClocksParts s s := within_refl _
  unfold execPowerCapCheck
  exact ⟨_, rfl, h.step (within_powerCheck _ _ _)⟩

theorem within_execOperatingPointDone (quadrant : Nat) (s : State) :
    ∃ t, execOperatingPointDone quadrant s = .next t ∧ Within lowerClocksParts s t := by
  have h : Within lowerClocksParts s s := within_refl _
  unfold execOperatingPointDone
  exact ⟨_, rfl, h.step (within_setQuad _ _ _)⟩

theorem within_execOscCalibration (s : State) :
    ∃ t, execOscCalibration s = .next t ∧ Within readyBelowParts s t := by
  have h : Within readyBelowParts s s := within_refl _
  unfold execOscCalibration
  refine ⟨_, rfl, ?_⟩
  exact ite_within h.put h

theorem within_execRefClkLoss (s : State) :
    ∃ t, execRefClkLoss s = .next t ∧ Within execRefClkLossParts s t := by
  have h : Within execRefClkLossParts s s := within_refl _
  unfold execRefClkLoss
  refine ⟨_, rfl, ?_⟩
  extract_lets -underBinder -merge _ a1 _ a3 a5
  have h2 : Within execRefClkLossParts s a1 := h.put
  clear_value a1
  have h4 : Within execRefClkLossParts s a3 := h2.put
  clear_value a3
  have h6 : Within execRefClkLossParts s a5 := h4.step (within_cause _ _ _)
  clear_value a5
  exact ite_within h (ite_within h2 (ite_within h4 h6.put))

theorem within_execRefClkReturn (s : State) :
    ∃ t, execRefClkReturn s = .next t ∧ Within startLevelParts s t := by
  have h : Within startLevelParts s s := within_refl _
  unfold execRefClkReturn
  refine ⟨_, rfl, ?_⟩
  extract_lets -underBinder -merge _ _ a1
  have h2 : Within startLevelParts s a1 := h.put
  clear_value a1
  exact ite_within h (ite_within (h2.step (within_startLevel _ _ _ _)) h2)

theorem within_execRefClkLossTimeout (s : State) :
    ∃ t, execRefClkLossTimeout s = .next t ∧ Within escalateParts s t := by
  have h : Within escalateParts s s := within_refl _
  unfold execRefClkLossTimeout
  refine ⟨_, rfl, ?_⟩
  extract_lets -underBinder -merge _ a1
  have h2 : Within escalateParts s a1 := h.put
  clear_value a1
  exact ite_within ((h2.step (within_escalateUnits _ _ _)).step (within_startLevel _ _ _ _)) h

theorem within_execAdmitJob (p : Nat) (s : State) :
    ∃ t, execAdmitJob p s = .next t ∧ Within admitOneParts s t := by
  have h : Within admitOneParts s s := within_refl _
  unfold execAdmitJob
  exact ⟨_, rfl, ite_within (h.step (within_admitOne _ _)) h⟩

theorem within_execTokenRefill (s : State) :
    ∃ t, execTokenRefill s = .next t ∧ Within modQueueParts s t := by
  have h : Within modQueueParts s s := within_refl _
  unfold execTokenRefill
  exact ⟨_, rfl, h.put⟩

theorem within_execJobTimeout (uid : Nat) (s : State) :
    ∃ t, execJobTimeout uid s = .next t ∧ Within endRawParts s t := by
  have h : Within endRawParts s s := within_refl _
  unfold execJobTimeout
  exact ⟨_, rfl, h.step (within_timeoutJob _ _)⟩

theorem within_execTileRequest (span : Nat) (uid : Nat) (n : Nat) (s : State) :
    ∃ t, execTileRequest span uid n s = .next t ∧ Within severeParts s t := by
  have h : Within severeParts s s := within_refl _
  unfold execTileRequest
  exact ⟨_, rfl, h.step (within_requestTiles _ _ _ _)⟩

theorem within_execCompletionRecordWrite (uid : Nat) (s : State) :
    ∃ t, execCompletionRecordWrite uid s = .next t ∧ Within severeParts s t := by
  have h : Within severeParts s s := within_refl _
  unfold execCompletionRecordWrite
  exact ⟨_, rfl, ((h.step (within_finalClosings _ _)).step (within_flushRedos _ _)).step (within_recordWrite _ _)⟩

theorem within_execThreadRetire (uid : Nat) (tile : Nat) (s : State) :
    ∃ t, execThreadRetire uid tile s = .next t ∧ Within severeParts s t := by
  have h : Within severeParts s s := within_refl _
  unfold execThreadRetire
  exact ⟨_, rfl, h.step (within_retireThread _ _ _)⟩

theorem within_execMove (uid : Nat) (tile : Nat) (s : State) :
    ∃ t, execMove uid tile s = .next t ∧ Within severeParts s t := by
  have h : Within severeParts s s := within_refl _
  unfold execMove
  exact ⟨_, rfl, h.step (within_viewStep _ _ _ _)⟩

theorem within_execGather (uid : Nat) (tile : Nat) (s : State) :
    ∃ t, execGather uid tile s = .next t ∧ Within severeParts s t := by
  have h : Within severeParts s s := within_refl _
  unfold execGather
  exact ⟨_, rfl, h.step (within_viewStep _ _ _ _)⟩

theorem within_execScatter (uid : Nat) (tile : Nat) (s : State) :
    ∃ t, execScatter uid tile s = .next t ∧ Within severeParts s t := by
  have h : Within severeParts s s := within_refl _
  unfold execScatter
  exact ⟨_, rfl, h.step (within_viewStep _ _ _ _)⟩

theorem within_execIndexPass (uid : Nat) (s : State) :
    ∃ t, execIndexPass uid s = .next t ∧ Within severeParts s t := by
  have h : Within severeParts s s := within_refl _
  unfold execIndexPass
  exact ⟨_, rfl, h.step (within_indexPass _ _)⟩

theorem within_execStats (uid : Nat) (tile : Nat) (s : State) :
    ∃ t, execStats uid tile s = .next t ∧ Within severeParts s t := by
  have h : Within severeParts s s := within_refl _
  unfold execStats
  exact ⟨_, rfl, h.step (within_runStats _ _ _)⟩

theorem within_execFill (uid : Nat) (tile : Nat) (s : State) :
    ∃ t, execFill uid tile s = .next t ∧ Within severeParts s t := by
  have h : Within severeParts s s := within_refl _
  unfold execFill
  exact ⟨_, rfl, h.step (within_viewStep _ _ _ _)⟩

theorem within_execSealCheck (uid : Nat) (tile : Nat) (s : State) :
    ∃ t, execSealCheck uid tile s = .next t ∧ Within severeParts s t := by
  have h : Within severeParts s s := within_refl _
  unfold execSealCheck
  exact ⟨_, rfl, h.step (within_viewStep _ _ _ _)⟩

theorem within_execNop (uid : Nat) (s : State) :
    ∃ t, execNop uid s = .next t ∧ Within endRawParts s t := by
  have h : Within endRawParts s s := within_refl _
  unfold execNop
  exact ⟨_, rfl, h.step (within_nop_ _ _)⟩

theorem within_execConversionPass (uid : Nat) (s : State) :
    ∃ t, execConversionPass uid s = .next t ∧ Within modJobParts s t := by
  have h : Within modJobParts s s := within_refl _
  unfold execConversionPass
  exact ⟨_, rfl, h.step (within_conversionPass _ _)⟩

theorem within_execResendRedo (uid : Nat) (group : Nat) (s : State) :
    ∃ t, execResendRedo uid group s = .next t ∧ Within severeParts s t := by
  have h : Within severeParts s s := within_refl _
  unfold execResendRedo
  exact ⟨_, rfl, ((h.step (within_redoGroup _ _ _)).step (within_flushRedos _ _)).step (within_settle _ _)⟩

theorem within_execTariff (uid : Nat) (tile : Nat) (s : State) :
    ∃ t, execTariff uid tile s = .next t ∧ Within severeParts s t := by
  have h : Within severeParts s s := within_refl _
  unfold execTariff
  exact ⟨_, rfl, h.step (within_runTariff _ _ _)⟩

theorem within_execHistogramBuild (uid : Nat) (s : State) :
    ∃ t, execHistogramBuild uid s = .next t ∧ Within severeParts s t := by
  have h : Within severeParts s s := within_refl _
  unfold execHistogramBuild
  exact ⟨_, rfl, h.step (within_histStep _ _)⟩

theorem within_execFolioEntryWrite (uid : Nat) (s : State) :
    ∃ t, execFolioEntryWrite uid s = .next t ∧ Within severeParts s t := by
  have h : Within severeParts s s := within_refl _
  unfold execFolioEntryWrite
  exact ⟨_, rfl, h.step (within_writeFolio _ _)⟩

theorem within_execContribute (uid : Nat) (s : State) :
    ∃ t, execContribute uid s = .next t ∧ Within sendContributionParts s t := by
  have h : Within sendContributionParts s s := within_refl _
  unfold execContribute
  exact ⟨_, rfl, h.step (within_contributeStep _ _)⟩

theorem within_execReduce (uid : Nat) (residue : Residue) (s : State) :
    ∃ t, execReduce uid residue s = .next t ∧ Within severeParts s t := by
  have h : Within severeParts s s := within_refl _
  unfold execReduce
  exact ⟨_, rfl, h.step (within_reduceStep _ _ _)⟩

theorem within_execCollect (uid : Nat) (s : State) :
    ∃ t, execCollect uid s = .next t ∧ Within sendContributionParts s t := by
  have h : Within sendContributionParts s s := within_refl _
  unfold execCollect
  exact ⟨_, rfl, h.step (within_collectStep _ _)⟩

theorem within_execDispatch (uid : Nat) (s : State) :
    ∃ t, execDispatch uid s = .next t ∧ Within severeParts s t := by
  have h : Within severeParts s s := within_refl _
  unfold execDispatch
  exact ⟨_, rfl, h.step (within_dispatchStep _ _)⟩

theorem within_execCombine (uid : Nat) (tile : Nat) (s : State) :
    ∃ t, execCombine uid tile s = .next t ∧ Within severeParts s t := by
  have h : Within severeParts s s := within_refl _
  unfold execCombine
  exact ⟨_, rfl, h.step (within_combineStep _ _ _)⟩

theorem within_execBarrier (uid : Nat) (s : State) :
    ∃ t, execBarrier uid s = .next t ∧ Within endRawParts s t := by
  have h : Within endRawParts s s := within_refl _
  unfold execBarrier
  exact ⟨_, rfl, h.step (within_barrierStep _ _)⟩

theorem within_execGroupBarrier (uid : Nat) (s : State) :
    ∃ t, execGroupBarrier uid s = .next t ∧ Within groupBarrierStepParts s t := by
  have h : Within groupBarrierStepParts s s := within_refl _
  unfold execGroupBarrier
  exact ⟨_, rfl, h.step (within_groupBarrierStep _ _)⟩

theorem within_execContributionArrival (m : Msg) (s : State) :
    ∃ t, execContributionArrival m s = .next t ∧ Within arrivalFailsParts s t := by
  have h : Within arrivalFailsParts s s := within_refl _
  unfold execContributionArrival
  exact ⟨_, rfl, h.step (within_acceptContribution _ _)⟩

theorem within_execResendRequest (m : Msg) (s : State) :
    ∃ t, execResendRequest m s = .next t ∧ Within sendContributionParts s t := by
  have h : Within sendContributionParts s s := within_refl _
  unfold execResendRequest
  exact ⟨_, rfl, h.step (within_resendContribution _ _)⟩

theorem within_execReRequest (m : Msg) (s : State) :
    ∃ t, execReRequest m s = .next t ∧ Within sendMsgParts s t := by
  have h : Within sendMsgParts s s := within_refl _
  unfold execReRequest
  exact ⟨_, rfl, h.step (within_rewriteResult _ _)⟩

theorem within_execGroupWaitTimeout (uid : Nat) (s : State) :
    ∃ t, execGroupWaitTimeout uid s = .next t ∧ Within endRawParts s t := by
  have h : Within endRawParts s s := within_refl _
  unfold execGroupWaitTimeout
  exact ⟨_, rfl, h.step (within_groupWait _ _)⟩

theorem within_execReady (m : Msg) (s : State) :
    ∃ t, execReady m s = .next t ∧ Within groupBarrierStepParts s t := by
  have h : Within groupBarrierStepParts s s := within_refl _
  unfold execReady
  exact ⟨_, rfl, h.step (within_readyArrives _ _)⟩

theorem within_execCloseLetter (m : Msg) (s : State) :
    ∃ t, execCloseLetter m s = .next t ∧ Within arrivalFailsParts s t := by
  have h : Within arrivalFailsParts s s := within_refl _
  unfold execCloseLetter
  exact ⟨_, rfl, h.step (within_closeArrives _ _)⟩

theorem within_execCloseLetterRepeat (p : Nat) (g : Nat) (s : State) :
    ∃ t, execCloseLetterRepeat p g s = .next t ∧ Within sendMsgParts s t := by
  have h : Within sendMsgParts s s := within_refl _
  unfold execCloseLetterRepeat
  exact ⟨_, rfl, h.step (within_repeatClose _ _ _)⟩

theorem within_execEpochTimeout (p : Nat) (g : Nat) (s : State) :
    ∃ t, execEpochTimeout p g s = .next t ∧ Within endRawParts s t := by
  have h : Within endRawParts s s := within_refl _
  unfold execEpochTimeout
  exact ⟨_, rfl, h.step (within_epochTimesOut _ _ _)⟩

theorem within_execAbortLetter (m : Msg) (s : State) :
    ∃ t, execAbortLetter m s = .next t ∧ Within arrivalFailsParts s t := by
  have h : Within arrivalFailsParts s s := within_refl _
  unfold execAbortLetter
  exact ⟨_, rfl, h.step (within_abortArrives _ _)⟩

theorem within_execDeckBarrierArrival (m : Msg) (s : State) :
    ∃ t, execDeckBarrierArrival m s = .next t ∧ Within arrivalFailsParts s t := by
  have h : Within arrivalFailsParts s s := within_refl _
  unfold execDeckBarrierArrival
  exact ⟨_, rfl, h.step (within_deckArrives _ _)⟩

theorem within_execPortWriteResponse (port : Port) (tag : Nat) (res : Resp) (s : State) :
    ∃ t, execPortWriteResponse port tag res s = .next t ∧ Within answeredParts s t := by
  have h : Within answeredParts s s := within_refl _
  unfold execPortWriteResponse
  exact ⟨_, rfl, h.step (within_writeResponse _ _ _ _)⟩

theorem within_execPortReadData (port : Port) (acc : Access) (addr : Nat) (data : Granule) (poison : Bool) (res : Resp) (s :
  State) :
    ∃ t, execPortReadData port acc addr data poison res s = .next t ∧ Within readDataParts s t := by
  have h : Within readDataParts s s := within_refl _
  unfold execPortReadData
  exact ⟨_, rfl, h.step (within_readData _ _ _ _ _ _ _)⟩

theorem within_execPortRequestTimeout (port : Port) (acc : Access) (tag : Nat) (s : State) :
    ∃ t, execPortRequestTimeout port acc tag s = .next t ∧ Within readDataParts s t := by
  have h : Within readDataParts s s := within_refl _
  unfold execPortRequestTimeout
  exact ⟨_, rfl, h.step (within_requestTimeout _ _ _ _)⟩

theorem within_execHostWriteError (s : State) :
    ∃ t, execHostWriteError s = .next t ∧ Within severeParts s t := by
  have h : Within severeParts s s := within_refl _
  unfold execHostWriteError
  exact ⟨_, rfl, h.step (within_countEvent _ _ _ _)⟩

theorem within_execTranslationResponse (route : Nat) (iova : Nat) (acc : Access) (res : XResult) (s : State) :
    ∃ t, execTranslationResponse route iova acc res s = .next t ∧ Within accessFailsParts s t := by
  have h : Within accessFailsParts s s := within_refl _
  unfold execTranslationResponse
  exact ⟨_, rfl, h.step (within_translation _ _ _ _ _)⟩

theorem within_execTranslationTimeout (route : Nat) (iova : Nat) (acc : Access) (s : State) :
    ∃ t, execTranslationTimeout route iova acc s = .next t ∧ Within accessFailsParts s t := by
  have h : Within accessFailsParts s s := within_refl _
  unfold execTranslationTimeout
  exact ⟨_, rfl, h.step (within_translation _ _ _ _ _)⟩

theorem within_execCreditGrant (port : Port) (wd : Bool) (s : State) :
    ∃ t, execCreditGrant port wd s = .next t ∧ Within answeredParts s t := by
  have h : Within answeredParts s s := within_refl _
  unfold execCreditGrant
  exact ⟨_, rfl, h.step (within_grant _ _ _)⟩

theorem within_execConnOpen (conn : Nat) (part : Nat) (port : Nat) (s : State) :
    ∃ t, execConnOpen conn part port s = .next t ∧ Within openConnParts s t := by
  have h : Within openConnParts s s := within_refl _
  unfold execConnOpen
  exact ⟨_, rfl, h.step (within_openConn _ _ _ _)⟩

theorem within_execConnClose (conn : Nat) (s : State) :
    ∃ t, execConnClose conn s = .next t ∧ Within openConnParts s t := by
  have h : Within openConnParts s s := within_refl _
  unfold execConnClose
  exact ⟨_, rfl, h.step (within_closeConn _ _)⟩

theorem within_execWindowReady (p : Nat) (w : Nat) (s : State) :
    ∃ t, execWindowReady p w s = .next t ∧ Within readyWindowParts s t := by
  have h : Within readyWindowParts s s := within_refl _
  unfold execWindowReady
  exact ⟨_, rfl, h.step (within_readyWindow _ _ _)⟩

theorem within_execLinkDown (port : Port) (s : State) :
    ∃ t, execLinkDown port s = .next t ∧ Within readDataParts s t := by
  have h : Within readDataParts s s := within_refl _
  unfold execLinkDown
  exact ⟨_, rfl, h.step (within_linkGone _ _)⟩

theorem within_execInboundWrite (conn : Nat) (addr : Word64) (data : List Byte) (s : State) :
    ∃ t, execInboundWrite conn addr data s = .next t ∧ Within inboundWriteParts s t := by
  have h : Within inboundWriteParts s s := within_refl _
  unfold execInboundWrite
  exact ⟨_, rfl, h.step (within_inboundWrite _ _ _ _)⟩

theorem within_execInboundTargetAck (id : Nat) (s : State) :
    ∃ t, execInboundTargetAck id s = .next t ∧ Within inboundAckParts s t := by
  have h : Within inboundAckParts s s := within_refl _
  unfold execInboundTargetAck
  exact ⟨_, rfl, h.step (within_inboundAck _ _)⟩

theorem within_execInboundRead (conn : Nat) (addr : Word64) (granules : Nat) (s : State) :
    ∃ t, execInboundRead conn addr granules s = .next t ∧ Within inboundGoParts s t := by
  have h : Within inboundGoParts s s := within_refl _
  unfold execInboundRead
  exact ⟨_, rfl, h.step (within_inboundRead _ _ _ _)⟩

theorem within_execInboundMessage (src : MsgSrc) (m : Msg) (s : State) :
    ∃ t, execInboundMessage src m s = .next t ∧ Within arrivalFailsParts s t := by
  have h : Within arrivalFailsParts s s := within_refl _
  unfold execInboundMessage
  exact ⟨_, rfl, h.step (within_inboundMessage _ _ _)⟩

theorem within_execViaductLinkUp (vp : Nat) (peer : Nat) (peerPort : Nat) (s : State) :
    ∃ t, execViaductLinkUp vp peer peerPort s = .next t ∧ Within readDataParts s t := by
  have h : Within readDataParts s s := within_refl _
  unfold execViaductLinkUp
  exact ⟨_, rfl, h.step (within_viaductUp _ _ _ _)⟩

theorem within_execDeckFlood (peers : List Peer) (faulted : Bool) (s : State) :
    ∃ t, execDeckFlood peers faulted s = .next t ∧ Within readDataParts s t := by
  have h : Within readDataParts s s := within_refl _
  unfold execDeckFlood
  exact ⟨_, rfl, h.step (within_deckFlood _ _ _)⟩

theorem within_execMemoryPortReady (n : Nat) (capacity : Nat) (s : State) :
    ∃ t, execMemoryPortReady n capacity s = .next t ∧ Within openConnParts s t := by
  have h : Within openConnParts s s := within_refl _
  unfold execMemoryPortReady
  refine ⟨_, rfl, ?_⟩
  exact h.put

theorem within_execDeckAccess (src : Nat) (dest : Nat) (part : Nat) (write : Bool) (off : Nat) (data : List Byte) (len :
  Nat) (s : State) :
    ∃ t, execDeckAccess src dest part write off data len s = .next t ∧ Within inboundGoParts s t := by
  have h : Within inboundGoParts s s := within_refl _
  unfold execDeckAccess
  exact ⟨_, rfl, h.step (within_deckItem _ _ _ _ _ _ _ _)⟩

end Sys2Proof.Laws
end

