-- ==== Sys2Proof/Tests/Slice0.lean ====
section
/-! SUPPORT. Tests. For every statement of Certificates/Slice0/Obligations.lean that has hypotheses, a theorem that shows
states and operands which meet them, clause by clause (test_meets_…); then the spec's own worked numbers; then an ill-formed
command for each check of WellFormed. -/

namespace Sys2Proof.Tests

-- One theorem at a time: many at once, in one text, hold more threads than the memory limit allows.
set_option Elab.async false

open Sys2Proof.Machine

/-! A small block in service: partitions 1 and 2, four spans, one I/O queue and its administrative queues. -/

/-- Zero bytes with fields (offset, width, value) put over them. -/
def bytes (n : Nat) (l : List (Nat × Nat × Nat)) : List Byte :=
  l.foldl (fun e x => e.take x.1 ++ leBytes x.2.1 x.2.2 ++ e.drop (x.1 + x.2.1)) (List.replicate n 0)

/-- A legal profile image: spans 0 to 2 of partition 1, span 3 of partition 2; all stacks, attach ports 0 and 1, deck pool of partition 1;
power cap 100; 16 queues, 4 key slots, 4 regions, a pool of 16 MiB a stack for each partition. -/
def image : List Host.Cell :=
  [(0, 0x11), (1, 0x0F), (2, 0xEB), (3, 0x5C), (4, 1), (0x08, 1), (0x0C, 3), (0x0D, 0xFF), (0x0E, 1), (0x0F, 5), (0x14, 0x64), (0x17, 1), (0x40, 1), (0x41, 1), (0x42, 1), (0x43, 2),
   (0xD0, 1),
   (0x100, 1), (0x101, 1), (0x102, 16), (0x106, 4), (0x10A, 3), (0x10C, 4), (0x10E, 64), (0x11B, 1),
   (0x140, 1), (0x141, 1), (0x142, 16), (0x144, 16), (0x146, 4), (0x148, 4), (0x14C, 4), (0x14E, 64), (0x153, 1), (0x15B, 1)]

def pool (o : Nat) : Nat := 0x20 * 2 ^ 56 + o
def lds (o : Nat) : Nat := 0xF0 * 2 ^ 56 + o

def q0 : Queue := { qid := .io 0, part := 1, ring := BitVec.ofNat 64 (pool 0), status := 0x1000, tail := 1, open_ := [0] }
def a0 : Queue := { qid := .adm 0, ring := 0x10000, status := 0x2000 }
def a1 : Queue := { qid := .adm 1, part := 1, ring := BitVec.ofNat 64 (pool 0x1000), status := 0x3000 }

def p1 : Part :=
  { regions := [{ id := 0, base := BitVec.ofNat 64 (pool 0), len := 2 ^ 20, pd := 0, rights := 3 },
                { id := 1, base := BitVec.ofNat 64 (lds 0), len := 2 ^ 20, pd := 0, rights := 3 },
                { id := 2, base := 0, len := 2 ^ 20, pd := 0, rights := 3 }] }

def base : State :=
  { State.reset with
    block := { phase := .running }
    prof := { committed := true, loaded := true, image }
    queues := [a0, a1, q0]
    parts := [{}, p1] ++ List.replicate 7 {}
    ports := { memReady := 0xFF } }

/-- What a command answers. -/
def after (s : State) (c : Instr) : State := match exec c s with | .next t => t | _ => s

/-- An entry of `op` with its fields. -/
def ent (op : Nat) (l : List (Nat × Nat × Nat)) : List Byte := bytes 256 ((0, 1, op) :: l)

/-- A running job of the I/O queue. -/
def job (e : List Byte) (elems tiles tlen : Nat) : Job :=
  { uid := 7, queue := .io 0, idx := 0, part := 1, entry := e, phase := .running, order := 1, elems, tiles, tlen }

def isDone (r : State.Land) : Bool := match r with | .done _ => true | _ => false
def isNext (r : Ans) : Bool := match r with | .next _ => true | _ => false

def isOk {α : Type} : Res α → Bool
  | .ok _ => true
  | _ => false


/-! The hypotheses of the statements, clause by clause. -/

theorem test_meets_StepRunsTheFrontCommand : ({ base with pending := [.alive, .tokenRefill] } : State).pending = .alive :: [.tokenRefill] := rfl

theorem test_meets_EmptyQueueStepCountsTheWakeTimer :
    base.pending = [] ∧ base.central.wakeTimer = 0 ∧ ({ base with central := { wakeTimer := 1 } } : State).pending = [] := by decide +kernel

theorem test_base_inv : Inv base := by
  constructor <;> decide +kernel

theorem test_meets_EveryStepKeepsTheInvariant : Inv base ∧ isNext (step base) = true := ⟨test_base_inv, by decide +kernel⟩

theorem test_meets_CommandsChangeOnlyWhatTheyTouch : isNext (exec (.doorbell 0x10040 4 2) base) = true := by decide +kernel

/-- A store that lists a byte, a poisoned granule and an undefined range. -/
def someStore : Store := { mem := [(5, 1)], poison := [3], undef := [⟨64, 8, 0⟩] }

theorem test_meets_StoreReadsBackWhatWasWritten :
    Memory.wf ({ base with store := someStore } : State).store ∧
    (∀ x ∈ ([{ target := .stack 0, addr := 5, val := 9 }] : List State.Put8), (base.portOf x.target).any (· != .host) = true) ∧
    Memory.wf someStore ∧ 6 ∉ [(5, (1 : Byte))].map (·.1) := by decide +kernel

/-- The central domain asleep. -/
def asleep (n : Nat) : State :=
  { base with central := { power := .deep, captured := List.replicate n ⟨.io 0, 1⟩ } }

theorem test_meets_DoorbellWithinTheRulesIsAccepted :
    base.bellWrite 0x10040 4 = some q0 ∧ base.centralAsleep = false ∧ q0.state ≠ .error ∧ q0.lost = false ∧
    ((16 : Word32) - q0.head).toNat ≠ 0 ∧ ((16 : Word32) - q0.head).toNat ≤ 2 ^ q0.log2 ∧
    (q0.tail - q0.head).toNat < ((16 : Word32) - q0.head).toNat ∧ State.overwritten q0 16 = none ∧
    ((1 : Word32) - q0.head).toNat ≠ 0 ∧
    (1 - q0.head).toNat ≤ (q0.tail - q0.head).toNat := by decide +kernel

/-- Host memory mapped as it is, and credits at the host port. -/
def hostMap : Xlat := { route := 0, page := 0, log2 := 24, addr := 0 }
def hostUp : PortState := { port := .host, req := 4, wd := 64 }

/-- A queue that wraps, with an early entry that has not completed. -/
def late : Queue := { q0 with head := 0xFFFFFFFF, tail := 0, open_ := [0xFFFFFFF0] }

theorem test_meets_DoorbellOutsideTheRulesStopsTheQueue :
    base.bellWrite 0x10040 4 = some q0 ∧ base.centralAsleep = false ∧ q0.state ≠ .error ∧ q0.lost = false ∧
    ((0 : Word32) - q0.head).toNat = 0 ∧ 2 ^ q0.log2 < ((17 : Word32) - q0.head).toNat ∧
    ({ base with queues := [late] } : State).bellWrite 0x10040 4 = some late ∧
    ((1 : Word32) - late.head).toNat ≠ 0 ∧ ((1 : Word32) - late.head).toNat ≤ 2 ^ late.log2 ∧
    (late.tail - late.head).toNat < ((1 : Word32) - late.head).toNat ∧
    State.overwritten late 1 = some 0xFFFFFFF0 ∧
    (let x : Queue := { q0 with xlat := [hostMap] }
     let s : State := { base with queues := [x], ports := { memReady := 0xFF, states := [hostUp] } }
     let z := { x with state := .error, errCode := 0xF1#8, errDetail := 1, errIndex := 0, lastDb := 0 }
     let bs := (s.place 1 x.xlat 0x1000 (s.statusBytes z)).getD []
     s.bellWrite 0x10040 4 = some x ∧ (s.place (State.queuePart x) x.xlat x.status.toNat (s.statusBytes z)) = some bs ∧
       (∀ b ∈ bs, b.1 = .host ∧ b.2.1 / 64 = 0x40) ∧ (bs.map fun b => b.2.1).Nodup ∧ s.ports.requests = [] ∧
       (s.portState .host).req ≠ 0 ∧ (s.portState .host).wd ≠ 0 ∧ Memory.wf s.store) := by decide +kernel

theorem test_meets_OtherDoorbellWritesChangeNothing :
    (2 ≠ 4 ∧ 4 % 0x40 ≠ 0 ∧ (base.bellQueue 0xFFFC0).bind base.live? = none) ∧
    (let s : State := { base with queues := [{ q0 with state := .error }] }
     s.centralAsleep = false ∧ s.bellWrite 0x10040 4 = some { q0 with state := .error }) := by decide +kernel

theorem test_meets_SleepingBlockCapturesDoorbells :
    (asleep 63).bellWrite 0x10040 4 = some q0 ∧ (asleep 63).centralAsleep = true ∧ (asleep 63).central.captured.length < 64 ∧
    (asleep 63).central.trans = none ∧ (asleep 64).bellWrite 0x10040 4 = some q0 ∧ (asleep 64).centralAsleep = true ∧
    64 ≤ (asleep 64).central.captured.length ∧
    (let s : State := { base with central := { power := .deep, trans := some .exitDeep, captured := [⟨.io 0, 2⟩] } }
     s.block.refClk = true ∧ s.central.trans = some .exitDeep ∧ s.central.exitReset = false ∧ s.levels = []) := by decide +kernel

/-- The keys of 256 bytes from an address on. -/
def keysAt (s : State) (p a : Nat) : List Nat := (s.keys p [] a 256).getD []

theorem test_meets_EntryFetchReadsTheNextEntry :
    base.live? (.io 0) = some q0 ∧ base.canFetch q0 = true ∧ (base.keys 1 [] (State.slotAddr q0 q0.head) 256).isSome = true ∧
    (∀ g ∈ granulesOf (keysAt base 1 (State.slotAddr q0 q0.head)), g ∉ base.store.poison) ∧
    (let a := { a1 with tail := 1, open_ := [0] }
     let s : State := { base with queues := [a] }
     s.live? (.adm 1) = some a ∧ s.canFetch a = true ∧ (s.keys 1 [] (State.slotAddr a a.head) 256).isSome = true) := by decide +kernel

theorem test_meets_UnreadableRingStopsTheQueue :
    base.live? (.io 0) = some q0 ∧ base.canFetch q0 = true ∧
    (let a : Queue := { a0 with tail := 1, open_ := [0] }
     let s : State := { base with queues := [a] }
     s.live? (.adm 0) = some a ∧ s.canFetch a = true ∧
       ((s.locate 0 [] (State.slotAddr a a.head)).bind fun t => s.portOf t.1) = none) := by decide +kernel

/-- A job that has ended, and one whose record has been answered. -/
def ended : Job := { job (ent 1 []) 4 1 4 with phase := .ending }
def recorded : Job := { job (ent 1 [(1, 1, 1)]) 4 1 4 with phase := .record }

theorem test_meets_RecordThenDone :
    (let s : State := { base with jobs := [ended] }
     s.job? 7 = some ended ∧ s.queue? (.io 0) = some q0 ∧ q0.lost = false ∧ ended.wait = .none ∧ ended.threads = [] ∧
       s.jobWrites 7 = [] ∧ ended.pass.due = [] ∧ ended.pass.redo = [] ∧ ended.pass.redoing = [] ∧ s.mustWait ended = false ∧
       (s.place 1 [] (State.slotAddr q0 0) (State.recordBytes ended)).isSome = true) ∧
    (let s : State := { base with jobs := [recorded] }
     s.job? 7 = some recorded ∧ recorded.phase = .record ∧ s.jobWrites 7 = [] ∧
       (s.place 1 [] (State.slotAddr q0 0 + 0x1F) [0x80#8]).isSome = true) ∧
    ended.read = true ∧ 16 ≤ ended.entry.length := by decide +kernel

theorem test_meets_AnsweredDoneCompletesTheEntry :
    let j := { recorded with phase := .done }
    let s : State := { base with jobs := [j] }
    let after := fun (l : List Nat) => ({ base with jobs := [j], queues := [{ q0 with after := l }] } : State)
    (s.job? 7 = some j ∧ s.queue? (.io 0) = some q0 ∧ j.phase = .done ∧ s.jobWrites 7 = [] ∧ 7 ∉ q0.after ∧ Entry.notify j.entry = true) ∧
    ((after [7, 8]).job? 7 = some j ∧ (after [7, 8]).queue? (.io 0) = some { q0 with after := [7, 8] } ∧ (after [7, 8]).jobWrites 7 = []) ∧
    (after [7]).queue? (.io 0) = some { q0 with after := [7] } ∧ (after [7]).jobWrites 7 = [] := by decide +kernel


/-- NOP at the head of the queue; a second entry behind it, of higher priority on another queue. -/
def nopEntry (prio : Nat) : List Byte := ent 0x0F [(0x10, 4, prio)]
def headOf (uid : Nat) (q : Nat) (e : List Byte) : Job :=
  { uid, queue := .io q, idx := 0, part := 1, entry := e, phase := .fetched }
def ready : State :=
  { base with
    queues := [{ q0 with head := 1, fetched := [⟨0, 7⟩] }, { q0 with qid := .io 1, head := 1, fetched := [⟨0, 8⟩] }]
    jobs := [headOf 7 0 (nopEntry 0), headOf 8 1 (nopEntry 3)] }

theorem test_meets_AdmissionServesTheHighestLevel :
    ready.running = true ∧ ready.prof.committed = true ∧ ready.centralAsleep = false ∧
    (let s0 := (ready.ioQueues 1).foldl (fun s x => State.dropFails x.qid 65 0 s) ready
     ((s0.heads 1).filter (fun h => s0.holdOf h == .none)).map (fun h => Entry.prio h.job.entry) = [0, 3]) := by decide +kernel

theorem test_admit_job_takes_the_urgent_queue :
    ((after ready (.admitJob 1)).job? 8).map (·.phase) = some .running ∧
    ((after ready (.admitJob 1)).job? 7).map (·.phase) = some .fetched := by decide +kernel

/-- An entry that fails decode, at the head and behind a NOP. -/
theorem test_meets_EntryThatFailsDecodeCompletesAtOnce :
    let j := headOf 7 0 (ent 0xEE [])
    let x := { q0 with head := 1, fetched := [⟨0, 7⟩] }
    let y := { q0 with head := 2, tail := 2, fetched := [⟨0, 8⟩, ⟨1, 7⟩] }
    let s : State := { base with queues := [x], jobs := [j] }
    let u : State := { base with queues := [y], jobs := [headOf 8 0 (nopEntry 0), j] }
    (s.queue? (.io 0) = some x ∧ s.admits x = true ∧ x.fetched[0]? = some ⟨0, 7⟩ ∧ s.job? 7 = some j ∧ j.groupOp = false ∧
      s.decode x j = .fail 1 0xEE none) ∧
    u.queue? (.io 0) = some y ∧ u.admits y = true ∧ y.fetched[1]? = some ⟨1, 7⟩ ∧ u.job? 7 = some j ∧
      u.decodeForm y j = .fail 1 0xEE none := by decide +kernel

def shaped : Queue :=
  { q0 with shaper := { quantum := 16, rate := 1, burst := 1 }, newShaper := some { quantum := 16, rate := 2, burst := 1 }, tokens := 102500 }

theorem test_meets_RefillAddsTokensUpToTheBurst :
    let s : State := { base with queues := [shaped, { shaped with newShaper := none }, q0, a1] }
    s.queues[0]? = some shaped ∧ shaped.qid = .io 0 ∧ shaped.newShaper ≠ none ∧ q0.shaper.rate = 0 ∧ s.queues[3]? = some a1 ∧
    a1.qid = .adm 1 ∧ ((after s .tokenRefill).queues.map (·.tokens)) = [102400, 102400, 1638400, a1.tokens] := by decide +kernel

def timed (op : Nat) (l : List (Nat × Nat × Nat)) : Job := job (ent op ((0x11, 3, 10) :: l)) 8 2 4

/-- A group of two local ranks, and the same with its coordinator on another engine. -/
def pair (far : Bool) : Group :=
  { g := 1, tag := 9, m := 2, inT := 7, outT := 7, chunkElems := 64, epochChunks := 4, slotDepth := 1, timeout := 100, pd := 0,
    slotArea := BitVec.ofNat 64 (pool 0x8000),
    members := [{ recv := BitVec.ofNat 64 (pool 0x6000), recvLen := 2048, place := if far then some (.deck 1) else none },
                { recv := BitVec.ofNat 64 (pool 0x7000), recvLen := 2048, place := none }] }

/-- The block with a group and a job of it. -/
def withGroup (g : Group) (j : Job) : State :=
  { base with jobs := [j], parts := [{}, { p1 with groups := [g] }] ++ List.replicate 7 {} }

theorem test_meets_DescriptorTimeoutEndsTheJob :
    (let j := timed 1 []
     let s : State := { base with jobs := [j] }
     s.job? 7 = some j ∧ s.queue? (.io 0) = some q0 ∧ q0.state ≠ .halted ∧ j.order ≠ 0 ∧ j.phase = .running ∧ j.stopped = false ∧
       Entry.timeout j.entry ≠ 0 ∧ j.groupOp = false ∧ Entry.opcode j.entry = 1) ∧
    (let j := timed 0x0B []
     Entry.timeout j.entry ≠ 0 ∧ j.groupOp = false ∧ Entry.opcode j.entry = 0x0B ∧ j.phase = .running) ∧
    (let j := timed 6 [(0x20, 1, 1)]
     let s := withGroup (pair false) j
     s.job? 7 = some j ∧ s.queue? (.io 0) = some q0 ∧ Entry.timeout j.entry ≠ 0 ∧ j.groupOp = true ∧ Entry.opcode j.entry ≠ 0x0C ∧
       s.group? 1 j.groupNo = some (pair false) ∧ (pair false).closing ≠ some 0) ∧
    (let j := timed 0x0C [(0x20, 1, 1)]
     let g := { pair false with state := .ready }
     let h := { pair true with state := .ready }
     Entry.timeout j.entry ≠ 0 ∧ j.groupOp = true ∧ Entry.opcode j.entry = 0x0C ∧
       (withGroup g j).group? 1 j.groupNo = some g ∧ 0 ∈ State.localRanks g ∧
       (withGroup h j).group? 1 j.groupNo = some h ∧ 0 ∉ State.localRanks h) := by decide +kernel


/-- A view job of sixteen UINT8 elements: source at 0x2000 of the pool, destination at 0x3000. -/
def exts (l : List Nat) : List (Nat × Nat × Nat) := (List.range 6).map fun d => (0x20 + 4 * d, 4, l.getD d 1)
def viewEnt (op stages types : Nat) (l : List (Nat × Nat × Nat)) : List Byte :=
  ent op ([(2, 1, stages), (0x80, 8, pool 0x2000), (0x88, 8, pool 0x3000), (0x90, 1, types)] ++ l)
/-- What the reads of ranges have brought: granules of pool addresses with their lengths. -/
def brought (l : List (Nat × Nat)) : Seen := { has := l.flatMap fun x => granulesOf ((base.keys 1 [] x.1 x.2).getD []) }
def thread0 : Thread := { tile := 0, span := 0, seen := brought [(pool 0x2000, 64), (pool 0x4000, 64), (pool 0x5000, 64)] }
def threaded (e : List Byte) (n : Nat) : Job := { job e n 1 16384 with next := 1, threads := [thread0] }
/-- The block with a job; bytes 1 to 16 stand at 0x2000 of the pool, which is address 0 of stack 2. -/
def withJob (j : Job) : State :=
  { base with jobs := [j], store := { mem := (List.range 16).map fun i => (locKey (.stack 2) i, BitVec.ofNat 8 (i + 1)) } }

def moveE : List Byte := viewEnt 1 0x81 0x77 (exts [16])
/-- Two rows of sixteen bytes, picked by an index stream of zeros at 0x4000. -/
def indexed (op : Nat) : List Byte :=
  viewEnt op 0x83 0x77 (exts [16, 2] ++ [(0x3E, 6, 16), (0x62, 6, 16), (0xA0, 8, pool 0x4000), (0xAC, 1, 0xB), (0xAD, 1, 0x71), (0xB4, 4, 3)])
def fillE : List Byte := viewEnt 0x0D 0x80 0x70 (exts [16] ++ [(0x80, 8, 0), (0x98, 4, 0x5A)])
def sealE : List Byte :=
  viewEnt 0x0E 0x41 0x07 (exts [16] ++ [(0x88, 8, 0), (0xF0, 8, pool 0x5000), (0xF8, 1, 2), (0xFA, 2, 32)])

theorem test_decode_takes_the_entries :
    let ok (e : List Byte) (n : Nat) : Bool := match base.decode q0 (headOf 7 0 e) with | .ok _ m _ _ => m == n | _ => false
    ok moveE 16 = true ∧ ok (indexed 2) 32 = true ∧ ok (indexed 3) 32 = true ∧ ok fillE 16 = true ∧ ok sealE 16 = true := by decide +kernel

theorem test_meets_TileRequestHandsTheNextTile :
    let j := { job moveE 16 1 16384 with next := 0 }
    let s := withJob j
    s.job? 7 = some j ∧ s.spanOwner 0 = 1 ∧ s.spanOwner 2 = 1 ∧ 2 < s.spans.length ∧ s.spanFenced 0 = false ∧ s.spanHeld 0 = false ∧
    s.running = true ∧ s.centralAsleep = false ∧ State.tileDue j = true ∧ State.nextTile j = some 0 ∧ (s.span 0).power = .idle ∧
    (s.span 0).trans = none ∧ s.freeCore 0 (s.drainingCore 0) ≠ 32 ∧ s.threadWrites 7 0 = [] ∧
    Entry.isView j.entry = true ∧ Entry.mode j.entry < 2 ∧ Entry.expand j.entry = false ∧
    (let u := (s.modSpan 1 fun x => { x with power := .sleep }).modSpan 2 fun x => { x with power := .deep }
     u.spanOwner 1 = 1 ∧ (u.span 1).power = .sleep ∧ (u.span 1).trans = none ∧ (u.span 2).power = .deep ∧
       (u.span 2).trans = none) ∧
    (let l : Level := { id := 0, scope := .span 0 }
     let u : State := { s with levels := [l] }
     u.spanHeld 0 = true ∧ l ∈ u.levels ∧ j.groupOp = false) := by decide +kernel

/-- A run that lacks nothing and met nothing. -/
def clean {α : Type} (r : State.Run α) : Bool := r.need.isEmpty && r.miss.isEmpty && isOk r.stop && !r.done.isEmpty

/-- Bytes have landed, and no codeword stands under injection. -/
def landed (r : State.Land) : Bool := match r with | .done s1 => s1.store.inj.isEmpty | _ => false

/-- The hypotheses of TileWritesItsElements that depend on the entry. -/
def tileMeetsAll (op : Nat) (j : Job) : Bool :=
  match (withJob j).readyThread 7 0 with
  | none => false
  | some (s, w, th) =>
    let r := State.runElems (fun n => s.elemPut w (s.bookAt w th.span) (State.rowShift w.toJob) n) (State.liveElems w.toJob 0)
    Entry.opcode w.entry == op && (Entry.mode w.entry != 1 || w.pass.converting) && State.tilesOpen w.toJob && w.early.isNone &&
    clean r &&
    landed (s.landCells w.toJob (.job 7 .thread 0) (Entry.dst w.entry).route (State.encryptCells w.toJob (cellsOfAll r.done))
      (s.tileMeets w.toJob (r.done.map (·.1))) (fun n => w.tileOf n == 0) (some th.span))

theorem test_meets_TileWritesItsElements :
    Memory.wf (withJob (threaded moveE 16)).store ∧ tileMeetsAll 1 (threaded moveE 16) = true ∧ tileMeetsAll 2 (threaded (indexed 2) 32) = true ∧
    tileMeetsAll 3 { threaded (indexed 3) 32 with pass := { indexed := true, winners := [((0, 0), 1)] } } = true ∧
    tileMeetsAll 0x0D (threaded fillE 16) = true ∧ tileMeetsAll 0x0E (threaded sealE 16) = true := by decide +kernel

/-- MOVE's writes carry the source's bytes. -/
theorem test_move_copies :
    ((after (withJob (threaded moveE 16)) (.move 7 0)).ports.requests.flatMap fun r =>
      match r.body with | .write l _ => l.map (·.val) | _ => []) = (List.range 16).map (· + 1) := by decide +kernel

theorem test_fill_fills :
    ((after (withJob (threaded fillE 16)) (.fill 7 0)).ports.requests.flatMap fun r =>
      match r.body with | .write l _ => l.map (·.val) | _ => []) = List.replicate 16 0x5A := by decide +kernel

/-- Four rows of eight BF16 elements. -/
def rows4 (op stages types : Nat) (l : List (Nat × Nat × Nat)) : List Byte :=
  viewEnt op stages types (exts [8, 4] ++ [(0x3E, 6, 16)] ++ l)
def statsE : List Byte := rows4 4 1 2 [(0x88, 8, 0), (0xC0, 8, pool 0x5000), (0xC8, 8, pool 0x6000)]
/-- Quantised to INT8 with the scales of a first pass, and with carried ones. -/
def quantE (mode : Nat) (l : List (Nat × Nat × Nat)) : List Byte :=
  rows4 1 0x89 0x62 ([(0x62, 6, 16), (0x97, 1, 8), (0xC8, 8, pool 0x6000), (0xD0, 1, mode)] ++ l)
def carriedE : List Byte := quantE 2 [(1, 1, 4), (0xC0, 8, pool 0x5000)]

theorem test_decode_takes_the_conversions :
    let ok (e : List Byte) (n : Nat) : Bool := match base.decode q0 (headOf 7 0 e) with | .ok _ m _ _ => m == n | _ => false
    ok statsE 4 = true ∧ ok (quantE 1 []) 32 = true ∧ ok carriedE 32 = true := by decide +kernel

/-- The values of a row as STATS reads them. -/
def rowsOf (s : State) (w : Work) (r : Nat) : List (Option Sys2Proof.Machine.Num) :=
  match s.rowValues w (s.bookAt w 0) r (some r) with | .ok l => l | _ => []

def statsPut (s : State) (w : Work) (r : Nat) : State.Put :=
  let j := w.toJob
  { bits := (List.range 32).map fun (k : Nat) => ((((u64 j.entry 0xC0 % 2 ^ 56 : Nat) : Int) + (4 * r : Nat)) * 8 + (k : Int)),
    code := (State.statsRow (rowsOf s w r)).1.toNat, cnt := (State.statsRow (rowsOf s w r)).2.1,
    aux := if (State.statsRow (rowsOf s w r)).2.2 then 1 else 0,
    faults := (List.range (Entry.rowLen j.entry)).flatMap fun k => s.faultsOf j (Entry.inRow j.entry r k) }

def statsJob : Job := { job statsE 4 1 4096 with next := 1, threads := [thread0] }

theorem test_meets_StatsMeasuresItsRows :
    ((withJob statsJob).readyThread 7 0).isSome = true ∧
    (match (withJob statsJob).readyThread 7 0 with
     | none => true
     | some (s, w, th) =>
       let rs := State.liveElems w.toJob 0
       Entry.opcode w.entry == 4 && w.early.isNone &&
       rs.all (fun r => decide (s.rowValues w (s.bookAt w th.span) r (some r) = .ok (rowsOf s w r))) &&
       landed (s.landCells w.toJob (.job 7 .thread 0) (u64 w.entry 0xC0 / 2 ^ 56) (cellsOfAll (rs.map fun r => (r, statsPut s w r)))
         (s.tileMeets w.toJob ((rs.map fun r => (r, statsPut s w r)).map (·.1))) (fun _ => true) (some th.span))) = true := by
  constructor <;> decide +kernel

/-- BF16 words 0x0201 to 0x100F stand in row 0: the max-abs of the row is its last word, as FP32. -/
theorem test_stats_writes_the_row_maximum :
    ((after (withJob statsJob) (.stats 7 0)).ports.requests.flatMap fun r =>
      match r.body with | .write l _ => l.map (·.val) | _ => []).take 8 = [0, 0, 0x0F, 0x10, 0, 0, 0, 0] := by decide +kernel

def indexJob : Job := { job (indexed 3) 32 1 16384 with pass := { seen := brought [(pool 0x4000, 64)] } }

theorem test_meets_IndexPassKeepsTheLastDuplicate :
    let j := indexJob
    let s := withJob j
    s.job? 7 = some j ∧ Entry.opcode j.entry = 3 ∧ j.phase = .running ∧ j.stopped = false ∧ j.order ≠ 0 ∧ j.recheck = false ∧
    j.pass.indexed = false ∧ j.early = none ∧ s.store.inj = [] ∧
    Entry.idxOuter j.entry = 7 ∧ Entry.extent j.entry (Entry.idxDim j.entry) = 2 ∧
    (List.range 2).all (fun ix =>
      let v := ((List.replicate 6 0).set 1 ix).set 6 0
      decide (rank (Entry.exts j.entry) v < j.elems) &&
      decide (s.got (State.passWork j) (Entry.idxBase j.entry + 4 * Entry.idxPos j.entry v) 4 = .ok [0, 0, 0, 0])) = true ∧
    Entry.idxVal j.entry 0 = 0 := by decide +kernel

/-- Both places of the indexed dimension hold 0: the later one wins. -/
theorem test_index_pass_keeps_the_last :
    ((after (withJob indexJob) (.indexPass 7)).job? 7).map (fun k => (k.pass.indexed, k.pass.winners)) =
      some (true, [((0, 0), 1)]) := by decide +kernel

/-- The values of the rows of a group, as a pass reads them. -/
def groupVals (s : State) (j : Job) (elem : Option Nat) : Option (List (List (Option Sys2Proof.Machine.Num))) :=
  match Res.all ((State.groupRows j.entry 0).map fun r =>
    s.rowValues (State.passWork j) (s.bookAt (State.passWork j) 0) r elem) with | .ok l => some l | _ => none

/-- What the reads of a pass over the source have brought. -/
def passed : Seen := brought [(pool 0x2000, 64)]

theorem test_meets_FirstPassFormsRecordsThenConverts :
    let j := { job (quantE 1 []) 32 1 16384 with pass := { seen := passed } }
    let s := withJob j
    s.job? 7 = some j ∧ j.phase = .running ∧ j.stopped = false ∧ j.order ≠ 0 ∧ j.recheck = false ∧ j.early = none ∧ Entry.mode j.entry = 1 ∧
    j.pass.converting = false ∧ Entry.opcode j.entry = 1 ∧ 0 = j.pass.scales.length ∧ 0 < Entry.groups j.entry ∧
    s.passSpan 1 = some 0 ∧ s.store.inj = [] ∧ (groupVals s j (some 0)).isSome = true ∧
    (s.place 1 [] (Entry.scaleOut j.entry) (State.recordOf
      (State.formRecord 0 (((groupVals s j (some 0)).getD []).map fun l => some (State.rowNeed j.entry (State.rowMaxAbs l))) 0)
      (Entry.pmOut j.entry) 0)).isSome = true ∧
    (let k := { j with pass := { scales := [⟨0, 0, [], 0⟩] } }
     Entry.isView k.entry = true ∧ k.pass.scales.length = Entry.groups k.entry ∧ (withJob k).jobWrites 7 = []) := by decide +kernel

theorem test_meets_ScaleRecordHoldsEveryShift : [(-127 : Int), 128, 0] ≠ [] ∧ ∀ x ∈ [(-127 : Int), 128, 0], -127 ≤ x ∧ x ≤ 128 := by
  decide +kernel

/-- A group that waits for its redo: before it is measured, once it has been, and once it has been written again. -/
def redoJob (a : Option ScaleRec) (b : List ScaleRec) : Job :=
  { job carriedE 32 1 16384 with
    next := 1, retired := [0],
    pass := { redo := [0], closed := [(0, 2)], matched := [⟨0, 100, [0, 0, 0, 0], 1⟩], redoAt := a, redoing := b, seen := passed } }

def redoRec : ScaleRec :=
  let j := redoJob none []
  let r := State.formRecord 0 (((groupVals (withJob j) j none).getD []).map fun v => some (State.rowNeed j.entry (State.rowMaxAbs v))) 0
  { r with flags := 1 }

theorem test_meets_RedoRecomputesTheGroup :
    (let j := redoJob none []
     let s := withJob j
     s.job? 7 = some j ∧ j.phase = .running ∧ j.stopped = false ∧ j.early = none ∧ j.pass.redo.contains 0 = true ∧
       64 * 0 * Entry.rowLen j.entry < j.elems ∧ s.store.inj = [] ∧ j.pass.redoing = [] ∧ s.passSpan 1 = some 0 ∧
       State.folioClash j 0 (State.rowFolios j (State.groupRows j.entry 0)) j.tiles = false ∧ (groupVals s j none).isSome = true) ∧
    (let j := redoJob (some redoRec) []
     let s := withJob j
     let m := j.pass.matched.map fun x => if x.group == 0 then redoRec else x
     let w : Work := { toJob := { j with pass := { j.pass with matched := m } }, seen := some j.pass.seen }
     let l := State.runElems (fun n => s.elemPut w (s.bookAt w 0) (State.rowShift w.toJob) n) ((List.range 32).map fun k => 0 + k)
     redoRec.group = 0 ∧ Entry.cipherWrite j.entry = false ∧ min (64 * (0 + 1) * Entry.rowLen j.entry) j.elems = 32 ∧ clean l = true ∧
       (match s.landCells j (.job 7 .other 0) (Entry.dst j.entry).route (cellsOfAll l.done) (s.tileMeets j (l.done.map (·.1)))
          (fun n => decide (0 ≤ n ∧ n < 32)) none with
        | .done s1 => (s1.jobWrites 7).any fun x => x.owner == .job 7 .other 0
        | _ => false) = true) ∧
    (let j := redoJob none [redoRec]
     let s := withJob j
     ((s.jobWrites 7).any fun x => x.owner == .job 7 .other 0) = false ∧
       s.routeLost 1 ((Entry.scaleIn j.entry + 48 * 0) / 2 ^ 56) = false ∧ s.routeLost 1 ((Entry.scaleOut j.entry + 48 * 0) / 2 ^ 56) = false ∧
       (s.place 1 [] (Entry.scaleIn j.entry + 48 * 0) (State.recordOf redoRec (Entry.pmIn j.entry) (redoRec.flags % 2 + 4))).isSome = true ∧
       (s.place 1 [] (Entry.scaleOut j.entry + 48 * 0) (State.recordOf redoRec (Entry.pmOut j.entry) 5)).isSome = true) := by
  constructor
  · decide +kernel
  constructor <;> decide +kernel

theorem test_meets_LastRetirementCompletesTheJob :
    let th : Thread := { thread0 with ran := true }
    let j := { job moveE 16 1 16384 with next := 1, threads := [th] }
    let j2 := { job moveE 32768 2 16384 with next := 2, threads := [{ th with tile := 1 }] }
    let s := withJob j
    s.job? 7 = some j ∧ j.groupOp = false ∧ j.phase = .running ∧ j.stopped = false ∧ j.order ≠ 0 ∧ j.early = none ∧
    j.threads.find? (fun x => x.tile == 0 && x.ran) = some th ∧ s.threadWrites 7 0 = [] ∧ Entry.mode j.entry ≠ 2 ∧
    Entry.sealGen j.entry = false ∧ Entry.cipherWrite j.entry = false ∧ Entry.opcode j.entry ≠ 4 ∧ j.pass.due = [] ∧
    j.pass.redo = [] ∧ j.pass.redoing = [] ∧ s.jobWrites 7 = [] ∧ State.tileOpcode (Entry.opcode j.entry) = true ∧ State.tilesOpen j = true ∧
    ({ j with retired := insertAsc j.retired 0, threads := [] } : Job).lowestUnretired = 1 ∧
    j2.threads.find? (fun x => x.tile == 1 && x.ran) = some { th with tile := 1 } ∧
    ({ j2 with retired := insertAsc j2.retired 1, threads := [] } : Job).lowestUnretired < j2.tiles := by decide +kernel


/-! TARIFF and HISTOGRAM_BUILD. -/

theorem test_meets_LandedBytesStandAndNoOther :
    let j := threaded moveE 16
    let s := withJob j
    let w : Work := { toJob := j, seen := some thread0.seen }
    let l := (State.runElems (fun n => s.elemPut w (s.bookAt w 0) (State.rowShift j) n) (State.tileElems j 0)).done
    let cells := cellsOfAll l
    let put : Sys2Proof.Machine.Cell := { off := 3, mask := 0xF0, val := 0x50, elem := 0 }
    (Memory.wf s.store ∧ isDone (s.landCells j (.job 7 .thread 0) 0x20 cells false (fun _ => true) (some 0)) = true ∧
      Entry.apart j.entry = true ∧ cells.length = 16 ∧ cells.all (fun x => !x.shared) = true ∧
      cells.all (fun x => ((s.locate 1 [] (0x20 * 2 ^ 56 + x.off.toNat)).map (·.1)) == some (.stack 2) ||
        ((s.locate 1 [] (0x20 * 2 ^ 56 + x.off.toNat)).map (·.1)) == some (.stack 3)) = true) ∧
    isDone (s.landCells j (.job 7 .thread 0) 0xF0 [put] false (fun _ => true) none) = true ∧
    s.locate 1 [] (0xF0 * 2 ^ 56 + 3) = some (.staging 0, 3) ∧ [put].Nodup ∧
    isDone (s.landCells j (.job 7 .thread 0) 0x20 [{ put with shared := true }] true (fun _ => true) none) = true := by decide +kernel

/-- 16 rows of 64 weights, one leaf of VQ8x1; one token of BF16 activations; BF16 outputs. -/
def tariffE : List Byte :=
  ent 0x0A [(0x20, 4, 16), (0x24, 4, 64), (0x28, 1, 1), (0x29, 1, 0x22), (0x30, 8, pool 0x2000), (0x48, 8, pool 0x3000),
    (0x68, 8, pool 0x4000), (0x70, 8, pool 0x7000), (0x7C, 1, 1)]
def vqFolio : Folio :=
  { fmt := 2, placement := 0, cbId := 9, count := 64, first := 0, payOff := 0, tabOff := 0x800, cbAddr := pool 0x8000 }
/-- The job before its tables are built, whose reads have come, and a thread of it afterwards. -/
def tariffBuild : Job :=
  { job tariffE 16 1 8192 with
    decoded := Folio.bytes vqFolio, banks := [(0, 0), (0, 1)]
    pass := { seen := { has := (brought [(pool 0x2000, 128)]).has ++ (List.range 64).map fun i => granuleOf (locKey (.stack 0) 0x1000) + i } } }
def tariffJob : Job :=
  { tariffBuild with
    next := 1, threads := [{ tile := 0, span := 0, seen := brought [(pool 0x4000, 128), (pool 0x4800, 16)] }], pass := { built := true } }
def ones (k n : Nat) : List Host.Cell := (List.range (2 * n)).map fun i => (k + i, if i % 2 = 0 then 0x80 else 0x3F)
/-- Activations 1.0, codebook vector 0 all 1.0, every code 0, and a sound record of 1,024 elements; tables of the same in a bank. -/
def tariffState (j : Job) : State :=
  let book := (ones 0 8).map (·.2)
  { base with
    jobs := [j]
    store := { mem := ones (locKey (.stack 0) 0x1000) 8 ++ ones (locKey (.stack 2) 0) 64 ++
      (((List.range 12).zip ([2, 127, 0x80, 0, 0, 4, 9, 0] ++ leBytes 4 (crc32c (List.replicate 128 0)).toNat)).filter
        (·.2 != 0)).map fun x => (locKey (.stack 4) (0x800 + x.1), x.2)
               tables := [{ span := 0, core := 1, book, acts := [(ones 0 64).map (·.2)] }] } }

theorem test_decode_takes_a_tariff :
    (match base.formFail 1 tariffE false with | none => true | some _ => false) = true ∧ Folio.ok (Folio.bytes vqFolio) none = true := by
  decide +kernel

def resGet {α : Type} (d : α) : Res α → α
  | .ok a => a
  | _ => d

/-- Every address of the pool has a place in a stack while the stacks serve. -/
theorem locate_pool {s : State} {p o : Nat} {xl : List Xlat} (h : s.hasTarget p 0x20 = true) (ho : o < 2 ^ 56) :
    s.locate p xl (pool o) = some (.stack (State.interleave o).1, s.cb p + (State.interleave o).2) := by
  have h1 : pool o / 2 ^ 56 = 0x20 := by unfold pool; omega
  have h0 : pool o % 2 ^ 56 = o := by unfold pool; omega
  have h2 : State.routeDefined 0x20 = true := by decide
  have h3 : State.translated 0x20 = false := by decide
  simp only [State.locate, h1, h0, h2, h3, h]; simp

/-- An operation that answers for every member answers for the list. -/
theorem mapM_some {α β : Type} {f : α → Option β} {g : α → β} {l : List α} (h : ∀ x ∈ l, f x = some (g x)) : l.mapM f = some (l.map g) := by
  induction l with
  | nil => rfl
  | cons x r ih => simp [List.mapM_cons, h x (List.mem_cons_self ..), ih fun y hy => h y (List.mem_cons_of_mem _ hy)]

theorem pool_add (o i : Nat) : pool o + i = pool (o + i) := by unfold pool; omega

theorem pool_route {o : Nat} (ho : o < 2 ^ 56) : pool o / 2 ^ 56 = 0x20 := by unfold pool; omega

theorem place_pool {s : State} {p o : Nat} {xl : List Xlat} {bs : List Byte} (h : s.hasTarget p 0x20 = true)
    (ho : o + bs.length ≤ 2 ^ 56) : ∃ l, s.place p xl (pool o) bs = some l := by
  refine ⟨_, mapM_some (g := fun x => (.stack (State.interleave (o + x.1)).1, s.cb p + (State.interleave (o + x.1)).2, x.2)) fun x hx => ?_⟩
  have hi : x.1 < bs.length := List.mem_range.1 (List.of_mem_zip hx).1
  rw [pool_add, locate_pool h (by omega)]; rfl

/-- A read of the pool whose granules have come answers. -/
theorem got_pool {s : State} {j : Work} {v : Seen} {o n : Nat} (h : s.hasTarget j.part 0x20 = true) (hp : s.store.poison = [])
    (hv : j.seen = some v) (hb : v.bad = [])
    (hs : ∀ i < n, granuleOf (locKey (.stack (State.interleave (o + i)).1) (s.cb j.part + (State.interleave (o + i)).2)) ∈ v.has)
    (ho : o + n < 2 ^ 56) : ∃ b, s.got j (pool o) n = .ok b := by
  have hl : (List.range n).mapM (fun i => s.locate j.part j.xlat (pool o + i)) = some ((List.range n).map fun i =>
      ((.stack (State.interleave (o + i)).1, s.cb j.part + (State.interleave (o + i)).2) : Target × Nat)) :=
    mapM_some fun i hi => by rw [pool_add, locate_pool h (by have := List.mem_range.1 hi; omega)]
  have hr : s.routeLost j.part (pool o / 2 ^ 56) = false := by rw [pool_route (by omega)]; simp [State.routeLost, h]
  unfold State.got State.gotAs
  simp only [hr, hl, Bool.false_eq_true, if_false]
  have hm : ((List.range n).map fun i =>
      ((.stack (State.interleave (o + i)).1, s.cb j.part + (State.interleave (o + i)).2) : Target × Nat)).filter (fun t =>
      (s.portOf t.1).isSome && !v.has.contains (granuleOf (locKey t.1 t.2))) = [] := by
    refine List.filter_eq_nil_iff.2 fun t ht => ?_
    obtain ⟨i, hi, rfl⟩ := List.mem_map.1 ht
    simp only [List.contains_iff_mem.2 (hs i (List.mem_range.1 hi)), Bool.not_true, Bool.and_false, Bool.false_eq_true, not_false_eq_true]
  have hq : ∀ k, s.store.isPoisoned k = false := fun k => by simp [Store.isPoisoned, hp]
  unfold State.look
  simp only [hv, hb, Option.bind_some, List.find?_nil, Option.map_none, Option.map_some, Option.getD_some, hm, List.isEmpty_nil, hq,
    Bool.not_true, Bool.false_eq_true, if_false]
  rw [List.find?_eq_none.2 fun _ _ h => Bool.false_ne_true h]
  exact ⟨_, rfl⟩

/-- With no credit at any port a request stays where it is put. -/
theorem pump_idle {s : State} {p : Port} (h : ∀ x ∈ s.ports.states, x.req = 0) :
    (s.pump p).1.store = s.store ∧ ∀ x ∈ (s.pump p).1.ports.states, x.req = 0 := by
  have h0 : (s.portState p).req = 0 := by
    unfold State.portState
    cases hf : s.ports.states.find? (·.port == p) with
    | none => rfl
    | some x => exact h x (List.mem_of_find?_eq_some hf)
  have hc : ∀ i r x, s.choose (s.portState p) = some (i, r, x) → x.req = 0 := by
    intro i r x hx
    unfold State.choose at hx
    simp only at hx
    split at hx
    · cases hx; exact h0
    · split at hx
      · cases hx; exact h0
      · obtain ⟨q, _, hq⟩ := Option.bind_eq_some_iff.1 hx
        obtain ⟨c, _, hq⟩ := Option.map_eq_some_iff.1 hq
        cases hq; exact h0
  unfold State.pump
  rw [State.pumpGo]
  cases hx : s.choose (s.portState p) with
  | none =>
    simp only
    split
    · exact ⟨rfl, h⟩
    · refine ⟨rfl, fun x hx => ?_⟩
      rcases List.mem_append.1 hx with hx | hx
      · exact h x (List.mem_filter.1 hx).1
      · rw [List.mem_singleton.1 hx]; exact h0
  | some y =>
    obtain ⟨i, r, x⟩ := y
    simp only
    rw [if_pos (.inl (hc i r x hx))]
    exact ⟨rfl, h⟩

theorem addRequests_idle {s : State} {rs : List Request} (h : ∀ x ∈ s.ports.states, x.req = 0) : (s.addRequests rs).store = s.store := by
  unfold State.addRequests
  have key : ∀ (l : List Port) (z : State), (∀ x ∈ z.ports.states, x.req = 0) → (l.foldl (fun s p => (s.pump p).1) z).store = z.store := by
    intro l
    induction l with
    | nil => exact fun z _ => rfl
    | cons p r ih => exact fun z hz => (ih _ (pump_idle hz).2).trans (pump_idle hz).1
  exact key _ _ h

/-- Bytes of the pool land, and no codeword is put under injection. -/
theorem land_pool {s : State} {j : Job} {own : Owner} {cs : List Sys2Proof.Machine.Cell} {free : Bool} {mine : Nat → Bool}
    {span : Option Nat} (h : s.hasTarget j.part 0x20 = true) (hi : s.store.inj = []) (hp : ∀ x ∈ s.ports.states, x.req = 0)
    (ho : ∀ c ∈ cs, c.off < 2 ^ 56) : ∃ s1, s.landCells j own 0x20 cs free mine span = .done s1 ∧ s1.store.inj = [] := by
  have hl : ∀ c ∈ cs, s.locate j.part j.xlat (0x20 * 2 ^ 56 + c.off.toNat) =
      some (.stack (State.interleave c.off.toNat).1, s.cb j.part + (State.interleave c.off.toNat).2) := fun c hc => by
    have := ho c hc
    exact locate_pool (o := c.off.toNat) h (by omega)
  unfold State.landCells
  have h1 : (cs.find? fun c => (s.locate j.part j.xlat (0x20 * 2 ^ 56 + c.off.toNat)).isNone) = none := by
    refine List.find?_eq_none.2 fun c hc => ?_
    simp only [hl c hc, Option.isNone_some, Bool.false_eq_true, not_false_eq_true]
  have h2 : ∀ l ∈ cs.filterMap (fun c => (s.locate j.part j.xlat (0x20 * 2 ^ 56 + c.off.toNat)).map fun t => (c, t)), ∃ k, l.2.1 = .stack k := by
    intro l hm
    obtain ⟨c, hc, hx⟩ := List.mem_filterMap.1 hm
    rw [hl c hc] at hx
    cases hx
    exact ⟨_, rfl⟩
  simp only [h1]
  split
  · rename_i l hf
    obtain ⟨k, hk⟩ := h2 l (List.mem_of_find?_eq_some hf)
    have := List.find?_some hf
    simp [hk, State.portOf] at this
  · refine ⟨_, rfl, ?_⟩
    simp only [State.useFree, State.modJob, State.issueElems]
    split
    · rw [addRequests_idle hp]; exact hi
    · rename_i hne
      refine absurd (List.isEmpty_iff.2 (List.filter_eq_nil_iff.2 fun x hx => ?_)) hne
      obtain ⟨y, hy, rfl⟩ := List.mem_map.1 hx
      obtain ⟨l, hl, rfl⟩ := List.mem_map.1 hy
      obtain ⟨k, hk⟩ := h2 l hl
      simp [State.cellPut, hk]

theorem off_mergeCell {l : List Sys2Proof.Machine.Cell} {c x : Sys2Proof.Machine.Cell} (h : x ∈ mergeCell l c) :
    x.off = c.off ∨ ∃ y ∈ l, x.off = y.off := by
  induction l with
  | nil => exact .inl (by rw [List.mem_singleton.1 h])
  | cons y r ih =>
    simp only [mergeCell] at h
    split at h
    · rcases List.mem_cons.1 h with rfl | h
      · exact .inl rfl
      · exact .inr ⟨x, h, rfl⟩
    · split at h
      · rcases List.mem_cons.1 h with rfl | h
        · exact .inl rfl
        · exact .inr ⟨x, List.mem_cons_of_mem _ h, rfl⟩
      · rcases List.mem_cons.1 h with rfl | h
        · exact .inr ⟨x, List.mem_cons_self .., rfl⟩
        · rcases ih h with h | ⟨z, hz, h⟩
          · exact .inl h
          · exact .inr ⟨z, List.mem_cons_of_mem _ hz, h⟩

/-- A merged byte lies where some element's bits lie. -/
theorem off_cellsOfAll {l : List (Nat × State.Put)} {c : Sys2Proof.Machine.Cell} (h : c ∈ cellsOfAll l) :
    ∃ x ∈ l, c.off ∈ byteOffs x.2.bits := by
  have key : ∀ (cs acc : List Sys2Proof.Machine.Cell) (x : Sys2Proof.Machine.Cell), x ∈ cs.foldl mergeCell acc →
      (∃ y ∈ cs, x.off = y.off) ∨ ∃ y ∈ acc, x.off = y.off := by
    intro cs
    induction cs with
    | nil => exact fun acc x hx => .inr ⟨x, hx, rfl⟩
    | cons y r ih =>
      intro acc x hx
      rcases ih _ x hx with ⟨z, hz, h⟩ | ⟨z, hz, h⟩
      · exact .inl ⟨z, List.mem_cons_of_mem _ hz, h⟩
      · rcases off_mergeCell hz with hz | ⟨w, hw, hz⟩
        · exact .inl ⟨y, List.mem_cons_self .., h.trans hz⟩
        · exact .inr ⟨w, hw, h.trans hz⟩
  rcases key _ _ c (List.mem_reverse.1 h) with ⟨y, hy, hc⟩ | ⟨y, hy, _⟩
  · obtain ⟨x, hx, hm⟩ := List.mem_flatMap.1 hy
    obtain ⟨o, ho, rfl⟩ := List.mem_map.1 hm
    exact ⟨x, hx, hc ▸ ho⟩
  · cases hy

/-- The run of the job's tile. -/
def tariffRun : State.Run State.Put :=
  let s := tariffState tariffJob
  let w : Work := { toJob := tariffJob, seen := some (brought [(pool 0x4000, 128), (pool 0x4800, 16)]) }
  let x := (s.tablesOf tariffJob).getD ⟨0, 0, [], []⟩
  let b := max 1 (Entry.tB w.entry)
  State.runElems (fun i => s.tariffPut w x.book (x.acts.getD (i % b) []) (i / b) (i % b)) (State.liveElems w.toJob 0)

theorem test_meets_TariffWritesItsRows :
    (let j := tariffBuild
     let s := tariffState j
     s.job? 7 = some j ∧ Entry.opcode j.entry = 0x0A ∧ j.phase = .running ∧ j.stopped = false ∧ j.order ≠ 0 ∧ j.recheck = false ∧
       j.early = none ∧ j.pass.built = false ∧ s.passSpan 1 = some 0 ∧ Entry.tScaled j.entry = false ∧ j.banks ≠ [] ∧
       isOk (Res.all ((List.range (Entry.tB j.entry)).map fun k => s.tActs (State.passWork j) k)) = true) ∧
    (let j := tariffJob
     (((tariffState j).readyThread 7 0).map fun x => x.2.1) =
       some { toJob := j, seen := some (brought [(pool 0x4000, 128), (pool 0x4800, 16)]) } ∧ Entry.opcode j.entry = 0x0A ∧ j.early = none ∧ j.pass.built = true ∧
       j.recheck = false ∧ ((tariffState j).tablesOf j).isSome = true ∧ clean tariffRun = true) := by
  constructor <;> decide +kernel

/-- What a run answers, it answers for its elements. -/
theorem mem_runElems {α : Type} {f : Nat → Res α} {l : List Nat} {x : Nat × α} (h : x ∈ (State.runElems f l).done) :
    x.1 ∈ l ∧ f x.1 = .ok x.2 := by
  induction l with
  | nil => cases h
  | cons n r ih =>
    rw [State.runElems] at h
    split at h
    · rename_i a ha
      rcases List.mem_cons.1 h with rfl | h
      · exact ⟨List.mem_cons_self .., ha⟩
      · exact ⟨List.mem_cons_of_mem _ (ih h).1, (ih h).2⟩
    · exact ⟨List.mem_cons_of_mem _ (ih h).1, (ih h).2⟩
    · cases h

/-- Where a TARIFF output lies. -/
def tariffBits (e : Entry) (n b : Nat) : List Int :=
  (List.range (8 * Entry.tOutW e)).map fun (k : Nat) =>
    8 * (Entry.tRun 0x48 (Entry.tDst e) (Entry.tStride e 0x50) b (n * Entry.tOutW e) (Entry.tOutW e) true).lo + (k : Int)

theorem bits_tariffPut {s : State} {w : Work} {cb acts : List Byte} {n b : Nat} {p : State.Put}
    (h : s.tariffPut w cb acts n b = .ok p) : p.bits = tariffBits w.entry n b := by
  unfold State.tariffPut Res.map at h
  simp only at h
  cases hx : (Res.all ((Entry.tLeaves w.entry n (n + 1)).map fun l => s.tLeaf w l)).both (s.tCarryAt w n b) with
  | ok a =>
    rw [hx] at h
    simp only [Res.bind] at h
    split at h <;> cases h <;> rfl
  | wait _ _ => rw [hx] at h; cases h
  | early _ _ => rw [hx] at h; cases h

/-- The rows of the tile land. -/
theorem test_meets_TariffWritesItsRows_land : ∃ s1, (tariffState tariffJob).landCells tariffJob (.job 7 .thread 0)
    (Entry.tDst tariffJob.entry / 2 ^ 56) (cellsOfAll tariffRun.done) ((tariffState tariffJob).rangesMeet tariffJob
      (State.tariffReads tariffJob 0) (State.tariffWrites tariffJob.entry)) (fun n => tariffJob.tileOf n == 0) (some 0) = .done s1 ∧
    s1.store.inj = [] := by
  have hr : Entry.tDst tariffJob.entry / 2 ^ 56 = 0x20 := by decide +kernel
  have hb : ∀ n < 16, ∀ o ∈ byteOffs (tariffBits tariffJob.entry n 0), o < 2 ^ 56 := by decide +kernel
  have hl : ∀ n ∈ State.liveElems tariffJob 0, n < 16 := by decide +kernel
  have h1 : max 1 (Entry.tB tariffJob.entry) = 1 := by decide +kernel
  rw [hr]
  refine land_pool (by decide +kernel) rfl (fun _ h => by cases h) fun c hc => ?_
  obtain ⟨x, hx, ho⟩ := off_cellsOfAll hc
  obtain ⟨hm, hp⟩ := mem_runElems hx
  have := bits_tariffPut hp
  rw [this, h1, show x.1 % 1 = 0 by omega, Nat.div_one] at ho
  exact hb x.1 (hl _ hm) _ ho

/-- The codebook of the job is read whole. -/
theorem test_meets_TariffWritesItsRows_book : ∃ cb, (tariffState tariffBuild).tBook (State.passWork tariffBuild) = .ok cb := by
  have hf : Entry.folioOf tariffBuild.decoded (Entry.firstLeaf tariffBuild.entry) = some (0, vqFolio) := by decide +kernel
  have hc : (tariffState tariffBuild).cb 1 = 0 := by decide +kernel
  obtain ⟨b, hg⟩ := got_pool (s := tariffState tariffBuild) (j := State.passWork tariffBuild) (o := 0x8000) (n := 4096)
    (v := tariffBuild.pass.seen) (by decide +kernel) rfl rfl rfl (fun i hi => by
      refine List.mem_append_right _ (List.mem_map.2 ⟨i / 64, List.mem_range.2 (by omega), ?_⟩)
      show _ = granuleOf (locKey _ ((tariffState tariffBuild).cb 1 + _))
      have e1 : (0x8000 + i) / 2 ^ 12 % 8 = 0 := by omega
      have e2 : (0x8000 + i) / 2 ^ 15 * 2 ^ 12 + (0x8000 + i) % 2 ^ 12 = 0x1000 + i := by omega
      simp only [hc, State.interleave, e1, e2, granuleOf, locKey]
      omega) (by decide)
  refine ⟨b, ?_⟩
  unfold State.tBook
  simp only [show (State.passWork tariffBuild).decoded = tariffBuild.decoded from rfl,
    show (State.passWork tariffBuild).entry = tariffBuild.entry from rfl, hf]
  rw [show vqFolio.cbAddr = pool 0x8000 from rfl, show codebookBytes vqFolio.fmt = 4096 from rfl, hg]
  rfl

/-- HISTOGRAM_BUILD of BF16 elements at 0x40000: mode 1, leaf payloads at 0x10000, records at 0x18000. -/
def histE : List Byte :=
  ent 0x10 ([(2, 1, 1), (0x80, 8, pool 0x40000), (0x90, 1, 2)] ++ exts [1024] ++
    [(0xA0, 8, pool 0x20000), (0xA8, 8, pool 0x800000), (0xB0, 1, 1), (0xB2, 2, 5), (0xB8, 8, pool 0x3000), (0xC0, 8, pool 0),
     (0xC8, 8, 0x10000), (0xD0, 8, 0x18000)])
/-- A job whose pass 1 has begun. -/
def histJob (n : Nat) : Job := { job histE n 1 8192 with pass := { bphase := 1, seen := brought [(pool 0x40000, 32)] } }
def builtJob : Job :=
  { histJob 1024 with
    next := 1, threads := [{ tile := 0, span := 0, seen := { has := (List.range 32).map fun i => granuleOf (locKey (.stack 0) 0x8000) + i } }], pass := { built := true, book := [] }
    contribs := [⟨0, 0, 1, 0, false⟩] }
def folioJob : Job := { histJob 1024 with next := 1, retired := [0], pass := { built := true } }
def histZ : State := withJob (histJob 16)

theorem test_meets_HistogramBuildsCodebookLeavesAndFolio :
    (let j := histJob 16
     let s := withJob j
     s.job? 7 = some j ∧ Entry.opcode j.entry = 0x10 ∧ j.phase = .running ∧ j.stopped = false ∧ j.order ≠ 0 ∧ j.recheck = false ∧
       j.early = none ∧ j.pass.built = false ∧ j.pass.bphase = 1 ∧ s.passSpan 1 = some 0 ∧ (s.scratchKeys j).isSome = true ∧
       s.store.inj = []) ∧
    (let s := withJob builtJob
     s.job? 7 = some builtJob ∧ builtJob.pass.built = true ∧ (s.readyThread 7 0).isSome = true) ∧
    (let s := withJob folioJob
     Entry.hMode folioJob.entry = 1 ∧ folioJob.pass.built = true ∧ folioJob.pass.folio = false ∧ folioJob.threads = [] ∧
       folioJob.tiles ≤ folioJob.lowestUnretired ∧ s.jobWrites 7 = [] ∧
       (s.place 1 [] (Entry.hFolio folioJob.entry) (Folio.bytes (Entry.hFolioEntry folioJob.entry))).isSome = true) := by
  constructor
  · decide +kernel
  constructor <;> decide +kernel

theorem test_meets_HistogramBuildsCodebookLeavesAndFolio_source :
    isOk (histZ.histSource (State.passWork (histJob 16)) 0 0 16) = true ∧
    (tupleCounts (resGet [] (histZ.histSource (State.passWork (histJob 16)) 0 0 16))).length ≤ 2 ^ 20 ∧
    histZ.histMeets (histJob 16) 0 16 = false := by
  constructor
  · decide +kernel
  constructor <;> decide +kernel

theorem leBytes_length (n v : Nat) : (leBytes n v).length = n := by
  induction n generalizing v with
  | zero => rfl
  | succ n ih => simp [leBytes, ih]

theorem codebook_length (k : List Nat) : (buildCodebook k).length = 16384 := by
  have : ∀ l : List Nat, ((l.map fun i => leBytes 4 (k.getD i (k.getLastD 0))).flatten).length = 4 * l.length := by
    intro l
    induction l with
    | nil => rfl
    | cons x r ih => simp only [List.map_cons, List.flatten_cons, List.length_append, ih, leBytes_length, List.length_cons]; omega
  unfold buildCodebook
  rw [this, List.length_range]

theorem test_meets_HistogramBuildsCodebookLeavesAndFolio_place :
    ∃ bs, histZ.place 1 [] (pool 0x20000)
      (buildCodebook (keptTuples (tupleCounts (resGet [] (histZ.histSource (State.passWork (histJob 16)) 0 0 16))))) = some bs := by
  exact place_pool (by decide +kernel) (by rw [codebook_length]; decide)

/-- The leaf of the built job is read whole. -/
def builtRun : State.Run (List Byte) :=
  match (withJob builtJob).readyThread 7 0 with
  | some (s, w, th) => s.histWork w th
  | none => {}

theorem test_meets_HistogramBuildsCodebookLeavesAndFolio_leaf : clean builtRun = true := by decide +kernel

theorem mem_cellsAt {off : Int} {n : Nat} {bs : List Byte} {c : Sys2Proof.Machine.Cell} (h : c ∈ cellsAt off n bs) :
    c.off < off + bs.length := by
  obtain ⟨x, hx, rfl⟩ := List.mem_map.1 h
  have := List.mem_range.1 (List.of_mem_zip hx).1
  show off + (x.1 : Int) < _
  omega

theorem test_meets_HistogramBuildsCodebookLeavesAndFolio_land : ∃ s1, (withJob builtJob).landCells builtJob (.job 7 .thread 0)
    (Entry.tensorBase builtJob.entry / 2 ^ 56)
    (builtRun.done.flatMap fun y =>
      cellsAt (Entry.tensorBase builtJob.entry % 2 ^ 56 + Entry.hPayload builtJob.entry + 1408 * (y.1 / 1024) : Nat) y.1 y.2 ++
        cellsAt (Entry.tensorBase builtJob.entry % 2 ^ 56 + Entry.hTable builtJob.entry + 16 * (y.1 / 1024) : Nat) y.1
          (ex4Record (Entry.hId builtJob.entry) y.2))
    ((withJob builtJob).histMeets builtJob (builtJob.tileStart 0) (builtJob.tileStart 1)) (fun _ => true) (some 0) = .done s1 ∧
    s1.store.inj = [] := by
  have hr : Entry.tensorBase builtJob.entry / 2 ^ 56 = 0x20 := by decide +kernel
  have hp : Entry.tensorBase builtJob.entry % 2 ^ 56 + Entry.hPayload builtJob.entry = 0x10000 := by decide +kernel
  have ht : Entry.tensorBase builtJob.entry % 2 ^ 56 + Entry.hTable builtJob.entry = 0x18000 := by decide +kernel
  have hn : (builtRun.done.all fun y => decide (y.1 / 1024 = 0 ∧ y.2.length ≤ 1408)) = true := by decide +kernel
  have hl : ∀ i b, (ex4Record i b).length ≤ 16 := by
    intro i b
    simp only [ex4Record, List.length_append, leBytes_length]
    omega
  rw [hr, hp, ht]
  refine land_pool (by decide +kernel) rfl (fun _ h => by cases h) fun c hc => ?_
  obtain ⟨y, hy, hc⟩ := List.mem_flatMap.1 hc
  obtain ⟨h0, h1⟩ := of_decide_eq_true (List.all_eq_true.1 hn y hy)
  have h2 := hl (Entry.hId builtJob.entry) y.2
  rcases List.mem_append.1 hc with hc | hc
  · have := mem_cellsAt hc
    omega
  · have := mem_cellsAt hc
    omega

/-! A source of more than 2^20 distinct tuples. -/

/-- Groups of four elements; group t holds the digits of t to base 256 as its exponents. -/
def groups : Nat := 2 ^ 20 + 1
def digit (t d : Nat) : Nat := t / 256 ^ d % 256
/-- Byte i of the source. -/
def manyByte (i : Nat) : Nat :=
  if i % 2 = 0 then digit (i / 8) (i / 2 % 4) % 2 * 128 else digit (i / 8) (i / 2 % 4) / 2
@[irreducible] def manyMem : List Host.Cell :=
  (List.range (8 * groups)).map fun i => (locKey (.stack 0) 0 + i, BitVec.ofNat 8 (manyByte i))
def manyE : List Byte :=
  ent 0x10 ([(2, 1, 1), (0x80, 8, 0x21 * 2 ^ 56), (0x90, 1, 2)] ++ exts [4 * groups] ++ [(0xA0, 8, pool 0x20000), (0xA8, 8, pool 0x800000)])
/-- The granules of the source. -/
@[irreducible] def manySeen : List Nat := (List.range (groups / 8 + 1)).map fun i => granuleOf (locKey (.stack 0) 0) + i
def manyJob : Job := { job manyE (4 * groups) 513 8192 with pass := { bphase := 1, seen := { has := manySeen } } }
def manyWork : Work := State.passWork manyJob
def manyState : State := { base with jobs := [manyJob], store := { mem := manyMem } }

theorem memGet_range (K M i : Nat) (f : Nat → Byte) (d : Byte) (h : i < M) :
    memGet ((List.range M).map fun i => (K + i, f i)) (K + i) d = f i := by
  have key : ∀ n a, a ≤ i → i < a + n → memGet ((List.range' a n).map fun i => (K + i, f i)) (K + i) d = f i := by
    intro n
    induction n with
    | zero => intro a h1 h2; omega
    | succ n ih =>
      intro a h1 h2
      rw [List.range'_succ, List.map_cons, memGet]
      by_cases he : K + a = K + i
      · rw [if_pos he, show a = i by omega]
      · rw [if_neg he, if_neg (by omega)]
        exact ih (a + 1) (by omega) (by omega)
  rw [List.range_eq_range']
  exact key M 0 (by omega) (by omega)

theorem bits_of_bytes : ∀ b : Byte, listSum ((List.range 8).map fun k => if b.getLsbD k then 2 ^ k else 0) = b.toNat := by decide +kernel

/-- The encoding of 16 bits from a byte offset on. -/
theorem codeFrom_two (o : Nat) (b c : Byte) :
    codeFrom ((List.range 16).map fun (k : Nat) => 8 * (o : Int) + (k : Int)) [((o : Int), b), ((o : Int) + 1, c)] = b.toNat + 256 * c.toNat := by
  have hb := bits_of_bytes b
  have hc := bits_of_bytes c
  have at0 : ∀ k : Nat, k < 8 → ((([((o : Int), b), ((o : Int) + 1, c)] : List (Int × Byte)).find? fun x => x.1 == (8 * (o : Int) + (k : Int)) / 8).map
      (·.2)).getD 0 = b := fun k h => by
    have : (8 * (o : Int) + (k : Int)) / 8 = o := by omega
    simp [this]
  have at1 : ∀ k : Nat, 8 ≤ k → k < 16 → ((([((o : Int), b), ((o : Int) + 1, c)] : List (Int × Byte)).find? fun x =>
      x.1 == (8 * (o : Int) + (k : Int)) / 8).map (·.2)).getD 0 = c := fun k h g => by
    have : (8 * (o : Int) + (k : Int)) / 8 = (o : Int) + 1 := by omega
    simp [this]
  have p0 : ∀ k : Nat, k < 8 → ((8 * (o : Int) + (k : Int)) % 8).toNat = k := fun k h => by omega
  have p1 : ∀ k : Nat, 8 ≤ k → k < 16 → ((8 * (o : Int) + (k : Int)) % 8).toNat = k - 8 := fun k h g => by omega
  have r16 : List.range 16 = [0, 1, 2, 3, 4, 5, 6, 7, 8, 9, 10, 11, 12, 13, 14, 15] := rfl
  have r8 : List.range 8 = [0, 1, 2, 3, 4, 5, 6, 7] := rfl
  have z : ∀ (k : Nat) (x : Byte) (n : Nat), (if x.getLsbD n then 2 ^ (8 + k) else 0) = 256 * (if x.getLsbD n then 2 ^ k else 0) := fun k x n => by
    split <;> simp [Nat.pow_add]
  unfold codeFrom
  simp only [List.length_map, List.length_range]
  rw [show (List.range 16).zip ((List.range 16).map fun (k : Nat) => 8 * (o : Int) + (k : Int)) =
    (List.range 16).map fun (k : Nat) => (k, 8 * (o : Int) + (k : Int)) from by
      rw [r16]; rfl, List.map_map]
  have hm : (List.range 16).map ((fun (x : Nat × Int) => if (((([((o : Int), b), ((o : Int) + 1, c)] : List (Int × Byte)).find? fun (y : Int × Byte) => y.1 == x.2 / 8).map
      (fun (y : Int × Byte) => y.2)).getD 0).getLsbD (x.2 % 8).toNat then 2 ^ x.1 else 0) ∘ fun (k : Nat) => (k, 8 * (o : Int) + (k : Int))) =
      (List.range 16).map fun k => if k < 8 then (if b.getLsbD k then 2 ^ k else 0) else 256 * (if c.getLsbD (k - 8) then 2 ^ (k - 8) else 0) := by
    refine List.map_congr_left fun k hk => ?_
    have hk := List.mem_range.1 hk
    simp only [Function.comp]
    by_cases h : k < 8
    · rw [if_pos h, at0 k h, p0 k h]
    · rw [if_neg h, at1 k (by omega) hk, p1 k (by omega) hk, ← z, show 8 + (k - 8) = k by omega]
  rw [hm, r16]
  rw [r8] at hb hc
  simp only [List.map_cons, List.map_nil, listSum, List.foldl_cons, List.foldl_nil] at hb hc ⊢
  simp only [show (0:Nat) < 8 by omega, show (1:Nat) < 8 by omega, show (2:Nat) < 8 by omega, show (3:Nat) < 8 by omega, show (4:Nat) < 8 by omega,
    show (5:Nat) < 8 by omega, show (6:Nat) < 8 by omega, show (7:Nat) < 8 by omega, show ¬(8:Nat) < 8 by omega, show ¬(9:Nat) < 8 by omega,
    show ¬(10:Nat) < 8 by omega, show ¬(11:Nat) < 8 by omega, show ¬(12:Nat) < 8 by omega, show ¬(13:Nat) < 8 by omega, show ¬(14:Nat) < 8 by omega,
    show ¬(15:Nat) < 8 by omega, if_true, if_false, Nat.reduceSub, Nat.zero_add] at hb hc ⊢
  omega

theorem manyByte_get {i : Nat} (h : i < 8 * groups) : manyState.store.get (locKey (.stack 0) i) = BitVec.ofNat 8 (manyByte i) := by
  have : locKey (.stack 0) i = locKey (.stack 0) 0 + i := by unfold locKey; omega
  rw [this]
  show memGet manyMem _ _ = _
  unfold manyMem
  exact memGet_range _ _ _ _ _ h

/-- The granules of a run of bytes. -/
theorem mem_granules {n i : Nat} (h : i < 8 * n) :
    granuleOf (locKey (.stack 0) i) ∈ (List.range (n / 8 + 1)).map fun i => granuleOf (locKey (.stack 0) 0) + i :=
  List.mem_map.2 ⟨i / 64, List.mem_range.2 (by omega), by simp only [granuleOf, locKey]; omega⟩

theorem seen_granule {i : Nat} (h : i < 8 * groups) : granuleOf (locKey (.stack 0) i) ∈ manySeen := by
  unfold manySeen
  exact mem_granules h

/-- One byte of the source. -/
theorem many_got {i : Nat} (h : i < 8 * groups) :
    manyState.gotOff manyWork 0x21 (i : Int) 1 = .ok [BitVec.ofNat 8 (manyByte i)] := by
  have hg : 8 * groups < 2 ^ 56 := by decide
  have h1 : (0x21 * 2 ^ 56 + i) / 2 ^ 56 = 0x21 := by omega
  have h2 : (0x21 * 2 ^ 56 + i) % 2 ^ 56 = i := by omega
  have h3 : manyState.hasTarget 1 0x21 = true := by decide +kernel
  have h4 : manyState.routeLost 1 0x21 = false := by decide +kernel
  have h5 : manyState.cb 1 = 0 := by decide +kernel
  have h6 : manyState.block.deckId.toNat = 0 := by decide
  have hl : manyState.locate 1 [] (0x21 * 2 ^ 56 + i) = some (.stack 0, i) := by
    simp only [State.locate, h1, h2, h3, h5, h6]
    simp [State.routeDefined, State.translated]
  have hp : manyState.store.isPoisoned (locKey (.stack 0) i) = false := rfl
  have hk : (List.range 1).mapM (fun k => manyState.locate 1 [] (0x21 * 2 ^ 56 + i + k)) = some [(.stack 0, i)] := by
    rw [show List.range 1 = [0] from rfl]
    simp only [List.mapM_cons, List.mapM_nil, Nat.add_zero, hl]
    rfl
  show manyState.gotAs (some { has := manySeen }) 1 [] (0x21 * 2 ^ 56 + (i : Int).toNat) 1 = _
  unfold State.gotAs
  simp only [Int.toNat_natCast, h1, h4, hk, Bool.false_eq_true, if_false]
  unfold State.look
  simp only [Option.bind_some, List.find?_nil, Option.map_none, Option.map_some, Option.getD_some, List.filter_cons, List.filter_nil,
    List.contains_iff_mem.2 (seen_granule h), Bool.not_true, Bool.and_false, Bool.false_eq_true, if_false, List.isEmpty_nil,
    List.find?_cons, hp, List.map_cons, List.map_nil, manyByte_get h]

/-- The encoding of element k. -/
def manyCode (k : Nat) : Nat := manyByte (2 * k) + 256 * manyByte (2 * k + 1)

theorem manyByte_lt (i : Nat) : manyByte i < 256 := by
  have : digit (i / 8) (i / 2 % 4) < 256 := Nat.mod_lt _ (by decide)
  unfold manyByte; split <;> omega

theorem many_read {k : Nat} (h : k < 4 * groups) :
    manyState.readBits manyWork 0x21 ((List.range 16).map fun (b : Nat) => 8 * ((2 * k : Nat) : Int) + (b : Int)) = .ok (manyCode k) := by
  have ho : byteOffs ((List.range 16).map fun (b : Nat) => 8 * ((2 * k : Nat) : Int) + (b : Int)) =
      [((2 * k : Nat) : Int), ((2 * k : Nat) : Int) + 1] := by
    have r16 : List.range 16 = [0, 1, 2, 3, 4, 5, 6, 7, 8, 9, 10, 11, 12, 13, 14, 15] := rfl
    have lo : ∀ b : Nat, b < 8 → (8 * ((2 * k : Nat) : Int) + (b : Int)) / 8 = ((2 * k : Nat) : Int) := fun b h => by omega
    have hi : ∀ b : Nat, 8 ≤ b → b < 16 → (8 * ((2 * k : Nat) : Int) + (b : Int)) / 8 = ((2 * k : Nat) : Int) + 1 := fun b h g => by omega
    unfold byteOffs
    rw [r16]
    simp only [List.map_cons, List.map_nil]
    rw [lo 0 (by omega), lo 1 (by omega), lo 2 (by omega), lo 3 (by omega), lo 4 (by omega), lo 5 (by omega), lo 6 (by omega), lo 7 (by omega),
      hi 8 (by omega) (by omega), hi 9 (by omega) (by omega), hi 10 (by omega) (by omega), hi 11 (by omega) (by omega),
      hi 12 (by omega) (by omega), hi 13 (by omega) (by omega), hi 14 (by omega) (by omega), hi 15 (by omega) (by omega)]
    have ne : ((((2 * k : Nat) : Int) + 1) == ((2 * k : Nat) : Int)) = false := by
      rw [beq_eq_false_iff_ne]; omega
    simp [List.eraseDups_cons]
  unfold State.readBits
  rw [ho]
  have h2 : ((2 * k : Nat) : Int) + 1 = ((2 * k + 1 : Nat) : Int) := by omega
  have g1 := many_got (i := 2 * k) (by omega)
  have g2 := many_got (i := 2 * k + 1) (by omega)
  rw [← h2] at g2
  simp only [List.map_cons, List.map_nil, g1, g2, Got.map, Got.bind, Got.both, Got.all, List.headD_cons]
  rw [codeFrom_two]
  simp [manyCode, Nat.mod_eq_of_lt (manyByte_lt _)]

def manyView : View :=
  { addr := 0x21 * 2 ^ 56, c := 0, w := 16, head := 0, tail := 0, stride := [0, 0, 0, 0, 0, 0], ext := [4 * groups, 1, 1, 1, 1, 1] }

theorem all_ok {f : Nat → Res Nat} {c : Nat → Nat} {l : List Nat} (h : ∀ k ∈ l, f k = .ok (c k)) : Res.all (l.map f) = .ok (l.map c) := by
  induction l with
  | nil => rfl
  | cons x r ih =>
    simp only [List.map_cons, Res.all, h x (List.mem_cons_self ..), ih fun k hk => h k (List.mem_cons_of_mem _ hk), Res.both, Res.bind,
      Res.map]

/-- A source all of whose elements can be read. -/
theorem histSource_ok {s : State} {w : Work} {span : Nat} {c : Nat → Nat} {n : Nat}
    (h : ∀ k < n, ∃ ix, s.readElem w (s.bookAt w span) (unrank (Entry.exts w.entry) k) k = .ok (.code (c k) 0, ix)) :
    s.histSource w span 0 n = .ok ((List.range n).map c) := by
  unfold State.histSource
  rw [Nat.sub_zero]
  refine all_ok fun k hk => ?_
  obtain ⟨ix, hr⟩ := h k (List.mem_range.1 hk)
  rw [Nat.zero_add, hr]
  rfl

theorem many_bits (k : Nat) : manyView.bits [k, 0, 0, 0, 0, 0] none = (List.range 16).map fun (b : Nat) => 8 * ((2 * k : Nat) : Int) + (b : Int) := by
  have hsum : manyView.byteSum [k, 0, 0, 0, 0, 0] none = 0 := by
    have : List.range 6 = [0, 1, 2, 3, 4, 5] := rfl
    simp [View.byteSum, this, View.strided, View.base, manyView]
  have hrun : manyView.runPos [k, 0, 0, 0, 0, 0] = k := by simp [View.runPos, manyView]
  have hp : manyView.plane = none := rfl
  have hc : manyView.c = 0 := rfl
  have hw : manyView.w = 16 := rfl
  simp only [View.bits, hsum, hrun, hp, hc, hw]
  refine List.map_congr_left fun b _ => ?_
  simp only [Nat.reduceEqDiff, if_false]
  omega

theorem unrank_one {n k : Nat} (h : k < n) : unrank [n, 1, 1, 1, 1, 1] k = [k, 0, 0, 0, 0, 0] := by
  simp only [unrank, Nat.mod_eq_of_lt h, Nat.mod_one]

theorem many_hx : Entry.exts manyWork.entry = [4 * groups, 1, 1, 1, 1, 1] := by decide +kernel

theorem many_hi : Entry.indexed manyWork.entry = false := by decide +kernel

theorem many_ho : Entry.opcode manyWork.entry ≠ 0x0D := by decide +kernel

theorem many_he : Entry.expand manyWork.entry = false := by decide +kernel

theorem many_hs : Entry.sealChk manyWork.entry = false := by decide +kernel

theorem many_hc : Entry.cipherRead manyWork.entry = false := by decide +kernel

theorem many_hv : Entry.src manyWork.entry = manyView := by decide +kernel

theorem many_hr : manyView.route = 0x21 := by decide +kernel

theorem bind_ok {α β : Type} (a : α) (f : α → Res β) : (Res.ok a).bind f = f a := rfl

theorem stored_plain {s : State} {j : Work} {bits : List Int} {n c : Nat} (hs : Entry.sealChk j.entry = false)
    (hc : Entry.cipherRead j.entry = false) (hr : s.readBits j (Entry.src j.entry).route bits = .ok c) :
    s.storedSource j bits n = .ok (.code c 0) := by
  unfold State.storedSource
  extract_lets e r o b first checked
  have h1 : checked = .ok true := if_neg (by rw [hs]; exact Bool.false_ne_true)
  rw [h1, bind_ok, if_neg (by decide), if_neg (by rw [hc]; exact Bool.false_ne_true), hr]
  rfl

theorem index_plain {s : State} {j : Work} {i : List Nat} {n : Nat} (hi : Entry.indexed j.entry = false) : s.indexAt j i n = .ok .affine := by
  unfold State.indexAt
  exact if_pos (by rw [hi]; rfl)

/-- An element read through no stage and no index. -/
theorem readElem_plain {s : State} {j : Work} {book : Nat → Folio → Got (List Byte)} {i : List Nat} {n c : Nat}
    (hi : Entry.indexed j.entry = false) (ho : Entry.opcode j.entry ≠ 0x0D) (he : Entry.expand j.entry = false)
    (hs : Entry.sealChk j.entry = false) (hc : Entry.cipherRead j.entry = false)
    (hr : s.readBits j (Entry.src j.entry).route ((Entry.src j.entry).bits i none) = .ok c) :
    s.readElem j book i n = .ok (.code c 0, .affine) := by
  unfold State.readElem
  extract_lets e v
  rw [index_plain hi, bind_ok]
  extract_lets win force bits access
  have h1 : access = .ok () := if_neg (by rw [hi]; exact Bool.false_ne_true)
  have h2 : force = none := ite_self _
  have h3 : s.storedSource j bits n = .ok (.code c 0) := stored_plain hs hc (by simp only [bits, h2]; exact hr)
  rw [if_neg (show ¬win = true from Bool.false_ne_true), if_neg ho, if_neg (by rw [he]; exact Bool.false_ne_true), h1, bind_ok, h3]
  rfl

theorem many_elem {k : Nat} (h : k < 4 * groups) :
    ∃ ix, manyState.readElem manyWork (manyState.bookAt manyWork 0) (unrank (Entry.exts manyWork.entry) k) k = .ok (.code (manyCode k) 0, ix) := by
  rw [many_hx, unrank_one h]
  exact ⟨_, readElem_plain many_hi many_ho many_he many_hs many_hc (by rw [many_hv, many_bits, many_hr]; exact many_read h)⟩

theorem many_source : manyState.histSource manyWork 0 0 (4 * groups) = .ok ((List.range (4 * groups)).map manyCode) :=
  histSource_ok fun _ h => many_elem h

/-- Ascending distinct tuples are all counted. -/
theorem countTuple_length {l : List (Nat × Nat)} {t : Nat} (h : ∀ x ∈ l, x.1 < t) :
    (countTuple l t).length = l.length + 1 ∧ ∀ x ∈ countTuple l t, x.1 ≤ t := by
  induction l with
  | nil => exact ⟨rfl, fun x hx => by rw [List.mem_singleton.1 hx]⟩
  | cons y r ih =>
    have hy := h y (List.mem_cons_self ..)
    have ih := ih fun x hx => h x (List.mem_cons_of_mem _ hx)
    obtain ⟨a, b⟩ := y
    have h1 : ¬t < a := by simp only at hy; omega
    have h2 : ¬t = a := by simp only at hy; omega
    simp only [countTuple, if_neg h1, if_neg h2]
    refine ⟨by simp [ih.1], fun x hx => ?_⟩
    rcases List.mem_cons.1 hx with rfl | hx
    · exact Nat.le_of_lt hy
    · exact ih.2 x hx

theorem countAll_length (n : Nat) : ((List.range n).foldl countTuple []).length = n ∧ ∀ x ∈ (List.range n).foldl countTuple [], x.1 < n := by
  induction n with
  | zero => exact ⟨rfl, fun x hx => by cases hx⟩
  | succ n ih =>
    rw [List.range_succ, List.foldl_append]
    obtain ⟨h1, h2⟩ := countTuple_length ih.2
    exact ⟨by simp only [List.foldl_cons, List.foldl_nil, h1, ih.1], fun x hx => by
      have := h2 x (by simpa using hx)
      omega⟩

theorem many_tuple {n g : Nat} (h : g < n) (hn : n ≤ 256 ^ 3) : tupleOf ((List.range (4 * n)).map manyCode) g = g := by
  have get : ∀ d < 4, ((List.range (4 * n)).map manyCode).getD (4 * g + d) 0 = manyCode (4 * g + d) := fun d hd => by
    have : 4 * g + d < 4 * n := by omega
    simp [List.getD_eq_getElem?_getD, this]
  have code : ∀ d < 4, bf16Exp (manyCode (4 * g + d)) = digit g d := fun d hd => by
    have h1 : 2 * (4 * g + d) % 2 = 0 := by omega
    have h2 : ¬(2 * (4 * g + d) + 1) % 2 = 0 := by omega
    have h3 : 2 * (4 * g + d) / 8 = g := by omega
    have h4 : (2 * (4 * g + d) + 1) / 8 = g := by omega
    have h5 : 2 * (4 * g + d) / 2 % 4 = d := by omega
    have h6 : (2 * (4 * g + d) + 1) / 2 % 4 = d := by omega
    have : digit g d < 256 := Nat.mod_lt _ (by decide)
    simp only [manyCode, manyByte, if_pos h1, if_neg h2, h3, h4, h5, h6, bf16Exp]
    omega
  have g0 := get 0 (by omega)
  rw [Nat.add_zero] at g0
  have c0 := code 0 (by omega)
  rw [Nat.add_zero] at c0
  simp only [tupleOf, g0, get 1 (by omega), get 2 (by omega), get 3 (by omega), c0, code 1 (by omega), code 2 (by omega), code 3 (by omega), digit]
  omega

theorem tupleCounts_many {n : Nat} (hn : n ≤ 256 ^ 3) : (tupleCounts ((List.range (4 * n)).map manyCode)).length = n := by
  unfold tupleCounts
  rw [List.length_map, List.length_range, show 4 * n / 4 = n by omega]
  have : (List.range n).map (tupleOf ((List.range (4 * n)).map manyCode)) = List.range n := by
    conv_rhs => rw [← List.map_id (List.range n)]
    exact List.map_congr_left fun g hg => many_tuple (List.mem_range.1 hg) hn
  rw [this]
  exact (countAll_length n).1

/-- A source of more than 2^20 distinct tuples, which HISTOGRAM_BUILD ends with LIMIT_EXCEEDED. -/
theorem test_meets_HistogramBuildsCodebookLeavesAndFolio_limit : ∃ ws ks,
    manyState.job? 7 = some manyJob ∧ Entry.opcode manyJob.entry = 0x10 ∧ manyJob.early = none ∧ manyJob.pass.built = false ∧
    manyJob.pass.bphase = 1 ∧ manyState.passSpan 1 = some 0 ∧ manyJob.elems = 4 * groups ∧
    manyState.histSource (State.passWork manyJob) 0 0 manyJob.elems = .ok ws ∧ manyState.scratchKeys manyJob = some ks ∧
    2 ^ 20 < (tupleCounts ws).length := by
  have ht : manyState.hasTarget 1 0x20 = true := by decide +kernel
  have hs : Entry.hScratch manyJob.entry = pool 0x800000 := by decide +kernel
  obtain ⟨ks, hk⟩ : ∃ ks, manyState.scratchKeys manyJob = some ks := by
    refine ⟨_, mapM_some (g := fun k =>
      locKey (.stack (State.interleave (0x800000 + 4096 * k)).1) (manyState.cb 1 + (State.interleave (0x800000 + 4096 * k)).2)) fun k hk => ?_⟩
    have := List.mem_range.1 hk
    rw [hs, pool_add]
    show manyState.key 1 [] _ = _
    rw [State.key, locate_pool ht (by omega)]; rfl
  refine ⟨_, ks, rfl, by decide +kernel, rfl, rfl, rfl, by decide +kernel, rfl, many_source, hk, ?_⟩
  rw [tupleCounts_many (by decide)]
  decide

/-! Groups and barriers. -/

/-- Group 3 of partition 1: rank 0 here, rank 1 on deck device 1; FP32 in and out, chunks of 4 elements. -/
def gr : Group :=
  { g := 3, tag := 0x55, m := 2, inT := 0, outT := 0, chunkElems := 4, epochChunks := 4, slotDepth := 1, timeout := 100, pd := 0,
    slotArea := BitVec.ofNat 64 (pool 0x50000),
    members := [⟨BitVec.ofNat 64 (pool 0x30000), 0x1000, none, none⟩, ⟨BitVec.ofNat 64 (pool 0x30000), 0x1000, some (.deck 1), none⟩] }
def gEnt (op rank chunk n : Nat) : List Byte :=
  ent op [(0x20, 1, 3), (0x22, 2, rank), (0x28, 4, chunk), (0x2C, 4, n), (0x30, 8, pool 0x2000)]
/-- What the reads of the group's jobs have brought. -/
def gSeen : Seen :=
  brought [(pool 0x2000, 64), (pool 0x4000, 64), (pool 0x4800, 64), (pool 0x6000, 64), (pool 0x30000, 256), (pool 0x38000, 256), (pool 0x50000, 64)]
def gThread : Thread := { tile := 0, span := 0, seen := gSeen }
/-- A group job of four elements whose one tile runs, and one whose tile has retired. -/
def gJob (op chunk : Nat) : Job := { job (gEnt op 0 chunk 4) 4 1 4 with next := 1, threads := [gThread] }
def gDone (op chunk : Nat) : Job := { job (gEnt op 0 chunk 4) 4 1 4 with next := 1, retired := [0] }
def gState (j : Job) (g : Group) (inbox : List Msg) : State :=
  { withJob j with
    parts := [{}, { p1 with groups := [g] }] ++ List.replicate 7 {}
    ports := { memReady := 0xFF, inbox, peers := [{ deckId := 1, hops0 := some 1, hops1 := none }] } }
/-- Group job 7 is ready, with no early event. -/
def gReady (op : Nat) (j : Job) (g : Group) : Bool :=
  decide ((gState j g []).groupReady op 7 = some (j, g)) && j.early.isNone && !j.recheck
/-- The thread of tile 0 in a state, and what holds of it. -/
def running (s : State) (f : State → Work → Thread → Bool) : Bool :=
  match s.readyThread 7 0 with | some (s0, w, th) => f s0 w th | none => false
/-- A message of the group's current epoch stands in the inbox. -/
def msgHere (m : Msg) (g : Group) : Bool :=
  let s := gState (gDone 0x05 1) g [m]
  s.ports.inbox.contains m && decide (s.groupByTag 0x55 = some (1, g)) && decide (g.state ≠ .aborted) && decide (State.epochNow g = 0)

def data4 : List Byte := [1, 2, 3, 4, 5, 6, 7, 8, 9, 10, 11, 12, 13, 14, 15, 16]
def contribution (crc : Word32) (c r : Nat) : Msg := .contribution 0x55 0 c r 4 crc data4
def phaseOf (s : State) : JobPhase := ((s.job? 7).map (·.phase)).getD .answered
def codeOf (s : State) : Nat × Nat × Nat := ((s.job? 7).map fun j => (j.code, j.detail, j.position)).getD (999, 0, 0)
/-- Messages that wait at a port. -/
def sent (s : State) : List Msg := s.ports.requests.filterMap fun r => match r.body with | .message _ m => some m | _ => none

theorem test_meets_ContributionsAreSentAndAcceptedOnce :
    (let j := gJob 0x05 1
     gReady 0x05 j gr = true ∧ State.allRetired j = false ∧ State.idleTiles j = [0] ∧
       running (gState j gr []) (fun s w _ => clean (State.runElems (s.packedElem w (Entry.dataAddr j.entry) 4) (State.liveElems j 0))) = true) ∧
    (let j := gDone 0x05 1; let s := gState j gr []
     gReady 0x05 j gr = true ∧ State.allRetired j = true ∧ j.pass.sent = false ∧ j.touched = [] ∧
     gr.contributed.contains (Entry.rankOf j.entry, Entry.chunkOf j.entry) = false ∧
     clean (State.runElems (s.packedElem { toJob := j } (Entry.dataAddr j.entry) 4) (List.range 4)) = true ∧
     (State.member gr (1 % gr.m)).place = some (.deck 1) ∧ s.msgPort (.deck 1) = some (.vp 0) ∧ gReady 0x05 (gDone 0x05 0) gr = true ∧
     (State.member gr (0 % gr.m)).place = none) ∧
    (let g := { gr with contributed := [(0, 1)] }; gReady 0x05 (gDone 0x05 1) g = true ∧ g.contributed.contains (0, 1) = true) ∧
    (let m := Msg.resend 0x55 0 1 0; let j := { gDone 0x05 1 with pass := { sent := true } }; let s := gState j gr [m]
     s.ports.inbox.contains m = true ∧ s.groupByTag 0x55 = some (1, gr) ∧ s.groupJob 0x05 1 gr 0 1 = some j ∧ s.job? 7 = some j ∧
     clean (State.runElems (s.packedElem { toJob := j } (Entry.dataAddr j.entry) 4) (List.range j.elems)) = true) := by
  constructor
  · decide +kernel
  constructor
  · decide +kernel
  constructor <;> decide +kernel

/-- A contribution that its owner takes, one that has been accepted or is on its way into its slot, one of another seal, of another ELEMS,
and one whose slot is in use. -/
theorem test_meets_ContributionsAreSentAndAcceptedOnce_owner :
    let s := gState (gDone 0x05 1) gr []
    let own := Owner.contribution 1 3 0 1
    let flying : State := { s with ports := { s.ports with requests := [{ port := .mp 0, owner := own, body := .write [] [] }] } }
    (msgHere (contribution (crc32c data4) 0 1) gr = true ∧ (State.localRanks gr).contains (0 % gr.m) = true ∧ 0 < gr.epochChunks ∧ 1 < gr.m ∧
      (State.member gr 1).place = some (.deck 1) ∧ State.chunk? gr 0 = none ∧ s.ports.requests = [] ∧ s.slotFree 1 gr 0 = true ∧
      data4.length = 4 * State.typeBytes gr.inT ∧ 4 ≤ gr.chunkElems ∧ State.elemsDiffer gr 0 4 = false ∧
      ((s.fixChunk 1 gr 0 4).place 1 [] (State.slotOfRank gr 0 1) data4).isSome = true) ∧
    (let g := { gr with chunks := [{ chunk := 0, elems := 4, accepted := [1] }] }
     msgHere (contribution (crc32c data4) 0 1) g = true ∧ State.chunk? g 0 = some { chunk := 0, elems := 4, accepted := [1] }) ∧
    flying.ports.requests.map (·.owner) = [own] ∧
    (msgHere (contribution 0 0 1) gr = true ∧ crc32c data4 ≠ 0 ∧ State.failsOf gr 0 1 < 3) ∧
    (let g := { gr with chunks := [{ chunk := 0, elems := 3 }] }
     msgHere (contribution (crc32c data4) 0 1) g = true ∧ State.chunk? g 0 = some { chunk := 0, elems := 3 } ∧ State.elemsDiffer g 0 4 = true) ∧
    (msgHere (contribution (crc32c data4) 2 1) gr = true ∧ State.chunk? gr 2 = none ∧ s.slotFree 1 gr 2 = false ∧
      State.elemsDiffer gr 2 4 = false) := by
  decide +kernel

/-- A sound contribution of rank 1 goes to its slot, 16 bytes after rank 0's. -/
theorem test_contribution_is_stored :
    let m := contribution (crc32c data4) 0 1
    (after (gState (gDone 0x05 1) gr [m]) (.contributionArrival m)).ports.requests.map (fun r => (r.owner, r.body)) =
      [(.contribution 1 3 0 1, .write ((List.range 16).map fun i => ⟨locKey (.stack 0) (0xA010 + i), 255, i + 1⟩) [])] := by decide +kernel

theorem test_meets_KeystoneSumIgnoresTheOrder :
    [fp32.decode 0x3F800000, fp32.decode 0x40000000].Perm [fp32.decode 0x40000000, fp32.decode 0x3F800000] := List.Perm.swap ..

/-- The contributions of both ranks for chunk 0 have been accepted. -/
def grFull : Group := { gr with chunks := [{ chunk := 0, elems := 4, accepted := [0, 1] }] }
def acc (b : Nat) (j : Job) : Job := { j with pass := { accepted := true, bphase := b } }

theorem test_meets_ReduceFormsAndDistributesTheResult :
    (let g := { gr with chunks := [{ chunk := 0, elems := 3 }] }
     gReady 0x06 (gJob 0x06 0) g = true ∧ State.chunk? g 0 = some { chunk := 0, elems := 3 } ∧ Entry.elemsOf (gJob 0x06 0).entry = 4) ∧
    (let j := { gJob 0x06 0 with threads := [], next := 0 }
     gReady 0x06 j gr = true ∧ State.chunk? gr (Entry.chunkOf j.entry) = none ∧ State.idleTiles j = []) ∧
    (let j := acc 1 (gJob 0x06 0)
     gReady 0x06 j grFull = true ∧ State.residueAbort j .twice = some .groupAbort ∧
       ((gState j grFull []).countResidue j .twice).group? 1 3 = some grFull ∧ grFull.state ≠ .aborted ∧ grFull.closing ≠ some grFull.epoch ∧
       j.pass.accepted = true ∧ j.pass.bphase < 2 ∧ State.idleTiles j = [0]) ∧
    (let j := { gDone 0x06 0 with pass := { accepted := true, bphase := 2, payloads := [0, 1], headers := [0, 1] } }
     gReady 0x06 j grFull = true ∧ State.allRetired j = true ∧ (gState j grFull []).jobWrites 7 = [] ∧ j.pass.headers.length = grFull.m ∧
       j.pass.payloads ≠ [] ∧ (List.range grFull.m).all j.pass.payloads.contains = true ∧
       j.pass.payloads.all j.pass.headers.contains = true) := by
  decide +kernel

theorem test_meets_ReduceFormsAndDistributesTheResult_tile :
    let j := acc 1 (gJob 0x06 0)
    let s := gState j grFull []
    let z := s.modJob 7 fun y => { y with pass := { y.pass with accepted := true } }
    (State.chunk? grFull 0).any (fun x => x.accepted.length == grFull.m) = true ∧
    running z (fun s w _ =>
      let x := State.runElems (fun i => (Res.all ((List.range grFull.m).map fun r =>
        (s.got w (State.slotOfRank grFull 0 r + State.typeBytes grFull.inT * i) (State.typeBytes grFull.inT)).at i 1)).map fun v =>
          State.reduceElem grFull (Entry.exact_ j.entry) (v.map leNat)) (State.liveElems j 0)
      clean x && (s.elemPlace j (State.retention grFull 0 + 64 + State.typeBytes grFull.outT * j.tileStart 0)
        (x.done.flatMap fun x => (leBytes (State.typeBytes grFull.outT) x.2.1).map fun b => (b, x.1))).isSome) = true := by decide +kernel

/-- 1.0 of rank 0 and 2.0 of rank 1 make 3.0, which goes to the retention slot, 64 bytes past its header. -/
theorem test_reduce_adds :
    let s := gState (acc 1 (gJob 0x06 0)) grFull []
    let s := { s with store := { s.store with mem := [(locKey (.stack 0) 0xA002, 0x80), (locKey (.stack 0) 0xA003, 0x3F), (locKey (.stack 0) 0xA013, 0x40)] } }
    s.readAt 1 [] (pool 0x50000) 4 = some [0, 0, 0x80, 0x3F] ∧ s.readAt 1 [] (pool 0x50010) 4 = some [0, 0, 0, 0x40] ∧
    ((after s (.reduce 7 .sound)).ports.requests.flatMap fun r => match r.body with | .write l _ => (l.map fun b => b.val).take 4 | _ => []) =
      [0, 0, 0x40, 0x40] := by decide +kernel

def listed (k : Nat) (l : List Byte) : List Host.Cell :=
  (((List.range l.length).zip l).filter (·.2 != 0)).map fun x => (k + x.1, x.2)
/-- A result of zeros stands in the receive area of rank 0, under a seal. -/
def collectState (j : Job) (g : Group) (c : Nat) (crc : Nat) : State :=
  let s := gState j g []
  { s with store := { mem := listed (locKey (.stack 0) (0x6000 + 80 * c)) (bytes 64 [(0, 4, 0x55), (8, 4, c), (0x0C, 4, 4), (0x10, 4, crc)]) } }
def zeroSeal : Nat := 1114675946

/-- A COLLECT whose pass has read the receive area, after some re-requests. -/
def collectJob (n : Nat) : Job := { gDone 0x07 1 with pass := { seen := gSeen, resends := n } }
/-- The payload as the check of its seal reads it. -/
def payload (s : State) (j : Job) (a n : Nat) : Res (List (List Byte)) :=
  Res.all ((List.range n).map fun i => (s.got (State.passWork j) (a + 64 + 4 * i) 4).at (min i j.elems) 1)

theorem test_meets_CollectCopiesASoundResult :
    let a := State.resultAt gr 1 0
    (let j := collectJob 0; let s := collectState j gr 1 zeroSeal; let h := bytes 64 [(0, 4, 0x55), (8, 4, 1), (0x0C, 4, 4), (0x10, 4, zeroSeal)]
     gReady 0x07 j gr = true ∧ j.pass.accepted = false ∧ j.pass.retried = false ∧ s.got (State.passWork j) a 64 = .ok h ∧
       u32 h 0 = gr.tag ∧ u32 h 4 = State.epochNow gr ∧ u32 h 8 = 1 ∧ min (u32 h 0x0C) gr.chunkElems = 4 ∧ u32 h 0x0C ≤ gr.chunkElems ∧
       (match payload s j a 4 with | .ok l => (crc32c l.flatten).toNat == u32 h 0x10 | _ => false) = true) ∧
    (let j := collectJob 0; let s := collectState j gr 1 0; let h := bytes 64 [(0, 4, 0x55), (8, 4, 1), (0x0C, 4, 4)]
     gReady 0x07 j gr = true ∧ s.got (State.passWork j) a 64 = .ok h ∧ u32 h 0 = gr.tag ∧ u32 h 4 = State.epochNow gr ∧ u32 h 8 = 1 ∧
       (match payload s j a 4 with | .ok l => (crc32c l.flatten).toNat != u32 h 0x10 | _ => false) = true ∧
       (State.member gr (1 % gr.m)).place = some (.deck 1)) ∧
    (gReady 0x07 (collectJob 3) gr = true ∧ gr.state ≠ .aborted ∧ gr.closing ≠ some gr.epoch) ∧
    (let j := acc 0 (gJob 0x07 1)
     gReady 0x07 j gr = true ∧ State.idleTiles j = [0] ∧
       running (collectState j gr 1 zeroSeal) (fun s w th =>
         let x := State.runElems (s.packedElem w (a + 64) 4) (State.liveElems j 0)
         clean x && isDone (s.landCells j (.job 7 .thread 0) (Entry.dataAddr j.entry / 2 ^ 56)
           (x.done.flatMap fun x => cellsAt (((Entry.dataAddr j.entry % 2 ^ 56 : Nat) : Int) + (4 * x.1 : Nat)) x.1 x.2)
           (s.overlap (Entry.bytesAt 0 (a + 64 + 4 * j.tileStart 0) (4 * (j.tileStart 1 - j.tileStart 0)) true false)
             (Entry.bytesAt 0 (Entry.dataAddr j.entry) (4 * j.elems) false true)) (fun _ => true) (some th.span))) = true) ∧
    (let j := acc 0 (gDone 0x07 1)
     gReady 0x07 j gr = true ∧ State.allRetired j = true ∧ State.idleTiles j = [] ∧ (gState j gr []).jobWrites 7 = [] ∧ j.contribs = []) := by
  constructor
  · decide +kernel
  constructor
  · decide +kernel
  constructor <;> decide +kernel

theorem test_meets_CollectCopiesASoundResult_waits :
    (let g := { gr with chunks := [{ chunk := 0, elems := 4, accepted := [0] }] }
     gReady 0x06 (gJob 0x06 0) g = true ∧ State.chunk? g 0 = some { chunk := 0, elems := 4, accepted := [0] } ∧ 1 < g.m) ∧
    (let m := Msg.reRequest 0x55 0 0 1; let s := gState { gDone 0x07 0 with pass := { retried := true } } grFull [m]
     let z : State := { s with ports := { s.ports with inbox := s.ports.inbox.erase m } }
     let x : Chunk := { chunk := 0, elems := 4, accepted := [0, 1] }
     let bs := ((z.readAt 1 [] (State.retention grFull 0) 64).getD []) ++ z.retained 1 grFull 0 4
     s.ports.inbox.contains m = true ∧ s.groupByTag 0x55 = some (1, grFull) ∧ State.chunk? grFull 0 = some x ∧
     (State.localRanks grFull).contains 0 = true ∧ grFull.state ≠ .aborted ∧
     (match z.memberPlace 1 (State.rewriteResult.areaXlat z 1) (State.member grFull 1) (State.resultAt grFull 0 1) (bs.map fun b => (b, 0)) with
      | some ls => (z.issueElems (.rewrite 1 3 0 1) 1 (State.memberRoute (State.member grFull 1)) ls [] none).ports.requests.any
          fun q => !q.late && q.owner == .rewrite 1 3 0 1
      | none => false) = true) := by
  decide +kernel

/-- COLLECT accepts a sound result, then copies it over the destination and ends with OK. -/
theorem test_collect_accepts_and_copies :
    (((after (collectState (collectJob 0) gr 1 zeroSeal) (.collect 7)).job? 7).map (·.pass.accepted)) = some true ∧
    (let t := after (collectState (acc 0 (gJob 0x07 1)) gr 1 zeroSeal) (.collect 7)
     (t.ports.requests.flatMap fun r => match r.body with | .write l _ => l.map (·.val) | _ => []) = List.replicate 16 0) ∧
    (let t := after (gState (acc 0 (gDone 0x07 1)) gr []) (.collect 7); (phaseOf t, codeOf t) = (.ending, 0, 0, 4)) := by decide +kernel

/-- One LOCAL rank; the coordinator is here, or on deck device 1. -/
def grHere : Group := { gr with readyRanks := [0] }
def grAway : Group := { gr with members := gr.members.reverse }
def gBarrier (r : Nat) : Job := job (ent 0x0C [(0x20, 1, 3), (0x22, 2, r)]) 0 0 1
def msgOk (m : Msg) (j : Job) (g : Group) : Bool :=
  let s := gState j g [m]
  s.ports.inbox.contains m && decide (s.groupByTag 0x55 = some (1, g)) && decide (g.state ≠ .aborted) && decide (State.epochNow g = 0)

theorem test_meets_EpochsCloseByLetters :
    (gReady 0x0C (gBarrier 1) grAway = true ∧ (gState (gBarrier 1) grAway []).barrierOrder 1 grAway = some 1 ∧ grAway.state = .open_ ∧
      grAway.dirty = false ∧ (State.member grAway 0).place = some (.deck 1) ∧ Entry.opcode (gBarrier 1).entry = 0x0C) ∧
    (msgOk (.ready 0x55 0 [0]) (gBarrier 0) gr = true ∧ (State.localRanks gr).contains 0 = true ∧ gr.closing ≠ some gr.epoch ∧
      1 ∉ (gr.readyRanks ++ [0]).eraseDups) ∧
    (msgOk (.ready 0x55 0 [1]) (gBarrier 0) grHere = true ∧ (State.localRanks grHere).contains 0 = true ∧ grHere.closing ≠ some grHere.epoch ∧
      (List.range grHere.m).all ((grHere.readyRanks ++ [1]).eraseDups).contains = true) ∧
    (let g := { grAway with state := .ready }
     msgOk (.close 0x55 0) (gBarrier 1) g = true ∧ (gState (gBarrier 1) g []).group? 1 3 = some g ∧ (State.member g 0).place = some (.deck 1) ∧
       (gState (gBarrier 1) g []).epochBarriers 1 g = [gBarrier 1]) ∧
    (let g := { gr with closing := some 0, acked := [0] }
     (gState (gBarrier 0) g []).group? 1 3 = some g ∧ (List.range g.m).all (fun r => g.acked.contains r || (State.member g r).place.isSome) = true ∧
       msgOk (.abort 0x55 0 .groupAbort) (gBarrier 0) g = true) ∧
    (let s := gState (gBarrier 0) grHere []
     s.group? 1 3 = some grHere ∧ grHere.state ≠ .aborted ∧ grHere.closing ≠ some grHere.epoch ∧
       (s.epochBarriers 1 grHere).find? (fun k => Entry.rankOf k.entry == 0) = some (gBarrier 0) ∧ s.job? 7 = some (gBarrier 0) ∧
       1 ∉ grHere.readyRanks ∧ 0 ∈ grHere.readyRanks) ∧
    (msgOk (.abort 0x55 0 .groupAbort) (gBarrier 0) gr = true ∧ gr.closing ≠ some gr.epoch) := by
  constructor
  · decide +kernel
  constructor
  · decide +kernel
  constructor <;> decide +kernel

theorem test_close_letter_opens_the_next_epoch :
    let g := { grAway with state := .ready }
    let t := after (gState (gBarrier 1) g [.close 0x55 0]) (.closeLetter (.close 0x55 0))
    (t.group? 1 3).map (fun x => (x.epoch, x.state)) = some (1, .open_) ∧ phaseOf t = .ending ∧ sent t = [.closeAck 0x55 0 [1]] := by
  decide +kernel


/-- Two ranks here; two tokens of four FP32 elements, both routed to expert 0, whose capacity is 1. -/
def grTwo : Group :=
  { gr with members := [⟨BitVec.ofNat 64 (pool 0x30000), 0x1000, none, none⟩, ⟨BitVec.ofNat 64 (pool 0x38000), 0x1000, none, none⟩] }
def xEnt (op : Nat) : List Byte :=
  ent op [(0x20, 1, 3), (0x28, 4, 2), (0x2C, 4, 4), (0x30, 1, 1), (0x32, 2, 1), (0x34, 4, 2), (0x38, 4, 1), (0x40, 8, pool 0x4000),
    (0x48, 8, pool 0x4800), (0x50, 8, pool 0x2000), (0x58, 6, 16), (0x60, 8, pool 0x5000), (0x68, 8, pool 0x6000)]
/-- Before its index pass, whose reads have come, and afterwards. -/
def xJob (op : Nat) (indexed : Bool) : Job :=
  { job (xEnt op) 8 1 8 with
    next := 1, threads := [gThread], decoded := [0, 0, 0, 0, 1, 0, 0, 0]
    pass := if indexed then { indexed, book := List.replicate 8 0 } else { seen := gSeen } }
/-- The rows of the routes: the first route's row, and a drop. -/
def xPos : List State.RoutePos := State.assignRows 1 [0, 0] []
def issued (r : Option State) : Bool := match r with | some s1 => s1.store.inj.isEmpty | none => false

theorem test_meets_DispatchAndCombineFollowTheRoutes :
    (let j := xJob 0x08 false; let s := gState j grTwo []; let e := j.entry; let k := { j with pass := { j.pass with book := List.replicate 8 0 } }
     gReady 0x08 j grTwo = true ∧ j.pass.indexed = false ∧ s.readRoutes (State.passWork j) = .ok (List.replicate 8 0) ∧
     s.lostMember j grTwo = none ∧ State.routesOf k = [0, 0] ∧
     (s.issueParts (.job 7 .other 0) j grTwo ((State.slotsOf e grTwo).map fun y =>
        (y.1, State.slotAt e (State.member grTwo y.1) y.2 + 64 + State.slotCount k [0, 0] xPos y.1 y.2 * 16,
          List.replicate ((1 - State.slotCount k [0, 0] xPos y.1 y.2) * 16) ((0 : Byte), 0))) id none).isSome = true) ∧
    (let j := xJob 0x08 true; let e := j.entry
     gReady 0x08 j grTwo = true ∧ j.pass.indexed = true ∧ State.routesOf j = [0, 0] ∧ State.idleTiles j = [0] ∧
     running (gState j grTwo []) (fun s w th =>
       let src := fun (n : Nat) => ((Entry.xRows e % 2 ^ 56 : Nat) : Int) + (n / 4 : Nat) * Entry.tStride e 0x58 + (n % 4 * 4 : Nat)
       let x := State.runElems (fun n => (s.gotOff w (Entry.xRows e / 2 ^ 56) (src n) 4).at n 1) (State.liveElems j 0)
       let parts := x.done.flatMap fun x => (List.range 1).filterMap fun k =>
         match xPos.getD (x.1 / 4 * 1 + k) .none_ with
         | .row p =>
           let y := State.routeTo j (([0, 0] : List Int).getD (x.1 / 4 * 1 + k) 0)
           some (y.1, State.slotAt e (State.member grTwo y.1) y.2 + 64 + p * 16 + x.1 % 4 * 4, x.2.map fun b => (b, x.1))
         | _ => none
       clean x && parts.length == 4 && parts.all (fun x => !s.memberLost 1 (State.member grTwo x.1)) &&
         !s.rangesMeet j (State.dispatchRanges j grTwo 0).1 (State.dispatchRanges j grTwo 0).2 &&
         issued (s.issueParts (.job 7 .thread 0) j grTwo parts id (some th.span))) = true) ∧
    (let j := { xJob 0x08 true with threads := [], retired := [0] }; let s := gState j grTwo []; let e := j.entry
     gReady 0x08 j grTwo = true ∧ State.allRetired j = true ∧ s.jobWrites 7 = [] ∧ j.pass.sent = false ∧ s.lostMember j grTwo = none ∧
     gReady 0x08 { j with pass := { j.pass with sent := true } } grTwo = true ∧
     (s.issueParts (.job 7 .header 0) j grTwo ((State.slotsOf e grTwo).map fun y =>
        (y.1, State.slotAt e (State.member grTwo y.1) y.2,
          (State.slotHeader e (State.slotCount j [0, 0] xPos y.1 y.2) y.2
            ((s.memberGot { toJob := j } (State.member grTwo y.1) (State.slotAt e (State.member grTwo y.1) y.2 + 64) 16).val?.getD
              [])).map fun b => (b, 0))) id none).isSome = true ∧
     (s.elemPlace j (Entry.xDrop e) ((State.dropMap xPos).map fun b => (b, 0))).isSome = true) := by
  constructor
  · decide +kernel
  constructor <;> decide +kernel

theorem test_meets_DispatchAndCombineFollowTheRoutes_combine :
    (let j := xJob 0x09 false; let s := gState j grTwo []
     gReady 0x09 j grTwo = true ∧ j.pass.indexed = false ∧ s.readRoutes (State.passWork j) = .ok (List.replicate 8 0)) ∧
    (let j := xJob 0x09 true
     gReady 0x09 j grTwo = true ∧ j.pass.indexed = true ∧ State.routesOf j = [0, 0] ∧
     running (gState j grTwo []) (fun s w th =>
       let x := State.runElems (s.combinePut w grTwo [0, 0] xPos) (State.liveElems j 0)
       let r := State.combineRanges j grTwo (State.tileElems j 0)
       clean x && landed (s.landCells j (.job 7 .thread 0) (Entry.xRows j.entry / 2 ^ 56) (cellsOfAll x.done) (s.rangesMeet j r.1 r.2)
         (fun n => j.tileOf n == 0) (some th.span))) = true) := by
  constructor <;> decide +kernel

/-- The first token goes to the one row of expert 0 at rank 0; the second is dropped. -/
theorem test_dispatch_copies_and_drops :
    let s := gState (xJob 0x08 true) grTwo []
    let t := after { s with store := { s.store with mem := listed (locKey (.stack 2) 0) data4 } } (.dispatch 7)
    (t.ports.requests.flatMap fun r => match r.body with | .write l _ => l.map fun b => (b.key, b.val) | _ => []) =
        (List.range 16).map (fun i => (locKey (.stack 0) (0x6040 + i), i + 1)) ∧
      ((t.job? 7).map fun k => (k.contribs.map (·.cnt), k.contribs.map (·.aux))) = some ([1, 0], [0, 1]) := by decide +kernel

def bEnt (scope mask : Nat) : List Byte := ent 0x0B [(0x20, 1, scope), (0x21, 1, mask), (0x24, 4, 9)]
def bJob (scope mask : Nat) (pass : Pass := {}) : Job := { job (bEnt scope mask) 0 0 1 with pass }
/-- The barrier of device 0 is ready; its queue's earlier entries have completed. -/
def barReady (j : Job) : Bool :=
  decide ((withJob j).job? 7 = some j) && decide (Entry.opcode j.entry = 0x0B) && (withJob j).queueMet j
def held64 : State := { base with parts := [{}, { p1 with arrivals := List.replicate 64 (2, 5) }] ++ List.replicate 7 {} }

theorem test_meets_BarriersWaitForTheirScope :
    (let j := job (ent 0x0F []) 0 0 1
     (withJob j).job? 7 = some j ∧ Entry.opcode j.entry = 0x0F ∧ j.phase = .running ∧ j.stopped = false ∧ j.order ≠ 0 ∧
       (withJob j).queue? j.queue = some q0 ∧ q0.state ≠ .halted ∧ j.threads = []) ∧
    (barReady (bJob 0 0) = true ∧ Entry.barScope (bEnt 0 0) = 0) ∧
    (barReady (bJob 1 0) = true ∧ Entry.barScope (bEnt 1 0) = 1 ∧ (withJob (bJob 1 0)).partMet (bJob 1 0) = true) ∧
    (let j := { bJob 1 0 with order := 2 }
     let s := { withJob j with jobs := [j, { job moveE 16 1 16384 with uid := 8 }] }
     s.job? 7 = some j ∧ s.queueMet j = true ∧ s.partMet j = false) ∧
    (let o := (State.barDevices (bEnt 2 7)).filter (· != base.block.deckId.toNat)
     o = [1, 2] ∧ barReady (bJob 2 7 { bphase := 1, arrived := [0, 1, 2] }) = true ∧ barReady (bJob 2 7) = true ∧
       ((withJob (bJob 2 7)).part 1).arrivals = []) ∧
    (let m := Msg.barrier 1 1 9; let j := bJob 2 7 { bphase := 1, arrived := [0] }
     let s := { withJob j with queues := [a0, a1, { q0 with open_ := [0xFFFFFFFF, 0] }], ports := { inbox := [m] } }
     s.ports.inbox.contains m = true ∧ 1 < s.parts.length ∧ s.barrierFor 1 9 1 = some j ∧ s.job? 7 = some j ∧ s.queueMet j = false) ∧
    (base.barrierFor 1 9 1 = none ∧ (base.part 1).arrivals.length < 64) ∧
    (held64.barrierFor 1 9 1 = none ∧ (held64.part 1).arrivals.length = 64) := by decide +kernel

theorem test_deck_barrier_sends_then_completes :
    (let s := withJob (bJob 2 7)
     let peer := fun d => ({ deckId := d, hops0 := some d, hops1 := none } : Peer)
     let t := after { s with ports := { s.ports with peers := [peer 1, peer 2] } } (.barrier 7)
     sent t = [.barrier 0 1 9, .barrier 0 1 9] ∧ phaseOf t = .running) ∧
    (let t := after (withJob (bJob 2 7 { bphase := 1, arrived := [0, 1, 2] })) (.barrier 7); (phaseOf t, codeOf t) = (.ending, 0, 0, 0)) := by
  decide +kernel


/-! Ports, translations, connections, the deck. -/

def wr (port : Port) (o : Owner) (late sent : Bool := false) : Request :=
  { port, tag := 3, owner := o, body := .write [⟨locKey (.stack 2) 5, 255, 9⟩] [], sent, late, part := 1 }
def withRequests (l : List Request) : State := { withJob (threaded moveE 16) with ports := { memReady := 0xFF, requests := l } }
/-- A read of the fetch stage for tile 0 of job 7, of two granules of stack 2, a byte of which has been written since. -/
def readLeft : List Nat := [granuleOf (locKey (.stack 2) 0), granuleOf (locKey (.stack 2) 64)]
def readInFlight : Request :=
  { port := .mp 2, tag := 3, owner := .fetch 7 0, body := .fetch { left := readLeft, tagged := true, newer := [locKey (.stack 2) 4] },
    sent := true, part := 1, granules := 2 }

theorem test_meets_ReadDataStandsInItsMemory :
    (base.portTarget (base.accPart (.ring (.io 0))) (.mp 2) (0x1010 / 64 * 64) = some (.stack 2, 0x1000) ∧ Memory.wf base.store ∧
      base.store.inj = [] ∧ (Port.mp 2, Access.ring (.io 0)) ∉ base.ports.lateReads ∧ (Port.mp 2, Access.unknown) ∉ base.ports.lateReads ∧
      base.accKnown (.ring (.io 0)) = true ∧ base.accKnown (.ring (.io 9)) = false ∧ (Port.mp 2, Access.ring (.io 9)) ∉ base.ports.lateReads ∧
      (Port.mp 2, Access.fetch 3) ∉ base.ports.lateReads ∧ base.sentAs true (.mp 2) 3 = none) ∧
    (let s := { base with ports := { base.ports with lateReads := [(.mp 2, .ring (.io 0))] } }
     (Port.mp 2, Access.ring (.io 0)) ∈ s.ports.lateReads) ∧
    (let s := withRequests [readInFlight]
     (Port.mp 2, Access.fetch 3) ∉ s.ports.lateReads ∧ s.sentAs true (.mp 2) 3 = some readInFlight ∧ readInFlight.late = false ∧
       s.portTarget 1 (.mp 2) (0x10 / 64 * 64) = some (.stack 2, 0) ∧ granuleOf (locKey (.stack 2) 0) ∈ readLeft ∧ Memory.wf s.store ∧
       granuleOf (locKey (.stack 2) 64) ∈ readLeft ∧ granuleOf (locKey (.stack 2) 64) ≠ granuleOf (locKey (.stack 2) 0) ∧
       (s.storeGranule (.stack 2, 0) 0 false [locKey (.stack 2) 4]).store.inj = []) := by
  constructor
  · decide +kernel
  constructor <;> decide +kernel

theorem test_meets_WriteAnswersReachTheirOwner :
    base.sentAs false (.mp 2) 3 = none ∧
    (let w := wr (.mp 2) (.job 7 .thread 0) (sent := true)
     let s := withRequests [w]
     s.sentAs false (.mp 2) 3 = some w ∧ w.late = false ∧ s.ownsAccess w.owner (.jobWrite 7 0) = true ∧ Memory.wf s.store ∧
       s.ports.requests.all (fun w => w.port != .mp 2 || !State.waits w) = true ∧ (s.portState (.mp 2)).deficit = List.replicate 9 0) ∧
    (let w := wr (.mp 2) (.job 7 .thread 0) true true
     (withRequests [w]).sentAs false (.mp 2) 3 = some w ∧ w.late = true) ∧
    (let s := withRequests [readInFlight]
     s.sentAs true (.mp 2) 3 = some readInFlight ∧ readInFlight.late = false ∧ readInFlight.span = none) := by
  decide +kernel

/-- An ERROR to the last write of a thread ends its job early with BUS_ERROR on the route; a credit lets a waiting write go. -/
theorem test_write_error_is_an_early_event :
    ((after (withRequests [wr (.mp 2) (.job 7 .thread 0) (sent := true)]) (.portWriteResponse (.mp 2) 3 .error)).job? 7).map
        (fun j => j.early.map (·.code)) = some (some 0x48) ∧
    (let s := { withRequests [wr (.mp 2) (.job 7 .thread 0)] with
                ports := { memReady := 0xFF, requests := [wr (.mp 2) (.job 7 .thread 0)], states := [{ port := .mp 2, wd := 1 }] } }
     (after s (.creditGrant (.mp 2) false)).ports.requests.map (·.sent) = [true]) := by decide +kernel

/-- Data of the one granule that a thread waits for: its tag is free, and the thread has it. -/
theorem test_read_data_reaches_its_thread :
    let s := withRequests [{ readInFlight with body := .fetch { left := [granuleOf (locKey (.stack 2) 0)], tagged := true } }]
    let t := after s (.portReadData (.mp 2) (.fetch 3) 0 7 false .okay)
    t.ports.requests = [] ∧ t.store.get (locKey (.stack 2) 0) = 7 ∧
    (t.job? 7).map (fun j => j.threads.map fun x => x.seen.has.head?) = some [some (granuleOf (locKey (.stack 2) 0))] := by decide +kernel

/-- A request for the page at 0x1000 of host memory. -/
def ask (o : XOwner) : State :=
  { withJob { job moveE 16 1 16384 with phase := .fetched } with
    ports := { memReady := 0xFF, xreqs := [{ tag := some 0, owner := o, route := 0, ctx := 0, page := 0x1000, access := 1 }] } }

theorem test_meets_TranslationsServeOrFailTheirAccess :
    base.xreqOf 0 0x1000 (.ring (.io 0)) = none ∧
    ((ask (.ring (.io 0))).xreqOf 0 0x1000 (.ring (.io 0))).isSome = true ∧ (ask (.ring (.io 0))).live? (.io 0) = some q0 ∧ q0.due = 0 ∧
    (ask (.ring (.io 0))).accKnown (.ring (.io 0)) = true ∧
    ((ask (.ring (.io 5))).xreqOf 0 0x1000 (.ring (.io 5))).isSome = true ∧ (ask (.ring (.io 5))).accKnown (.ring (.io 5)) = false ∧
    (let j := { job moveE 16 1 16384 with phase := .fetched }
     ((ask (.job 7)).xreqOf 0 0x1000 (.decode 7)).isSome = true ∧ ((ask (.job 7)).xreqOf 0 0x1000 (.job 7 0 false)).isSome = true ∧
       (ask (.job 7)).job? 7 = some j ∧ j.phase = .fetched) := by decide +kernel

def win : Window := { w := 5, conn := 9, base := 0x10000, len := 0x1000 }
def winState (ready : Bool) : State :=
  { base with
    parts := [{}, { p1 with windows := [{ win with ready }], regions := p1.regions ++ [{ id := 7, base := 0x100000, len := 4096, pd := 0, rights := 7 },
      { id := 8, base := BitVec.ofNat 64 (pool 0x8000), len := 4096, pd := 0, rights := 7 }] }] ++ List.replicate 7 {}
    ports := { memReady := 0xFF, conns := [{ conn := 9, part := 1, port := 2 }] } }

theorem test_meets_LinksAndWindowsComeAndGo :
    (winState false).window? 1 5 = some win ∧ win.ready = false ∧ win.closing = false ∧
    ((winState false).unfencedSpans 1).all (fun n => ((winState false).span n).trans.isNone && ((winState false).span n).power == .idle) = true ∧
    base.ports.requests = [] ∧ base.ports.deckFault = false ∧ (base.block.deckId.toNat :: [3, 1]).Nodup ∧ ¬(base.block.deckId.toNat :: [1, 3, 1]).Nodup ∧
    (let s := { base with block := { base.block with deckId := 2 } }; s.ports.deckFault = false ∧ 0 < s.block.deckId.toNat) ∧
    ([⟨3, some 1, none⟩] : List Peer).all (fun x => x.deckId != base.block.deckId.toNat) = true := by decide +kernel

def inbounds (issued : Bool) : List Inbound := [{ id := 4, src := .conn 9, part := 1, addr := 0x100000, write := true, issued }]

theorem test_meets_InboundAccessesAreCheckedThenPlaced :
    base.connReady 9 = none ∧ (winState true).connReady 9 = some 1 ∧
    (winState true).inboundOk 1 0x2000000 4 true = false ∧ (winState true).inboundOk 1 0x2000000 (64 * 1) false = false ∧
    ((winState true).inboundOk 1 0x100000 4 true = true ∧ State.translated (0x100000 / 2 ^ 56) = true ∧
      (winState true).routeLost 1 (0x100000 / 2 ^ 56) = false ∧ (winState true).ports.inbound = [] ∧ 1 < (winState true).parts.length) ∧
    ((winState true).inboundOk 1 (pool 0x8000) (64 * 1) false = true ∧ (winState true).routeLost 1 (pool 0x8000 / 2 ^ 56) = false ∧
      ((winState true).keys 1 [] (pool 0x8000) (64 * 1)).isSome = true) ∧
    (let s := { winState true with ports := { memReady := 0xFF, inbound := inbounds true } }
     s.ports.inbound.find? (fun y => y.id == 4 && y.issued) =
       some { id := 4, src := .conn 9, part := 1, addr := 0x100000, write := true, issued := true } ∧ s.ports.requests = [] ∧ s.jobs = []) ∧
    (base.reached 1 = false ∧ base.reached 0 = true ∧ State.replies (.ready 1 0 [0]) = false ∧ State.replies (.closeAck 1 0 [0]) = true ∧
      (3 : Nat) ≠ base.block.deckId.toNat) ∧
    (8 * base.cs 1 < 2 ^ 40 + 64 ∧ base.deckParts 1 = true ∧ 0x1000 + 64 ≤ 8 * base.cs 1 ∧ base.hasTarget 1 0x20 = true ∧
      (base.keys 1 [] (0x20 * 2 ^ 56 + 0x1000) 64).isSome = true ∧ base.ports.inbound = []) := by decide +kernel


/-! Administrative commands. -/

/-- A command at the front of an administrative queue. -/
def aj (aq : Nat) (e : List Byte) : Job := { uid := 7, queue := .adm aq, idx := 0, part := aq, entry := e, phase := .fetched }
def adm (aq : Nat) (e : List Byte) (q : Queue := q0) (more : List Job := []) : State :=
  { base with jobs := aj aq e :: more, queues := [a0, a1, q] }

/-- The hypotheses of Served in the order of its fields, as checks that run. -/
def srv (s : State) (aq op p : Nat) (j : Job) (sc : State.CmdScope) (fs : List State.FieldSpec) : Bool :=
  decide (s.canStart aq = some j ∧ s.turnOf aq = true ∧ (u8 j.entry 0 = op ∧ field j.entry 0x18 8 = 0) ∧
    State.reservedFail j.entry 0 (State.adminHeader ++ [⟨0x18, 8, 2 ^ 64 - 1⟩] ++ fs) = none ∧
    (s.taken aq j).partitionBad aq sc (u8 j.entry 2) = false ∧ p = if aq = 0 then u8 j.entry 2 else aq)

theorem served_of {s : State} {aq op p : Nat} {j : Job} {sc : State.CmdScope} {fs : List State.FieldSpec}
    (h : srv s aq op p j sc fs = true) : s.Served aq op p j sc fs :=
  let front := of_decide_eq_true h
  let header := front.2.2
  { start := front.1, turn := front.2.1, opcode := header.1.1, unwritten := header.1.2,
    reserved := header.2.1, scope := header.2.2.1, acts := header.2.2.2 }

theorem test_meets_AdministrativeChecksComeInOrder :
    adminRow (.createQueue 1) = some (1, 0x80, .both) ∧
    (let e := ent 0x80 []; (adm 1 e).canStart 1 = some (aj 1 e) ∧ u8 e 0 = 0x80 ∧ (adm 1 e).turnOf 1 = true ∧ (adm 1 e).job? 7 = some (aj 1 e)) ∧
    u8 (ent 0x81 []) 0 ≠ 0x80 ∧ (adm 1 (ent 0x81 [])).canStart 1 = some (aj 1 (ent 0x81 [])) ∧
    (let e := ent 0x80 [(0x18, 8, 1)]; (adm 1 e).canStart 1 = some (aj 1 e) ∧ field (aj 1 e).entry 0x18 8 ≠ 0) ∧
    (let e := ent 0x80 [(1, 1, 2)]; (adm 1 e).canStart 1 = some (aj 1 e) ∧ field (aj 1 e).entry 0x18 8 = 0 ∧ 2 ≤ u8 e 1) ∧
    adminRow (.rearmPacer 1) = some (1, 0x98, .owner) ∧
    (let e := ent 0x98 []; (adm 1 e).canStart 1 = some (aj 1 e) ∧ (adm 1 e).turnOf 1 = true) := by decide +kernel

def qNum : List State.FieldSpec := [⟨0x20, 2, 0xFFFF⟩]
def oneByte : List State.FieldSpec := [⟨0x20, 1, 0xFF⟩]
def createQ (n : Nat) : List Byte := ent 0x80 [(0x20, 2, n), (0x22, 1, 4), (0x28, 8, pool 0x40000), (0x30, 8, 0x4000)]
def qState (x : QState) (open_ : List Word32 := []) : Queue := { q0 with state := x, open_ }
def onQ0 (op : Nat) (x : Queue) : Bool :=
  let e := ent op []
  srv (adm 1 e x) 1 op 1 (aj 1 e) .part qNum && ((adm 1 e x).taken 1 (aj 1 e)).inRun 1 0 &&
    decide (((adm 1 e x).taken 1 (aj 1 e)).live? (.io 0) = some x)

theorem test_meets_QueueRegionAndWindowCommandsAct_queues :
    (let ok (n : Nat) : Bool :=
       let e := createQ n; let t := (adm 1 e).taken 1 (aj 1 e)
       srv (adm 1 e) 1 0x80 1 (aj 1 e) .part
         [⟨0x20, 2, 0xFFFF⟩, ⟨0x22, 1, 0xFF⟩, ⟨0x23, 1, 1⟩, ⟨0x24, 1, 0x3F⟩, ⟨0x28, 8, 2 ^ 64 - 1⟩, ⟨0x30, 8, 2 ^ 64 - 1⟩] &&
       t.inRun 1 n && !bitOf (u8 e 0x23) 0 && !State.ringBad (u64 e 0x28) && !State.statusBad (u64 e 0x30) &&
       decide (t.rangesFail 1 (u8 e 0x24) (State.queueRanges (u64 e 0x28) (u8 e 0x22) (u64 e 0x30)) = none)
     ok 0 = true ∧ ok 3 = true ∧ base.live? (.io 0) ≠ none ∧ base.live? (.io 3) = none) ∧
    onQ0 0x81 (qState .active) = true ∧ onQ0 0x81 (qState .active [0]) = true ∧ onQ0 0x82 (qState .active [0]) = true ∧ onQ0 0x82 (qState .halted [0]) = true ∧
    onQ0 0x83 (qState .halted [0]) = true ∧ onQ0 0x84 (qState .error) = true ∧
    (let e := ent 0x85 [(0x24, 4, 32), (0x28, 4, 100), (0x2C, 4, 64)]
     srv (adm 1 e) 1 0x85 1 (aj 1 e) .part [⟨0x20, 2, 0xFFFF⟩, ⟨0x24, 4, 2 ^ 32 - 1⟩, ⟨0x28, 4, 2 ^ 32 - 1⟩, ⟨0x2C, 4, 2 ^ 32 - 1⟩] = true) := by
  decide +kernel

def withP1 (aq : Nat) (e : List Byte) (p : Part) (f : State → State := id) : State :=
  f { adm aq e with parts := [{}, p] ++ List.replicate 7 {} }
def conn9 (s : State) : State := { s with ports := { memReady := 0xFF, conns := [{ conn := 9, part := 1, port := 2 }] } }
def regionE : List Byte := ent 0x88 [(0x20, 8, pool 0x100000), (0x28, 8, 4096), (0x31, 1, 3)]
def regionF : List State.FieldSpec := [⟨0x20, 8, 2 ^ 64 - 1⟩, ⟨0x28, 8, 2 ^ 64 - 1⟩, ⟨0x30, 1, 0x3F⟩, ⟨0x31, 1, 7⟩]
def windowE : List Byte := ent 0x8A [(0x20, 1, 5), (0x24, 4, 9), (0x28, 8, 0x10000), (0x30, 8, 0x1000)]
def windowF : List State.FieldSpec := [⟨0x20, 1, 0xFF⟩, ⟨0x24, 4, 2 ^ 32 - 1⟩, ⟨0x28, 8, 2 ^ 64 - 1⟩, ⟨0x30, 8, 2 ^ 64 - 1⟩]
def p1w : Part := { p1 with windows := [win] }

theorem test_meets_QueueRegionAndWindowCommandsAct_windows :
    (let t := (adm 1 regionE).taken 1 (aj 1 regionE)
     srv (adm 1 regionE) 1 0x88 1 (aj 1 regionE) .part regionF = true ∧ (t.regionLimits 1 regionE 0x20).all (fun x => !x.1) = true ∧
     (t.part 1).regions.length < t.regionMax 1) ∧
    (let p : Part := { p1 with regions := p1.regions ++ [{ id := 3, base := 0, len := 4096, pd := 0, rights := 1 }] }
     let s := withP1 1 regionE p; let t := s.taken 1 (aj 1 regionE)
     srv s 1 0x88 1 (aj 1 regionE) .part regionF = true ∧ t.regionMax 1 ≤ (t.part 1).regions.length ∧
     (t.regionLimits 1 regionE 0x20).all (fun x => !x.1) = true) ∧
    (let e := ent 0x89 [(0x20, 2, 1)]; let t := (adm 1 e).taken 1 (aj 1 e)
     srv (adm 1 e) 1 0x89 1 (aj 1 e) .part qNum = true ∧ (t.part 1).regions.any (·.id == 1) = true ∧
     (t.modPart 1 fun x => { x with regions := x.regions.filter (·.id != 1) }).protectedOk 1 = true) ∧
    (let e := ent 0x89 []; let t := (adm 1 e).taken 1 (aj 1 e)
     srv (adm 1 e) 1 0x89 1 (aj 1 e) .part qNum = true ∧ (t.part 1).regions.any (·.id == 0) = true ∧
     (t.modPart 1 fun x => { x with regions := x.regions.filter (·.id != 0) }).protectedOk 1 = false) ∧
    (let ok (p : Part) : Bool :=
       let s := withP1 1 windowE p conn9; srv s 1 0x8A 1 (aj 1 windowE) .part windowF &&
         (s.taken 1 (aj 1 windowE)).ports.conns.any fun c => c.conn == 9 && c.part == 1 && c.isOpen
     ok p1 = true ∧ ok p1w = true ∧ p1.windows = [] ∧ p1w.windows.any (·.w == 5) = true) ∧
    (let e := ent 0x8B [(0x20, 1, 5)]
     (let s := withP1 1 e p1w
      srv s 1 0x8B 1 (aj 1 e) .part oneByte = true ∧ (s.taken 1 (aj 1 e)).window? 1 5 = some win ∧ (s.taken 1 (aj 1 e)).windowUsed 1 5 = false) ∧
     (let s := withP1 1 e { p1w with groups := [{ gr with members := [⟨0, 0, some (.conn 9), some 5⟩] }] }
      srv s 1 0x8B 1 (aj 1 e) .part oneByte = true ∧ (s.taken 1 (aj 1 e)).window? 1 5 = some win ∧
      (s.taken 1 (aj 1 e)).windowUsed 1 5 = true)) := by decide +kernel

/-- CREATE_QUEUE makes the queue; DESTROY_QUEUE of a queue with a pending entry is RESOURCE_HELD; CLOSE_WINDOW tells the transport. -/
theorem test_queue_commands :
    (let t := after (adm 1 (createQ 3)) (.createQueue 1); (t.live? (.io 3)).map (·.state) = some .active ∧ codeOf t = (0, 0, 0)) ∧
    codeOf (after (adm 1 (ent 0x81 [])) (.destroyQueue 1)) = (0xC2, 0, 0) ∧
    (let t := after (withP1 1 (ent 0x8B [(0x20, 1, 5)]) p1w) (.closeWindow 1); t.block.out = [.winClosed 9 5] ∧ phaseOf t = .running) := by
  decide +kernel

def groupF : List State.FieldSpec :=
  [⟨0x20, 1, 0xFF⟩, ⟨0x21, 1, 0xFF⟩, ⟨0x22, 2, 0xFFFF⟩, ⟨0x24, 4, 2 ^ 32 - 1⟩, ⟨0x28, 4, 2 ^ 32 - 1⟩, ⟨0x2C, 2, 0xFFFF⟩,
   ⟨0x2E, 1, 0xFF⟩, ⟨0x30, 2, 0xFFFF⟩, ⟨0x32, 1, 0x3F⟩, ⟨0x38, 8, 2 ^ 64 - 1⟩, ⟨0x40, 8, 2 ^ 64 - 1⟩]
def groupE : List Byte :=
  ent 0x8C [(0x20, 1, 3), (0x22, 2, 2), (0x24, 4, 0x55), (0x28, 4, 32), (0x2C, 2, 1), (0x2E, 1, 1), (0x30, 2, 100), (0x38, 8, pool 0x50000),
    (0x40, 8, pool 0x6000)]
def twoMembers : List Byte := bytes 32 [(0, 8, pool 0x30000), (8, 4, 192), (16, 8, pool 0x38000), (24, 4, 192)]
def withGroups (gs : List Group) : State :=
  withP1 1 groupE { p1 with groups := gs } fun s => { s with store := { mem := listed (locKey (.stack 6) 0) twoMembers } }
def madeMembers : List Member :=
  [⟨BitVec.ofNat 64 (pool 0x30000), 192, none, none⟩, ⟨BitVec.ofNat 64 (pool 0x38000), 192, none, none⟩]

theorem test_meets_GroupKeyAndSetCommandsAct_groups :
    (let ok (gs : List Group) : Bool :=
       let s := withGroups gs; let t := s.taken 1 (aj 1 groupE); let ks := (t.keys 1 [] (pool 0x6000) 32).getD []
       let g : Group := { gr with chunkElems := 32, epochChunks := 1, members := [] }
       srv s 1 0x8C 1 (aj 1 groupE) .part groupF && decide (t.rangesFail 1 0 [(pool 0x6000, 32, true, false)] = none) &&
       decide (t.keys 1 (aj 1 groupE).xlat (pool 0x6000) 32 = some ks) && t.store.poison.isEmpty &&
       decide ((List.range 2).mapM (fun i => t.memberOf 1 (((ks.map t.store.get).drop (16 * i)).take 16) (1 * State.resultBytes g)) =
         some madeMembers) &&
       decide (t.rangesFail 1 0 ((g.slotArea.toNat, 2 * State.slotPartBytes g, true, true) ::
         madeMembers.map fun m => (m.recv.toNat, m.recvLen, true, true)) = none) && decide ((t.part 1).groups = gs)
     ok [] = true ∧ ok [gr] = true ∧ ok (List.replicate 256 gr) = true ∧ gr.g = 3 ∧
       madeMembers.filter (fun m => m.place.isNone) = madeMembers) ∧
    (let e := ent 0x8D [(0x20, 1, 3)]; let s := withP1 1 e { p1 with groups := [gr] }
     srv s 1 0x8D 1 (aj 1 e) .part oneByte = true ∧ (s.taken 1 (aj 1 e)).group? 1 3 ≠ none ∧
     (s.taken 1 (aj 1 e)).jobs.all (fun k => !(k.part == 1 && k.groupOp && k.groupNo == 3)) = true) ∧
    (let e := ent 0x8D [(0x20, 1, 3)]
     let s := { withP1 1 e { p1 with groups := [gr] } with jobs := [aj 1 e, { gJob 5 1 with uid := 8 }] }
     srv s 1 0x8D 1 (aj 1 e) .part oneByte = true ∧ (s.taken 1 (aj 1 e)).group? 1 3 ≠ none ∧
     (s.taken 1 (aj 1 e)).jobs.any (fun k => k.part == 1 && k.groupOp && k.groupNo == 3) = true) := by decide +kernel

def keyState (e : List Byte) (k : Option (Option (Nat × Nat × Nat))) : State :=
  { adm 1 e with tables := { keys := (k.map fun b => ({ slot := 0, gcm := false, bytes := List.replicate 64 1, bound := b } : Key)).toList } }
def bindE : List Byte := ent 0x90 [(0x24, 1, 0x20), (0x25, 1, 0x28)]
def setState (e : List Byte) (o : Nat) (more : List Job := []) : State :=
  { adm 1 e with tables := { cbOwner := [o, 0, 0, 0, 0, 0, 0, 0] }, jobs := aj 1 e :: more }

theorem test_meets_GroupKeyAndSetCommandsAct_keys :
    (let ok (k : Option (Option (Nat × Nat × Nat))) : Bool :=
       let s := keyState bindE k; let t := s.taken 1 (aj 1 bindE)
       srv s 1 0x90 1 (aj 1 bindE) .part [⟨0x20, 2, 0xFFFF⟩, ⟨0x22, 1, 0x3F⟩, ⟨0x24, 1, 0xFF⟩, ⟨0x25, 1, 0xFF⟩] && t.slotPart 0 == 1 &&
         (t.keyOf 0).map (·.bound) == k
     ok none = true ∧ ok (some none) = true ∧ ok (some (some (0, 0x20, 0x28))) = true ∧
       ((List.range 256).all fun r => decide (r < 0x20) || decide (0x28 < r) || State.routeDefined r) = true) ∧
    (let e := ent 0x91 []; let s := keyState e (some (some (0, 0x20, 0x28)))
     srv s 1 0x91 1 (aj 1 e) .part qNum = true ∧ ((s.taken 1 (aj 1 e)).keyOf 0).map (·.bound) = some (some (0, 0x20, 0x28))) ∧
    (let ok (op o : Nat) : Bool := let e := ent op []; srv (setState e o) 1 op 1 (aj 1 e) .part oneByte && (setState e o).tables.cbOwner.getD 0 0 == o
     ok 0x92 0 = true ∧ ok 0x92 2 = true ∧ ok 0x93 0 = true ∧ ok 0x93 1 = true ∧ ok 0x93 2 = true ∧
     (let e := ent 0x93 []; let s := setState e 1 [{ job moveE 16 1 16384 with uid := 8, cbSet := some 0 }]
      srv s 1 0x93 1 (aj 1 e) .part oneByte = true ∧
      (s.taken 1 (aj 1 e)).jobs.any (fun k => k.part == 1 && (match k.cbSet with | some c => c == 0 || c + 1 == 0 | none => false)) = true)) := by
  decide +kernel

def ap (o : Nat) : Nat := 0x10 * 2 ^ 56 + o
def chanE : List Byte :=
  ent 0x94 [(0x40, 8, ap 0x10000), (0x48, 8, pool 0x8000), (0x50, 8, ap 0x2000), (0x58, 1, 4), (0x59, 1, 1), (0x60, 4, 1), (0x68, 4, 1)]
def apRegion : Region := { id := 4, base := BitVec.ofNat 64 (ap 0), len := 2 ^ 20, pd := 0, rights := 3 }
def chanState (aq : Nat) (e : List Byte) (x : Chan) (pc : Pacer := {}) : State :=
  { withP1 aq e { p1 with regions := p1.regions ++ [apRegion] } with chans := x :: List.replicate 63 {}, pacers := pc :: List.replicate 7 {} }
def chan (st : ChState) (owner : Nat) : Chan := { state := st, owner, cfg := State.cfgOf chanE }

theorem test_meets_ChannelCommandsAct :
    (let ok (x : Chan) : Bool :=
       let s := chanState 1 chanE x; let t := s.taken 1 (aj 1 chanE)
       srv s 1 0x94 1 (aj 1 chanE) .part State.setupFields &&
       (State.cfgLimits (State.cfgOf chanE) 0).all (fun y => !y.1) && decide ((State.cfgOf chanE).dst.toNat % 64 = 0) &&
       decide ((State.cfgOf chanE).cons.toNat % 16 = 0) && (State.cfgOf chanE).shufOp == 0 &&
       decide (t.rangesFail 1 0 (State.chanRanges (State.cfgOf chanE)) = none) && decide (t.chan 0 = x)
     ok {} = true ∧ ok (chan .configured 1) = true ∧ ok (chan .configured 2) = true ∧ ok (chan .armed 1) = true ∧
       State.chanArmed (chan .armed 1) = true) ∧
    (let ok (op : Nat) (x : Chan) : Bool := let e := ent op []; srv (chanState 1 e x) 1 op 1 (aj 1 e) .part oneByte &&
       decide (((chanState 1 e x).taken 1 (aj 1 e)).chan 0 = x)
     ok 0x95 (chan .configured 1) = true ∧ ok 0x96 (chan .running 1) = true ∧ ok 0x96 (chan .held 1) = true ∧
     ok 0x97 (chan .configured 1) = true ∧ ok 0x97 (chan .configured 2) = true ∧ ok 0x97 (chan .armed 1) = true ∧ ok 0x97 {} = true) ∧
    (let ok (n : Nat) (pc : Pacer) : Bool := let e := ent 0x98 [(0x20, 1, n)]; let s := chanState 0 e (chan .held 1) pc
       srv s 0 0x98 0 (aj 0 e) .block oneByte && decide ((s.taken 0 (aj 0 e)).pacer 0 = pc)
     ok 0 {} = true ∧ ok 8 {} = true ∧ ok 0 { stopped := true, cause := 0x48 } = true) ∧
    Memory.wf (chanState 0 (ent 0x98 []) (chan .held 1) { stopped := true, cause := 0x48 }).store := by decide +kernel

theorem test_meets_ChannelCommandsAct_inv : Inv (chanState 0 (ent 0x98 []) (chan .held 1) { stopped := true, cause := 0x48 }) := by
  constructor <;> decide +kernel

/-- A re-armed pacer serves again; its HELD channel is ARMED. -/
theorem test_rearm :
    let t := after (chanState 0 (ent 0x98 []) (chan .held 1) { stopped := true, cause := 0x48 }) (.rearmPacer 0)
    (t.pacer 0).stopped = false ∧ (t.chan 0).state = .armed ∧ codeOf t = (0, 0, 0) := by decide +kernel


/-! Votes, health, fences, swaps, resets; channels. -/

def voteF : List State.FieldSpec := [⟨0x20, 1, 0xFF⟩, ⟨0x21, 1, 0xFF⟩, ⟨0x22, 1, 0xFF⟩, ⟨0x28, 8, 2 ^ 40 - 1⟩]
def healthF : List State.FieldSpec := [⟨0x20, 1, 0xFF⟩, ⟨0x21, 1, 0x3F⟩, ⟨0x28, 8, 2 ^ 64 - 1⟩]
def threeBytes : List State.FieldSpec := [⟨0x20, 1, 0xFF⟩, ⟨0x21, 1, 0xFF⟩, ⟨0x22, 1, 0xFF⟩]

theorem test_meets_VoteHealthFenceAndSwapCommandsAct_votes :
    (let e := ent 0xA0 [(0x20, 1, 2)]; srv (adm 1 e) 1 0xA0 1 (aj 1 e) .part voteF = true) ∧
    (let e := ent 0xA0 [(0x20, 1, 2), (0x21, 1, 1), (0x22, 1, 2), (0x28, 8, 7)]
     srv (adm 1 e) 1 0xA0 1 (aj 1 e) .part voteF = true ∧ (maskList 40 7).all (fun n => ((adm 1 e).taken 1 (aj 1 e)).spanOwner n == 1) = true) ∧
    (let e := ent 0xA1 [(0x20, 1, 1), (0x28, 8, pool 0x2000)]; let t := (adm 1 e).taken 1 (aj 1 e)
     srv (adm 1 e) 1 0xA1 1 (aj 1 e) .block healthF = true ∧ t.spanOwner 1 = 1 ∧ t.rangesFail 1 0 [(pool 0x2000, 32, false, true)] = none) ∧
    (let e := ent 0xA1 [(0x20, 1, 0x32), (0x28, 8, 0x2000)]; srv (adm 0 e) 0 0xA1 0 (aj 0 e) .block healthF = true) := by decide +kernel

/-- Every byte of a health record has its place. -/
theorem test_meets_VoteHealthFenceAndSwapCommandsAct_health :
    ∃ bs, (adm 1 (ent 0xA1 [(0x20, 1, 1), (0x28, 8, pool 0x2000)])).place 1 [] (pool 0x2000)
      ((adm 1 (ent 0xA1 [(0x20, 1, 1), (0x28, 8, pool 0x2000)])).healthBytes 1) = some bs :=
  place_pool (by decide +kernel) (by simp [State.healthBytes, leBytes_length])

def fenceE (n c act : Nat) : List Byte := ent 0xA2 [(0x20, 1, n), (0x21, 1, c), (0x22, 1, act)]
def spanState (aq n : Nat) (e : List Byte) (f : Span → Span) : State := (adm aq e).modSpan n f
def fenceOk (n c act : Nat) (f : Span → Span) (g : State → Bool) : Bool :=
  let e := fenceE n c act; let s := spanState 0 n e f
  srv s 0 0xA2 0 (aj 0 e) .block threeBytes && g (s.taken 0 (aj 0 e))
def coreIs (c : Nat) (x : Elem) (y : Span) : Span := { y with cores := modAt y.cores c fun _ => x }
def few (y : Span) : Span := { y with cores := List.replicate 8 .active ++ List.replicate 24 .fenced }
def byOwner (y : Span) : Span := { y with fence := .byOwner }
def byCount (y : Span) : Span := { y with fence := .byCount }
def byKeeper (y : Span) : Span := { y with fence := .byKeeper }

theorem test_meets_VoteHealthFenceAndSwapCommandsAct_fences :
    fenceOk 3 0xFF 0 id (fun t => t.lastSpan 3 && (t.span 3).fence == .none) = true ∧
    fenceOk 0 0xFF 0 id (fun t => !t.lastSpan 0 && (t.span 0).fence == .none) = true ∧
    fenceOk 0 0xFF 0 byCount (fun t => (t.span 0).fence == .byCount) = true ∧
    fenceOk 0 0xFF 0 byOwner (fun t => (t.span 0).fence == .byOwner) = true ∧
    fenceOk 0 5 0 (coreIs 5 .fenced) (fun t => (t.span 0).cores.getD 5 .spare == .fenced) = true ∧
    fenceOk 3 5 0 few (fun t => (t.span 3).cores.getD 5 .spare == .active && (t.span 3).fence == .none && t.fenceLeavesNone 3 5) = true ∧
    fenceOk 0 5 0 id (fun t => (t.span 0).cores.getD 5 .spare == .active && (t.span 0).fence == .none && !t.fenceLeavesNone 0 5) = true ∧
    fenceOk 0 0xFF 1 id (fun t => (t.span 0).fence == .none) = true ∧ fenceOk 0 0xFF 1 byKeeper (fun t => (t.span 0).fence == .byKeeper) = true ∧
    fenceOk 0 0xFF 1 byOwner (fun t => (t.span 0).fence == .byOwner && t.spanOwner 0 != 0) = true ∧
    fenceOk 0 5 1 (coreIs 5 .keeperFenced) (fun t => (t.span 0).cores.getD 5 .spare == .keeperFenced) = true ∧
    fenceOk 0 5 1 id (fun t => (t.span 0).cores.getD 5 .spare == .active) = true ∧
    fenceOk 0 5 1 (coreIs 5 .fenced) (fun t => (t.span 0).cores.getD 5 .spare == .fenced && (t.span 0).fence == .none) = true := by
  decide +kernel

def swapE (n k m : Nat) : List Byte := ent 0xA3 [(0x20, 1, n), (0x21, 1, k), (0x22, 1, m)]
def swapOk (n k m : Nat) (f : Span → Span) (g : State → Bool) : Bool :=
  let e := swapE n k m; let s := spanState 0 (n % 40) e f
  srv s 0 0xA3 0 (aj 0 e) .block threeBytes && (s.taken 0 (aj 0 e)).elemActive n (State.kindOf k) m && g (s.taken 0 (aj 0 e))

theorem test_meets_VoteHealthFenceAndSwapCommandsAct_swaps :
    swapOk 0 0 4 (fun y => { y with cores := List.replicate 32 .active }) (fun t => (t.spareOf 0 (State.kindOf 0)).isNone) = true ∧
    swapOk 0 1 2 id (fun t => (t.spareOf 0 (State.kindOf 1)).isSome && (t.span 0).swap.isNone) = true ∧
    swapOk 0x32 2 4 id (fun t => (t.spareOf 0x32 (State.kindOf 2)).isSome) = true ∧
    swapOk 0x30 3 0 id (fun t => (t.spareOf 0x30 (State.kindOf 3)).isSome) = true := by decide +kernel

/-- A fenced core goes; a swap puts the spare sorting processor to work. -/
theorem test_fence_and_swap :
    ((after (adm 0 (fenceE 0 5 0)) (.fence 0)).span 0).cores.getD 5 .spare = .fenced ∧
    (after (adm 0 (swapE 0x30 3 0)) (.swapSpare 0)).lanes.sorting = false := by decide +kernel

def resetE (k n p : Nat) : List Byte := ent 0xA4 [(2, 1, p), (0x20, 1, k), (0x21, 1, n)]
def resetOk (k n p : Nat) : Bool := srv (adm 0 (resetE k n p)) 0 0xA4 p (aj 0 (resetE k n p)) .free_ [⟨0x20, 1, 0xFF⟩, ⟨0x21, 1, 0xFF⟩]
def bare (e : List Byte) : State := { adm 0 e with queues := [a0] }
/-- A committed command that waits. -/
def waiting (aq op : Nat) (w : Wait) : Job := { aj aq (ent op [(0x20, 1, 5)]) with phase := .running, wait := w, count := 3 }
def waitState (aq op : Nat) (w : Wait) : State := { base with jobs := [waiting aq op w] }
def waitOk (aq op : Nat) (w : Wait) (met : Bool) : Bool :=
  decide ((waitState aq op w).adminFront aq = some (waiting aq op w)) && (waitState aq op w).waitMet aq (waiting aq op w) == met

theorem test_meets_ResetScrubAndSwitchAct :
    resetOk 1 39 0 = true ∧ resetOk 2 0 1 = true ∧ ((adm 0 (resetE 2 0 1)).taken 0 (aj 0 (resetE 2 0 1))).defined 1 = true ∧ resetOk 3 0 0 = true ∧
    (let e := ent 0xA5 [(2, 1, 1)]
     srv (adm 0 e) 0 0xA5 1 (aj 0 e) .part [⟨0x20, 1, 1⟩] = true ∧ srv (bare e) 0 0xA5 1 (aj 0 e) .part [⟨0x20, 1, 1⟩] = true ∧
     ((adm 0 e).taken 0 (aj 0 e)).queues.any (fun x => x.state != .destroyed && x.part == 1 && (match x.qid with | .io _ => true | .adm _ => false)) =
       true ∧
     (let t := (bare e).taken 0 (aj 0 e)
      t.queues.any (fun x => x.state != .destroyed && x.part == 1 && (match x.qid with | .io _ => true | .adm _ => false)) = false ∧
      (t.part 1).groups = [] ∧ (t.part 1).windows = [] ∧ t.chans.any (fun c => c.state != .free && c.owner == 1) = false)) ∧
    (let e := ent 0xA6 [(0x20, 1, 2)]
     srv (adm 0 e) 0 0xA6 0 (aj 0 e) .block oneByte = true ∧ srv (bare e) 0 0xA6 0 (aj 0 e) .block oneByte = true ∧
     (let held (t : State) : Bool :=
        (t.queues.any fun x => x.state != .destroyed && (match x.qid with | .io _ => true | .adm k => k != 0 && !x.open_.isEmpty)) ||
          (t.parts.any fun x => !x.groups.isEmpty) || (t.chans.any fun c => c.state != .free)
      held ((adm 0 e).taken 0 (aj 0 e)) = true ∧ held ((bare e).taken 0 (aj 0 e)) = false)) ∧
    waitOk 0 0xA5 .writes true = true ∧ waitOk 0 0xA6 .profile true = true ∧ waitOk 1 0x89 (.jobs [7]) false = true ∧ waitOk 1 0x89 (.jobs [8]) true = true ∧ waitOk 1 0x8B (.jobs []) true = true := by decide +kernel

/-! Paced channels. -/

def drainXlat : List Xlat := [{ route := 0x10, page := 0x10000, log2 := 12, addr := 0x70000 }, { route := 0x10, page := 0x2000, log2 := 12, addr := 0x71000 }]
def chans1 (x : Chan) : State := { chanState 1 [] x with jobs := [] }
def runner (ph : RunPhase) (disarm : Bool) : Chan :=
  { chan .running 1 with p := 2, c := 0, phase := ph, disarm, cfg := { State.cfgOf chanE with runLimit := 2 } , xlat := drainXlat }
def runOk (x : Chan) : Bool := decide ((chans1 x).runningChan 0 = some 0) && (chans1 x).pacerServes 0

theorem test_meets_PacedChannelsRun :
    (chans1 (chan .armed 1)).regsOpen = true ∧ (chans1 (chan .armed 1)).centralAsleep = false ∧
    (State.chanArmed (chan .armed 1) = true ∧ ((16 : Word32) - (chan .armed 1).c).toNat ≤ 2 ^ (chan .armed 1).cfg.log2 ∧
      State.chanArmed {} = false ∧ 2 ^ (chan .armed 1).cfg.log2 < ((17 : Word32) - (chan .armed 1).c).toNat) ∧
    (let x := { chan .armed 1 with p := 1 }; let s := chans1 x
     s.running = true ∧ (s.pacer 0).stopped = false ∧ (List.range 8).all (fun i => (s.chan i).state != .running) = true ∧
     (s.chan 0).eligible = true ∧ (List.range 8).all (fun i => i == 0 || !(s.chan i).eligible) = true ∧ s.spanFenced (s.chan 0).buffer = false) ∧
    (runOk (runner .ended false) = true ∧ (chans1 (runner .ended false)).chanWrites 0 = [] ∧
      ((chans1 (runner .ended false)).place 1 drainXlat (ap 0x2000) (leBytes 4 0)).isSome = true) ∧
    runOk (runner .consumer false) = true ∧ runOk (runner .consumer true) = true := by decide +kernel

theorem test_meets_PacedChannelsRun_inv : Inv (chans1 { chan .armed 1 with p := 1 }) := by
  constructor <;> decide +kernel

theorem test_meets_PacedChannelsRun_drain :
    let x := runner .draining false; let s := chans1 x; let c := x.cfg
    runOk x = true ∧ s.routeLost 1 (c.src.toNat / 2 ^ 56) = false ∧ s.routeLost 1 (c.dst.toNat / 2 ^ 56) = false ∧
    (s.keys 1 x.xlat (c.src.toNat + 0) 1024).isSome = true ∧ s.store.poison = [] ∧
    (s.place 1 x.xlat (c.dst.toNat + 0) (reshuffle c (List.replicate 1024 0))).isSome = true := by decide +kernel

/-- A pulse ends a run: the channel is ARMED again, and its line pulses. -/
theorem test_run_ends :
    let t := after (chans1 (runner .consumer false)) (.evtOutPulse 0)
    (t.chan 0).state = .armed ∧ (t.chan 0).runs = 1 ∧ t.block.out = [.evt 0] := by decide +kernel


/-! Registers, administrative queue registers, key port, test access port. -/

def slotPage (slot : Nat) : State :=
  { base with parts := [{}, { p1 with eventSlot := BitVec.ofNat 64 slot }] ++ List.replicate 7 {} }
def dozing : State := { base with central := { power := .deep } }

theorem test_meets_RegistersReadAndWriteByTheirRules :
    base.regsOpen = true ∧ base.centralAsleep = false ∧ base.reg64? 0x1010 = some 0 ∧ base.reg64? 0x180000 = none ∧
    base.writable64 0x100040 = true ∧ base.writable64 0x2018 = true ∧ base.defined 1 = true ∧ base.parts.length = 9 ∧
    base.slotCheck 1 (2 ^ 32 * 0 + 0x3000) 0 = true ∧ base.slotCheck 1 (2 ^ 32 * 1 + 0x3000) 0 = false ∧ (base.part 1).eventSlot = 0 ∧
    ((slotPage 0x3000).part 1).eventSlot ≠ 0 ∧ (slotPage 0x3000).slotCheck 1 0x3000 0 = true ∧ (slotPage 0x200000).slotCheck 1 0x200000 0 = false ∧
    base.prof.committed = true ∧ { base with prof := { committed := false } }.prof.committed = false ∧ 0x7F8 < 0x7FC ∧
    (dozing.regsOpen = true ∧ dozing.centralAsleep = true ∧ State.powerPage 0x10000 = false) ∧
    (let s := { base with units := modAt base.units 0x31 fun f => { f with incident := some { seq := 5, source := 8, cause := 2, step := 0, level := 5 } } }
     (s.unit 0x31).incident = some { seq := 5, source := 8, cause := 2, step := 0, level := 5 }) ∧
    ((8 : Word32).getLsbD 3 = true ∧ base.offBar = some 0x10 ∧ { base with queues := [] }.offBar = none) := by decide +kernel

theorem test_meets_RegistersReadAndWriteByTheirRules_inv : Inv { base with prof := { base.prof with committed := false } } := by
  constructor <;> decide +kernel

/-- The lower word goes to the shadow, the upper word sets the register; the read answers lower and latched upper word. -/
theorem test_64_bit_register :
    let t := after (after base (.registerWrite 0x2018 4 ⟨5, none⟩)) (.upperWordWrite 0x201C 1)
    t.central.wakeSpans = 0x100000005 ∧
    (after (after t (.lowerWordRead 0x2018)) (.registerRead 0x201C 4)).block.out = [.regData 0x201C 1, .regData 0x2018 5] := by decide +kernel

def aqS (p : Nat) (a : AQ) (qs : List Queue) : State :=
  { base with queues := qs, parts := modAt base.parts p fun x => { x with aq := a } }
def aqLegal (p : Nat) : AQ := { ring := BitVec.ofNat 64 (if p = 0 then 0x10000 else pool 0x1000), status := 0x3000, log2 := 4 }
def aqOk (p : Nat) (qs : List Queue) : Bool :=
  let s := aqS p (aqLegal p) qs; let a := (s.part p).aq
  s.regsOpen && !s.centralAsleep && s.defined (max p 1) && !a.busy && decide (a = aqLegal p) && !State.ringBad a.ring.toNat &&
  !State.statusBad a.status.toNat &&
  (p == 0 || (s.prof.committed && decide (s.rangesFail p 0 (State.queueRanges a.ring.toNat 4 a.status.toNat) = none)))
def a1q (st : QState) (o : List Word32 := []) : Queue := { a1 with state := st, open_ := o }

theorem test_meets_AdministrativeQueuesAreSetUp :
    ((aqS 1 { busy := true } []).part 1).aq.busy = true ∧
    (aqOk 0 [] = true ∧ (aqS 0 (aqLegal 0) []).live? (.adm 0) = none) ∧ (aqOk 1 [a0, a1] = true ∧ base.live? (.adm 1) ≠ none) ∧
    (aqOk 1 [a0] = true ∧ (aqS 1 (aqLegal 1) [a0]).live? (.adm 1) = none) ∧
    (let s := { aqS 1 (aqLegal 1) [a0] with prof := { base.prof with committed := false } }; s.prof.committed = false ∧ s.defined 1 = true) ∧
    (((aqS 1 {} []).part 1).aq.log2.toNat < 4) ∧
    (aqS 1 {} [a1q .active]).live? (.adm 1) = some (a1q .active) ∧ (aqS 1 {} [a1q .reset]).live? (.adm 1) = some (a1q .reset) ∧
    (aqS 1 {} [a1q .active [0]]).live? (.adm 1) = some (a1q .active [0]) ∧ (aqS 0 {} [a0]).live? (.adm 0) = some a0 ∧
    (aqS 0 {} [a0, q0]).queues.any (fun y => y.state != .destroyed && y.qid != .adm 0) = true := by decide +kernel

def keys1 (b : Option (Nat × Nat × Nat)) (jobs : List Job) : State :=
  { base with jobs, tables := { keys := [{ slot := 0, gcm := false, bytes := List.replicate 64 1, bound := b }] } }

theorem test_meets_KeyPortAndTestPortAct :
    base.tables.erasing = [] ∧ base.block.debugArmed = false ∧ { base with block := { debugArmed := true } }.block.debugArmed = true ∧
    base.slotPart 100 = 0 ∧ base.slotPart 0 = 1 ∧ crc32c (List.replicate 64 1) ≠ 0 ∧ base.keyOf 0 = none ∧
    ((List.replicate 64 (1 : Byte)).drop 32).any (· != 0) = true ∧
    ((keys1 (some (0, 0x20, 0x28)) []).keyOf 0).map (·.bound) = some (some (0, 0x20, 0x28)) ∧
    (keys1 (some (0, 0x20, 0x28)) []).slotJobs 0 = [] ∧
    (keys1 (some (0, 0x20, 0x28)) [job (viewEnt 1 0xA1 0x77 (exts [16])) 16 1 16384]).slotJobs 0 = [7] ∧
    base.block.testLock = false ∧ base.running = true ∧ base.prof.once = false ∧ ({ base with prof := { base.prof with once := true } } : State).running = true ∧
    State.reset.running = false := by decide +kernel

/-- A checked key is stored, and ACCEPTED. -/
theorem test_key_load :
    let k := List.replicate 64 (1 : Byte)
    let t := after base (.loadXts 0 (crc32c k) k)
    t.tables.keys = [{ slot := 0, gcm := false, bytes := k }] ∧ t.block.out = [.keyResp 0] := by decide +kernel


/-! Start-up, power, faults, resets. -/

/-- A sound copy: the bytes of an image and their CRC. -/
def copyOf (m : List Host.Cell) : List Byte := (List.range 0x7FC).map fun i => memGet m i 0
def sound (m : List Host.Cell) : List Byte := copyOf m ++ leBytes 4 (crc32c (copyOf m)).toNat
def image2 : List Host.Cell := image.map fun c => if c.1 = 0x14 then (0x14, 0x65) else c
def caps : Ports := { memReady := 0xFF, capacity := List.replicate 8 (2 ^ 30) }
def stacks8 : List (Nat × Nat) := (List.range 8).map fun n => (n, 2 ^ 30)
def booting (step : Nat) : State :=
  { base with block := { phase := .starting, step }, prof := { loadDue := true, loadCaps := stacks8 }, ports := caps, queues := [] }

theorem leNat_leBytes (n v : Nat) : leNat (leBytes n v) = v % 256 ^ n := by
  induction n generalizing v with
  | zero => simp [leBytes, leNat, Nat.mod_one]
  | succ n ih =>
    simp only [leBytes, leNat, ih, BitVec.toNat_ofNat]
    rw [show 2 ^ 8 = 256 from rfl, Nat.pow_succ', Nat.mod_mul]

theorem sound_ok {s : State} {m : List Host.Cell} (h1 : headerOk (sound m) s.prof.selected.toNat = true)
    (h2 : limitsOk (sound m) (s.smallestCap (u8 (sound m) 0x0D)) = true) (h3 : divisionOk (sound m) s.testFenced = true) :
    s.copyFail (some (sound m)) = 0 := by
  have hl : (copyOf m).length = 0x7FC := by simp [copyOf]
  have ht : (sound m).take 0x7FC = copyOf m := by rw [sound, List.take_append_of_le_length (by omega), List.take_of_length_le (by omega)]
  have hu : u32 (sound m) 0x7FC = (crc32c (copyOf m)).toNat := by
    have h4 := leBytes_length 4 (crc32c (copyOf m)).toNat
    simp only [u32, field, sound]
    rw [List.drop_append_of_le_length (by omega), List.drop_of_length_le (by omega), List.nil_append, List.take_of_length_le (by omega),
      leNat_leBytes]
    exact Nat.mod_eq_of_lt (crc32c (copyOf m)).isLt
  simp [State.copyFail, ht, hu, h1, h2, h3]

theorem test_meets_StartUpAndProfilesFollowTheirTable :
    (State.reset.block.phase = .held ∧ State.reset.block.vinLow = false ∧ { State.reset with block := { vinLow := true } }.block.phase = .held) ∧
    ((booting 2).block.phase = .starting ∧ (booting 2).block.step < 3 ∧ 0 < (booting 2).block.step ∧ (booting 2).resetDrained = true) ∧
    ((booting 5).prof.loadDue = true ∧ (booting 5).block.step = 5 ∧ (booting 5).prof.failedA = false ∧ (booting 5).prof.failedB = false) ∧
    (booting 5).copyFail (some []) ≠ 0 ∧ Memory.wf base.store := by decide +kernel

theorem test_meets_StartUpAndProfilesFollowTheirTable_copies :
    (booting 5).readyStacks = stacks8 ∧ (booting 5).copyFail (some (sound image)) = 0 ∧ (booting 5).copyFail (some (sound image2)) = 0 ∧ sound image ≠ sound image2 :=
  ⟨by decide +kernel, sound_ok (by decide +kernel) (by decide +kernel) (by decide +kernel), sound_ok (by decide +kernel) (by decide +kernel) (by decide +kernel),
    fun h => absurd (congrArg (fun b => u8 b 0x14) h) (by decide +kernel)⟩

/-- Before commit, with a window of the given bytes. -/
def uncommitted (img : List Host.Cell) : State := { base with prof := { loaded := true, image := img, loadCaps := stacks8 }, ports := caps, queues := [] }

theorem test_meets_StartUpAndProfilesFollowTheirTable_commit :
    (let s := uncommitted []; s.running = true ∧ s.centralAsleep = false ∧ s.prof.committed = false ∧ s.prof.loaded = true ∧ s.commitOk = false) ∧
    (uncommitted image).commitOk = true := by decide +kernel

theorem test_meets_StartUpAndProfilesFollowTheirTable_inv : Inv (booting 2) := by
  constructor <;> decide +kernel

/-- Eight spans of partition 1, with every bank retained, and nothing pending. -/
def wideImage : List Host.Cell :=
  image.filter (·.1 < 0x40) ++ ((List.range 8).map fun i => (0x40 + i, 1)) ++
  ((List.range 16).map fun i => (0x80 + i, if i % 2 = 0 then 0x0F else 0xFF)) ++ image.filter (0xD0 ≤ ·.1)
def wide : State := { base with prof := { base.prof with image := wideImage }, queues := [] }
def inPower (p : PState) (n : Nat) (f : Span → Span := id) : State := wide.modSpan n fun x => f { x with power := p, deepEnable := true, deepDwell := 5 }
def vote (floor : Nat) (s : State) : State := s.modPart 1 fun x => { x with votes := [{ holder := 3, floor, mask := 0xFF }] }

theorem test_meets_DomainsDescendAndRise :
    (wide.canDescend 0 .idle = true ∧ (wide.span 0).sleepDwell ≠ 0 ∧ wide.floorOn 0 = none ∧
      (vote 2 wide).canDescend 0 .idle = true ∧ (vote 2 wide).floorOn 0 = some (2, 3) ∧ (vote 1 wide).canDescend 0 .idle = true ∧
      (vote 1 wide).floorOn 0 = some (1, 3)) ∧
    (let s := inPower .sleep 0
     s.canDescend 0 .sleep = true ∧ (s.span 0).deepDwell ≠ 0 ∧ (s.span 0).deepEnable = true ∧ s.floorOn 0 = none ∧
     State.estUa (s.deepUnits (some 0) false) 100 ≤ 480000 ∧ (vote 2 s).floorOn 0 = some (2, 3) ∧ (vote 2 s).canDescend 0 .sleep = true ∧
     (let t := (List.range 8).foldl (fun (z : State) n => if n = 0 then z else z.modSpan n fun x => { x with power := .deep }) s
      t.canDescend 0 .sleep = true ∧ t.floorOn 0 = none ∧ 480000 < State.estUa (t.deepUnits (some 0) false) 101)) ∧
    (let s := { wide with central := { deepEnable := true, dwell := 3 } }
     s.running = true ∧ s.central.power = .run ∧ s.central.trans = none ∧ s.central.deepEnable = true ∧ s.central.dwell ≠ 0 ∧
     s.centralBar 25 = some 0x16 ∧
     ({ s with parts := List.replicate 9 {}, spans := s.spans.map fun x => { x with power := .deep } } : State).centralBar 25 = none) ∧
    (inPower .idle 0 fun x => { x with trans := some .toSleep }).span 0 = { wide.span 0 with trans := some .toSleep, deepEnable := true, deepDwell := 5 } ∧
    ((inPower .sleep 0 fun x => { x with trans := some .toDeep }).span 0).trans = some .toDeep ∧
    { wide with central := { trans := some .toDeep } }.central.trans = some .toDeep ∧
    (wide.block.refClk = true ∧ ((inPower .sleep 0 fun x => { x with trans := some .exitSleep }).span 0).trans = some .exitSleep ∧
      { wide with block := { refClk := false } }.block.refClk = false) ∧
    (let s (m : Bool) := inPower .sleep 0 fun x => { x with trans := some .exitSleep, missed := m }
     ((s true).span 0).missed = true ∧ ((s false).span 0).missed = false ∧ 2 ∈ State.spanSteps ((s true).span 0) ∧
       2 ∈ State.spanSteps ((s false).span 0) ∧ (s true).spanFenced 0 = false ∧ (s true).lastSpan 0 = false) ∧
    0 < wide.spans.length := by decide +kernel

def leState (armed : Bool) (owner : Bool) : State :=
  { base with central := { leArmed := armed }, prof := { base.prof with image := image.map fun c => if c.1 = 8 then (8, if owner then 3 else 1) else c } }

theorem test_meets_WakesSupplyAndClocksAct :
    (let s := { base with central := { wakeTimer := 4 } }; s.inService = true ∧ s.central.wakeTimer ≠ 0) ∧
    { base with block := { phase := .off } }.block.phase = .off ∧
    ((leState true false).inService = true ∧ (leState true false).leThresh ≠ 0 ∧ (leState true false).leOwner = false ∧
      (leState false true).leThresh ≠ 0 ∧ (leState false true).leOwner = true ∧ (leState true true).leOwner = true ∧
      (leState false false).leOwner = false ∧ 25 * (leState true true).leThresh ≤ 2 * 63 ∧ ¬25 * (leState true true).leThresh ≤ 2 * 62 ∧
      2 * 37 ≤ 25 * (leState true true).leThresh - 50 ∧ ¬2 * 38 ≤ 25 * (leState true true).leThresh - 50) ∧
    (dozing.central.power = .deep ∧ dozing.inService = true ∧ dozing.someDeep = true ∧ dozing.retCentral ≠ 0 ∧ bitOf dozing.retCentral 0 = true ∧ dozing.block.refClk = true) ∧
    { base with block := { phase := .running, offEntry := true } }.block.offEntry = true ∧
    (base.running = true ∧ base.quads.all (fun x => x.change.isNone) = true ∧ base.lowerable = none ∧
      (let s := { base with quads := [⟨0, none⟩, ⟨1, none⟩, ⟨2, none⟩, ⟨2, none⟩] }; s.lowerable = some 0) ∧
      base.raisable = some 0 ∧ 0 < base.powerCap * 900) ∧
    ({ base with quads := [⟨2, some 1⟩] } : State).quads.getD 0 {} = ⟨2, some 1⟩ ∧
    (base.block.refClk = true ∧ base.inService = true ∧ base.central.power ≠ .deep ∧ 0x31 < base.units.length ∧
      (base.unit 0x31).incident = none) ∧
    ({ base with block := { refClk := false, refLoss := true } }.block.refLoss = true) := by decide +kernel

def thr (t : Nat) : State := base.modUnit 0 fun f => { f with policy := BitVec.ofNat 32 (t + 2 ^ 16 * 8) }
def incident8 (u : Nat) : State := base.modUnit u fun f => { f with incident := some { seq := 1, source := 8, cause := 1, step := 0, level := 3 } }
def levels1 (sc : Scope) : State := { base with levels := [{ id := 4, scope := sc }] }

theorem test_meets_FaultsAndResetsAct :
    (base.keeperRuns = true ∧ base.irq 0 = false ∧
      (let s := base.modUnit 0 fun f => { f with sources := f.sources.set 1 { sticky := true } }; s.keeperRuns = true ∧ s.irq 0 = true)) ∧
    (bitOf (presentMask 0) 1 = true ∧ (base.unit 0).sources.length = 16 ∧
      State.policyFor (base.unit 0) 1 = { thr := 0, log2 := 0 } ∧ State.policyFor ((thr 1).unit 0) 1 = { thr := 1, log2 := 8 } ∧
      (((thr 1).unit 0).sources.getD 1 {}).latched = false ∧ (satAdd 8 (((thr 1).unit 0).sources.getD 1 {}).count 1).toNat = 1) ∧
    (let s := base.modUnit 0 fun f => { f with sources := f.sources.set 1 { window := some ⟨2, 8⟩, count := 1 } }
     ((s.unit 0).sources.getD 1 {}).window = some ⟨2, 8⟩) ∧
    (base.regsOpen = true ∧ base.centralAsleep = false ∧ policyLegal 0x01164004 = true ∧ policyLegal (1 * 2 ^ 16) = false ∧
      State.injectValue 0x40 0x60001 = some 0x60001 ∧ State.injectValue 0x40 7 = none) ∧
    (base.running = true ∧ base.keeper.frozen = false ∧ base.block.pwrcyc = false ∧ { base with keeper := { frozen := true } }.keeper.frozen = true) ∧
    ((incident8 3).unit 3).incident = some { seq := 1, source := 8, cause := 1, step := 0, level := 3 } ∧
    ((levels1 (.span 0)).levels.find? (·.id == 4) = some { id := 4, scope := .span 0 } ∧ (levels1 (.span 0)).levelDone { id := 4, scope := .span 0 } = true ∧
      (levels1 (.span 0)).spanOwner 0 ≠ 0 ∧ (levels1 .power).levels.any (fun l => l.scope == .power) = true ∧
      (levels1 .power).levelDone { id := 4, scope := .power } = false) ∧
    (let s := base.modSpan 0 fun x => { x with swap := some (.core, 4) }
     (s.span 0).swap = some (.core, 4) ∧ (s.span 0).suspended = false ∧ (s.spareOf 0 .core).isSome = true ∧
     s.killedQuiet ((s.spanThreads 0).map fun t => (t.1, t.2.tile)) = true) ∧
    (let s := base.modSpan 0 fun x => { x with swap := some (.pipe, 1) }; (s.span 0).swap = some (.pipe, 1) ∧ (s.spareOf 0 .pipe).isSome = true) ∧
    (let s := base.modSpan 0 fun x => { x with swapsDue := [(.core, 5)] }
     (s.span 0).swapsDue = [(.core, 5)] ∧ s.elemActive 0 .core 5 = true ∧ (s.spareOf 0 .core).isSome = true ∧ (base.span 0).swapsDue = []) := by
  decide +kernel

/-- A second core that fails while a swap drains is swapped after it (18 R419). -/
theorem test_swap_follows :
    (let s := (base.modSpan 0 fun x => { x with swap := some (.core, 4) }).beginSwap 0 .core 5
     let t := after s (.swapComplete 0)
     (s.span 0).swapsDue = [(.core, 5)] ∧ (t.span 0).swap = some (.core, 5) ∧ (t.span 0).swapsDue = [] ∧
       (t.span 0).cores.getD 4 .fenced = .spare ∧ (t.span 0).cores.getD 30 .fenced = .active) := by
  decide +kernel


/-! The spec's own worked numbers. -/

/-- The check value of CRC-32C, the seal of R221: the nine digits give 0xE3069283 (the standard's own check value). -/
theorem test_crc32c_check_value : crc32c [0x31, 0x32, 0x33, 0x34, 0x35, 0x36, 0x37, 0x38, 0x39] = 0xE3069283 := by decide +kernel

/-- The queue of 03's example under R85: 16 slots, A = 0xFFFFFFFC, H = 0xFFFFFFF8, only 0xFFFFFFF5 still running. -/
def ringExample : State :=
  { base with queues := [a0, a1, { q0 with head := 0xFFFFFFF8, tail := 0xFFFFFFFC, open_ := [0xFFFFFFF5] }] }

/-- State, code, detail, index and tail of the example's queue after a doorbell. -/
def rung (t : Word32) : Option (Bool × Byte × Word16 × Word32 × Word32) :=
  ((after ringExample (.doorbell 0x10040 4 t)).queue? (.io 0)).map fun x => (x.state == .error, x.errCode, x.errDetail, x.errIndex, x.tail)

theorem test_doorbell_example_rows_1_and_4 :
    (rung 4).map (·.2.2.2.2) = some 4 ∧ (rung 0xFFFFFFFA).map (fun x => (x.1, x.2.2.2.2)) = some (false, 0xFFFFFFFC) := by decide +kernel

theorem test_doorbell_example_refusals :
    (rung 8).map (fun x => (x.1, x.2.1, x.2.2.1, x.2.2.2.1)) = some (true, 0xF1, 2, 0xFFFFFFF5) ∧
    (rung 9).map (fun x => (x.1, x.2.1, x.2.2.1)) = some (true, 0xF1, 1) ∧
    (rung 0xFFFFFFF8).map (fun x => (x.1, x.2.1, x.2.2.1)) = some (true, 0xF1, 1) := by decide +kernel

/-- 02's example under R51: offset 0x1_2345_6780 of route 0x20 goes to MP6. -/
theorem test_pool_offset_example : State.interleave 0x123456780 = (6, 0x2468A780) := by decide +kernel

/-- 04's example under R114: RATE 625 adds 320,000 units a refill; BURST 1,024 is 4 MiB of 25 units a byte. -/
theorem test_refill_example :
    (State.refill { q0 with shaper := { rate := 625, burst := 1024 }, tokens := -104857600 }).tokens = -104537600 ∧
    State.bucketCap { rate := 625, burst := 1024 } = 104857600 := by decide +kernel

/-- 01's example under R33: a BF16 MOVE has tiles of 8,192 elements. -/
theorem test_tile_example : Entry.tileLen (ent 1 [(0x90, 1, 0x22)]) none = 8192 ∧ ceilDiv 12587000 8192 = 1537 := by decide +kernel

/-- 07's example under R159: weight 21 of the EX4 leaf is 0xC040. -/
theorem test_ex4_example :
    ex4Weight (List.replicate 21 0 ++ 0xC0 :: List.replicate 1009 0 ++ [0x50, 0x2A]) (List.replicate 0xA94 0 ++ [0x7C, 0x80, 0x7F, 0x00]) 21 = 0xC040 := by
  decide +kernel

/-- 08's example under R200: next shifts of rows A to F, and the record's base and offsets. -/
theorem test_carried_example :
    (let e := ent 1 [(0x90, 1, 0x62)]
     [(100, 0), (300, 0), (20, 0), (10000, 0), (13421773, -27), (0, 0)].map (State.carriedNext e 0)) =
      [some 0, some 2, some (-1), none, none, some 0] ∧
    (State.formRecord 0 [some 0, some 2, some (-1), none, none, some 0] 0).base = 115 ∧
    (State.formRecord 0 [some 0, some 2, some (-1), none, none, some 0] 0).offs = [12, 14, 11, 15, 15, 12] := by decide +kernel

/-- 09's example under R216: element 9 of streams 1 and 0 sits at 21 and 17. -/
theorem test_interleave_example :
    (let v : View := { addr := 0, c := 0, w := 8, head := 0, tail := 0, stride := [], ext := [64, 2], inter := some (1, 4) }
     (v.runPos [9, 1], v.runPos [9, 0])) = (21, 17) := by decide +kernel

/-- 09's example under R218: the four bits of element 13 lie at bit 5 of bytes r + 1, r + 17, r + 33 and r + 49. -/
theorem test_plane_example :
    (let v : View := { addr := 0, c := 0, w := 4, head := 0, tail := 0, stride := [], ext := [128], plane := some 16 }
     v.bits [13] none) = [1 * 8 + 5, 17 * 8 + 5, 33 * 8 + 5, 49 * 8 + 5] := by decide +kernel

/-- 11's example under R246 and R247: CB, RB and a part of the slot area. -/
def sizes : Group :=
  { g := 0, tag := 0, m := 8, inT := 2, outT := 0, chunkElems := 65536, epochChunks := 64, slotDepth := 2, timeout := 0, pd := 0, slotArea := 0, members := [] }

theorem test_group_size_example :
    State.chunkBytes sizes = 131072 ∧ State.resultBytes sizes = 262208 ∧ State.slotPartBytes sizes = 4194816 := by decide +kernel

/-- 11's example under R257: 16,777,216 + 1 + 1 in FP32 mode, with EXACT, and with EXACT and a BF16 result. -/
theorem test_reduce_example :
    (State.reduceElem { sizes with m := 3 } false [0x4B80, 0x3F80, 0x3F80]).1 = 0x4B800000 ∧
    (State.reduceElem { sizes with m := 3 } true [0x4B80, 0x3F80, 0x3F80]).1 = 0x4B800001 ∧
    (State.reduceElem { sizes with m := 3, outT := 2 } true [0x4B80, 0x3F80, 0x3F80]).1 = 0x4B80 := by decide +kernel

/-- 11's example under R270: the routes of t0 to t3 with C = 2, and the drop map 0x90. -/
theorem test_dispatch_example :
    State.assignRows 2 [1, 3, 1, 0, 1, 2, 3, 1] [] =
      [.row 0, .row 0, .row 1, .row 0, .drop, .row 0, .row 1, .drop] ∧
    State.dropMap (State.assignRows 2 [1, 3, 1, 0, 1, 2, 3, 1] []) = [0x90] := by decide +kernel

/-- 11's example under R272: gates 0.75 and 0.25 over 2.0 and -1.0 give 1.25. -/
theorem test_combine_example :
    f32bits (f32fma (fp32.decode 0x3E800000) (fp32.decode 0xBF800000) (f32fma (fp32.decode 0x3F400000) (fp32.decode 0x40000000) f32zero)) =
      0x3FA00000 := by decide +kernel

/-! WellFormed: an ill-formed command for each check, refused; and commands at the ends of the ranges, accepted. -/

theorem test_wf_queues :
    (Instr.entryFetch (.io 4096)).wf = false ∧ (Instr.entryFetch (.adm 9)).wf = false ∧ (Instr.ringUnreadable (.io 4096) .poison).wf = false ∧
    (Instr.createQueue 9).wf = false ∧ (Instr.create 9).wf = false ∧
    (Instr.entryFetch (.io 4095)).wf = true ∧ (Instr.createQueue 8).wf = true := by decide

theorem test_wf_ports :
    (Instr.creditGrant (.mp 8) true).wf = false ∧ (Instr.creditGrant (.ap 8) true).wf = false ∧ (Instr.creditGrant (.tp 16) true).wf = false ∧
    (Instr.creditGrant (.vp 2) true).wf = false ∧ (Instr.portWriteResponse .host 8192 .okay).wf = false ∧
    (Instr.portRequestTimeout .host .unknown 8192).wf = false ∧ (Instr.linkDown .host).wf = false ∧ (Instr.linkDown (.tp 16)).wf = false ∧
    (Instr.linkDown (.vp 2)).wf = false ∧ (Instr.viaductLinkUp 2 0 0).wf = false ∧ (Instr.viaductLinkUp 0 8 0).wf = false ∧
    (Instr.viaductLinkUp 0 0 2).wf = false ∧ (Instr.deckFlood [⟨8, none, none⟩] false).wf = false ∧ (Instr.memoryPortReady 8 0).wf = false ∧
    (Instr.creditGrant (.tp 15) false).wf = true ∧ (Instr.viaductLinkUp 1 7 1).wf = true := by decide

theorem test_wf_partitions_and_spans :
    (Instr.admitJob 0).wf = false ∧ (Instr.admitJob 9).wf = false ∧ (Instr.eventSlot 0 0).wf = false ∧ (Instr.tileRequest 40 0 1).wf = false ∧
    (Instr.tileRequest 0 0 0).wf = false ∧ (Instr.tileRequest 0 0 65).wf = false ∧ (Instr.powerEntryDone (.span 40)).wf = false ∧
    (Instr.powerStepTimeout .central 0).wf = false ∧ (Instr.powerStepTimeout .central 12).wf = false ∧ (Instr.startupStepTimeout 0).wf = false ∧
    (Instr.startupStepTimeout 8).wf = false ∧ (Instr.operatingPointDone 4).wf = false ∧ (Instr.linkEnergy 801).wf = false ∧ (Instr.linkEnergy 800).wf = true ∧ (Instr.stagingRead 40 0).wf = false ∧
    (Instr.stagingRead 0 0x200000).wf = false ∧ (Instr.windowReady 1 128).wf = false ∧ (Instr.windowReady 9 0).wf = false ∧
    (Instr.connOpen 0 0 0).wf = false ∧ (Instr.connOpen 0 1 16).wf = false ∧ (Instr.connOpen (2 ^ 32) 1 0).wf = false ∧
    (Instr.connClose (2 ^ 32)).wf = false ∧ (Instr.deckAccess 8 0 1 true 0 [] 0).wf = false ∧ (Instr.deckAccess 0 8 1 true 0 [] 0).wf = false ∧
    (Instr.deckAccess 0 0 1 true (2 ^ 56) [] 0).wf = false ∧ (Instr.deckAccess 0 0 9 true 0 [] 0).wf = false ∧
    (Instr.admitJob 8).wf = true ∧ (Instr.tileRequest 39 0 64).wf = true ∧ (Instr.powerStepTimeout .central 11).wf = true := by decide

theorem test_wf_units_and_contexts :
    (Instr.statusRead 96).wf = false ∧ (Instr.faultStatusClear 96 ⟨0, none⟩).wf = false ∧ (Instr.faultEvent 0 16 {}).wf = false ∧
    (Instr.faultWindowExpiry 0 16).wf = false ∧ (Instr.faultEvent 0 0 { part := some 9 }).wf = false ∧
    (Instr.faultEvent 0 0 { bank := some (.staging 8) }).wf = false ∧ (Instr.faultEvent 0 0 { bank := some (.table 32) }).wf = false ∧
    (Instr.faultEvent 0 0 { bank := some (.work 32) }).wf = false ∧ (Instr.faultEvent 0 0 { bank := some (.codebook 8) }).wf = false ∧
    (Instr.faultStatusClear 0 ⟨0, some (.fault 96 0 {})⟩).wf = false ∧ (Instr.faultSevereClear 0 ⟨0, some (.wake 5)⟩).wf = false ∧
    (Instr.registerWrite 0 4 ⟨0, some (.profile 3)⟩).wf = false ∧ (Instr.faultStatusClear 0 ⟨0, some (.fault 95 15 {})⟩).wf = true ∧ (Instr.faultEvent 0 0 { core := some 32 }).wf = false ∧
    (Instr.faultEvent 0 0 { queue := some (.adm 9) }).wf = false ∧ (Instr.faultEvent 0 0 { element := some (.pipe, 5) }).wf = false ∧
    (Instr.faultEvent 0 0 { element := some (.core, 32) }).wf = false ∧ (Instr.faultEvent 0 0 { element := some (.lane, 18) }).wf = false ∧
    (Instr.faultEvent 0 0 { element := some (.sorting, 1) }).wf = false ∧ (Instr.contextCollection 96 true).wf = false ∧
    (Instr.incidentWord0Read 16).wf = false ∧ (Instr.faultEvent 95 15 { core := some 31, element := some (.lane, 17) }).wf = true := by decide

theorem test_wf_accesses :
    (Instr.doorbell 0x100000 4 0).wf = false ∧ (Instr.doorbell 0 3 0).wf = false ∧ (Instr.registerWrite 0x400000 4 ⟨0, none⟩).wf = false ∧
    (Instr.registerRead 0x500000 4).wf = false ∧ (Instr.registerRead 0 16).wf = false ∧ (Instr.lowerWordRead 0x400000).wf = false ∧
    (Instr.lowerWordRead 2).wf = false ∧ (Instr.upperWordWrite 2 0).wf = false ∧ (Instr.profileWindowWrite 0x800 0).wf = false ∧
    (Instr.profileWindowWrite 2 0).wf = false ∧ (Instr.translationResponse 0x18 0 .unknown .abort).wf = false ∧
    (Instr.translationResponse 0 (2 ^ 56) .unknown .abort).wf = false ∧ (Instr.translationTimeout 0 1 .unknown).wf = false ∧
    (Instr.doorbell 0xFFFFC 4 0).wf = true ∧ (Instr.registerRead 0x4FFFFC 4).wf = true ∧ (Instr.translationTimeout 0x17 4096 .unknown).wf = true := by
  decide

theorem test_wf_channels :
    (Instr.producer 64 0).wf = false ∧ (Instr.flushSet 64 0).wf = false ∧ (Instr.runStart 8).wf = false ∧ (Instr.recordDrained 8).wf = false ∧
    (Instr.runEnd 8).wf = false ∧ (Instr.evtOutPulse 8).wf = false ∧ (Instr.producer 63 0).wf = true ∧ (Instr.runStart 7).wf = true := by decide

theorem test_wf_payloads :
    (Instr.inboundWrite 0 32 (List.replicate 64 0)).wf = false ∧ (Instr.inboundWrite 0 0 (List.replicate 32 0)).wf = false ∧
    (Instr.inboundWrite 0 0 []).wf = false ∧ (Instr.inboundWrite 0 4032 (List.replicate 128 0)).wf = false ∧
    (Instr.inboundRead 0 0 0).wf = false ∧ (Instr.inboundRead 0 192 2).wf = false ∧ (Instr.inboundRead 0 32 1).wf = false ∧
    (Instr.inboundMessage (.deck 8) (.close 0 0)).wf = false ∧ (Instr.inboundMessage (.conn (2 ^ 32)) (.close 0 0)).wf = false ∧
    (Instr.loadXts (2 ^ 16) 0 (List.replicate 64 0)).wf = false ∧ (Instr.loadGcm 0 0 (List.replicate 63 0)).wf = false ∧
    (Instr.erase ⟨2 ^ 16, 3⟩).wf = false ∧ (Instr.erase ⟨0, 1⟩).wf = false ∧ (Instr.erase ⟨0, 9⟩).wf = true ∧ (Instr.keypathTest true [] [] []).wf = false ∧ (Instr.profileLoad (some [0], none) ⟨0, true⟩).wf = false ∧
    (Instr.inboundWrite 0 4032 (List.replicate 64 0)).wf = true ∧ (Instr.inboundRead 0 0 4).wf = true ∧
    (Instr.loadXts 0 0 (List.replicate 64 0)).wf = true := by decide +kernel


end Sys2Proof.Tests
end

/-! What every command does, whatever its family: it answers a next state, in which the queue of waiting commands stands and the
invariant is kept. -/

namespace Sys2Proof.Proofs

open Sys2Proof Sys2Proof.Machine Sys2Proof.Laws

/-- Whatever parts of the state a meaning stays within, it keeps the queue and the invariant. -/
theorem answers_keeps_of_within {l : List Field} {s : State} {o : Host.Outcome State Fault Refusal}
    (h : ∃ t, o = .next t ∧ Within l s t) : ∃ t, o = .next t ∧ Keeps s t := by
  obtain ⟨t, hnext, hwithin⟩ := h
  exact ⟨t, hnext, hwithin.keeps⟩

/-- No command ends in a fault or a refusal: an entry that breaks a rule is completed with a code (00 R7), and a command whose conditions
do not hold leaves the state as it is. The lemma of each command's meaning gives its next state. -/
theorem exec_answers_keeps (c : Instr) (s : State) : ∃ t, exec c s = .next t ∧ Keeps s t := by
  cases c with
  | doorbell => exact answers_keeps_of_within (within_execDoorbell _ _ _ _)
  | doorbellCapture => exact answers_keeps_of_within (within_execDoorbellCapture _ _ _ _)
  | entryFetch => exact answers_keeps_of_within (within_execEntryFetch _ _)
  | ringUnreadable => exact answers_keeps_of_within (within_execRingUnreadable _ _ _)
  | admitJob => exact answers_keeps_of_within (within_execAdmitJob _ _)
  | tokenRefill => exact answers_keeps_of_within (within_execTokenRefill _)
  | tileRequest => exact answers_keeps_of_within (within_execTileRequest _ _ _ _)
  | threadRetire => exact answers_keeps_of_within (within_execThreadRetire _ _ _)
  | completionRecordWrite => exact answers_keeps_of_within (within_execCompletionRecordWrite _ _)
  | doneWrite => exact answers_keeps_of_within (within_execDoneWrite _ _)
  | doneAnswered => exact answers_keeps_of_within (within_execDoneAnswered _ _)
  | jobTimeout => exact answers_keeps_of_within (within_execJobTimeout _ _)
  | move => exact answers_keeps_of_within (within_execMove _ _ _)
  | gather => exact answers_keeps_of_within (within_execGather _ _ _)
  | scatter => exact answers_keeps_of_within (within_execScatter _ _ _)
  | indexPass => exact answers_keeps_of_within (within_execIndexPass _ _)
  | stats => exact answers_keeps_of_within (within_execStats _ _ _)
  | contribute => exact answers_keeps_of_within (within_execContribute _ _)
  | reduce => exact answers_keeps_of_within (within_execReduce _ _ _)
  | collect => exact answers_keeps_of_within (within_execCollect _ _)
  | dispatch => exact answers_keeps_of_within (within_execDispatch _ _)
  | combine => exact answers_keeps_of_within (within_execCombine _ _ _)
  | tariff => exact answers_keeps_of_within (within_execTariff _ _ _)
  | barrier => exact answers_keeps_of_within (within_execBarrier _ _)
  | groupBarrier => exact answers_keeps_of_within (within_execGroupBarrier _ _)
  | fill => exact answers_keeps_of_within (within_execFill _ _ _)
  | sealCheck => exact answers_keeps_of_within (within_execSealCheck _ _ _)
  | nop => exact answers_keeps_of_within (within_execNop _ _)
  | histogramBuild => exact answers_keeps_of_within (within_execHistogramBuild _ _)
  | folioEntryWrite => exact answers_keeps_of_within (within_execFolioEntryWrite _ _)
  | conversionPass => exact answers_keeps_of_within (within_execConversionPass _ _)
  | resendRedo => exact answers_keeps_of_within (within_execResendRedo _ _ _)
  | portWriteResponse => exact answers_keeps_of_within (within_execPortWriteResponse _ _ _ _)
  | portReadData => exact answers_keeps_of_within (within_execPortReadData _ _ _ _ _ _ _)
  | portRequestTimeout => exact answers_keeps_of_within (within_execPortRequestTimeout _ _ _ _)
  | hostWriteError => exact answers_keeps_of_within (within_execHostWriteError _)
  | translationResponse => exact answers_keeps_of_within (within_execTranslationResponse _ _ _ _ _)
  | translationTimeout => exact answers_keeps_of_within (within_execTranslationTimeout _ _ _ _)
  | createQueue => exact answers_keeps_of_within (within_execCreateQueue _ _)
  | destroyQueue => exact answers_keeps_of_within (within_execDestroyQueue _ _)
  | cancelQueue => exact answers_keeps_of_within (within_execCancelQueue _ _)
  | resumeQueue => exact answers_keeps_of_within (within_execResumeQueue _ _)
  | resetQueue => exact answers_keeps_of_within (within_execResetQueue _ _)
  | setShaper => exact answers_keeps_of_within (within_execSetShaper _ _)
  | createRegion => exact answers_keeps_of_within (within_execCreateRegion _ _)
  | destroyRegion => exact answers_keeps_of_within (within_execDestroyRegion _ _)
  | openWindow => exact answers_keeps_of_within (within_execOpenWindow _ _)
  | closeWindow => exact answers_keeps_of_within (within_execCloseWindow _ _)
  | createGroup => exact answers_keeps_of_within (within_execCreateGroup _ _)
  | destroyGroup => exact answers_keeps_of_within (within_execDestroyGroup _ _)
  | bindKey => exact answers_keeps_of_within (within_execBindKey _ _)
  | unbindKey => exact answers_keeps_of_within (within_execUnbindKey _ _)
  | claimCbset => exact answers_keeps_of_within (within_execClaimCbset _ _)
  | releaseCbset => exact answers_keeps_of_within (within_execReleaseCbset _ _)
  | setupChannel => exact answers_keeps_of_within (within_execSetupChannel _ _)
  | armChannel => exact answers_keeps_of_within (within_execArmChannel _ _)
  | disarmChannel => exact answers_keeps_of_within (within_execDisarmChannel _ _)
  | releaseChannel => exact answers_keeps_of_within (within_execReleaseChannel _ _)
  | rearmPacer => exact answers_keeps_of_within (within_execRearmPacer _ _)
  | vote => exact answers_keeps_of_within (within_execVote _ _)
  | readHealth => exact answers_keeps_of_within (within_execReadHealth _ _)
  | fence => exact answers_keeps_of_within (within_execFence _ _)
  | swapSpare => exact answers_keeps_of_within (within_execSwapSpare _ _)
  | reset => exact answers_keeps_of_within (within_execReset _ _)
  | scrubPartition => exact answers_keeps_of_within (within_execScrubPartition _ _)
  | switchProfile => exact answers_keeps_of_within (within_execSwitchProfile _ _)
  | commandCompletes => exact answers_keeps_of_within (within_execCommandCompletes _ _)
  | contributionArrival => exact answers_keeps_of_within (within_execContributionArrival _ _)
  | resendRequest => exact answers_keeps_of_within (within_execResendRequest _ _)
  | reRequest => exact answers_keeps_of_within (within_execReRequest _ _)
  | groupWaitTimeout => exact answers_keeps_of_within (within_execGroupWaitTimeout _ _)
  | ready => exact answers_keeps_of_within (within_execReady _ _)
  | closeLetter => exact answers_keeps_of_within (within_execCloseLetter _ _)
  | closeLetterRepeat => exact answers_keeps_of_within (within_execCloseLetterRepeat _ _ _)
  | epochTimeout => exact answers_keeps_of_within (within_execEpochTimeout _ _ _)
  | abortLetter => exact answers_keeps_of_within (within_execAbortLetter _ _)
  | deckBarrierArrival => exact answers_keeps_of_within (within_execDeckBarrierArrival _ _)
  | producer => exact answers_keeps_of_within (within_execProducer _ _ _)
  | flushSet => exact answers_keeps_of_within (within_execFlushSet _ _ _)
  | runStart => exact answers_keeps_of_within (within_execRunStart _ _)
  | recordDrained => exact answers_keeps_of_within (within_execRecordDrained _ _)
  | runEnd => exact answers_keeps_of_within (within_execRunEnd _ _)
  | evtOutPulse => exact answers_keeps_of_within (within_execEvtOutPulse _ _)
  | commit => exact answers_keeps_of_within (within_execCommit _ _)
  | profileWindowWrite => exact answers_keeps_of_within (within_execProfileWindowWrite _ _ _)
  | create => exact answers_keeps_of_within (within_execCreate _ _)
  | contextReset => exact answers_keeps_of_within (within_execContextReset _ _)
  | resume => exact answers_keeps_of_within (within_execResume _ _)
  | destroy => exact answers_keeps_of_within (within_execDestroy _ _)
  | offReq => exact answers_keeps_of_within (within_execOffReq _ _)
  | wakeTimer => exact answers_keeps_of_within (within_execWakeTimer _ _)
  | timerWake => exact answers_keeps_of_within (within_execTimerWake _)
  | faultStatusClear => exact answers_keeps_of_within (within_execFaultStatusClear _ _ _)
  | faultSevereClear => exact answers_keeps_of_within (within_execFaultSevereClear _ _ _)
  | faultPolicyWrite => exact answers_keeps_of_within (within_execFaultPolicyWrite _ _ _)
  | faultInject => exact answers_keeps_of_within (within_execFaultInject _ _ _)
  | lowerWordRead => exact answers_keeps_of_within (within_execLowerWordRead _ _)
  | upperWordWrite => exact answers_keeps_of_within (within_execUpperWordWrite _ _ _)
  | incidentWord0Read => exact answers_keeps_of_within (within_execIncidentWord0Read _ _)
  | eventSlot => exact answers_keeps_of_within (within_execEventSlot _ _ _)
  | eventPd => exact answers_keeps_of_within (within_execEventPd _ _ _)
  | ownerEventSlot => exact answers_keeps_of_within (within_execOwnerEventSlot _ _)
  | registerWrite => exact answers_keeps_of_within (within_execRegisterWrite _ _ _ _)
  | loadXts => exact answers_keeps_of_within (within_execLoadXts _ _ _ _)
  | loadGcm => exact answers_keeps_of_within (within_execLoadGcm _ _ _ _)
  | erase => exact answers_keeps_of_within (within_execErase _ _)
  | profileLoad => exact answers_keeps_of_within (within_execProfileLoad _ _ _)
  | profileCopyReadFailure => exact answers_keeps_of_within (within_execProfileCopyReadFailure _ _)
  | rstNAssert => exact answers_keeps_of_within (within_execRstNAssert _)
  | rstNRelease => exact answers_keeps_of_within (within_execRstNRelease _ _ _ _)
  | startupStepTimeout => exact answers_keeps_of_within (within_execStartupStepTimeout _ _)
  | selfTest => exact answers_keeps_of_within (within_execSelfTest _ _)
  | vinLow => exact answers_keeps_of_within (within_execVinLow _)
  | vinRecovered => exact answers_keeps_of_within (within_execVinRecovered _ _ _ _)
  | sleepDwellExpiry => exact answers_keeps_of_within (within_execSleepDwellExpiry _ _)
  | deepDwellExpiry => exact answers_keeps_of_within (within_execDeepDwellExpiry _ _ _ _)
  | centralDwellExpiry => exact answers_keeps_of_within (within_execCentralDwellExpiry _ _ _)
  | powerEntryDone => exact answers_keeps_of_within (within_execPowerEntryDone _ _)
  | domainExit => exact answers_keeps_of_within (within_execDomainExit _ _)
  | powerStepTimeout => exact answers_keeps_of_within (within_execPowerStepTimeout _ _ _)
  | wakeN => exact answers_keeps_of_within (within_execWakeN _ _ _ _)
  | linkEnergy => exact answers_keeps_of_within (within_execLinkEnergy _ _)
  | brownout => exact answers_keeps_of_within (within_execBrownout _ _)
  | offEntryDone => exact answers_keeps_of_within (within_execOffEntryDone _)
  | faultEvent => exact answers_keeps_of_within (within_execFaultEvent _ _ _ _)
  | faultWindowExpiry => exact answers_keeps_of_within (within_execFaultWindowExpiry _ _ _)
  | lockstep => exact answers_keeps_of_within (within_execLockstep _)
  | contextCollection => exact answers_keeps_of_within (within_execContextCollection _ _ _)
  | alive => exact answers_keeps_of_within (within_execAlive _)
  | resetLevelFinish => exact answers_keeps_of_within (within_execResetLevelFinish _ _)
  | resetLevelTimeout => exact answers_keeps_of_within (within_execResetLevelTimeout _ _)
  | powerCycle => exact answers_keeps_of_within (within_execPowerCycle _)
  | swapStepTimeout => exact answers_keeps_of_within (within_execSwapStepTimeout _ _)
  | swapComplete => exact answers_keeps_of_within (within_execSwapComplete _ _)
  | powerCapCheck => exact answers_keeps_of_within (within_execPowerCapCheck _ _ _)
  | operatingPointDone => exact answers_keeps_of_within (within_execOperatingPointDone _ _)
  | oscCalibration => exact answers_keeps_of_within (within_execOscCalibration _)
  | refClkLoss => exact answers_keeps_of_within (within_execRefClkLoss _)
  | refClkReturn => exact answers_keeps_of_within (within_execRefClkReturn _)
  | refClkLossTimeout => exact answers_keeps_of_within (within_execRefClkLossTimeout _)
  | connOpen => exact answers_keeps_of_within (within_execConnOpen _ _ _ _)
  | connClose => exact answers_keeps_of_within (within_execConnClose _ _)
  | windowReady => exact answers_keeps_of_within (within_execWindowReady _ _ _)
  | linkDown => exact answers_keeps_of_within (within_execLinkDown _ _)
  | inboundWrite => exact answers_keeps_of_within (within_execInboundWrite _ _ _ _)
  | inboundTargetAck => exact answers_keeps_of_within (within_execInboundTargetAck _ _)
  | inboundRead => exact answers_keeps_of_within (within_execInboundRead _ _ _ _)
  | inboundMessage => exact answers_keeps_of_within (within_execInboundMessage _ _ _)
  | viaductLinkUp => exact answers_keeps_of_within (within_execViaductLinkUp _ _ _ _)
  | deckFlood => exact answers_keeps_of_within (within_execDeckFlood _ _ _)
  | memoryPortReady => exact answers_keeps_of_within (within_execMemoryPortReady _ _ _)
  | extest => exact answers_keeps_of_within (within_execExtest _ _)
  | samplePreload => exact answers_keeps_of_within (within_execSamplePreload _ _)
  | idcode => exact answers_keeps_of_within (within_execIdcode _)
  | bypass => exact answers_keeps_of_within (within_execBypass _ _)
  | debugArm => exact answers_keeps_of_within (within_execDebugArm _)
  | scanAccess => exact answers_keeps_of_within (within_execScanAccess _)
  | stagingRead => exact answers_keeps_of_within (within_execStagingRead _ _ _)
  | keypathTest => exact answers_keeps_of_within (within_execKeypathTest _ _ _ _ _)
  | selftestStart => exact answers_keeps_of_within (within_execSelftestStart _ _)
  | statusRead => exact answers_keeps_of_within (within_execStatusRead _ _)
  | trstN => exact answers_keeps_of_within (within_execTrstN _)
  | deckAccess => exact answers_keeps_of_within (within_execDeckAccess _ _ _ _ _ _ _ _)
  | registerRead => exact answers_keeps_of_within (within_execRegisterRead _ _ _)
  | creditGrant => exact answers_keeps_of_within (within_execCreditGrant _ _ _)

/-- Settles O6: every command answers a next state, and the queue is among what that state keeps. -/
theorem everyCommandAnswersANextState : Obligations.EveryCommandAnswersANextState := by
  unfold Obligations.EveryCommandAnswersANextState
  intro c s
  obtain ⟨t, hnext, hkeeps⟩ := exec_answers_keeps c s
  exact ⟨t, hnext, hkeeps.pending⟩

end Sys2Proof.Proofs

/-! What jobs keep while writes are issued, reach their targets and are answered, and while a status line is written: everything but what
they know of the bytes that others write (01 R39). -/

namespace Sys2Proof.Proofs

open Sys2Proof Sys2Proof.Machine Sys2Proof.Laws

/-- A job but for what it knows of the bytes that others write. -/
def bare (j : Job) : Job := { j with touched := [] }

/-- From s to t no job changes but in what it knows of the bytes that others write. -/
def JobsStand (s t : State) : Prop := t.jobs.map bare = s.jobs.map bare

theorem JobsStand.trans {s t u : State} (h : JobsStand s t) (k : JobsStand t u) : JobsStand s u := Eq.trans k h

/-- What does not touch the jobs leaves them as they are. -/
theorem jobs_of_within {l : List Field} {s t : State} (h : Within l s t) (hl : Field.jobs ∉ l := by decide) : t.jobs = s.jobs :=
  (h.only .jobs).resolve_left hl

theorem job?_of_within {l : List Field} {s t : State} (h : Within l s t) (uid : Nat) (hl : Field.jobs ∉ l := by decide) :
    t.job? uid = s.job? uid := by
  unfold State.job?
  rw [jobs_of_within h hl]

theorem jobsStand_of_within {l : List Field} {s t : State} (h : Within l s t) (hl : Field.jobs ∉ l := by decide) : JobsStand s t :=
  congrArg (List.map bare) (jobs_of_within h hl)

theorem jobsStand_foldl {α : Type} {f : State → α → State} (hf : ∀ t x, JobsStand t (f t x)) (xs : List α) (s : State) :
    JobsStand s (xs.foldl f s) := by
  induction xs generalizing s with
  | nil => rfl
  | cons x r ih => exact (hf s x).trans (ih _)

/-- A view of jobs that shows their numbers can be taken before or after a look-up. -/
theorem find?_map_uid {g : Job → Job} (hg : ∀ j, (g j).uid = j.uid) (l : List Job) (uid : Nat) :
    (l.find? (·.uid == uid)).map g = (l.map g).find? (·.uid == uid) := by
  rw [List.find?_map]
  congr 2
  funext j
  simp [hg]

/-- A look-up by number sees the same job, but for what it knows of the bytes that others write. -/
theorem JobsStand.job? {s t : State} (h : JobsStand s t) (uid : Nat) : (t.job? uid).map bare = (s.job? uid).map bare := by
  have hid (j : Job) : (bare j).uid = j.uid := rfl
  unfold State.job?
  rw [find?_map_uid hid, find?_map_uid hid, h]

theorem JobsStand.job?_some {s t : State} (h : JobsStand s t) {uid : Nat} {j : Job} (hj : s.job? uid = some j) :
    ∃ k, t.job? uid = some k ∧ bare k = bare j := by
  have e := h.job? uid
  rw [hj] at e
  exact Option.map_eq_some_iff.1 e

theorem jobsStand_noteWritten (s : State) (own : Owner) (keys : List Nat) : JobsStand s (s.noteWritten own keys) := by
  unfold JobsStand State.noteWritten
  rw [List.map_map]
  refine List.map_congr_left fun j _ => ?_
  exact (apply_ite bare _ _ _).trans (ite_self _)

theorem noteInjected_jobs (s : State) (gs : List Nat) : (s.noteInjected gs).jobs = s.jobs := jobs_of_within (within_noteInjected s gs)

theorem jobsStand_landBytes (s : State) (own : Owner) (bs : List WByte) (poison : List Nat) :
    JobsStand s (s.landBytes own bs poison) := by
  unfold State.landBytes
  refine JobsStand.trans ?_ (jobsStand_noteWritten _ _ _)
  exact congrArg (List.map bare) (noteInjected_jobs _ _)

theorem jobsStand_spoilBytes (s : State) (own : Owner) (bs : List WByte) : JobsStand s (s.spoilBytes own bs) := by
  unfold State.spoilBytes
  exact jobsStand_noteWritten _ _ _

theorem jobsStand_landBody (s : State) (r : Request) (res : Resp) : JobsStand s (s.landBody r res) := by
  unfold State.landBody
  split
  · exact jobsStand_landBytes _ _ _ _
  · split
    · exact jobsStand_spoilBytes _ _ _
    · rfl
  · rfl
  · rfl

theorem jobsStand_hostDone (s : State) (r : Request) : JobsStand s (s.hostDone r) := by
  have h := jobsStand_landBody s { r with sent := true } .okay
  unfold State.hostDone
  split
  · exact h
  · exact h

theorem jobsStand_pumpGo (p : Port) (n : Nat) (s : State) (acc : List Request) : JobsStand s (State.pumpGo p n s acc).1 := by
  induction n generalizing s acc with
  | zero => rfl
  | succ n ih =>
    unfold State.pumpGo
    split
    · extract_lets
      split <;> rfl
    · extract_lets _ _ _ s1 s2 s3 _ _ _ s4
      split
      · rfl
      · have h2 : JobsStand s s2 := by
          unfold s2
          split
          · rfl
          · exact JobsStand.trans (t := s1) rfl (jobsStand_of_within (within_countBytes s1 _ _ _ _))
        have h3 : JobsStand s s3 := by
          unfold s3
          split <;> exact h2
        refine JobsStand.trans (t := if _ then s4.hostDone _ else s4) ?_ (ih _ _)
        split
        · exact h3.trans (jobsStand_hostDone s4 _)
        · exact h3

theorem jobsStand_addRequests (s : State) (rs : List Request) : JobsStand s (s.addRequests rs) := by
  unfold State.addRequests State.pump
  exact jobsStand_foldl (fun _ _ => jobsStand_pumpGo _ _ _ _) _ { s with ports := _ }

theorem jobsStand_issueElems (s : State) (own : Owner) (part route : Nat) (bs : List State.Put8) (poison : List Nat)
    (span : Option Nat) : JobsStand s (s.issueElems own part route bs poison span) := by
  unfold State.issueElems
  extract_lets _ s1
  have h : JobsStand s s1 := by
    unfold s1
    split
    · rfl
    · exact jobsStand_landBytes _ _ _ _
  exact h.trans (jobsStand_addRequests _ _)

theorem jobsStand_issue (s : State) (own : Owner) (part elem route : Nat) (bs : List (Target × Nat × Byte)) (poison : List Nat)
    (span : Option Nat) : JobsStand s (s.issue own part elem route bs poison span) :=
  jobsStand_issueElems _ _ _ _ _ _ _

theorem jobsStand_flushDue (s : State) (q : QId) : JobsStand s (s.flushDue q) := by
  unfold State.flushDue
  split
  · rfl
  · split
    · rfl
    · split
      · exact jobsStand_issue (s.modQueue q _) _ _ _ _ _ _ _
      · rfl

theorem jobsStand_writeStatus (s : State) (q : QId) : JobsStand s (s.writeStatus q) := by
  unfold State.writeStatus
  split
  · rfl
  · split
    · rfl
    · exact jobsStand_flushDue (s.modQueue q _) _

theorem jobsStand_noteHalts (s : State) (q : QId) : JobsStand s (s.noteHalts q) := by
  unfold State.noteHalts
  split
  · split
    · exact jobsStand_writeStatus _ _
    · rfl
  · rfl

theorem jobsStand_afterKill (s : State) (uid : Nat) (q : QId) (spans : List Nat) (f : Nat → Bool) :
    JobsStand s (s.afterKill uid q spans f) := by
  unfold State.afterKill
  exact ((jobsStand_of_within (within_drainReads s uid f)).trans
    (jobsStand_foldl (fun _ _ => jobsStand_of_within (within_settleRun _ _)) _ _)).trans (jobsStand_noteHalts _ _)

/-! Every job but one. -/

theorem othersStand_refl (s : State) (uid : Nat) : OthersStand s s uid := fun _ _ => rfl

theorem othersStand_trans {s t u : State} {uid : Nat} (h : OthersStand s t uid) (k : OthersStand t u uid) : OthersStand s u uid :=
  fun v hv => (k v hv).trans (h v hv)

theorem JobsStand.others {s t : State} (h : JobsStand s t) (uid : Nat) : OthersStand s t uid := fun u _ => h.job? u

theorem othersStand_modJob (s : State) (uid : Nat) {f : Job → Job} (hf : ∀ x, (f x).uid = x.uid) : OthersStand s (s.modJob uid f) uid :=
  fun _ hv => congrArg _ (job?_modJob_ne hf hv)

/-! The end of an entry. -/

/-- An entry that is given its outcome has ended with it, and no other job changes. -/
theorem endRaw_job {s : State} {uid : Nat} {j : Job} (h : s.job? uid = some j) (code detail pos : Nat) :
    (∃ k, (s.endRaw uid code detail pos).job? uid = some k ∧ bare k = bare (j.ended code detail pos)) ∧
      OthersStand s (s.endRaw uid code detail pos) uid := by
  have hid (x : Job) : (x.ended code detail pos).uid = x.uid := rfl
  unfold State.endRaw
  rw [h]
  have h1 : (s.adminEffect j).job? uid = some j := (job?_of_within (within_adminEffect s j) uid).trans h
  have o1 : OthersStand s (s.adminEffect j) uid := (jobsStand_of_within (within_adminEffect s j)).others uid
  have h2 : ((s.adminEffect j).modJob uid fun j => j.ended code detail pos).job? uid = some (j.ended code detail pos) :=
    job?_modJob_self h1 rfl
  have o2 := othersStand_trans o1 (othersStand_modJob (s.adminEffect j) uid hid)
  have stand := jobsStand_afterKill (((s.adminEffect j).modJob uid fun j => j.ended code detail pos).modQueue j.queue fun y =>
    { y with fetched := y.fetched.filter (·.uid != uid) }) uid j.queue (j.threads.map (·.span)) fun _ => true
  exact ⟨stand.job?_some h2, othersStand_trans o2 (stand.others uid)⟩

/-- The end of an entry that is no group job has no consequence for a group. -/
theorem endJob_eq_endRaw {s : State} {uid : Nat} {j : Job} (h : s.job? uid = some j) (hg : j.groupOp = false) (code detail pos : Nat) :
    s.endJob uid code detail pos = s.endRaw uid code detail pos := by
  unfold State.endJob
  simp [h, hg]

/-! A job that has met no early event goes on as it is. -/

theorem settleEarly_of_not_over {s : State} {uid : Nat} {j : Job} (h : s.job? uid = some j) (ho : j.earlyOver = none) :
    s.settleEarly uid = s := by
  unfold State.settleEarly
  simp [h, ho]

theorem earlyOver_of_no_early {j : Job} (h : j.early = none) : j.earlyOver = none := by
  unfold Job.earlyOver
  rw [h]
  rfl

end Sys2Proof.Proofs

/-! A span asks for a job's tiles (01 R19, R31, R32). -/

namespace Sys2Proof.Proofs

open Sys2Proof Sys2Proof.Machine Sys2Proof.Laws

/-- The core found free is active, is not the one passed over, and has a free context (01 R19). -/
theorem freeCore_spec (s : State) (n c : Nat) :
    s.freeCore n c = 32 ∨ ((s.span n).cores.getD (s.freeCore n c) .spare = .active ∧ s.freeCore n c ≠ c ∧
      ((s.spanThreads n).filter fun t => t.2.core == s.freeCore n c).length < 64) := by
  unfold State.freeCore firstBelow
  extract_lets ts
  cases e : (List.range 32).find? fun i =>
      i != c && (s.span n).cores.getD i .spare == .active && decide ((ts.filter (· == i)).length < 64) with
  | none => exact .inl rfl
  | some i =>
    have found := List.find?_some e
    simp only [Bool.and_eq_true, bne_iff_ne, beq_iff_eq, decide_eq_true_eq] at found
    obtain ⟨⟨hne, hactive⟩, hfree⟩ := found
    unfold ts at hfree
    rw [List.filter_map, List.length_map] at hfree
    exact .inr ⟨hactive, hne, hfree⟩

/-! Settling and raising a span. -/

/-- A thread keeps its span busy. -/
theorem spanBusy_of_thread {s : State} {uid : Nat} {j : Job} {t : Thread} (hj : s.job? uid = some j) (ht : t ∈ j.threads) :
    s.spanBusy t.span = true := by
  have hmem : (j.uid, t) ∈ s.spanThreads t.span :=
    List.mem_flatMap.2 ⟨j, List.mem_of_find?_eq_some hj, List.mem_map_of_mem (List.mem_filter.2 ⟨ht, beq_self_eq_true _⟩)⟩
  unfold State.spanBusy
  rw [List.isEmpty_eq_false_iff_exists_mem.2 ⟨_, hmem⟩]
  rfl

/-- A busy span that is awake stands in RUN (16 R363). -/
theorem settleRun_of_busy {s : State} {n : Nat} (ht : (s.span n).trans = none) (hp : (s.span n).power = .run ∨ (s.span n).power = .idle)
    (hb : s.spanBusy n = true) : s.settleRun n = s.modSpan n fun x => { x with power := .run } := by
  unfold State.settleRun
  simp [ht, hp, hb]

/-- A span in a transition does not settle. -/
theorem settleRun_of_trans {s : State} {n : Nat} {x : PTrans} (ht : (s.span n).trans = some x) : s.settleRun n = s := by
  unfold State.settleRun
  simp [ht]

theorem span_modSpan_self {s : State} {n : Nat} {f : Span → Span} (h : n < s.spans.length) : (s.modSpan n f).span n = f (s.span n) :=
  getD_modAt_self _ _ _ _ h

theorem span_modSpan_ne {s : State} {n m : Nat} {f : Span → Span} (h : m ≠ n) : (s.modSpan n f).span m = s.span m :=
  getD_modAt_ne _ _ _ _ _ h

/-- Only what an update makes of the span itself counts. -/
theorem modSpan_congr {s : State} {n : Nat} {f g : Span → Span} (hn : n < s.spans.length) (h : f (s.span n) = g (s.span n)) :
    s.modSpan n f = s.modSpan n g := by
  have hl : modAt s.spans n f = modAt s.spans n g := by
    refine List.ext_getElem? fun k => ?_
    rw [getElem?_modAt, getElem?_modAt]
    split
    · next hk =>
      subst hk
      rw [State.span, List.getD_eq_getElem _ _ hn] at h
      rw [List.getElem?_eq_getElem hn, Option.map_some, Option.map_some, h]
    · rfl
  unfold State.modSpan
  rw [hl]

/-- The exit with which a sleeping span begins to rise (16 R376). -/
theorem raiseSpan_of_asleep {s : State} {n : Nat} {x : PTrans} (hn : n < s.spans.length) (hf : s.spanFenced n = false)
    (ho : s.spanOwner n ≠ 0) (ht : (s.span n).trans = none)
    (hp : (s.span n).power = .sleep ∧ x = .exitSleep ∨ (s.span n).power = .deep ∧ x = .exitDeep) :
    s.raiseSpan n = s.modSpan n fun y => { y with trans := some x } := by
  unfold State.raiseSpan
  rw [if_neg (by simp [hf, ho])]
  have rise : (s.modSpan n fun y => { y with trans := some x }).settleRun n = s.modSpan n fun y => { y with trans := some x } :=
    settleRun_of_trans (congrArg Span.trans (span_modSpan_self hn))
  refine Eq.trans (congrArg (State.settleRun · n) (modSpan_congr hn ?_)) rise
  rcases hp with ⟨hp, rfl⟩ | ⟨hp, rfl⟩ <;> simp [ht, hp]

/-! A request. -/

/-- Span n may ask for tiles of job j: it is an unfenced span of the job's partition, and the block is awake. -/
structure Asks (s : State) (n : Nat) (j : Job) : Prop where
  job      : s.job? j.uid = some j
  owner    : s.spanOwner n = j.part
  part     : j.part ≠ 0
  unfenced : s.spanFenced n = false
  running  : s.running = true
  awake    : s.centralAsleep = false

/-- A span that runs or idles is handed tiles, 64 of them at most. -/
theorem requestTiles_of_awake {s : State} {n k : Nat} {j : Job} (h : Asks s n j) (hh : s.spanHeld n = false)
    (hp : (s.span n).power = .run ∨ (s.span n).power = .idle) (ht : (s.span n).trans = none) :
    s.requestTiles n j.uid k = ((State.handTiles n j.uid (min k 64) s).settleEarly j.uid).settleRun n := by
  have awake : ¬((s.span n).trans.isSome ∨ ((s.span n).power ≠ .run ∧ (s.span n).power ≠ .idle)) := by
    rcases hp with hp | hp <;> simp [ht, hp]
  unfold State.requestTiles
  rw [h.job]
  dsimp only
  rw [if_neg (by simp [h.owner, h.part, h.unfenced, h.running, h.awake]), if_neg (by simp [hh]), if_neg awake]

/-- A sleeping span is raised where a tile is to be handed out. -/
theorem requestTiles_of_asleep {s : State} {n k : Nat} {j : Job} (h : Asks s n j) (hd : State.tileDue j = true)
    (hh : s.spanHeld n = false) (hp : (s.span n).power = .sleep ∨ (s.span n).power = .deep) :
    s.requestTiles n j.uid k = s.raiseSpan n := by
  have asleep : (s.span n).power ≠ .run ∧ (s.span n).power ≠ .idle := by rcases hp with hp | hp <;> simp [hp]
  unfold State.requestTiles
  simp [h.job, h.owner, h.part, h.unfenced, h.running, h.awake, hh, asleep, hd]

/-- A job that would get a tile of a span under a span reset ends (18 R408). -/
theorem requestTiles_of_reset {s : State} {n k : Nat} {j : Job} (h : Asks s n j) (hd : State.tileDue j = true) (hh : s.spanHeld n = true)
    (hl : ∃ l ∈ s.levels, l.scope = .span n) :
    s.requestTiles n j.uid k = (s.endJob j.uid 0xA2 n j.stopPosition).modJob j.uid fun y => { y with ordered := true } := by
  have hany : (s.levels.any fun l => l.scope == .span n) = true := by simpa using hl
  unfold State.requestTiles
  simp [h.job, h.owner, h.part, h.unfenced, h.running, h.awake, hh, hd, hany]

/-- No request hands out more than 64 tiles. -/
theorem requestTiles_at_most_64 {s : State} {n uid k : Nat} (hk : 64 ≤ k) : s.requestTiles n uid k = s.requestTiles n uid 64 := by
  unfold State.requestTiles
  rw [Nat.min_eq_right hk, Nat.min_self]

/-- A job whose tile has been handed to a thread on a core. -/
def seated (span core tile : Nat) (j : Job) : Job :=
  { j with next := if j.again.isEmpty then tile + 1 else j.next, again := j.again.filter (· != tile),
           threads := j.threads ++ [{ tile, span, core }] }

/-- A tile that needs no scale record and no codebook's place is handed to the lowest active core with a free context. -/
theorem handTile_eq {s : State} {n tile : Nat} {j : Job} (h : s.job? j.uid = some j) (hd : State.tileDue j = true)
    (hn : State.nextTile j = some tile) (hc : s.freeCore n (s.drainingCore n) ≠ 32) (hw : s.threadWrites j.uid tile = [])
    (hv : Entry.isView j.entry = true → Entry.mode j.entry < 2 ∧
      (Entry.expand j.entry = true → State.folioClash j n (State.tileFolios j tile) tile = false)) :
    s.handTile n j.uid = (s.modJob j.uid (seated n (s.freeCore n (s.drainingCore n)) tile), true) := by
  have noRecord : (Entry.isView j.entry && decide (2 ≤ Entry.mode j.entry)) = false := by
    cases e : Entry.isView j.entry with
    | false => rfl
    | true => simpa using (hv e).1
  have noClash : (Entry.isView j.entry && Entry.expand j.entry && State.folioClash j n (State.tileFolios j tile) tile) = false := by
    cases e : Entry.isView j.entry with
    | false => rfl
    | true => simpa using (hv e).2
  unfold State.handTile seated
  simp [h, hn, hd, hc, hw, noRecord, noClash]

/-- Settles O21: one tile handed seats one thread, which keeps its span in RUN and its job from an early end. -/
theorem tileRequestHandsTheNextTile : Obligations.TileRequestHandsTheNextTile := by
  unfold Obligations.TileRequestHandsTheNextTile
  intro s n tile j hj hown hpart hn hf hrun hcent hdue hnext
  have asks : Asks s n j := ⟨hj, hown, hpart, hf, hrun, hcent⟩
  have rises {x : PTrans} (hh : s.spanHeld n = false) (ht : (s.span n).trans = none)
      (hp : (s.span n).power = .sleep ∧ x = .exitSleep ∨ (s.span n).power = .deep ∧ x = .exitDeep) :
      exec (.tileRequest n j.uid 1) s = .next (s.modSpan n fun y => { y with trans := some x }) :=
    congrArg Host.Outcome.next ((requestTiles_of_asleep asks hdue hh (hp.imp And.left And.left)).trans
      (raiseSpan_of_asleep hn hf (hown ▸ hpart) ht hp))
  refine ⟨fun hh hp ht hc hw hv => ?_, freeCore_spec s n, fun k hk => congrArg Host.Outcome.next (requestTiles_at_most_64 hk),
    fun hh hp ht => rises hh ht (.inl ⟨hp, rfl⟩), fun hh hp ht => rises hh ht (.inr ⟨hp, rfl⟩), fun hh hl hg => ?_⟩
  · let k := seated n (s.freeCore n (s.drainingCore n)) tile j
    let s1 := s.modJob j.uid (seated n (s.freeCore n (s.drainingCore n)) tile)
    have hk : s1.job? j.uid = some k := job?_modJob_self hj rfl
    have handed : State.handTiles n j.uid 1 s = s1 := by
      simp only [State.handTiles, handTile_eq hj hdue hnext hc hw hv]
      rfl
    have noEarlyEnd : s1.settleEarly j.uid = s1 := settleEarly_of_not_over hk (by simp [k, seated, Job.earlyOver])
    have busy : s1.spanBusy n = true :=
      spanBusy_of_thread (t := { tile, span := n, core := s.freeCore n (s.drainingCore n) }) hk (by simp [k, seated])
    refine ⟨s1.modSpan n fun x => { x with power := .run }, congrArg Host.Outcome.next ?_, rfl, hk,
      fun u hu => job?_modJob_ne (fun _ => rfl) hu, span_modSpan_self hn, fun m hm => span_modSpan_ne hm⟩
    rw [requestTiles_of_awake asks hh hp ht, Nat.min_eq_left (by decide), handed, noEarlyEnd]
    exact settleRun_of_busy ht hp busy
  · obtain ⟨⟨k, hk, hend⟩, -⟩ := endRaw_job hj 0xA2 n j.stopPosition
    refine ⟨_, _, congrArg Host.Outcome.next ((requestTiles_of_reset asks hdue hh hl).trans
      (by rw [endJob_eq_endRaw hj hg])), job?_modJob_self hk rfl, ?_⟩
    exact ⟨congrArg Job.phase hend, congrArg Job.code hend, congrArg Job.detail hend, congrArg Job.position hend, rfl⟩

end Sys2Proof.Proofs

/-! A thread of a view opcode runs (01 R34 to R37, 09 R207). -/

namespace Sys2Proof.Proofs

open Sys2Proof Sys2Proof.Machine Sys2Proof.Laws

/-! What a job keeps while a thread of it runs, up to the mark that it has run. -/

/-- A job but for where its threads sit, what its passes keep, and what it knows of the bytes that others write. -/
def sketch (j : Job) : Job := { j with touched := [], pass := {}, threads := j.threads.map fun x => { x with core := 0 } }

/-- From s to t every job stands but for what it knows of the bytes that others write; job uid also but for its passes and the places
of its threads. -/
structure Working (s t : State) (uid : Nat) : Prop where
  others : OthersStand s t uid
  own    : t.jobs.map sketch = s.jobs.map sketch

theorem working_refl (s : State) (uid : Nat) : Working s s uid := ⟨othersStand_refl s uid, rfl⟩

theorem Working.trans {s t u : State} {uid : Nat} (h : Working s t uid) (k : Working t u uid) : Working s u uid :=
  ⟨othersStand_trans h.others k.others, k.own.trans h.own⟩

theorem JobsStand.working {s t : State} (h : JobsStand s t) (uid : Nat) : Working s t uid := by
  refine ⟨h.others uid, ?_⟩
  have e := congrArg (List.map sketch) h
  rw [List.map_map, List.map_map] at e
  exact e

theorem working_modJob (s : State) (uid : Nat) {f : Job → Job} (hf : ∀ x, sketch (f x) = sketch x) : Working s (s.modJob uid f) uid := by
  have hid (x : Job) : (f x).uid = x.uid := by simpa [sketch] using congrArg Job.uid (hf x)
  refine ⟨othersStand_modJob s uid hid, ?_⟩
  rw [modJob_jobs, List.map_map]
  refine List.map_congr_left fun x _ => ?_
  dsimp only [Function.comp]
  split
  · exact hf x
  · rfl

theorem working_useFree (s : State) (uid : Nat) : Working s s.useFree uid := ⟨fun _ _ => rfl, rfl⟩

theorem Working.job?_some {s t : State} {uid : Nat} {j : Job} (h : Working s t uid) (hj : s.job? uid = some j) :
    ∃ k, t.job? uid = some k ∧ sketch k = sketch j := by
  have hid (x : Job) : (sketch x).uid = x.uid := rfl
  have e : (t.job? uid).map sketch = (s.job? uid).map sketch := by
    unfold State.job?
    rw [find?_map_uid hid, find?_map_uid hid, h.own]
  rw [hj] at e
  exact Option.map_eq_some_iff.1 e

theorem same_of_sketch {j k : Job} (h : sketch k = sketch j) :
    k.phase = j.phase ∧ k.retired = j.retired ∧ k.early = j.early ∧ k.contribs = j.contribs ∧ k.marks = j.marks :=
  ⟨(congrArg Job.phase h :), (congrArg Job.retired h :), (congrArg Job.early h :), (congrArg Job.contribs h :),
    (congrArg Job.marks h :)⟩

theorem tiles_of_sketch {j k : Job} (h : sketch k = sketch j) : k.threads.map Thread.tile = j.threads.map Thread.tile := by
  have e := congrArg (fun x : Job => x.threads.map Thread.tile) h
  simpa [sketch, Function.comp_def] using e

theorem working_foldl {α : Type} {f : State → α → State} {uid : Nat} (hf : ∀ t x, Working t (f t x) uid) (xs : List α) (s : State) :
    Working s (xs.foldl f s) uid := by
  induction xs generalizing s with
  | nil => exact working_refl s uid
  | cons x r ih => exact (hf s x).trans (ih _)

/-- A span loads codebooks into its sets: of the jobs one knows it, in its passes. -/
theorem working_loadBooks (s : State) (w : Work) (span : Nat) (fs : List (Nat × Folio)) : Working s (s.loadBooks w span fs) w.uid := by
  unfold State.loadBooks
  refine working_foldl (fun t x => ?_) fs s
  split
  · exact working_refl t _
  · split
    · exact working_refl t _
    · split
      · refine Working.trans ?_ (working_modJob _ _ fun _ => rfl)
        exact ⟨fun _ _ => rfl, rfl⟩
      · exact working_refl t _

/-- Bytes of a job's destination land: of the jobs one keeps what its seals and its poison need. -/
theorem working_landCells {s t : State} {j : Job} {own : Owner} {route : Nat} {cs : List Machine.Cell} {free : Bool} {mine : Nat → Bool}
    {span : Option Nat} (h : s.landCells j own route cs free mine span = .done t) : Working s t j.uid := by
  unfold State.landCells at h
  split at h
  · split at h <;> cases h
  · extract_lets ls at h
    split at h
    · cases h
    · obtain rfl := State.Land.done.inj h
      refine Working.trans ?_ (working_useFree _ _)
      exact ((jobsStand_issueElems _ _ _ _ _ _ _).working _).trans (working_modJob _ _ fun _ => rfl)

/-- The thread that may run is the tile's, of the job named, which is seated in a core at most. -/
theorem readyThread_some {s s0 : State} {uid tile : Nat} {w : Work} {t : Thread} (h : s.readyThread uid tile = some (s0, w, t)) :
    s.job? uid = some w.toJob ∧ t.tile = tile ∧ Working s s0 uid := by
  unfold State.readyThread at h
  obtain ⟨j, hj, h⟩ := Option.bind_eq_some_iff.1 h
  split at h
  · cases h
  · obtain ⟨x, hx, h⟩ := Option.bind_eq_some_iff.1 h
    have found := List.find?_some hx
    simp only [Bool.and_eq_true, beq_iff_eq] at found
    extract_lets w' c at h
    split at h
    · simp only [Option.some.injEq, Prod.mk.injEq] at h
      obtain ⟨rfl, rfl, rfl⟩ := h
      exact ⟨hj, found.1, working_refl s uid⟩
    · split at h
      · cases h
      · simp only [Option.some.injEq, Prod.mk.injEq] at h
        obtain ⟨rfl, rfl, rfl⟩ := h
        refine ⟨hj, found.1, working_modJob s uid fun y => ?_⟩
        have places : (y.threads.map fun x => if x.tile = tile then { x with core := c } else x).map (fun x => { x with core := 0 }) =
            y.threads.map fun x : Thread => { x with core := 0 } := by
          rw [List.map_map]
          refine List.map_congr_left fun x _ => ?_
          dsimp only [Function.comp]
          split <;> rfl
        unfold sketch
        rw [places]

/-! Running. -/

/-- A run answers for the elements it is given and no other. -/
theorem mem_of_runElems_done {α : Type} {f : Nat → Res α} {ns : List Nat} {x : Nat × α} (h : x ∈ (State.runElems f ns).done) : x.1 ∈ ns := by
  induction ns with
  | nil => exact absurd h (by simp [State.runElems])
  | cons n r ih =>
    unfold State.runElems at h
    split at h
    · rcases List.mem_cons.1 h with rfl | h
      · exact List.mem_cons_self
      · exact List.mem_cons_of_mem _ (ih h)
    · exact List.mem_cons_of_mem _ (ih h)
    · exact absurd h (by simp)

/-- Without an early event a tile's elements lie below the job's element count. -/
theorem lt_elems_of_live {j : Job} {tile n : Nat} (he : j.early = none) (h : n ∈ State.liveElems j tile) : n < j.elems := by
  unfold State.liveElems at h
  rw [he] at h
  simpa using (List.mem_filter.1 h).2

/-- A thread whose reads are all there, whose elements met nothing and whose bytes land has done its work. -/
theorem runThread_of_done {α : Type} {s s0 s1 : State} {uid tile : Nat} {w : Work} {t : Thread}
    {work : State → Work → Thread → State.Run α} {finish : State → Work → Thread → List (Nat × α) → State.Land} {l : List (Nat × α)}
    (h : s.readyThread uid tile = some (s0, w, t)) (hwork : work s0 w t = { done := l }) (hl : ∀ x ∈ l, x.1 < w.elems)
    (hland : finish s0 w t l = .done s1) : s.runThread uid tile work finish = s1.settleEarly uid := by
  have all : l.filter (fun x => decide (x.1 < w.elems)) = l := List.filter_eq_self.2 fun x hx => decide_eq_true (hl x hx)
  unfold State.runThread
  rw [h]
  simp [hwork, all, hland, State.threadEvent]

/-- Without a codeword of staging under injection no read corrects one. -/
theorem correctStaging_eq_self {s : State} (h : ∀ x ∈ s.store.inj, 0x28 ≤ x.1) (c : FaultCtx) (ks : List Nat) :
    s.correctStaging c ks = s := by
  have none_hit : (s.store.inj.filter fun x => decide (x.1 < 0x28) && ks.any fun k => granuleOf k == x.2) = [] := by
    rw [List.filter_eq_nil_iff]
    intro x hx
    simp [Nat.not_lt.2 (h x hx)]
  unfold State.correctStaging
  rw [none_hit]
  rfl

/-- A job of which the tile's thread has run, with what that counts, marks and measures. -/
def hasRun (tile : Nat) (cs : List Contrib) (ms : List Mark) (xs : List ((Nat × Nat) × (Nat × Int))) (y : Job) : Job :=
  { y with threads := y.threads.map fun t => if t.tile = tile then { t with ran := true } else t
           contribs := (y.contribs.filter fun c => c.tile != tile) ++ cs
           marks := (y.marks.filter fun m => m.tile != tile) ++ ms
           pass := { y.pass with maxima := (y.pass.maxima.filter fun m => m.1.1 != tile) ++ xs } }

theorem threadRan_job {s : State} {uid tile : Nat} {cs : List Contrib} {ms : List Mark} {xs : List ((Nat × Nat) × (Nat × Int))} {j : Job}
    (h : s.job? uid = some j) : (s.threadRan uid tile cs ms xs).job? uid = some (hasRun tile cs ms xs j) :=
  job?_modJob_self (f := hasRun tile cs ms xs) h rfl

theorem threadRan_others (s : State) (uid tile : Nat) (cs : List Contrib) (ms : List Mark) (xs : List ((Nat × Nat) × (Nat × Int))) :
    OthersStand s (s.threadRan uid tile cs ms xs) uid :=
  othersStand_modJob { s with store := _ } uid (f := hasRun tile cs ms xs) fun _ => rfl

/-- Work that ends with the mark of the tile's thread has run it. -/
theorem ranTile_threadRan {s t : State} {uid tile : Nat} {cs : List Contrib} {ms : List Mark} {xs : List ((Nat × Nat) × (Nat × Int))}
    {j k : Job} (hj : s.job? uid = some j) (hk : t.job? uid = some k) (h : sketch k = sketch j) :
    RanTile s (t.threadRan uid tile cs ms xs) uid tile cs ms := by
  obtain ⟨hphase, hretired, -, hcontribs, hmarks⟩ := same_of_sketch h
  have tiles : (hasRun tile cs ms xs k).threads.map Thread.tile = k.threads.map Thread.tile := by
    unfold hasRun
    rw [List.map_map]
    exact List.map_congr_left fun x _ => (apply_ite Thread.tile _ _ _).trans (ite_self _)
  refine ⟨j, _, hj, threadRan_job hk, hphase, hretired, tiles.trans (tiles_of_sketch h), ?_,
    by rw [← hcontribs]; rfl, by rw [← hmarks]; rfl⟩
  intro x hx
  obtain ⟨y, -, rfl⟩ := List.mem_map.1 hx
  split
  · exact fun _ => rfl
  · next hne => exact fun ht => absurd ht hne

/-- A view opcode's command runs its tile, once FIRST_PASS has begun to convert. -/
theorem viewStep_eq_runThread {s : State} {op uid tile : Nat} {j : Job} (h : s.job? uid = some j)
    (hm : Entry.mode j.entry = 1 → j.pass.converting = true) (hop : Entry.opcode j.entry = op) (ho : State.tilesOpen j = true) :
    s.viewStep op uid tile = s.runThread uid tile State.viewWork State.viewFinish := by
  unfold State.viewStep State.runTile
  rw [h]
  dsimp only
  rw [if_neg (fun ⟨h1, h2⟩ => by simp [hm h1] at h2), if_neg (by simp [hop, ho])]

/-- Settles O22: the tile's elements are all there, so the thread lands their bytes and is marked as run; nothing met ends the job. -/
theorem tileWritesItsElements : Obligations.TileWritesItsElements := by
  unfold Obligations.TileWritesItsElements
  intro s s0 s1 c op tile w th l hc hready hop hm hopen he hrun hland hinj
  obtain ⟨hj, htile, hseat⟩ := readyThread_some hready
  subst htile
  have hexec : exec c s = .next (s.viewStep op w.uid th.tile) := by
    rcases hc with ⟨rfl, rfl⟩ | ⟨rfl, rfl⟩ | ⟨rfl, rfl⟩ | ⟨rfl, rfl⟩ | ⟨rfl, rfl⟩ <;> rfl
  have below : ∀ x ∈ l, x.1 < w.elems := fun x hx =>
    lt_elems_of_live he (mem_of_runElems_done (by rw [hrun]; exact hx))
  let t := s1.threadRan w.uid th.tile (l.flatMap fun x => State.contribsOf w.entry th.tile x.1 x.2) (State.marksOf th.tile l)
    (State.tileMaxima w.toJob th.tile l)
  have landed : State.viewFinish s0 w th l = .done t := by
    unfold State.viewFinish
    dsimp only
    rw [hland]
    dsimp only
    rw [correctStaging_eq_self hinj]
  have work : Working s s1 w.uid := by
    refine (hseat.trans ?_).trans (working_landCells hland)
    split
    · exact working_loadBooks _ _ _ _
    · exact working_refl _ _
  obtain ⟨k, hk, hsk⟩ := work.job?_some hj
  refine ⟨t, hexec.trans (congrArg Host.Outcome.next ?_), rfl, rfl, othersStand_trans work.others (threadRan_others _ _ _ _ _ _),
    ranTile_threadRan hj hk hsk⟩
  obtain ⟨-, -, hearly, -⟩ := same_of_sketch hsk
  rw [viewStep_eq_runThread hj hm hop hopen, runThread_of_done hready hrun below landed]
  exact settleEarly_of_not_over (threadRan_job hk) (earlyOver_of_no_early (hearly.trans he))

end Sys2Proof.Proofs

/-! A thread retires, and with the last one its job completes (01 R35, R37, R38). -/

namespace Sys2Proof.Proofs

open Sys2Proof Sys2Proof.Machine Sys2Proof.Laws

/-! Reads given up: no write of a job comes about. -/

/-- What a request belongs to, and whether it counts as answered. -/
def claim (r : Request) : Owner × Bool := (r.owner, r.late)

/-- A pass over requests that puts one of the same claim behind the others for each keeps their claims. -/
theorem claims_foldl {β : Type} {go : List Request × β → Request → List Request × β}
    (hgo : ∀ a r, ∃ q, (go a r).1 = a.1 ++ [q] ∧ claim q = claim r) (rs : List Request) (a : List Request × β) :
    (rs.foldl go a).1.map claim = a.1.map claim ++ rs.map claim := by
  induction rs generalizing a with
  | nil => exact (List.append_nil _).symm
  | cons r rs ih =>
    obtain ⟨q, hq, hc⟩ := hgo a r
    rw [List.foldl_cons, ih, hq]
    simp [hc]

theorem giveTags_claims (s : State) (n : Nat) : (s.giveTags n).ports.requests.map claim = s.ports.requests.map claim := by
  unfold State.giveTags
  refine claims_foldl (fun a r => ?_) s.ports.requests _
  split
  · split
    · exact ⟨_, rfl, rfl⟩
    · exact ⟨_, rfl, rfl⟩
  · exact ⟨_, rfl, rfl⟩

/-- Giving reads up changes requests only. -/
theorem drainReads_eq (s : State) (uid : Nat) (f : Nat → Bool) :
    ∃ l, s.drainReads uid f = { s with ports := { s.ports with requests := l } } := by
  have run (ns : List Nat) (z : State) :
      ∃ l, ns.foldl (fun s n => s.giveTags n) z = { z with ports := { z.ports with requests := l } } := by
    induction ns generalizing z with
    | nil => exact ⟨_, rfl⟩
    | cons n r ih =>
      obtain ⟨l, h⟩ := ih (z.giveTags n)
      exact ⟨l, h⟩
  obtain ⟨l, h⟩ := run _ _
  exact ⟨l, h⟩

theorem drainReads_claims (s : State) (uid : Nat) (f : Nat → Bool) :
    (s.drainReads uid f).ports.requests.map claim ⊆ s.ports.requests.map claim := by
  unfold State.drainReads
  extract_lets mine spans rs
  rw [foldl_same (fun t : State => t.ports.requests.map claim) _ spans _ giveTags_claims]
  have kept : rs.map claim = (s.ports.requests.filter fun r => !(mine r && !r.sent)).map claim := by
    unfold rs
    rw [List.map_map]
    refine List.map_congr_left fun r _ => ?_
    dsimp only [Function.comp]
    split
    · split <;> rfl
    · rfl
  dsimp only
  rw [kept]
  exact List.map_subset _ (List.filter_subset_self _)

/-- A job whose writes are all answered has none to wait for once reads are given up. -/
theorem jobWrites_drainReads {s : State} {uid : Nat} (v : Nat) (f : Nat → Bool) (h : s.jobWrites uid = []) :
    (s.drainReads v f).jobWrites uid = [] := by
  unfold State.jobWrites at h ⊢
  rw [List.filter_eq_nil_iff] at h ⊢
  intro r hr
  obtain ⟨q, hq, hc⟩ := List.mem_map.1 (drainReads_claims s v f (List.mem_map_of_mem hr))
  obtain ⟨ho, hl⟩ := Prod.mk.inj hc
  have hn := h q hq
  rw [ho, hl] at hn
  exact hn

/-- With every write answered and nothing due, a job's closing writes are answered. -/
theorem closingsQuiet_of_answered {s : State} {j : Job} {n : Nat} (hdue : j.pass.due = []) (hredo : j.pass.redo = [])
    (hredoing : j.pass.redoing = []) (h : s.jobWrites j.uid = []) : s.closingsQuiet j n = true := by
  unfold State.jobWrites at h
  rw [List.filter_eq_nil_iff] at h
  have quiet : (s.ports.requests.any fun w => !w.late && (match w.owner with | .job u .closing _ => u == j.uid | _ => false)) = false := by
    rw [List.any_eq_false]
    intro w hw
    have hn := h w hw
    split
    · next e => simpa [e] using hn
    · simp
  unfold State.closingsQuiet
  simp only [hdue, hredo, hredoing, List.isEmpty_nil, List.all_nil, Bool.true_and, Bool.not_eq_true']
  exact quiet

/-! Closing writes: a job without seals, tags, CARRIED scales or a tensor maximum has none (06 R491). -/

theorem measureRows_eq_self {s : State} {uid a b : Nat} {j : Job} (h : s.job? uid = some j) (hm : Entry.mode j.entry ≠ 2) :
    s.measureRows uid a b = s := by
  unfold State.measureRows
  simp [h, hm]

theorem newRecords_eq_nil {j : Job} (hm : Entry.mode j.entry ≠ 2) (a b : Nat) : State.newRecords j a b = [] := by
  unfold State.newRecords
  simp [hm]

theorem newClosings_eq_nil {j : Job} (hs : Entry.sealGen j.entry = false) (hc : Entry.cipherWrite j.entry = false)
    (hmax : Entry.opcode j.entry = 0x04 → u64 j.entry 0xC8 = 0) (a b : Nat) : State.newClosings j a b = [] := by
  have noTag : State.gcmWrite j = false := by
    unfold State.gcmWrite
    rw [hc]
    rfl
  have noMax : ¬(Entry.opcode j.entry = 0x04 ∧ u64 j.entry 0xC8 ≠ 0 ∧ j.early.isNone ∧ j.lowestUnretired = j.tiles) :=
    fun ⟨h4, hne, _⟩ => hne (hmax h4)
  unfold State.newClosings
  simp only [hs, noTag, if_neg noMax]
  simp

theorem closeRange_eq_self {s : State} {uid : Nat} {j : Job} (h : s.job? uid = some j) (hm : Entry.mode j.entry ≠ 2)
    (hs : Entry.sealGen j.entry = false) (hc : Entry.cipherWrite j.entry = false)
    (hmax : Entry.opcode j.entry = 0x04 → u64 j.entry 0xC8 = 0) (a b : Nat) : s.closeRange uid a b = s := by
  unfold State.closeRange
  simp [h, newRecords_eq_nil hm, newClosings_eq_nil hs hc hmax]

/-! The outcome of a job whose tiles have all retired. -/

/-- A job with a thread, or with a tile that has not retired, goes on. -/
theorem settleJob_of_open {s : State} {uid : Nat} {j : Job} (h : s.job? uid = some j)
    (ho : j.threads ≠ [] ∨ j.lowestUnretired < j.tiles) : s.settleJob uid = s := by
  unfold State.settleJob
  rcases ho with ho | ho <;> simp [h, ho]

/-- It settles with the code of what its tiles met, or goes on. -/
theorem settleJob_cases {s : State} {uid : Nat} {j : Job} (h : s.job? uid = some j) :
    s.settleJob uid = s ∨ s.settleJob uid = s.endJob uid (State.finalCode j).1 (State.finalCode j).2 j.elems := by
  unfold State.settleJob
  rw [h]
  dsimp only
  split
  · exact .inl rfl
  · exact .inr rfl

/-- A job of a tile opcode completes once its last tile has retired and its writes are answered (01 R38). -/
theorem settleJob_of_retired {s : State} {uid : Nat} {j : Job} (h : s.job? uid = some j) (hp : j.phase = .running)
    (hs : j.stopped = false) (ho : j.order ≠ 0) (he : j.early = none) (ht : j.threads = []) (hl : j.lowestUnretired = j.tiles)
    (hop : State.tileOpcode (Entry.opcode j.entry) = true) (hopen : State.tilesOpen j = true) (hq : s.closingsQuiet j j.elems = true)
    (hw : s.jobWrites uid = []) : s.settleJob uid = s.endJob uid (State.finalCode j).1 (State.finalCode j).2 j.elems := by
  unfold State.settleJob
  simp [h, hp, hs, ho, he, ht, hl, hop, hopen, hq, hw]

/-- A job of which the tile's thread has retired. -/
def retire (tile : Nat) (j : Job) : Job := { j with retired := insertAsc j.retired tile, threads := j.threads.filter (·.tile != tile) }

/-- Without a closing write, what follows a retirement is the job's outcome. -/
theorem retireThread_eq {s : State} {j : Job} {tile : Nat} {th : Thread} (h : s.job? j.uid = some j) (hp : j.phase = .running)
    (hs : j.stopped = false) (he : j.early = none) (ht : j.threads.find? (fun x => x.tile == tile && x.ran) = some th)
    (hw : s.threadWrites j.uid tile = []) (hm : Entry.mode j.entry ≠ 2) (hseal : Entry.sealGen j.entry = false)
    (hc : Entry.cipherWrite j.entry = false) (hmax : Entry.opcode j.entry = 0x04 → u64 j.entry 0xC8 = 0) :
    s.retireThread j.uid tile =
      (((s.modJob j.uid (retire tile)).drainReads j.uid (· == tile)).settleJob j.uid).settleRun th.span := by
  have hk : ((s.modJob j.uid (retire tile)).drainReads j.uid (· == tile)).job? j.uid = some (retire tile j) :=
    (job?_of_within (within_drainReads _ _ _) _).trans (job?_modJob_self h rfl)
  have early : (retire tile j).earlyOver = none := earlyOver_of_no_early he
  have run : s.retireThread j.uid tile =
      ((((((s.modJob j.uid (retire tile)).drainReads j.uid (· == tile)).measureRows j.uid (j.tileStart tile)
        (j.tileStart (tile + 1))).closeRange j.uid (j.tileStart tile) (j.tileStart (tile + 1))).settle j.uid).settleRun th.span) := by
    unfold State.retireThread
    simp [h, ht, hp, hs, hw]
    rfl
  rw [run, measureRows_eq_self hk hm, closeRange_eq_self hk hm hseal hc hmax, State.settle, settleEarly_of_not_over hk early]

/-- The counts of a job that ends as it runs are those below its POSITION (06 R494). -/
theorem ended_counts {j : Job} (hp : j.phase = .running) (code detail n : Nat) :
    (j.ended code detail n).count = (j.countsBelow n).1 ∧ (j.ended code detail n).aux = (j.countsBelow n).2 := by
  unfold Job.ended
  simp [hp]

/-- Settles O28: the retirement leaves the job's outcome to be settled, which ends it or leaves it as it stands. -/
theorem lastRetirementCompletesTheJob : Obligations.LastRetirementCompletesTheJob := by
  unfold Obligations.LastRetirementCompletesTheJob
  intro s j tile th h hg hp hs ho he ht hw hm hseal hc hmax hdue hredo hredoing
  let j1 := retire tile j
  let s1 := (s.modJob j.uid (retire tile)).drainReads j.uid (· == tile)
  have hk : s1.job? j.uid = some j1 := (job?_of_within (within_drainReads _ _ _) _).trans (job?_modJob_self h rfl)
  have others : OthersStand s s1 j.uid := othersStand_trans (othersStand_modJob s j.uid (f := retire tile) fun _ => rfl)
    ((jobsStand_of_within (within_drainReads _ _ _)).others j.uid)
  have run : exec (.threadRetire j.uid tile) s = .next ((s1.settleJob j.uid).settleRun th.span) :=
    congrArg Host.Outcome.next (retireThread_eq h hp hs he ht hw hm hseal hc hmax)
  have settled (t : State) : (t.settleRun th.span).job? j.uid = t.job? j.uid := job?_of_within (within_settleRun _ _) _
  have settledOthers (t : State) : OthersStand t (t.settleRun th.span) j.uid :=
    (jobsStand_of_within (within_settleRun _ _)).others j.uid
  by_cases hopen : j1.threads ≠ [] ∨ j1.lowestUnretired < j.tiles
  · obtain ⟨l, hl⟩ := settleRun_eq s1 th.span
    obtain ⟨rs, hrs⟩ := drainReads_eq (s.modJob j.uid (retire tile)) j.uid (· == tile)
    rw [settleJob_of_open hk hopen] at run
    refine ⟨_, j1, run, (settled s1).trans hk, othersStand_trans others (settledOthers s1), fun _ => ⟨rfl, ?_⟩, fun h1 h2 => ?_⟩
    · rw [hl, show s1 = _ from hrs]
      rfl
    · exact absurd hopen (not_or.2 ⟨not_not.2 h1, h2.not_lt⟩)
  · let s2 := s1.endJob j.uid (State.finalCode j1).1 (State.finalCode j1).2 j1.elems
    by_cases hdone : s1.settleJob j.uid = s2
    · obtain ⟨⟨k, hend, hkend⟩, endOthers⟩ := endRaw_job hk (State.finalCode j1).1 (State.finalCode j1).2 j1.elems
      rw [← endJob_eq_endRaw hk hg] at hend endOthers
      obtain ⟨hcount, haux⟩ := ended_counts (j := j1) hp (State.finalCode j1).1 (State.finalCode j1).2 j1.elems
      rw [hdone] at run
      exact ⟨_, k, run, (settled s2).trans hend, othersStand_trans (othersStand_trans others endOthers) (settledOthers s2),
        fun ho => absurd ho hopen, fun _ _ _ _ _ => ⟨congrArg Job.phase hkend, congrArg Job.code hkend, congrArg Job.detail hkend,
          congrArg Job.position hkend, (congrArg Job.count hkend).trans hcount, (congrArg Job.aux hkend).trans haux⟩⟩
    · rw [(settleJob_cases hk).resolve_right hdone] at run
      refine ⟨_, j1, run, (settled s1).trans hk, othersStand_trans others (settledOthers s1), fun ho => absurd ho hopen,
        fun h1 h2 hans hop hto => absurd ?_ hdone⟩
      have answered : s1.jobWrites j.uid = [] := jobWrites_drainReads j.uid _ (s := s.modJob j.uid (retire tile)) hans
      exact settleJob_of_retired hk hp hs ho he h1 h2 hop hto (closingsQuiet_of_answered hdue hredo hredoing answered) answered

end Sys2Proof.Proofs

/-! The exact reduction (01 R24, 11 R253): each part of a keystone lane's result reads its inputs as a multiset. -/

namespace Sys2Proof.Proofs

open Sys2Proof Sys2Proof.Machine

/-- What an input adds to a keystone accumulator, over the unit 2^-149. -/
def keystoneTerm : Machine.Num → Int
  | .fin true m e => -((m * 2 ^ (e + 149).toNat : Nat) : Int)
  | .fin false m e => ((m * 2 ^ (e + 149).toNat : Nat) : Int)
  | _ => 0

/-- The accumulator holds the sum of its inputs' terms. -/
theorem keystoneSum_eq_sum (xs : List Machine.Num) : keystoneSum xs = (xs.map keystoneTerm).sum := by
  rw [List.sum_eq_foldl, List.foldl_map]
  unfold keystoneSum
  congr 1
  funext a x
  match x with
  | .nan => exact (Int.add_zero a).symm
  | .inf _ => exact (Int.add_zero a).symm
  | .fin true _ _ => exact Int.sub_eq_add_neg
  | .fin false _ _ => rfl

theorem keystoneSum_perm {xs ys : List Machine.Num} (h : xs.Perm ys) : keystoneSum xs = keystoneSum ys := by
  rw [keystoneSum_eq_sum, keystoneSum_eq_sum, (h.map keystoneTerm).sum_eq]

/-- Settles O35: NaNs, infinities and the signs of zeros are looked for among the inputs, and the rest is a sum. -/
theorem keystoneSumIgnoresTheOrder : Obligations.KeystoneSumIgnoresTheOrder := by
  unfold Obligations.KeystoneSumIgnoresTheOrder
  intro xs ys h
  unfold keystone
  simp only [h.any_eq, h.contains_eq, h.all_eq, keystoneSum_perm h]

end Sys2Proof.Proofs

/-! Bytes written at their targets (02 R67, 19 R429), and writes that wait for their answer (02 R71). -/

namespace Sys2Proof.Proofs

open Sys2Proof Sys2Proof.Machine Sys2Proof.Laws

/-! What a write leaves of a byte. -/

/-- What does not touch the memories leaves every byte as it reads. -/
theorem get_of_within {l : List Field} {s t : State} (h : Within l s t) (k : Nat) (hl : Field.mem ∉ l := by decide) :
    t.store.get k = s.store.get k :=
  (congrArg (fun st : Store => st.get k) ((h.only .mem).resolve_left hl) :)

/-- Each write of a byte's bits is over what the writes before it left there. -/
theorem get_change (st : Store) (bs : List WByte) (k : Nat) (h : Memory.wf st) :
    (st.change bs).get k = bs.foldl (fun o b => if b.key = k then
      BitVec.ofNat 8 (Nat.lor (o.toNat - Nat.land o.toNat b.mask) b.val) else o) (st.get k) := by
  induction bs generalizing st with
  | nil => rfl
  | cons b r ih =>
    unfold Store.change
    rw [ih _ (wf_put _ _ _ h), get_put _ _ _ _ h, List.foldl_cons]
    congr 1
    by_cases e : b.key = k
    · rw [if_pos e.symm, if_pos e, e]
    · rw [if_neg (Ne.symm e), if_neg e]

/-- Poison, injection and what jobs know stand apart from the bytes. -/
theorem get_landBytes (s : State) (own : Owner) (bs : List WByte) (poison : List Nat) (k : Nat) :
    (s.landBytes own bs poison).store.get k = (s.store.change bs).get k := by
  unfold State.landBytes
  exact (get_of_within (within_noteWritten _ _ _) k).trans (get_of_within (within_noteInjected _ _) k)

/-! Requests of other ports than the host's: only their answers reach memory. -/

/-- A request but for its transfer. -/
def untransferred (r : Request) : Request := { r with sent := false, tag := 0 }

/-- From s to t memory stands, and so does every request but for its transfer. -/
structure OnlyTransfers (s t : State) : Prop where
  store    : t.store = s.store
  requests : t.ports.requests.map untransferred = s.ports.requests.map untransferred

theorem OnlyTransfers.refl (s : State) : OnlyTransfers s s := ⟨rfl, rfl⟩

theorem OnlyTransfers.trans {s t u : State} (h : OnlyTransfers s t) (k : OnlyTransfers t u) : OnlyTransfers s u :=
  ⟨k.store.trans h.store, k.requests.trans h.requests⟩

theorem onlyTransfers_countBytes (s : State) (part : Nat) (p : Port) (dir n : Nat) : OnlyTransfers s (s.countBytes part p dir n) := by
  unfold State.countBytes
  split <;> exact ⟨rfl, rfl⟩

/-- A transfer at another port than the host's is not an answer (19 R430, R438). -/
theorem onlyTransfers_pumpGo {p : Port} (hp : p ≠ .host) (n : Nat) (s : State) (acc : List Request) :
    OnlyTransfers s (State.pumpGo p n s acc).1 := by
  have notHost : (p == .host) = false := beq_eq_false_iff_ne.2 hp
  induction n generalizing s acc with
  | zero => exact .refl s
  | succ n ih =>
    unfold State.pumpGo
    split
    · extract_lets
      split <;> exact ⟨rfl, rfl⟩
    · extract_lets _ _ _ s1 s2 s3 done _ _ s4
      split
      · exact .refl s
      · have h2 : OnlyTransfers s s2 := by
          unfold s2
          split
          · exact ⟨rfl, rfl⟩
          · exact OnlyTransfers.trans (t := s1) ⟨rfl, rfl⟩ (onlyTransfers_countBytes s1 _ _ _ _)
        have h3 : OnlyTransfers s s3 := by
          unfold s3
          split
          · exact ⟨h2.store, h2.requests⟩
          · exact h2
        have notDone : done = false := by
          unfold done
          rw [notHost, Bool.false_and]
        have h4 : OnlyTransfers s3 s4 := by
          unfold s4
          rw [notDone]
          exact ⟨rfl, map_modAt untransferred _ _ _ fun _ => rfl⟩
        rw [notDone]
        exact (h3.trans h4).trans (ih _ _)

/-- Requests put to such ports stand behind those before them, as they are but for their transfers. -/
theorem onlyTransfers_addRequests (s : State) (rs : List Request) (h : ∀ r ∈ rs, r.port ≠ .host) :
    OnlyTransfers { s with ports := { s.ports with requests := s.ports.requests ++ rs } } (s.addRequests rs) := by
  unfold State.addRequests
  refine List.foldlRecOn (motive := OnlyTransfers _) _ _ (.refl _) fun t ht p hp => ht.trans ?_
  obtain ⟨r, hr, rfl⟩ := List.mem_map.1 (List.mem_eraseDups.1 hp)
  exact onlyTransfers_pumpGo (h r hr) _ _ _

/-- A piece of a write carries bytes of the write. -/
theorem target_of_mem_pieces {bs : List (Target × Nat)} {k : Target × Nat × List Nat} (h : k ∈ State.pieces bs) :
    ∃ x ∈ bs, x.1 = k.1 := by
  unfold State.pieces at h
  obtain ⟨b, hb, rfl⟩ := List.mem_map.1 h
  obtain ⟨x, hx, rfl⟩ := List.mem_map.1 (List.mem_eraseDups.1 hb)
  exact ⟨x, hx, rfl⟩

/-- A write issued to other ports than the host's changes no byte until it is answered. -/
theorem issueElems_store {s : State} {own : Owner} {part route : Nat} {bs : List State.Put8} {poison : List Nat} {span : Option Nat}
    (h : ∀ x ∈ bs, ∃ p, s.portOf x.target = some p ∧ p ≠ .host) : (s.issueElems own part route bs poison span).store = s.store := by
  unfold State.issueElems
  extract_lets here s1 reqs
  have noneHere : here = [] := by
    refine List.filter_eq_nil_iff.2 fun x hx => ?_
    obtain ⟨p, hp, -⟩ := h x hx
    split
    · next e =>
      rw [e] at hp
      cases hp
    · exact Bool.false_ne_true
  rw [show s1 = s from if_pos (List.isEmpty_iff.2 noneHere)]
  refine (onlyTransfers_addRequests s reqs fun r hr => ?_).store
  obtain ⟨k, hk, hr⟩ := List.mem_filterMap.1 hr
  obtain ⟨p, hp, rfl⟩ := Option.map_eq_some_iff.1 hr
  obtain ⟨y, hy, hyk⟩ := target_of_mem_pieces hk
  obtain ⟨x, hx, rfl⟩ := List.mem_map.1 hy
  obtain ⟨q, hq, hne⟩ := h x hx
  rw [← hyk] at hp
  exact Option.some.inj (hq.symm.trans hp) ▸ hne

/-- Settles O8: bytes that land are changed one after another, and a write issued elsewhere is a request that waits for its answer. -/
theorem storeReadsBackWhatWasWritten : Obligations.StoreReadsBackWhatWasWritten := by
  unfold Obligations.StoreReadsBackWhatWasWritten
  refine ⟨fun s own bs poison k hw => (get_landBytes s own bs poison k).trans (get_change s.store bs k hw),
    fun s own part route bs poison span h => issueElems_store h, fun st hw => ⟨fun k b => ⟨?_, fun i hi => ?_⟩, fun l k hk => ?_,
      fun base len k => ⟨get_zero_inside st base len k, fun hk => ?_⟩⟩⟩
  · rw [get_put _ _ _ _ hw, if_pos rfl]
  · rw [get_put _ _ _ _ hw, if_neg hi]
  · exact get_writeAll_other st l k hw fun x hx e => hk (e ▸ List.mem_map_of_mem hx)
  · exact get_zero_outside st base len k hw (by omega)

end Sys2Proof.Proofs

/-! BARRIER, its arrivals, and NOP (02 R72 to R76, 05 R125). -/

namespace Sys2Proof.Proofs

open Sys2Proof Sys2Proof.Machine Sys2Proof.Laws

/-! The end of an entry of no group, at POSITION 0. -/

/-- BARRIER and NOP are no group opcodes (05 R124). -/
theorem groupOp_of_opcode {j : Job} {op : Nat} (h : Entry.opcode j.entry = op)
    (hop : [0x05, 0x06, 0x07, 0x08, 0x09, 0x0C].contains op = false) : j.groupOp = false := by
  unfold Job.groupOp
  rw [h, hop, Bool.and_false]

/-- No tile lies below element 0, so nothing counts. -/
theorem countsBelow_zero (j : Job) : j.countsBelow 0 = (0, 0) := by
  unfold Job.countsBelow
  simp only [Nat.not_lt_zero, decide_false, Bool.false_and, List.filter_false]
  split <;> rfl

/-- An I/O entry without threads whose queue is not halted ends with no more than its job, its queue and its requests changed. -/
theorem endRaw_rest {s : State} {j : Job} {x : Queue} {n : Nat} (h : s.job? j.uid = some j) (hio : j.queue = .io n)
    (hx : s.queue? j.queue = some x) (hs : x.state ≠ .halted) (ht : j.threads = []) (code detail pos : Nat) :
    s.endRaw j.uid code detail pos = { s with
      jobs := (s.endRaw j.uid code detail pos).jobs
      queues := (s.endRaw j.uid code detail pos).queues
      ports := { s.ports with requests := (s.endRaw j.uid code detail pos).ports.requests } } := by
  have noEffect : s.adminEffect j = s := by
    unfold State.adminEffect
    rw [hio]
  let z := (s.modJob j.uid fun j => j.ended code detail pos).modQueue j.queue fun y =>
    { y with fetched := y.fetched.filter (·.uid != j.uid) }
  obtain ⟨l, hl⟩ := drainReads_eq z j.uid fun _ => true
  let d : State := { z with ports := { z.ports with requests := l } }
  have hq : d.queue? j.queue = some { x with fetched := x.fetched.filter (·.uid != j.uid) } :=
    queue?_modQueue_self (s := s.modJob j.uid fun j => j.ended code detail pos) hx rfl
  have quiet : d.noteHalts j.queue = d := by
    unfold State.noteHalts
    simp [hq, hs]
  have run : s.endRaw j.uid code detail pos = d := by
    unfold State.endRaw State.afterKill
    rw [h]
    dsimp only
    rw [noEffect, ht]
    exact (congrArg (State.noteHalts · j.queue) hl).trans quiet
  rw [run]
  rfl

/-! Messages to other devices. -/

/-- No message leaves by the host port. -/
theorem msgPort_ne_host {s : State} {dst : MsgSrc} {p : Port} (h : s.msgPort dst = some p) : p ≠ .host := by
  unfold State.msgPort at h
  split at h <;>
  · obtain ⟨_, _, rfl⟩ := Option.map_eq_some_iff.1 h
    exact Port.noConfusion

/-- The way to an engine does not change with what waits at the ports. -/
theorem msgPort_of_within {l : List Field} {s t : State} (h : Within l s t) (dst : MsgSrc) (hl : Field.links ∉ l := by decide) :
    t.msgPort dst = s.msgPort dst :=
  (congrArg (fun x : Ports => State.msgPort { s with ports := x } dst) ((h.only .links).resolve_left hl) :)

/-- A message put to a port stands behind the requests before it, all but for their transfers. -/
theorem onlyTransfers_postMsg {s : State} {dst : MsgSrc} {p : Port} (h : s.msgPort dst = some p) (part : Nat) (m : Msg) :
    OnlyTransfers { s with ports := { s.ports with requests := s.ports.requests ++
      [{ port := p, owner := .message, body := .message dst m, part, granules := State.msgGranules m }] } } (s.postMsg part dst m) := by
  unfold State.postMsg
  rw [h]
  exact onlyTransfers_addRequests s _ fun r hr => List.mem_singleton.1 hr ▸ msgPort_ne_host h

theorem OnlyTransfers.exists_mem {s t : State} (h : OnlyTransfers s t) {r : Request} (hr : r ∈ s.ports.requests) :
    ∃ q ∈ t.ports.requests, untransferred q = untransferred r :=
  List.mem_map.1 (h.requests ▸ List.mem_map_of_mem hr)

/-- A request of which all but the transfer is that of a message carries the message. -/
theorem message_of_untransferred {q r : Request} (h : untransferred q = untransferred r) :
    q.port = r.port ∧ q.part = r.part ∧ q.body = r.body :=
  ⟨(congrArg Request.port h :), (congrArg Request.part h :), (congrArg Request.body h :)⟩

theorem sentOn_postMsg (s : State) (part : Nat) (dst : MsgSrc) (m : Msg) : SentOn (s.postMsg part dst m) part dst m := by
  intro p hp
  rw [msgPort_of_within (within_postMsg s part dst m)] at hp
  obtain ⟨q, hq, e⟩ := (onlyTransfers_postMsg hp part m).exists_mem (List.mem_append_right _ List.mem_cons_self)
  exact ⟨q, hq, message_of_untransferred e⟩

/-- A message sent stays sent while others are. -/
theorem sentOn_postMsg_of_sentOn {s : State} {part : Nat} {dst : MsgSrc} {m : Msg} (h : SentOn s part dst m) (part' : Nat) (dst' : MsgSrc)
    (m' : Msg) : SentOn (s.postMsg part' dst' m') part dst m := by
  intro p hp
  rw [msgPort_of_within (within_postMsg s part' dst' m')] at hp
  obtain ⟨r, hr, hport, hpart, hbody⟩ := h p hp
  cases e : s.msgPort dst' with
  | none =>
    unfold State.postMsg
    rw [e]
    exact ⟨r, hr, hport, hpart, hbody⟩
  | some p' =>
    obtain ⟨q, hq, eq⟩ := (onlyTransfers_postMsg e part' m').exists_mem (List.mem_append_left _ hr)
    obtain ⟨qport, qpart, qbody⟩ := message_of_untransferred eq
    exact ⟨q, hq, qport.trans hport, qpart.trans hpart, qbody.trans hbody⟩

/-- One message to each of a list of devices. -/
def postAll (part : Nat) (m : Msg) (ds : List Nat) (s : State) : State := ds.foldl (fun s d => s.postMsg part (.deck d) m) s

theorem jobsStand_postMsg (s : State) (part : Nat) (dst : MsgSrc) (m : Msg) : JobsStand s (s.postMsg part dst m) := by
  unfold State.postMsg
  split
  · exact jobsStand_addRequests _ _
  · rfl

theorem jobsStand_postAll (part : Nat) (m : Msg) (ds : List Nat) (s : State) : JobsStand s (postAll part m ds s) :=
  jobsStand_foldl (fun _ _ => jobsStand_postMsg _ _ _ _) ds s

theorem sentOn_postAll_of_sentOn {s : State} {part : Nat} {dst : MsgSrc} {m : Msg} (h : SentOn s part dst m) (part' : Nat) (m' : Msg)
    (ds : List Nat) : SentOn (postAll part' m' ds s) part dst m :=
  List.foldlRecOn (motive := fun t => SentOn t part dst m) _ _ h fun _ ht _ _ =>
    sentOn_postMsg_of_sentOn ht _ _ _

theorem sentOn_postAll (part : Nat) (m : Msg) {ds : List Nat} {d : Nat} (hd : d ∈ ds) (s : State) :
    SentOn (postAll part m ds s) part (.deck d) m := by
  induction ds generalizing s with
  | nil => cases hd
  | cons x r ih =>
    rcases List.mem_cons.1 hd with rfl | hd
    · exact sentOn_postAll_of_sentOn (sentOn_postMsg s part (.deck d) m) part m r
    · exact ih hd _

/-! A barrier's step. -/

/-- The job is a BARRIER of an I/O queue that has been admitted and has not ended. -/
structure BarrierRuns (s : State) (j : Job) : Prop where
  job     : s.job? j.uid = some j
  opcode  : Entry.opcode j.entry = 0x0B
  io      : ∃ n, j.queue = .io n
  phase   : j.phase = .running
  stopped : j.stopped = false
  order   : j.order ≠ 0

/-- The devices a barrier names, but for the own one. -/
def otherDevices (s : State) (j : Job) : List Nat := (State.barDevices j.entry).filter (· != s.block.deckId.toNat)

/-- A DECK barrier that has sent its arrival: its own counts, and so do those that were held. -/
def opened (own : Nat) (held : List Nat) (j : Job) : Job :=
  { j with pass := { j.pass with bphase := 1, arrived := own :: (j.pass.arrived ++ held) } }

/-- The state in which a DECK barrier has taken the arrivals held for it and sent its own. -/
def barrierSent (s : State) (j : Job) : State :=
  let a := State.takeArrivals (s.part j.part).arrivals ((otherDevices s j).filter fun d => !j.pass.arrived.contains d)
    (Entry.barId j.entry)
  postAll j.part (.barrier s.block.deckId.toNat j.part (Entry.barId j.entry)) (otherDevices s j)
    ((s.modPart j.part fun x => { x with arrivals := a.1 }).modJob j.uid (opened s.block.deckId.toNat a.2))

/-- A DECK barrier completes once every device listed has arrived. -/
def endIfArrived (ds : List Nat) (uid : Nat) (s : State) : State :=
  match s.job? uid with
  | some k => if ds.all k.pass.arrived.contains then s.endJob uid 0 0 0 else s
  | none => s

theorem takeArrivals_nil (ds : List Nat) (id : Nat) : State.takeArrivals [] ds id = ([], []) := by
  unfold State.takeArrivals
  induction ds with
  | nil => rfl
  | cons d r ih => exact ih

/-- A barrier waits for the earlier entries of its queue. -/
theorem barrierStep_of_queue {s : State} {j : Job} (hj : s.job? j.uid = some j) (h : s.queueMet j = false) :
    s.barrierStep j.uid = s := by
  unfold State.barrierStep
  rw [hj]
  dsimp only
  rw [h, if_pos (c := (!false) = true) rfl]
  exact ite_self s

/-- Once they have completed, its scope decides (R73). -/
theorem barrierStep_eq {s : State} {j : Job} (h : BarrierRuns s j) (hq : s.queueMet j = true) : s.barrierStep j.uid =
    if Entry.barScope j.entry = 1 then (if s.partMet j then s.endJob j.uid 0 0 0 else s)
    else if Entry.barScope j.entry = 0 ∨ (otherDevices s j).isEmpty then s.endJob j.uid 0 0 0
    else endIfArrived (otherDevices s j) j.uid (if j.pass.bphase ≠ 0 then s else barrierSent s j) := by
  obtain ⟨n, hio⟩ := h.io
  unfold State.barrierStep
  rw [h.job]
  dsimp only
  rw [if_neg (by simp [h.opcode, hio, h.phase, h.stopped, h.order]), if_neg (by simp [hq])]
  rfl

/-- A DECK barrier that has sent its arrival waits for the other devices alone. -/
theorem barrierStep_deck {s : State} {j : Job} (h : BarrierRuns s j) (hq : s.queueMet j = true) (hd : Entry.barScope j.entry = 2)
    (ho : otherDevices s j ≠ []) : s.barrierStep j.uid =
      endIfArrived (otherDevices s j) j.uid (if j.pass.bphase ≠ 0 then s else barrierSent s j) := by
  rw [barrierStep_eq h hq, if_neg (by simp [hd]), if_neg (by simp [hd, ho])]

theorem endIfArrived_of_all {s : State} {uid : Nat} {k : Job} {ds : List Nat} (hk : s.job? uid = some k)
    (h : ∀ d ∈ ds, d ∈ k.pass.arrived) : endIfArrived ds uid s = s.endJob uid 0 0 0 := by
  unfold endIfArrived
  rw [hk]
  exact if_pos (List.all_eq_true.2 fun d hd => List.contains_iff_mem.2 (h d hd))

theorem endIfArrived_of_missing {s : State} {uid d : Nat} {k : Job} {ds : List Nat} (hk : s.job? uid = some k) (hd : d ∈ ds)
    (h : d ∉ k.pass.arrived) : endIfArrived ds uid s = s := by
  unfold endIfArrived
  rw [hk]
  exact if_neg fun all => h (List.contains_iff_mem.1 (List.all_eq_true.1 all d hd))

/-- With no arrival held, a DECK barrier has its own arrival and no other. -/
theorem barrierSent_job {s : State} {j : Job} (hj : s.job? j.uid = some j) (ha : j.pass.arrived = []) (hh : (s.part j.part).arrivals = []) :
    ∃ k, (barrierSent s j).job? j.uid = some k ∧ k.phase = j.phase ∧ k.pass.bphase = 1 ∧ k.pass.arrived = [s.block.deckId.toNat] := by
  unfold barrierSent
  rw [hh, takeArrivals_nil]
  have own : ((s.modPart j.part fun x => { x with arrivals := [] }).modJob j.uid (opened s.block.deckId.toNat [])).job? j.uid =
      some (opened s.block.deckId.toNat [] j) := job?_modJob_self (s := s.modPart j.part _) hj rfl
  obtain ⟨k, hk, hbare⟩ := (jobsStand_postAll j.part (.barrier s.block.deckId.toNat j.part (Entry.barId j.entry)) (otherDevices s j)
    _).job?_some own
  have hpass : k.pass = (opened s.block.deckId.toNat [] j).pass := (congrArg Job.pass hbare :)
  refine ⟨k, hk, (congrArg Job.phase hbare :), ?_, ?_⟩
  · rw [hpass]
    rfl
  · simp [hpass, opened, ha]

/-! An arrival. -/

/-- A DECK barrier to which a device's arrival has come. -/
def reached (d : Nat) (j : Job) : Job := { j with pass := { j.pass with arrived := j.pass.arrived ++ [d] } }

/-- The state in which an arrival has left the inbox. -/
def arrivalTaken (s : State) (m : Msg) : State := { s with ports := { s.ports with inbox := s.ports.inbox.erase m } }

section

variable {s : State} {d p id : Nat} (hin : s.ports.inbox.contains (.barrier d p id) = true)

include hin

/-- An arrival goes to the barrier that waits for it, which goes on where nothing else keeps it (R76). -/
theorem deckArrives_of_waiting {j : Job} (h : s.barrierFor p id d = some j) : s.deckArrives (.barrier d p id) =
    ((arrivalTaken s (.barrier d p id)).modJob j.uid (reached d)).barrierStep j.uid := by
  have h1 : (arrivalTaken s (.barrier d p id)).barrierFor p id d = some j := h
  unfold arrivalTaken at h1 ⊢
  unfold State.deckArrives
  dsimp only
  rw [if_neg (by rw [hin]; exact Bool.false_ne_true), h1]
  rfl

/-- With no barrier waiting it is held, up to 64, or refused (R76). -/
theorem deckArrives_of_none (h : s.barrierFor p id d = none) : s.deckArrives (.barrier d p id) =
    if (s.part p).arrivals.length < 64 then
      (arrivalTaken s (.barrier d p id)).modPart p fun x => { x with arrivals := x.arrivals ++ [(d, id)] }
    else (arrivalTaken s (.barrier d p id)).postMsg p (.deck d) (.barrierRefused p id) := by
  have h1 : (arrivalTaken s (.barrier d p id)).barrierFor p id d = none := h
  unfold arrivalTaken at h1 ⊢
  unfold State.deckArrives
  dsimp only
  rw [if_neg (by rw [hin]; exact Bool.false_ne_true), h1]
  rfl

end

/-! The three clauses. -/

/-- A NOP that runs completes with OK, POSITION, COUNT and AUX 0. -/
theorem nop_completes {s : State} {j : Job} (h : s.job? j.uid = some j) (hop : Entry.opcode j.entry = 0x0F) (hp : j.phase = .running)
    (hs : j.stopped = false) (ho : j.order ≠ 0) :
    exec (.nop j.uid) s = .next (s.endRaw j.uid 0 0 0) ∧ ∃ k, (s.endRaw j.uid 0 0 0).job? j.uid = some k ∧ k.phase = .ending ∧
      k.code = 0 ∧ k.detail = 0 ∧ k.position = 0 ∧ k.count = 0 ∧ k.aux = 0 ∧ OthersStand s (s.endRaw j.uid 0 0 0) j.uid := by
  have run : s.nop_ j.uid = s.endRaw j.uid 0 0 0 := by
    unfold State.nop_
    rw [h]
    dsimp only
    rw [if_pos (by simp [hop, hp, hs, ho]), endJob_eq_endRaw h (groupOp_of_opcode hop rfl)]
  obtain ⟨⟨k, hk, hbare⟩, others⟩ := endRaw_job h 0 0 0
  obtain ⟨hcount, haux⟩ := ended_counts hp 0 0 0
  rw [countsBelow_zero] at hcount haux
  exact ⟨congrArg Host.Outcome.next run, k, hk, (congrArg Job.phase hbare :), (congrArg Job.code hbare :), (congrArg Job.detail hbare :),
    (congrArg Job.position hbare :), (congrArg Job.count hbare).trans hcount, (congrArg Job.aux hbare).trans haux, others⟩

/-- A barrier whose step is its end completes with OK and POSITION 0. -/
theorem barrier_completes {s : State} {j : Job} (h : BarrierRuns s j) (hstep : s.barrierStep j.uid = s.endJob j.uid 0 0 0) :
    ∃ t, exec (.barrier j.uid) s = .next t ∧ (∃ k, t.job? j.uid = some k ∧ k.phase = .ending ∧ k.code = 0 ∧ k.detail = 0 ∧
      k.position = 0) ∧ OthersStand s t j.uid := by
  obtain ⟨⟨k, hk, hbare⟩, others⟩ := endRaw_job h.job 0 0 0
  refine ⟨_, congrArg Host.Outcome.next (hstep.trans (endJob_eq_endRaw h.job (groupOp_of_opcode h.opcode rfl) 0 0 0)), ?_, others⟩
  exact ⟨k, hk, (congrArg Job.phase hbare :), (congrArg Job.code hbare :), (congrArg Job.detail hbare :),
    (congrArg Job.position hbare :)⟩

/-- A DECK barrier to which nothing has come sends its arrival to every other device it names, and waits for theirs. -/
theorem barrier_sends {s : State} {j : Job} (h : BarrierRuns s j) (hq : s.queueMet j = true) (hd : Entry.barScope j.entry = 2)
    (hne : otherDevices s j ≠ []) (hb : j.pass.bphase = 0) (ha : j.pass.arrived = []) (hh : (s.part j.part).arrivals = []) :
    s.barrierStep j.uid = barrierSent s j := by
  obtain ⟨k, hk, -, -, harrived⟩ := barrierSent_job h.job ha hh
  obtain ⟨d, hmem⟩ := List.exists_mem_of_ne_nil _ hne
  have missing : d ∉ k.pass.arrived := by
    rw [harrived, List.mem_singleton]
    simpa using (List.mem_filter.1 hmem).2
  rw [barrierStep_deck h hq hd hne, if_neg (by simp [hb])]
  exact endIfArrived_of_missing hk hmem missing

/-- Settles O41: a barrier's end is that of an entry of no group; its DECK scope turns on the devices that have arrived. -/
theorem barriersWaitForTheirScope : Obligations.BarriersWaitForTheirScope := by
  unfold Obligations.BarriersWaitForTheirScope
  refine ⟨fun s j x n hj hop hio hp hs ho hx => ?_, fun s j n hj hop hio hp hs ho hq => ?_, fun s d p id => ?_⟩
  · obtain ⟨run, k, hk, hphase, hcode, hdetail, hpos, hcount, haux, others⟩ := nop_completes hj hop hp hs ho
    exact ⟨_, k, run, hk, hphase, hcode, hdetail, hpos, hcount, haux, others, fun hstate ht => endRaw_rest hj hio hx hstate ht 0 0 0⟩
  · have runs : BarrierRuns s j := ⟨hj, hop, ⟨n, hio⟩, hp, hs, ho⟩
    refine ⟨fun h0 => barrier_completes runs ?_, fun h1 hm => barrier_completes runs ?_, fun h1 hm => congrArg Host.Outcome.next ?_,
      fun h2 hne hb ha => barrier_completes runs ?_, fun h2 hne hb ha hh => ?_⟩
    · rw [barrierStep_eq runs hq, if_neg (by simp [h0]), if_pos (.inl h0)]
    · rw [barrierStep_eq runs hq, if_pos h1, if_pos hm]
    · rw [barrierStep_eq runs hq, if_pos h1, if_neg (by simp [hm])]
    · rw [barrierStep_deck runs hq h2 hne, if_pos (by simp [hb])]
      exact endIfArrived_of_all hj ha
    · obtain ⟨k, hk, hphase, hbphase, harrived⟩ := barrierSent_job hj ha hh
      exact ⟨_, k, congrArg Host.Outcome.next (barrier_sends runs hq h2 hne hb ha hh), hk, hphase.trans hp, hbphase, harrived,
        fun e he => sentOn_postAll _ _ he _⟩
  · intro m z hin _
    refine ⟨fun j hw hj hq => congrArg Host.Outcome.next ?_, fun hw hlt => congrArg Host.Outcome.next ?_,
      fun hw hle => congrArg Host.Outcome.next ?_⟩
    · have hk : (z.modJob j.uid (reached d)).job? j.uid = some (reached d j) := job?_modJob_self (s := z) hj rfl
      exact (deckArrives_of_waiting hin hw).trans (barrierStep_of_queue (j := reached d j) hk hq)
    · exact (deckArrives_of_none hin hw).trans (if_pos hlt)
    · exact (deckArrives_of_none hin hw).trans (if_neg (Nat.not_lt.2 hle))

end Sys2Proof.Proofs

/-! Status lines (03 R96 to R99), and the doorbells that take them to ERROR or are accepted (03 R81 to R85, R101). -/

namespace Sys2Proof.Proofs

open Sys2Proof Sys2Proof.Machine Sys2Proof.Laws

/-! A status line called for. -/

/-- From x to y a status line has been called for: it has been issued and SEQUENCE went up, or one more is due. -/
def LineCalled (x y : Queue) : Prop := y.due = x.due ∧ y.seq = x.seq + 1 ∨ y.due = x.due + 1 ∧ y.seq = x.seq

/-- A queue for which one more status line is due, with the halted entries as they stand. -/
def lineDue (s : State) (q : QId) (y : Queue) : Queue := { y with due := y.due + 1, haltIndex := s.haltIndex q, haltCount := s.haltCount q }

/-- A queue of which a status line has been issued. -/
def lineIssued (y : Queue) : Queue := { y with due := y.due - 1, seq := y.seq + 1, xlat := [] }

theorem issue_queue? (s : State) (own : Owner) (part elem route : Nat) (bs : List (Target × Nat × Byte)) (poison : List Nat)
    (span : Option Nat) (q : QId) : (s.issue own part elem route bs poison span).queue? q = s.queue? q := by
  unfold State.queue?
  rw [issue_queues]

theorem writeStatus_eq {s : State} {q : QId} {x : Queue} (h : s.queue? q = some x) (hl : x.lost = false) :
    s.writeStatus q = (s.modQueue q (lineDue s q)).flushDue q := by
  unfold State.writeStatus
  rw [h]
  dsimp only
  rw [if_neg (by rw [hl]; exact Bool.false_ne_true)]
  rfl

/-- A line that is due is issued as it stands where its page is translated. -/
theorem flushDue_of_placed {s : State} {q : QId} {x : Queue} {bs : List (Target × Nat × Byte)} (h : s.queue? q = some x)
    (hd : x.due ≠ 0) (hp : s.place (State.queuePart x) x.xlat x.status.toNat (s.statusBytes x) = some bs) :
    s.flushDue q = (s.modQueue q lineIssued).issue (.status q) (State.queuePart x) 0 0 bs [] := by
  unfold State.flushDue
  rw [h]
  dsimp only
  rw [if_neg hd, hp]
  rfl

/-- Elsewhere its translation is asked for, and no queue changes. -/
theorem flushDue_queue?_of_unplaced {s : State} {q : QId} {x : Queue} (h : s.queue? q = some x)
    (hp : s.place (State.queuePart x) x.xlat x.status.toNat (s.statusBytes x) = none) (r : QId) :
    (s.flushDue q).queue? r = s.queue? r := by
  unfold State.flushDue
  rw [h]
  dsimp only
  rw [hp]
  split <;> rfl

/-- A status line written has been called for. -/
theorem lineCalled_writeStatus {s : State} {q : QId} {x y : Queue} (h : s.queue? q = some x) (hl : x.lost = false)
    (hy : (s.writeStatus q).queue? q = some y) : LineCalled x y := by
  have due : (s.modQueue q (lineDue s q)).queue? q = some (lineDue s q x) := queue?_modQueue_self h rfl
  rw [writeStatus_eq h hl] at hy
  cases hp : (s.modQueue q (lineDue s q)).place (State.queuePart x) x.xlat x.status.toNat
      ((s.modQueue q (lineDue s q)).statusBytes (lineDue s q x)) with
  | some bs =>
    rw [flushDue_of_placed due (Nat.succ_ne_zero _) hp, issue_queue?, queue?_modQueue_self due rfl] at hy
    obtain rfl := Option.some.inj hy
    exact .inl ⟨rfl, rfl⟩
  | none =>
    rw [flushDue_queue?_of_unplaced due hp, due] at hy
    obtain rfl := Option.some.inj hy
    exact .inr ⟨rfl, rfl⟩

/-! The transfer of a status line at the host port, which is its acknowledgement (19 R438). -/

/-- The bytes of an access, as the bits they write at their keys. -/
def wholeBytes (bs : List (Target × Nat × Byte)) : List WByte := bs.map fun b => ⟨locKey b.1 b.2.1, 255, b.2.2.toNat⟩

/-- The request of a status line in one granule of host memory. -/
def lineRequest (q : QId) (part : Nat) (bs : List (Target × Nat × Byte)) : Request :=
  { port := .host, owner := .status q, body := .write (wholeBytes bs) [], part }

/-! Lists of one value, however often. -/

theorem eraseDups_of_forall_eq {α : Type} [BEq α] [LawfulBEq α] {l : List α} {a : α} (hn : l ≠ []) (h : ∀ x ∈ l, x = a) :
    l.eraseDups = [a] := by
  cases l with
  | nil => exact absurd rfl hn
  | cons x r =>
    obtain ⟨rfl, hr⟩ := List.forall_mem_cons.1 h
    rw [List.eraseDups_cons, List.filter_eq_nil_iff.2 fun y hy => by simp [hr y hy]]
    rfl

theorem foldl_of_forall_eq {α : Type} {f : α → α → α} {l : List α} {a : α} (hf : f a a = a) (h : ∀ x ∈ l, x = a) :
    l.foldl f a = a := by
  induction l with
  | nil => rfl
  | cons x r ih =>
    obtain ⟨rfl, hr⟩ := List.forall_mem_cons.1 h
    rw [List.foldl_cons, hf, ih hr]

theorem listMinD_of_forall_eq {l : List Nat} {a d : Nat} (hn : l ≠ []) (h : ∀ x ∈ l, x = a) : listMinD l d = a := by
  cases l with
  | nil => exact absurd rfl hn
  | cons x r =>
    obtain ⟨rfl, hr⟩ := List.forall_mem_cons.1 h
    exact foldl_of_forall_eq (Nat.min_self x) hr

theorem foldl_max_of_forall_eq {l : List Nat} {a : Nat} (hn : l ≠ []) (h : ∀ x ∈ l, x = a) : l.foldl max 0 = a := by
  cases l with
  | nil => exact absurd rfl hn
  | cons x r =>
    obtain ⟨rfl, hr⟩ := List.forall_mem_cons.1 h
    rw [List.foldl_cons, Nat.zero_max]
    exact foldl_of_forall_eq (Nat.max_self x) hr

/-! A status line's page lies in one granule: one request. -/

/-- A piece within one granule transfers one (19 R428). -/
theorem pieceGranules_eq_one {l : List Nat} {g : Nat} (hn : l ≠ []) (h : ∀ a ∈ l, a / 64 = g) : State.pieceGranules l = 1 := by
  have hgs : l.map (· / 64) ≠ [] := mt List.map_eq_nil_iff.1 hn
  have same : ∀ b ∈ l.map (· / 64), b = g := List.forall_mem_map.2 h
  unfold State.pieceGranules
  dsimp only
  rw [foldl_max_of_forall_eq hgs same, listMinD_of_forall_eq hgs same, Nat.sub_self]

/-- Bytes in one granule of host memory make one piece. -/
theorem pieces_of_one_granule {bs : List (Target × Nat)} {g : Nat} (hn : bs ≠ []) (h : ∀ b ∈ bs, b.1 = .host ∧ b.2 / 64 = g) :
    State.pieces bs = [(.host, g / 4, bs.map (·.2))] := by
  have block : ∀ b ∈ bs, b.1 = .host ∧ b.2 / 256 = g / 4 := fun b hb => by
    obtain ⟨h1, h2⟩ := h b hb
    exact ⟨h1, by omega⟩
  have one : (bs.map fun x => (x.1, x.2 / 256)).eraseDups = [(Target.host, g / 4)] :=
    eraseDups_of_forall_eq (mt List.map_eq_nil_iff.1 hn) (List.forall_mem_map.2 fun b hb => Prod.ext (block b hb).1 (block b hb).2)
  have all : bs.filter (fun x => x.1 == .host && x.2 / 256 == g / 4) = bs :=
    List.filter_eq_self.2 fun b hb => by simp [block b hb]
  unfold State.pieces
  dsimp only
  rw [one]
  simp only [List.map_cons, List.map_nil, all]

/-- A write within one granule of host memory is one request at the host port. -/
theorem issueElems_of_one_granule {s : State} {own : Owner} {part g : Nat} {ps : List State.Put8} (hn : ps ≠ [])
    (h : ∀ p ∈ ps, p.target = .host ∧ p.addr / 64 = g ∧ p.elem = 0) :
    s.issueElems own part 0 ps [] none =
      s.addRequests [{ port := .host, owner := own, body := .write (ps.map State.Put8.wbyte) [], part }] := by
  have one := pieces_of_one_granule (bs := ps.map fun x => (x.target, x.addr)) (mt List.map_eq_nil_iff.1 hn)
    (List.forall_mem_map.2 fun p hp => ⟨(h p hp).1, (h p hp).2.1⟩)
  rw [List.map_map] at one
  have gran : State.pieceGranules (ps.map ((·.2) ∘ fun x => (x.target, x.addr))) = 1 :=
    pieceGranules_eq_one (mt List.map_eq_nil_iff.1 hn) (List.forall_mem_map.2 fun p hp => (h p hp).2.1)
  have all : ps.filter (fun x => x.target == .host && x.addr / 256 == g / 4) = ps := List.filter_eq_self.2 fun p hp => by
    obtain ⟨h1, h2, -⟩ := h p hp
    simp only [h1, beq_self_eq_true, Bool.true_and, beq_iff_eq]
    omega
  have elems : listMinD (ps.map (·.elem)) 0 = 0 :=
    listMinD_of_forall_eq (mt List.map_eq_nil_iff.1 hn) (List.forall_mem_map.2 fun p hp => (h p hp).2.2)
  unfold State.issueElems
  extract_lets here s1 reqs
  have noneHere : here = [] := List.filter_eq_nil_iff.2 fun p hp => by
    rw [(h p hp).1]
    exact Bool.false_ne_true
  have hreqs : reqs = [{ port := .host, owner := own, body := .write (ps.map State.Put8.wbyte) [], part }] := by
    unfold reqs
    rw [one]
    simp [State.portOf, all, gran, elems]
  rw [hreqs, show s1 = s from if_pos (List.isEmpty_iff.2 noneHere)]

theorem issue_line {s : State} {q : QId} {part g : Nat} {bs : List (Target × Nat × Byte)} (hn : bs ≠ [])
    (h : ∀ b ∈ bs, b.1 = .host ∧ b.2.1 / 64 = g) : s.issue (.status q) part 0 0 bs [] = s.addRequests [lineRequest q part bs] := by
  unfold State.issue
  rw [issueElems_of_one_granule (mt List.map_eq_nil_iff.1 hn) (List.forall_mem_map.2 fun b hb => ⟨(h b hb).1, (h b hb).2, rfl⟩),
    List.map_map]
  rfl

/-! The host port transfers it. -/

theorem portState_port (s : State) (p : Port) : (s.portState p).port = p := by
  unfold State.portState
  cases h : s.ports.states.find? (·.port == p) with
  | none => rfl
  | some x => simpa using List.find?_some h

/-- With nothing waiting, a port chooses nothing. -/
theorem choose_of_no_requests {s : State} (h : s.ports.requests = []) (x : PortState) : s.choose x = none := by
  simp [State.choose, State.waiting, State.nextPart, h]

/-- A port at which nothing waits at most forgets what its partitions had left to spend. -/
theorem pumpGo_of_no_requests {s : State} (h : s.ports.requests = []) (p : Port) (n : Nat) (acc : List Request) :
    (State.pumpGo p n s acc).1.block = s.block ∧ (State.pumpGo p n s acc).1.store = s.store := by
  cases n with
  | zero => exact ⟨rfl, rfl⟩
  | succ n =>
    unfold State.pumpGo
    rw [choose_of_no_requests h]
    dsimp only
    split <;> exact ⟨rfl, rfl⟩

/-- A status line goes ahead of data traffic (04 R115). -/
theorem choose_line {s : State} {q : QId} {part : Nat} {bs : List (Target × Nat × Byte)}
    (h : s.ports.requests = [lineRequest q part bs]) :
    s.choose (s.portState .host) = some (0, lineRequest q part bs, State.idleZero [lineRequest q part bs] (s.portState .host)) := by
  have first : State.waiting [lineRequest q part bs] .host State.aheadOf = some (0, lineRequest q part bs) := by
    simp [State.waiting, State.waits, State.aheadOf, State.fetchOf, lineRequest]
  have port : (State.idleZero [lineRequest q part bs] (s.portState .host)).port = .host := portState_port s .host
  unfold State.choose
  simp only [h, port, first]

/-- The state in which the host port has paid for a status line and transferred it. -/
def lineSent (s : State) (q : QId) (part : Nat) (bs : List (Target × Nat × Byte)) : State :=
  let x := State.idleZero [lineRequest q part bs] (s.portState .host)
  let t := (s.putPort { x with req := x.req - 1, wd := x.wd - 1 }).countBytes part .host 0 1
  { t with ports := { t.ports with requests := t.ports.requests.eraseIdx 0 } }

theorem pumpGo_line {s : State} {q : QId} {part : Nat} {bs : List (Target × Nat × Byte)} (h : s.ports.requests = [lineRequest q part bs])
    (hreq : (s.portState .host).req ≠ 0) (hwd : (s.portState .host).wd ≠ 0) (n : Nat) (acc : List Request) :
    State.pumpGo .host (n + 1) s acc =
      State.pumpGo .host n ((lineSent s q part bs).hostDone (lineRequest q part bs)) (acc ++ [lineRequest q part bs]) := by
  have noTags : State.freeTag [lineRequest q part bs] .host false = 0 := rfl
  have paid : ¬((State.idleZero [lineRequest q part bs] (s.portState .host)).req = 0 ∨
      (State.idleZero [lineRequest q part bs] (s.portState .host)).wd < 1 ∨ 8192 ≤ 0) := by
    simpa [State.idleZero, hreq] using hwd
  rw [State.pumpGo, choose_line h]
  dsimp only
  rw [h]
  refine (if_neg (noTags ▸ paid)).trans ?_
  rfl

theorem lineSent_rest {s : State} {q : QId} {part : Nat} {bs : List (Target × Nat × Byte)}
    (h : s.ports.requests = [lineRequest q part bs]) :
    (lineSent s q part bs).ports.requests = [] ∧ (lineSent s q part bs).block = s.block ∧ (lineSent s q part bs).store = s.store ∧
      (lineSent s q part bs).queues = s.queues := by
  unfold lineSent State.countBytes
  dsimp only
  split <;> exact ⟨congrArg (List.eraseIdx · 0) h, rfl, rfl, rfl⟩

/-- Bytes that land leave the ports without requests where there are none. -/
theorem landBytes_of_no_requests {s : State} (h : s.ports.requests = []) (own : Owner) (bs : List WByte) (poison : List Nat) :
    (s.landBytes own bs poison).ports.requests = [] := by
  have kept (z : State) (gs : List Nat) : (z.noteInjected gs).ports.requests = z.ports.requests :=
    congrArg Prod.fst (((within_noteInjected z gs).only .requests).resolve_left (by decide))
  unfold State.landBytes State.noteWritten
  dsimp only
  rw [kept]
  exact List.map_eq_nil_iff.2 h

/-- The acknowledgement of a status line pulses NOTE (03 R96), and its bytes stand. -/
theorem addRequests_line {s : State} {q : QId} {part : Nat} {bs : List (Target × Nat × Byte)} (hr : s.ports.requests = [])
    (hreq : (s.portState .host).req ≠ 0) (hwd : (s.portState .host).wd ≠ 0) :
    (s.addRequests [lineRequest q part bs]).block.out = .note (s.noteLine q) :: s.block.out ∧
      ∀ k, (s.addRequests [lineRequest q part bs]).store.get k = (s.store.change (wholeBytes bs)).get k := by
  let z : State := { s with ports := { s.ports with requests := [lineRequest q part bs] } }
  let sent := lineSent z q part bs
  let t := sent.landBytes (.status q) (wholeBytes bs) []
  have run : s.addRequests [lineRequest q part bs] =
      (State.pumpGo .host 1 (t.emit (.note (sent.noteLine q))) [lineRequest q part bs]).1 := by
    have pumped : s.addRequests [lineRequest q part bs] = (State.pumpGo .host 2 z []).1 := by
      unfold State.addRequests
      rw [hr]
      rfl
    rw [pumped, pumpGo_line (s := z) rfl hreq hwd]
    rfl
  obtain ⟨requests, block, store, queues⟩ := lineSent_rest (s := z) (q := q) (part := part) (bs := bs) rfl
  have out : t.block.out = s.block.out :=
    (((within_landBytes sent (.status q) (wholeBytes bs) []).only .out).resolve_left (by decide)).trans (congrArg Block.out block)
  have line : sent.noteLine q = s.noteLine q := by
    unfold State.noteLine State.queue?
    rw [show sent.queues = s.queues from queues]
  have idle : t.ports.requests = [] := landBytes_of_no_requests requests (.status q) (wholeBytes bs) []
  obtain ⟨hblock, hstore⟩ := pumpGo_of_no_requests (s := t.emit (.note (sent.noteLine q))) idle .host 1 [lineRequest q part bs]
  rw [run, hblock, hstore]
  refine ⟨?_, fun k => ?_⟩
  · rw [emit_block, out, line]
  · rw [emit_store, get_landBytes, store]

/-! What a status line leaves at the host. -/

theorem get_change_other {st : Store} {bs : List WByte} {k : Nat} (hw : Memory.wf st) (hk : ∀ b ∈ bs, b.key ≠ k) :
    (st.change bs).get k = st.get k := by
  rw [get_change _ _ _ hw]
  exact List.foldlRecOn (motive := (· = st.get k)) _ _ rfl fun o ho b hb => (if_neg (hk b hb)).trans ho

/-- Whole bytes at distinct keys read back. -/
theorem get_change_wholeBytes {st : Store} {bs : List (Target × Nat × Byte)} (hw : Memory.wf st)
    (hn : (bs.map fun b => locKey b.1 b.2.1).Nodup) {b : Target × Nat × Byte} (hb : b ∈ bs) :
    (st.change (wholeBytes bs)).get (locKey b.1 b.2.1) = b.2.2 := by
  induction bs generalizing st with
  | nil => cases hb
  | cons c r ih =>
    obtain ⟨hc, hr⟩ := List.nodup_cons.1 hn
    have whole (o : Byte) : BitVec.ofNat 8 (Nat.lor (o.toNat - Nat.land o.toNat 255) c.2.2.toNat) = c.2.2 := by
      have all : Nat.land o.toNat 255 = o.toNat := Nat.and_two_pow_sub_one_of_lt_two_pow (n := 8) o.isLt
      rw [all, Nat.sub_self]
      exact (congrArg (BitVec.ofNat 8) (Nat.zero_or _)).trans (by rw [BitVec.ofNat_toNat, BitVec.setWidth_eq])
    unfold wholeBytes
    rw [List.map_cons, Store.change, whole]
    rcases List.mem_cons.1 hb with rfl | hb
    · rw [get_change_other (wf_put _ _ _ hw) (List.forall_mem_map.2 fun y hy e => hc (List.mem_map.2 ⟨y, hy, e⟩)),
        get_put _ _ _ _ hw, if_pos rfl]
    · exact ih (wf_put _ _ _ hw) hr hb

/-- Bytes that have places have a first one. -/
theorem place_ne_nil {s : State} {p a : Nat} {xl : List Xlat} {l : List Byte} {bs : List (Target × Nat × Byte)} (hl : l ≠ [])
    (h : s.place p xl a l = some bs) : bs ≠ [] := by
  obtain ⟨b, r, rfl⟩ := List.exists_cons_of_ne_nil hl
  rintro rfl
  unfold State.place at h
  rw [List.length_cons, List.range_succ_eq_map, List.zip_cons_cons, List.mapM_cons] at h
  simp [Option.bind_eq_some_iff] at h

theorem statusBytes_ne_nil (s : State) (x : Queue) : s.statusBytes x ≠ [] := List.cons_ne_nil _ _

theorem noteLine_modQueue {s : State} {q : QId} {f : Queue → Queue} {x : Queue} (h : s.queue? q = some x) (hq : (f x).qid = x.qid)
    (hp : (f x).part = x.part) : (s.modQueue q f).noteLine q = s.noteLine q := by
  unfold State.noteLine
  rw [h, queue?_modQueue_self h hq, Option.map_some, Option.map_some, hp]

/-- A status line whose page is translated is issued at once. -/
theorem writeStatus_of_placed {s : State} {q : QId} {x : Queue} {bs : List (Target × Nat × Byte)} (h : s.queue? q = some x)
    (hl : x.lost = false) (hp : s.place (State.queuePart x) x.xlat x.status.toNat (s.statusBytes x) = some bs) :
    s.writeStatus q = (s.modQueue q fun y => lineIssued (lineDue s q y)).issue (.status q) (State.queuePart x) 0 0 bs [] := by
  have due : (s.modQueue q (lineDue s q)).queue? q = some (lineDue s q x) := queue?_modQueue_self h rfl
  rw [writeStatus_eq h hl, flushDue_of_placed due (Nat.succ_ne_zero _) hp, modQueue_modQueue _ _ (lineDue s q) lineIssued fun _ => rfl]
  rfl

/-- As an idle host port with credits transfers a status line, its bytes stand in host memory and NOTE pulses (03 R96, 19 R438). -/
theorem writeStatus_at_host {s : State} {q : QId} {x : Queue} {g : Nat} {bs : List (Target × Nat × Byte)} (h : s.queue? q = some x)
    (hl : x.lost = false) (hp : s.place (State.queuePart x) x.xlat x.status.toNat (s.statusBytes x) = some bs)
    (hg : ∀ b ∈ bs, b.1 = .host ∧ b.2.1 / 64 = g) (hn : (bs.map fun b => b.2.1).Nodup) (hr : s.ports.requests = [])
    (hreq : (s.portState .host).req ≠ 0) (hwd : (s.portState .host).wd ≠ 0) :
    (s.writeStatus q).block.out = .note (s.noteLine q) :: s.block.out ∧
      (∀ y, (s.writeStatus q).queue? q = some y → y.due = x.due) ∧
      (Memory.wf s.store → ∀ b ∈ bs, (s.writeStatus q).store.get (locKey b.1 b.2.1) = b.2.2) := by
  have keys : (bs.map fun b => locKey b.1 b.2.1) = bs.map fun b => b.2.1 := List.map_congr_left fun b hb => by
    rw [(hg b hb).1]
    simp [locKey, Target.num]
  let s1 := s.modQueue q fun y => lineIssued (lineDue s q y)
  have hline : s1.queue? q = some (lineIssued (lineDue s q x)) := queue?_modQueue_self h rfl
  have run : s.writeStatus q = s1.issue (.status q) (State.queuePart x) 0 0 bs [] := writeStatus_of_placed h hl hp
  obtain ⟨out, bytes⟩ := addRequests_line (s := s1) (q := q) (part := State.queuePart x) (bs := bs) hr hreq hwd
  refine ⟨?_, fun y hy => ?_, fun hw b hb => ?_⟩
  · rw [run, issue_line (place_ne_nil (statusBytes_ne_nil s x) hp) hg, out, noteLine_modQueue h rfl rfl]
    rfl
  · rw [run, issue_queue?, hline] at hy
    obtain rfl := Option.some.inj hy
    rfl
  · rw [run, issue_line (place_ne_nil (statusBytes_ne_nil s x) hp) hg, bytes]
    exact get_change_wholeBytes hw (keys ▸ hn) hb

/-! A doorbell evaluated (03 R84, R85). -/

/-- A doorbell that the engine evaluates while the central domain runs. -/
theorem doorbell_evaluated {s : State} {off : Nat} {x : Queue} (h : s.bellWrite off 4 = some x) (ha : s.centralAsleep = false)
    (v : Word32) : exec (.doorbell off 4 v) s = .next (s.evalBell x.qid v) := by
  refine congrArg Host.Outcome.next ?_
  rw [h]
  exact if_neg (by rw [ha]; exact Bool.false_ne_true)

/-- A queue that a doorbell with tail v takes to ERROR, with DETAIL d and INDEX i. -/
def refused (v : Word32) (d : Word16) (i : Word32) (y : Queue) : Queue :=
  { y with state := .error, errCode := 0xF1, errDetail := d, errIndex := i, lastDb := v }

theorem enterError_refused (s : State) (q : QId) (v : Word32) (d : Word16) (i : Word32) :
    (s.modQueue q fun y => { y with lastDb := v }).enterError q 0xF1 d.toNat i = (s.modQueue q (refused v d i)).writeStatus q := by
  unfold State.enterError
  rw [modQueue_modQueue s q (fun y => { y with lastDb := v }) _ fun _ => rfl, BitVec.ofNat_toNat, BitVec.setWidth_eq]
  rfl

/-- A doorbell that breaks rule 1 or rule 2 refuses the tail. -/
theorem evalBell_refused {s : State} {x : Queue} {v : Word32} {d : Word16} {i : Word32} (h : s.live? x.qid = some x)
    (hs : x.state ≠ .error) (hl : x.lost = false)
    (hd : (((v - x.head).toNat = 0 ∨ 2 ^ x.log2 < (v - x.head).toNat) ∧ d = 1 ∧ i = 0) ∨
      ((v - x.head).toNat ≠ 0 ∧ (v - x.head).toNat ≤ 2 ^ x.log2 ∧ (x.tail - x.head).toNat < (v - x.head).toNat ∧
        State.overwritten x v = some i ∧ d = 2)) :
    s.evalBell x.qid v = (s.modQueue x.qid (refused v d i)).writeStatus x.qid := by
  rw [← enterError_refused]
  rcases hd with ⟨rule1, rfl, rfl⟩ | ⟨hne, hle, hlt, hover, rfl⟩
  · exact evalBell_rule1 h hs hl rule1
  · exact evalBell_rule2 h hs hl (not_or.2 ⟨hne, hle.not_gt⟩) hlt hover

/-- Settles O9: an accepted tail is a change of the queue and a committed vote, which touches spans and the central domain alone. -/
theorem doorbellWithinTheRulesIsAccepted : Obligations.DoorbellWithinTheRulesIsAccepted := by
  unfold Obligations.DoorbellWithinTheRulesIsAccepted
  intro s off v x h ha hs hl hne hle
  obtain ⟨-, -, hlive, -⟩ := bellWrite_some h
  have rule1 : ¬((v - x.head).toNat = 0 ∨ 2 ^ x.log2 < (v - x.head).toNat) := not_or.2 ⟨hne, hle.not_gt⟩
  refine ⟨fun hlt hopen => ?_, fun hback => ?_⟩
  · have free : State.overwritten x v = none := List.find?_eq_none.2 fun e he => by simpa using hopen e he
    let f : Queue → Queue := fun y => { y with lastDb := v, tail := v, open_ := y.open_ ++ State.indicesTo x.tail v }
    obtain ⟨spans, central, vote⟩ := voteCommitted_eq (s.modQueue x.qid f) 1 (s.partSpans (State.queuePart x))
    refine ⟨_, (doorbell_evaluated h ha v).trans (congrArg Host.Outcome.next (evalBell_moves hlive hs hl rule1 hlt free)), ?_⟩
    rw [vote]
    exact ⟨queue?_modQueue_self (f := f) (live?_some.1 hlive).1 rfl, fun q hq => queue?_modQueue_ne (f := f) (fun _ => rfl) hq, rfl⟩
  · exact (doorbell_evaluated h ha v).trans (congrArg Host.Outcome.next (evalBell_stands hlive hs hl rule1 hback.not_gt))

/-- Settles O10: a refused tail is a change of the queue and a status line, which the host port transfers as an idle port with credits
does. -/
theorem doorbellOutsideTheRulesStopsTheQueue : Obligations.DoorbellOutsideTheRulesStopsTheQueue := by
  unfold Obligations.DoorbellOutsideTheRulesStopsTheQueue
  intro s off v x h ha hs hl d i hd
  obtain ⟨-, -, hlive, -⟩ := bellWrite_some h
  have hx : s.queue? x.qid = some x := (live?_some.1 hlive).1
  let s1 := s.modQueue x.qid (refused v d i)
  have hz : s1.queue? x.qid = some (refused v d i x) := queue?_modQueue_self hx rfl
  obtain ⟨⟨hi, hn, due, seq, xl, hy⟩, others⟩ := writeStatus_queue hz hl
  refine ⟨s1.writeStatus x.qid, _, (doorbell_evaluated h ha v).trans (congrArg Host.Outcome.next (evalBell_refused hlive hs hl hd)), hy,
    rfl, rfl, rfl, rfl, rfl, rfl, rfl, rfl, (lineCalled_writeStatus hz hl hy :),
    fun q hq => (others q hq).trans (queue?_modQueue_ne (fun _ => rfl) hq), ?_⟩
  intro bs ks z hp hhost hnodup hr hreq hwd
  obtain ⟨out, hdue, bytes⟩ := writeStatus_at_host hz hl hp hhost hnodup hr hreq hwd
  exact ⟨out.trans (congrArg (Out.note · :: s.block.out) (noteLine_modQueue hx rfl rfl)), hdue _ hy, bytes⟩

/-- Settles O11: such a write names no queue whose doorbells are evaluated; in ERROR the evaluation itself does nothing. -/
theorem otherDoorbellWritesChangeNothing : Obligations.OtherDoorbellWritesChangeNothing := by
  unfold Obligations.OtherDoorbellWritesChangeNothing
  intro s off width v h
  rcases h with h | ⟨ha, x, h, hs⟩
  · have unnamed : s.bellWrite off width = none := by
      unfold State.bellWrite
      split
      · next hw => exact (h.resolve_left (not_not.2 hw.1)).resolve_left (not_not.2 hw.2)
      · rfl
    constructor <;> exact congrArg Host.Outcome.next (by rw [unnamed])
  · obtain ⟨hw, -, hlive, -⟩ := bellWrite_some h
    subst hw
    refine ⟨(doorbell_evaluated h ha v).trans (congrArg Host.Outcome.next (evalBell_ignored hlive (.inl hs))),
      congrArg Host.Outcome.next ?_⟩
    rw [h]
    exact if_neg (by rw [ha]; exact Bool.false_ne_true)

end Sys2Proof.Proofs

/-! Ring reads (03 R78, R87, R88). -/

namespace Sys2Proof.Proofs

open Sys2Proof Sys2Proof.Machine Sys2Proof.Laws

/-- A queue that may fetch is ACTIVE, and its context is not lost (03 R87). -/
theorem canFetch_some {s : State} {x : Queue} (h : s.canFetch x = true) : x.state = .active ∧ x.lost = false := by
  unfold State.canFetch at h
  simp only [Bool.and_eq_true, beq_iff_eq, Bool.not_eq_true'] at h
  obtain ⟨⟨⟨⟨⟨⟨-, hactive⟩, hlost⟩, -⟩, -⟩, -⟩, -⟩ := h
  exact ⟨hactive, hlost⟩

/-- Settles O14: the queue forgets its translations and enters ERROR at the index it could not read. -/
theorem unreadableRingStopsTheQueue : Obligations.UnreadableRingStopsTheQueue := by
  unfold Obligations.UnreadableRingStopsTheQueue
  intro s q x why hlive hfetch u code s1
  have run : exec (.ringUnreadable q why) s = .next ((s1.modQueue q fun y => { y with xlat := [] }).enterError q 0xF2 code x.head) := by
    refine congrArg Host.Outcome.next ?_
    unfold State.ringFail
    rw [hlive]
    dsimp only
    rw [if_pos hfetch]
    cases why <;> rfl
  refine ⟨run, fun hs => ?_⟩
  have hx : (s1.modQueue q fun y => { y with xlat := [] }).queue? q = some { x with xlat := [] } :=
    queue?_modQueue_self (hs ▸ (live?_some.1 hlive).1) rfl
  obtain ⟨⟨i, n, d, o, l, hy⟩, -⟩ := enterError_queue (code := 0xF2) (detail := code) (idx := x.head) hx (canFetch_some hfetch).2
  exact ⟨_, _, run, hy, rfl, rfl, rfl, rfl, rfl, rfl⟩

/-! An entry fetched. -/

/-- The job that an entry becomes: the 256 bytes of its slot, under the next number. -/
def fetchedJob (s : State) (q : QId) (x : Queue) (ks : List Nat) : Job :=
  { uid := s.uidNext, queue := q, idx := x.head, part := State.queuePart x, entry := ks.map s.store.get }

/-- A queue whose head has moved on over its next entry, which waits under a job number. -/
def movedOn (i : Word32) (uid : Nat) (y : Queue) : Queue := { y with head := y.head + 1, xlat := [], fetched := y.fetched ++ [⟨i, uid⟩] }

/-- The state in which an entry waits for its admission or its command. -/
def handedOn (s : State) (q : QId) (x : Queue) (ks : List Nat) : State :=
  ({ s with uidNext := s.uidNext + 1, jobs := s.jobs ++ [fetchedJob s q x ks] }).modQueue q (movedOn x.head s.uidNext)

/-- What is fetched from an I/O queue waits for its admission; on an administrative queue the opcode has to name a command. -/
def waitsOn (q : QId) (e : List Byte) : Bool := match q with | .io _ => true | .adm _ => State.adminOpcode (u8 e 0)

theorem fetchEntry_eq {s : State} {q : QId} {x : Queue} {ks : List Nat} (hlive : s.live? q = some x) (hfetch : s.canFetch x = true)
    (hkeys : s.keys (State.queuePart x) x.xlat (State.slotAddr x x.head) 256 = some ks) (hclean : ∀ g ∈ granulesOf ks, g ∉ s.store.poison) :
    s.fetchEntry q = if waitsOn q (ks.map s.store.get) then handedOn s q x ks
      else (handedOn s q x ks).endRaw s.uidNext 1 (u8 (ks.map s.store.get) 0) 0 := by
  have clean : ((granulesOf ks).any s.store.poison.contains) = false :=
    List.any_eq_false.2 fun g hg => by simpa using hclean g hg
  unfold State.fetchEntry
  rw [hlive]
  dsimp only
  rw [if_neg (by simp [hfetch]), hkeys]
  dsimp only
  rw [if_neg (by simp [clean])]
  cases q <;> rfl

theorem handedOn_queue? {s : State} {q : QId} {x : Queue} (hx : s.queue? q = some x) (ks : List Nat) :
    (handedOn s q x ks).queue? q = some (movedOn x.head s.uidNext x) := by
  let s1 : State := { s with uidNext := s.uidNext + 1, jobs := s.jobs ++ [fetchedJob s q x ks] }
  exact queue?_modQueue_self (s := s1) hx rfl

theorem handedOn_job? {s : State} {q : QId} {x : Queue} (hfree : s.job? s.uidNext = none) (ks : List Nat) :
    (handedOn s q x ks).job? s.uidNext = some (fetchedJob s q x ks) := by
  unfold State.job? at hfree
  unfold State.job?
  rw [show (handedOn s q x ks).jobs = s.jobs ++ [fetchedJob s q x ks] from rfl, List.find?_append, hfree]
  simp [fetchedJob]

/-- A queue on which an entry waits no more. -/
def waitsNoMore (uid : Nat) (y : Queue) : Queue := { y with fetched := y.fetched.filter (·.uid != uid) }

/-- The end of an entry that waits for nothing, has no thread and halts no queue changes its job, its queue and requests. -/
theorem endRaw_of_idle {s : State} {uid : Nat} {j : Job} {x : Queue} (hj : s.job? uid = some j) (hx : s.queue? j.queue = some x)
    (hs : x.state ≠ .halted) (hwait : j.wait = .none) (ht : j.threads = []) (code detail pos : Nat) :
    ∃ l, s.endRaw uid code detail pos =
      { (s.modJob uid fun j => j.ended code detail pos).modQueue j.queue (waitsNoMore uid) with
        ports := { s.ports with requests := l } } := by
  have noEffect : s.adminEffect j = s := by
    unfold State.adminEffect
    split
    · rfl
    · exact if_pos hwait
  let z := (s.modJob uid fun j => j.ended code detail pos).modQueue j.queue (waitsNoMore uid)
  obtain ⟨l, hl⟩ := drainReads_eq z uid fun _ => true
  let d : State := { z with ports := { z.ports with requests := l } }
  have hq : d.queue? j.queue = some (waitsNoMore uid x) := queue?_modQueue_self (s := s.modJob uid fun j => j.ended code detail pos) hx rfl
  have quiet : d.noteHalts j.queue = d := by
    unfold State.noteHalts
    simp [hq, waitsNoMore, hs]
  refine ⟨l, ?_⟩
  unfold State.endRaw State.afterKill
  rw [hj]
  dsimp only
  rw [noEffect, ht]
  exact (congrArg (State.noteHalts · j.queue) hl).trans quiet

theorem u8_lt (e : List Byte) (off : Nat) : u8 e off < 65536 := by
  unfold u8 field
  cases e.drop off with
  | nil => decide
  | cons b r =>
    have := b.isLt
    simp only [List.take_succ_cons, List.take_zero, leNat]
    omega

/-- An entry fetch whose number no job bears does what O13 says. -/
theorem entryFetch_of_free_number {s : State} {q : QId} {x : Queue} {ks : List Nat} (hlive : s.live? q = some x)
    (hfetch : s.canFetch x = true) (hkeys : s.keys (State.queuePart x) x.xlat (State.slotAddr x x.head) 256 = some ks)
    (hclean : ∀ g ∈ granulesOf ks, g ∉ s.store.poison) (hfree : s.job? s.uidNext = none) :
    ∃ t j y, exec (.entryFetch q) s = .next t ∧ j ∈ t.jobs ∧ (∀ k ∈ s.jobs, k.uid ≠ s.uidNext → k ∈ t.jobs) ∧ j.uid = s.uidNext ∧
      j.queue = q ∧ j.idx = x.head ∧ j.entry = ks.map s.store.get ∧ t.uidNext = s.uidNext + 1 ∧ t.queue? q = some y ∧
      y = { x with head := x.head + 1, xlat := [], fetched := y.fetched } ∧ (∀ r, r ≠ q → t.queue? r = s.queue? r) ∧
      (if waitsOn q j.entry = true then
        j.phase = .fetched ∧ y.fetched = x.fetched ++ [⟨x.head, s.uidNext⟩] ∧
          t = { s with queues := t.queues, jobs := t.jobs, uidNext := t.uidNext }
      else j.phase = .ending ∧ j.code = 0x01 ∧ j.detail = u8 j.entry 0 ∧ (∀ f ∈ y.fetched, f.uid ≠ s.uidNext) ∧
          t = { s with queues := t.queues, jobs := t.jobs, uidNext := t.uidNext, parts := t.parts, spans := t.spans, ports := t.ports }) := by
  have hx := (live?_some.1 hlive).1
  have run : exec (.entryFetch q) s = .next (s.fetchEntry q) := rfl
  have others : ∀ r, r ≠ q → (handedOn s q x ks).queue? r = s.queue? r := fun r hr => queue?_modQueue_ne (fun _ => rfl) hr
  rw [fetchEntry_eq hlive hfetch hkeys hclean] at run
  cases hw : waitsOn q (ks.map s.store.get) with
  | true =>
    rw [hw, if_pos rfl] at run
    refine ⟨_, fetchedJob s q x ks, _, run, List.mem_append_right _ List.mem_cons_self, fun k hk _ => List.mem_append_left _ hk, rfl, rfl,
      rfl, rfl, rfl, handedOn_queue? hx ks, rfl, others, ?_⟩
    rw [if_pos (show waitsOn q (fetchedJob s q x ks).entry = true from hw)]
    exact ⟨rfl, rfl, rfl⟩
  | false =>
    let j := (fetchedJob s q x ks).ended 1 (u8 (ks.map s.store.get) 0) 0
    have awake : (movedOn x.head s.uidNext x).state ≠ .halted := by
      rw [show (movedOn x.head s.uidNext x).state = .active from (canFetch_some hfetch).1]
      exact QState.noConfusion
    obtain ⟨l, hend⟩ := endRaw_of_idle (handedOn_job? (q := q) (x := x) hfree ks) (handedOn_queue? hx ks) awake rfl rfl 1
      (u8 (ks.map s.store.get) 0) 0
    rw [hw, if_neg Bool.false_ne_true, hend] at run
    refine ⟨_, j, waitsNoMore s.uidNext (movedOn x.head s.uidNext x), run, ?_, fun k hk hne => ?_, rfl, rfl, rfl, rfl, rfl,
      queue?_modQueue_self (s := (handedOn s q x ks).modJob s.uidNext _) (handedOn_queue? hx ks) rfl, rfl,
      fun r hr => (queue?_modQueue_ne (s := (handedOn s q x ks).modJob s.uidNext _) (f := waitsNoMore s.uidNext) (fun _ => rfl) hr).trans
        (others r hr), ?_⟩
    · exact List.mem_map.2 ⟨fetchedJob s q x ks, List.mem_append_right _ List.mem_cons_self, if_pos (beq_self_eq_true _)⟩
    · exact List.mem_map.2 ⟨k, List.mem_append_left _ hk, if_neg (by simpa using hne)⟩
    · rw [if_neg (show ¬waitsOn q j.entry = true from by rw [show waitsOn q j.entry = false from hw]; exact Bool.false_ne_true)]
      exact ⟨rfl, rfl, Nat.mod_eq_of_lt (u8_lt _ _), fun f hf => by simpa using (List.mem_filter.1 hf).2, rfl⟩

/-! A job that already bears the number that the next entry gets. -/

/-- The administrative queue of the owner, with one entry pending and host memory mapped as it is. -/
def clashQueue : Queue := { qid := .adm 0, tail := 1, open_ := [0], xlat := [{ route := 0, page := 0, log2 := 12, addr := 0 }] }

/-- A block in service in which a job of another queue has the number that the next entry is given. -/
def clash : State :=
  { State.reset with
    block := { phase := .running }
    prof := { committed := true }
    queues := [clashQueue]
    jobs := [{ uid := 0, queue := .io 0, idx := 0, part := 1, entry := [] }] }

/-- The keys of the entry at the head of that queue. -/
def clashKeys : List Nat := (List.range 256).map (locKey .host)

/-- The entries that wait on that queue once its next one has been fetched. -/
def clashFetched : Option (List Fetched) := ((clash.fetchEntry (.adm 0)).queue? (.adm 0)).map Queue.fetched

/-- The entry names no command, yet it still waits: it is the job of the other queue that has been given the outcome. -/
theorem clashFetched_eq : clashFetched = some [⟨0, 0⟩] := by decide +kernel

/-- Refutes O13: the statement does not ask that the number of the new job is free (`entryFetch_of_free_number` does). In `clash` the
entry's opcode names no command, and the outcome goes by that number to another queue's job, so the entry stays among those that wait. -/
theorem not_entryFetchReadsTheNextEntry : ¬ Obligations.EntryFetchReadsTheNextEntry := by
  unfold Obligations.EntryFetchReadsTheNextEntry
  intro h
  obtain ⟨t, j, y, run, -, -, -, -, -, hentry, -, hy, -, -, outcome⟩ := h clash (.adm 0) clashQueue clashKeys (by decide +kernel)
    (by decide +kernel) (by decide +kernel) (by decide +kernel)
  have noCommand : State.adminOpcode (u8 j.entry 0) = false := by
    rw [hentry]
    decide +kernel
  dsimp only at outcome
  rw [if_neg (by simp [noCommand])] at outcome
  obtain ⟨-, -, -, gone, -⟩ := outcome
  obtain rfl := Host.Outcome.next.inj run
  have waits : y.fetched = [⟨0, 0⟩] := by
    have e := clashFetched_eq
    unfold clashFetched at e
    rw [hy] at e
    exact Option.some.inj e
  exact gone ⟨0, 0⟩ (waits ▸ List.mem_singleton_self _) rfl

end Sys2Proof.Proofs

/-! The completion record, its DONE byte and the answer to it (03 R79, R89 to R99). -/

namespace Sys2Proof.Proofs

open Sys2Proof Sys2Proof.Machine Sys2Proof.Laws

/-! What is issued. -/

/-- A job without redos has no closing write left to issue as it ends (06 R491). -/
theorem finalClosings_of_no_redo {s : State} {uid : Nat} {j : Job} (h : s.job? uid = some j) (hr : j.pass.redo = []) :
    s.finalClosings uid = s := by
  unfold State.finalClosings
  simp [h, hr]

theorem flushRedos_of_none {s : State} {uid : Nat} {j : Job} (h : s.job? uid = some j) (hr : j.pass.redoing = []) :
    s.flushRedos uid = s := by
  unfold State.flushRedos
  rw [h]
  dsimp only
  rw [hr]
  rfl

/-! The layout of the record (03 R89). -/

/-- A number's low bytes read back as its remainder. -/
theorem leNat_leBytes (n v : Nat) : leNat (leBytes n v) = v % 256 ^ n := by
  induction n generalizing v with
  | zero => rw [Nat.pow_zero, Nat.mod_one]; rfl
  | succ n ih =>
    rw [leBytes, leNat, ih, BitVec.toNat_ofNat, Nat.pow_succ' (m := 256)]
    exact Nat.mod_mul.symm

theorem length_leBytes (n v : Nat) : (leBytes n v).length = n := by
  induction n generalizing v with
  | zero => rfl
  | succ n ih => rw [leBytes, List.length_cons, ih]

/-- The field at an offset is the bytes that stand there. -/
theorem field_of_drop {l b c : List Byte} {off width : Nat} (h : l.drop off = b ++ c) (hb : b.length = width) :
    field l off width = leNat b := by
  unfold field
  rw [h, List.take_left' hb]

/-- Behind a field stands what follows it. -/
theorem drop_behind {l b c : List Byte} {off width : Nat} (h : l.drop off = b ++ c) (hb : b.length = width) :
    l.drop (off + width) = c := by
  rw [← List.drop_drop, h, List.drop_left' hb]

/-- The fields of the record of an entry that was read, one behind the other. -/
theorem recordBytes_layout {j : Job} (hr : j.read = true) (he : 16 ≤ j.entry.length) :
    (State.recordBytes j).length = 0x1F ∧ u64 (State.recordBytes j) 0 = j.position % 2 ^ 64 ∧
      ((State.recordBytes j).drop 8).take 8 = (j.entry.drop 8).take 8 ∧ u32 (State.recordBytes j) 0x10 = j.count % 2 ^ 32 ∧
      u32 (State.recordBytes j) 0x14 = j.aux % 2 ^ 32 ∧ u16 (State.recordBytes j) 0x18 = j.detail % 2 ^ 16 ∧
      u8 (State.recordBytes j) 0x1A = j.code % 2 ^ 8 ∧ (State.recordBytes j).drop 0x1B = List.replicate 4 0 := by
  have cookie : (Entry.cookie j.entry).length = 8 := by
    unfold Entry.cookie
    rw [List.length_take, List.length_drop]
    omega
  have at0 : (State.recordBytes j).drop 0 = leBytes 8 j.position ++ (Entry.cookie j.entry ++ (leBytes 4 j.count ++ (leBytes 4 j.aux ++
      (leBytes 2 j.detail ++ (leBytes 1 j.code ++ List.replicate 4 0))))) := by
    simp only [State.recordBytes, hr, List.drop_zero, List.append_assoc, if_true]
  have at8 : (State.recordBytes j).drop 8 = _ := drop_behind at0 (length_leBytes _ _)
  have at10 : (State.recordBytes j).drop 0x10 = _ := drop_behind at8 cookie
  have at14 : (State.recordBytes j).drop 0x14 = _ := drop_behind at10 (length_leBytes _ _)
  have at18 : (State.recordBytes j).drop 0x18 = _ := drop_behind at14 (length_leBytes _ _)
  have at1A : (State.recordBytes j).drop 0x1A = _ := drop_behind at18 (length_leBytes _ _)
  have at1B : (State.recordBytes j).drop 0x1B = _ := drop_behind at1A (length_leBytes _ _)
  have num {off width v : Nat} {c : List Byte} (h : (State.recordBytes j).drop off = leBytes width v ++ c) :
      field (State.recordBytes j) off width = v % 256 ^ width := (field_of_drop h (length_leBytes _ _)).trans (leNat_leBytes _ _)
  refine ⟨?_, num at0, ?_, num at10, num at14, num at18, num at1A, at1B⟩
  · rw [← List.drop_zero (l := State.recordBytes j), at0]
    simp only [List.length_append, length_leBytes, cookie, List.length_replicate]
  · rw [at8, List.take_left' cookie]
    rfl

/-! The record, then DONE. -/

theorem recordWrite_eq {s : State} {j : Job} {x : Queue} {bs : List (Target × Nat × Byte)} (hj : s.job? j.uid = some j)
    (hx : s.queue? j.queue = some x) (hl : x.lost = false) (hp : j.phase = .ending) (hwait : j.wait = .none) (ht : j.threads = [])
    (hw : s.jobWrites j.uid = []) (hdue : j.pass.due = []) (hredoing : j.pass.redoing = []) (hmust : s.mustWait j = false)
    (hplace : s.place (State.queuePart x) (j.xlat ++ x.xlat) (State.slotAddr x j.idx) (State.recordBytes j) = some bs) :
    s.recordWrite j.uid = (((s.issue (.job j.uid .record 0) (State.queuePart x) 0 0
      (if j.read then bs else bs.take 8 ++ bs.drop 16) []).modJob j.uid fun y => { y with phase := .record }).modQueue
      j.queue fun y => { y with xlat := [] }) := by
  unfold State.recordWrite
  rw [hj]
  dsimp only
  rw [hx]
  dsimp only
  rw [if_neg (by simp [hp, hwait, ht, hw, hdue, hredoing, hmust, hl]), hplace]

theorem doneByte_eq {s : State} {j : Job} {x : Queue} {bs : List (Target × Nat × Byte)} (hj : s.job? j.uid = some j)
    (hx : s.queue? j.queue = some x) (hl : x.lost = false) (hp : j.phase = .record) (hw : s.jobWrites j.uid = [])
    (hplace : s.place (State.queuePart x) (j.xlat ++ x.xlat) (State.slotAddr x j.idx + 0x1F) [0x80#8] = some bs) :
    s.doneByte j.uid = ((s.issue (.job j.uid .done 0) (State.queuePart x) 0 0 bs []).modJob j.uid
      fun y => { y with phase := .done }).modQueue j.queue fun y => { y with xlat := [] } := by
  unfold State.doneByte
  rw [hj]
  dsimp only
  rw [hx]
  dsimp only
  rw [if_neg (by simp [hp, hw, hl]), hplace]

/-- Settles O15: nothing is left to issue before the record, and its fields follow one another as R89 lists them. -/
theorem recordThenDone : Obligations.RecordThenDone := by
  unfold Obligations.RecordThenDone
  refine ⟨fun s j x hj hx hl => ⟨fun bs hp hwait ht hw hdue hredo hredoing hmust hplace => ?_, fun bs hp hw hplace => ?_⟩,
    fun j hr he => recordBytes_layout hr he⟩
  · refine congrArg Host.Outcome.next ?_
    rw [finalClosings_of_no_redo hj hredo, flushRedos_of_none hj hredoing]
    exact recordWrite_eq hj hx hl hp hwait ht hw hdue hredoing hmust hplace
  · exact congrArg Host.Outcome.next (doneByte_eq hj hx hl hp hw hplace)

/-! The answer to the DONE write: what of the erasures, of the counts and of the queue follows. -/

/-- Notes of one kind, put out one after another. -/
theorem foldl_emit {α : Type} (o : Out) (l : List α) (s : State) :
    l.foldl (fun s _ => s.emit o) s = { s with block := { s.block with out := List.replicate l.length o ++ s.block.out } } := by
  induction l generalizing s with
  | nil => rfl
  | cons a r ih =>
    rw [List.foldl_cons, ih, emit_block, List.length_cons, List.replicate_succ', List.append_assoc]
    rfl

/-- The erasures as they stand without a job (14 R329). -/
def erasingWithout (s : State) (uid : Nat) : List EraseWait :=
  s.tables.erasing.map fun e => { e with jobs := e.jobs.filter (· != uid) }

/-- Erasures that wait for no other job end, each with its answer. -/
theorem settleErase_eq (s : State) (uid : Nat) : s.settleErase uid = { s with
    tables := { s.tables with erasing := (erasingWithout s uid).filter fun e => !e.jobs.isEmpty }
    block := { s.block with out := List.replicate ((erasingWithout s uid).filter fun e => e.jobs.isEmpty).length (.keyResp 0) ++
      s.block.out } } := by
  unfold State.settleErase
  exact foldl_emit (.keyResp 0) _ _

/-- Counting for a command looks up no job that was not there. -/
theorem job?_countFor_none {s : State} {uid : Nat} (h : s.job? uid = none) (j : Job) : (s.countFor j).job? uid = none := by
  unfold State.job? at h ⊢
  unfold State.countFor
  rw [List.find?_eq_none] at h ⊢
  refine List.forall_mem_map.2 fun a ha => ?_
  extract_lets mine hit
  split <;> exact h a ha

theorem job?_dropJob (s : State) (uid : Nat) : (s.dropJob uid).job? uid = none :=
  List.find?_eq_none.2 fun j hj => by simpa using (List.mem_filter.1 hj).2

theorem JobsStand.job?_none {s t : State} (h : JobsStand s t) {uid : Nat} (hn : s.job? uid = none) : t.job? uid = none := by
  have e := h.job? uid
  rw [hn] at e
  exact Option.map_eq_none_iff.1 e

/-! The status line that waits for the last entry of a state change (03 R99). -/

theorem jobsStand_lineAfter (s : State) (q : QId) (uid : Nat) : JobsStand s (s.lineAfter q uid) := by
  unfold State.lineAfter
  split
  · extract_lets l s1
    split
    · split
      · exact jobsStand_writeStatus s1 _
      · rfl
    · rfl
  · rfl

theorem writeStatus_of_lost {s : State} {q : QId} {x : Queue} (h : s.queue? q = some x) (hl : x.lost = true) : s.writeStatus q = s := by
  unfold State.writeStatus
  rw [h]
  exact if_pos hl

theorem lineAfter_of_not_mem {s : State} {q : QId} {uid : Nat} {x : Queue} (h : s.queue? q = some x) (hm : uid ∉ x.after) :
    s.lineAfter q uid = s := by
  unfold State.lineAfter
  rw [h]
  exact if_neg (mt List.contains_iff_mem.1 hm)

/-- A queue that waits for a job no more. -/
def afterWithout (x : Queue) (uid : Nat) : Queue := { x with after := x.after.filter (· != uid) }

theorem lineAfter_of_mem {s : State} {q : QId} {uid : Nat} {x : Queue} (h : s.queue? q = some x) (hm : uid ∈ x.after) :
    s.lineAfter q uid =
      if (afterWithout x uid).after = [] then (s.modQueue q fun y => { y with after := (afterWithout x uid).after }).writeStatus q
      else s.modQueue q fun y => { y with after := (afterWithout x uid).after } := by
  unfold State.lineAfter
  rw [h]
  dsimp only
  rw [if_pos (List.contains_iff_mem.2 hm)]
  simp only [List.isEmpty_iff]
  rfl

/-- A queue as it stands once a status line may have been written: what its entries are is as before. -/
structure SameEntries (x y : Queue) : Prop where
  open_   : y.open_ = x.open_
  fetched : y.fetched = x.fetched
  after   : y.after = x.after

/-- While other entries of the state change are left the line waits; with the last of them it is called for. -/
theorem lineAfter_queue {s : State} {q : QId} {uid : Nat} {x : Queue} (h : s.queue? q = some x) (hm : uid ∈ x.after) :
    ∃ y, (s.lineAfter q uid).queue? q = some y ∧ SameEntries (afterWithout x uid) y ∧
      ((∃ u ∈ x.after, u ≠ uid) → y.due = x.due ∧ y.seq = x.seq) ∧
      ((∀ u ∈ x.after, u = uid) → x.lost = false → LineCalled x y) ∧
      ∀ r, r ≠ q → (s.lineAfter q uid).queue? r = s.queue? r := by
  let s1 := s.modQueue q fun y => { y with after := (afterWithout x uid).after }
  have h1 : s1.queue? q = some (afterWithout x uid) := queue?_modQueue_self h rfl
  have o1 : ∀ r, r ≠ q → s1.queue? r = s.queue? r := fun r hr => queue?_modQueue_ne (fun _ => rfl) hr
  have last : (afterWithout x uid).after = [] ↔ ∀ u ∈ x.after, u = uid := by simp [afterWithout, List.filter_eq_nil_iff]
  rw [lineAfter_of_mem h hm]
  split
  · next he =>
    have only := last.1 he
    have noOther : ¬∃ u ∈ x.after, u ≠ uid := fun ⟨u, hu, hne⟩ => hne (only u hu)
    cases hl : x.lost with
    | true =>
      rw [writeStatus_of_lost h1 hl]
      exact ⟨_, h1, ⟨rfl, rfl, rfl⟩, fun ho => absurd ho noOther, fun _ hn => Bool.noConfusion hn, o1⟩
    | false =>
      obtain ⟨⟨i, n, d, o, l, hy⟩, others⟩ := writeStatus_queue h1 hl
      exact ⟨_, hy, ⟨rfl, rfl, rfl⟩, fun ho => absurd ho noOther, fun _ _ => (lineCalled_writeStatus h1 hl hy :),
        fun r hr => (others r hr).trans (o1 r hr)⟩
  · next he =>
    exact ⟨_, h1, ⟨rfl, rfl, rfl⟩, fun _ => ⟨rfl, rfl⟩, fun only => absurd (last.2 only) he, o1⟩

/-! The entry completes. -/

/-- A queue of which an entry has completed (03 R79). -/
def without (j : Job) (x : Queue) : Queue :=
  { x with open_ := x.open_.filter (· != j.idx), fetched := x.fetched.filter (·.uid != j.uid) }

/-- The state in which an entry has left its queue, and erasures and counts have followed. -/
def entryGone (s : State) (j : Job) : State := (((s.dropJob j.uid).modQueue j.queue (without j)).settleErase j.uid).countFor j

/-- The notes that the end of an entry puts out: NOTE where its NOTIFY flag is set and was read (03 R96). -/
def completionNotes (s : State) (j : Job) : List Out := if j.read && Entry.notify j.entry then [.note (s.noteLine j.queue)] else []

theorem completed_eq {s : State} {j : Job} (hj : s.job? j.uid = some j) (hp : j.phase = .done) (hw : s.jobWrites j.uid = []) :
    s.completed j.uid = { (entryGone s j).lineAfter j.queue j.uid with
      block := { ((entryGone s j).lineAfter j.queue j.uid).block with
        out := completionNotes s j ++ ((entryGone s j).lineAfter j.queue j.uid).block.out } } := by
  unfold State.completed
  rw [hj]
  dsimp only
  rw [if_neg (by simp [hp, hw])]
  unfold completionNotes
  split <;> rfl

theorem entryGone_frame (s : State) (j : Job) : entryGone s j = { s with
    block := { s.block with out := (entryGone s j).block.out }
    queues := (entryGone s j).queues
    jobs := (entryGone s j).jobs
    tables := (entryGone s j).tables } := by
  unfold entryGone
  rw [settleErase_eq]
  rfl

theorem entryGone_out (s : State) (j : Job) : (entryGone s j).block.out =
    List.replicate ((erasingWithout s j.uid).filter fun e => e.jobs.isEmpty).length (.keyResp 0) ++ s.block.out := by
  unfold entryGone
  rw [settleErase_eq]
  rfl

theorem entryGone_tables (s : State) (j : Job) :
    (entryGone s j).tables = { s.tables with erasing := (erasingWithout s j.uid).filter fun e => !e.jobs.isEmpty } := by
  unfold entryGone
  rw [settleErase_eq]
  rfl

theorem entryGone_queue? (s : State) (j : Job) (q : QId) : (entryGone s j).queue? q = (s.modQueue j.queue (without j)).queue? q := by
  unfold entryGone
  rw [settleErase_eq]
  rfl

theorem entryGone_job? (s : State) (j : Job) : (entryGone s j).job? j.uid = none := by
  unfold entryGone
  refine job?_countFor_none ?_ j
  rw [settleErase_eq]
  exact job?_dropJob s j.uid

/-- Settles O16: the entry is gone from its queue; the status line of a state change that waited for it alters nothing that it left. -/
theorem answeredDoneCompletesTheEntry : Obligations.AnsweredDoneCompletesTheEntry := by
  unfold Obligations.AnsweredDoneCompletesTheEntry
  intro s j x hj hx hp hw w
  let g := entryGone s j
  let t := g.lineAfter j.queue j.uid
  have run : exec (.doneAnswered j.uid) s = .next { t with block := { t.block with out := completionNotes s j ++ t.block.out } } :=
    congrArg Host.Outcome.next (completed_eq hj hp hw)
  have hg : g.queue? j.queue = some (without j x) := (entryGone_queue? s j _).trans (queue?_modQueue_self hx rfl)
  have og : ∀ q, q ≠ j.queue → g.queue? q = s.queue? q := fun q hq => (entryGone_queue? s j q).trans (queue?_modQueue_ne (fun _ => rfl) hq)
  have gone : t.job? j.uid = none := (jobsStand_lineAfter g _ _).job?_none (entryGone_job? s j)
  have tables : t.tables = { s.tables with erasing := w.filter fun e => !e.jobs.isEmpty } :=
    (((within_lineAfter g j.queue j.uid).only .tables).resolve_left (by decide)).trans (entryGone_tables s j)
  by_cases hm : j.uid ∈ x.after
  · obtain ⟨y, hy, same, waits, called, others⟩ := lineAfter_queue hg hm
    exact ⟨_, y, run, gone, hy, same.open_, same.fetched, fun q hq => (others q hq).trans (og q hq), tables,
      fun hn => absurd hm hn, fun _ => ⟨same.after, waits, called⟩⟩
  · have quiet : t = g := lineAfter_of_not_mem hg hm
    refine ⟨_, _, run, gone, quiet ▸ hg, rfl, rfl, fun q hq => (congrArg (State.queue? · q) quiet).trans (og q hq), tables,
      fun _ => ⟨rfl, ?_, ?_⟩, fun h => absurd h hm⟩
    · rw [quiet, List.append_assoc]
      exact congrArg (completionNotes s j ++ ·) (entryGone_out s j)
    · rw [quiet]
      exact congrArg (fun z : State => { z with block := { z.block with out := completionNotes s j ++ g.block.out } })
        (entryGone_frame s j)

end Sys2Proof.Proofs

/-! The token buckets (04 R111 to R114). -/

namespace Sys2Proof.Proofs

open Sys2Proof Sys2Proof.Machine Sys2Proof.Laws

/-- A refill takes the waiting shaper change in and changes nothing else but the count. -/
theorem refill_rest (x : Queue) : State.refill x =
    { x with shaper := x.newShaper.getD x.shaper, newShaper := none, tokens := (State.refill x).tokens } := rfl

/-- At RATE 0 the bucket is full (04 R111). -/
theorem refill_tokens_of_off {x : Queue} (h : (State.refill x).shaper.rate = 0) :
    (State.refill x).tokens = State.bucketCap (State.refill x).shaper := if_pos h

/-- A shaped queue gains 512 x RATE on its count, which a change of the shaper has clipped (04 R113, R114). -/
theorem refill_tokens_of_shaped {x : Queue} (h : (State.refill x).shaper.rate ≠ 0) :
    (State.refill x).tokens = min ((if x.newShaper.isSome then
      max (min x.tokens (State.bucketCap (State.refill x).shaper)) (-State.bucketCap (State.refill x).shaper) else x.tokens) +
        512 * (State.refill x).shaper.rate) (State.bucketCap (State.refill x).shaper) := if_neg h

theorem refill_tokens_le (x : Queue) : (State.refill x).tokens ≤ State.bucketCap (State.refill x).shaper := by
  by_cases h : (State.refill x).shaper.rate = 0
  · exact (refill_tokens_of_off h).le
  · rw [refill_tokens_of_shaped h]
    exact min_le_right _ _

/-- Settles O19: the refill maps the queues, the I/O queues by `refill` and the administrative ones to themselves. -/
theorem refillAddsTokensUpToTheBurst : Obligations.RefillAddsTokensUpToTheBurst := by
  unfold Obligations.RefillAddsTokensUpToTheBurst
  refine fun s => ⟨_, rfl, rfl, List.length_map _, fun i x hx => ?_⟩
  cases hq : x.qid with
  | adm p =>
    refine ⟨x, ?_, fun _ _ => rfl, fun n _ hn => QId.noConfusion hn⟩
    simp only [List.getElem?_map, hx, Option.map_some, hq]
  | io m =>
    refine ⟨State.refill x, ?_, fun p hp => QId.noConfusion hp, fun n cap _ hcap => ?_⟩
    · simp only [List.getElem?_map, hx, Option.map_some, hq]
    · replace hcap : cap = State.bucketCap (State.refill x).shaper := hcap
      subst hcap
      refine ⟨hq ▸ refill_rest x, refill_tokens_of_off, fun hr hs => ?_, fun hr hs => ?_, refill_tokens_le x⟩
      · rw [refill_tokens_of_shaped hr, if_neg (by simp [hs])]
      · rw [refill_tokens_of_shaped hr, if_pos (Option.isSome_iff_ne_none.2 hs)]

end Sys2Proof.Proofs

/-! One decision of the sorting processor (04 R107, R108, R110, R112). -/

namespace Sys2Proof.Proofs

open Sys2Proof Sys2Proof.Machine Sys2Proof.Laws

/-! Queues that change as a relation says. -/

/-- From s to t no queue goes, and each becomes one that it may become. -/
def QueuesBecome (R : Queue → Queue → Prop) (s t : State) : Prop :=
  ∀ q x, s.queue? q = some x → ∃ y, t.queue? q = some y ∧ R x y

theorem QueuesBecome.trans {R : Queue → Queue → Prop} (hR : ∀ {x y z}, R x y → R y z → R x z) {s t u : State}
    (h : QueuesBecome R s t) (k : QueuesBecome R t u) : QueuesBecome R s u := by
  intro q x hx
  obtain ⟨y, hy, hxy⟩ := h q x hx
  obtain ⟨z, hz, hyz⟩ := k q y hy
  exact ⟨z, hz, hR hxy hyz⟩

theorem queuesBecome_of_queues_eq {R : Queue → Queue → Prop} (hR : ∀ x, R x x) {s t : State} (h : t.queues = s.queues) :
    QueuesBecome R s t := by
  intro q x hx
  refine ⟨x, ?_, hR x⟩
  unfold State.queue?
  rw [h]
  exact hx

theorem queuesBecome_modQueue {R : Queue → Queue → Prop} (hR : ∀ x, R x x) (s : State) (q : QId) {f : Queue → Queue}
    (hid : ∀ x, (f x).qid = x.qid) (hf : ∀ x, R x (f x)) : QueuesBecome R s (s.modQueue q f) := by
  intro r x hx
  by_cases hr : r = q
  · subst hr
    exact ⟨f x, queue?_modQueue_self hx (hid x), hf x⟩
  · exact ⟨x, (queue?_modQueue_ne hid hr).trans hx, hR x⟩

/-! Turns of a round that passes. -/

/-- A queue as turns of a round leave it: only its deficit and its count of holds may have changed (04 R108, R110, R117). -/
def Turned (x y : Queue) : Prop := y = { x with deficit := y.deficit, bucketHolds := y.bucketHolds }

theorem turned_refl (x : Queue) : Turned x x := rfl

theorem Turned.trans {x y z : Queue} (h : Turned x y) (k : Turned y z) : Turned x z :=
  Eq.trans k (congrArg (fun w : Queue => { w with deficit := z.deficit, bucketHolds := z.bucketHolds }) h)

/-- From s to t turns have passed: jobs and the order of admission stand, and queues are turned. -/
structure TurnsPass (s t : State) : Prop where
  jobs      : t.jobs = s.jobs
  orderNext : t.orderNext = s.orderNext
  queues    : QueuesBecome Turned s t

theorem turnsPass_refl (s : State) : TurnsPass s s := ⟨rfl, rfl, queuesBecome_of_queues_eq turned_refl rfl⟩

theorem TurnsPass.trans {s t u : State} (h : TurnsPass s t) (k : TurnsPass t u) : TurnsPass s u :=
  ⟨k.jobs.trans h.jobs, k.orderNext.trans h.orderNext, h.queues.trans (fun a b => a.trans b) k.queues⟩

theorem TurnsPass.foldl {α : Type} {f : State → α → State} (hf : ∀ t x, TurnsPass t (f t x)) {s0 s : State} (h : TurnsPass s0 s)
    (xs : List α) : TurnsPass s0 (xs.foldl f s) := by
  induction xs generalizing s with
  | nil => exact h
  | cons x r ih => exact ih (h.trans (hf s x))

theorem turnsPass_modPart (s : State) (p : Nat) (f : Part → Part) : TurnsPass s (s.modPart p f) :=
  ⟨rfl, rfl, queuesBecome_of_queues_eq turned_refl rfl⟩

theorem turnsPass_modQueue (s : State) (q : QId) {f : Queue → Queue} (hf : ∀ x, Turned x (f x)) : TurnsPass s (s.modQueue q f) :=
  ⟨rfl, rfl, queuesBecome_modQueue turned_refl s q (fun x => (congrArg Queue.qid (hf x) :)) hf⟩

theorem turnsPass_countHold (s : State) (h : State.Head) (n : Nat) : TurnsPass s (s.countHold h n) := by
  unfold State.countHold
  split
  · exact turnsPass_modQueue s _ fun _ => rfl
  · exact turnsPass_modPart s _ _
  · exact turnsPass_refl s

theorem turnsPass_passTurns (s : State) (p : Nat) (live ring : List State.Head) (last rounds : Nat) (winner : QId) :
    TurnsPass s (s.passTurns p live ring last rounds winner) := by
  unfold State.passTurns
  extract_lets turns s1
  have gains : TurnsPass s s1 := by
    refine TurnsPass.foldl (fun t h => ?_) (turnsPass_refl s) ring
    extract_lets n
    split
    · exact turnsPass_modQueue t _ fun _ => rfl
    · exact turnsPass_countHold t h n
  refine TurnsPass.foldl (fun t x => ?_) gains _
  exact turnsPass_modQueue t x.qid fun _ => rfl

/-! Heads of the queues, and the one that is next. -/

/-- A head is its queue's record and its job's as they stand. -/
theorem lookup_of_mem_heads {s : State} {p : Nat} {h : State.Head} (hh : h ∈ s.heads p) :
    s.queue? h.queue.qid = some h.queue ∧ s.job? h.job.uid = some h.job := by
  obtain ⟨x, hx, found⟩ := List.mem_filterMap.1 hh
  have queue : s.queue? x.qid = some x := by
    obtain ⟨i, -, hi⟩ := List.mem_filterMap.1 hx
    split at hi
    · next y hy =>
      split at hi
      · cases hi
        rwa [qid_of_queue? hy]
      · cases hi
    · cases hi
  split at found
  · obtain ⟨j, hj, decoded⟩ := Option.bind_eq_some_iff.1 found
    obtain ⟨f, -, hf⟩ := Option.bind_eq_some_iff.1 hj
    have job := (Option.filter_eq_some_iff.1 hf).1
    split at decoded
    · cases decoded
      exact ⟨queue, uid_of_job? job ▸ job⟩
    · cases decoded
  · cases found

/-- The highest level is the maximum of the heads' levels and 0. -/
theorem max?_levels (l : List State.Head) : (0 :: l.map fun h => Entry.prio h.job.entry).max? = some (State.topLevel l) := by
  rw [List.max?_cons', List.foldl_map]
  rfl

theorem prio_le_topLevel {l : List State.Head} {k : State.Head} (hk : k ∈ l) : Entry.prio k.job.entry ≤ State.topLevel l :=
  (List.max?_eq_some_iff.1 (max?_levels l)).2 _ (List.mem_cons_of_mem _ (List.mem_map_of_mem hk))

/-- The highest level is that of one of the heads. -/
theorem exists_prio_eq_topLevel {l : List State.Head} (hl : l ≠ []) : ∃ h ∈ l, Entry.prio h.job.entry = State.topLevel l := by
  rcases List.mem_cons.1 (List.max?_eq_some_iff.1 (max?_levels l)).1 with zero | attained
  · obtain ⟨k, hk⟩ := List.exists_mem_of_ne_nil l hl
    exact ⟨k, hk, (prio_le_topLevel hk).antisymm (zero ▸ Nat.zero_le _)⟩
  · exact List.mem_map.1 attained

/-- A fold that at each member keeps its choice or takes the member chooses one of them. -/
theorem foldl_choice {α : Type} {step : Option α → α → Option α}
    (hs : ∀ b h, step (some b) h = some h ∨ step (some b) h = some b) (a : α) (l : List α) : ∃ h ∈ a :: l, l.foldl step (some a) = some h := by
  induction l generalizing a with
  | nil => exact ⟨a, List.mem_cons_self, rfl⟩
  | cons x r ih =>
    rw [List.foldl_cons]
    rcases hs a x with he | he <;> rw [he]
    · obtain ⟨h, mem, eq⟩ := ih x
      exact ⟨h, List.mem_cons_of_mem _ mem, eq⟩
    · obtain ⟨h, mem, eq⟩ := ih a
      exact ⟨h, List.cons_subset_cons a (List.subset_cons_self x r) mem, eq⟩

/-- The round gives one of the heads of a level that has any. -/
theorem exists_nextHead {l : List State.Head} (hl : l ≠ []) (last : Nat) : ∃ h ∈ l, State.nextHead last l = some h := by
  cases l with
  | nil => exact absurd rfl hl
  | cons x r => exact foldl_choice (fun b h => ite_eq_or_eq _ _ _) x r

/-! One admission. -/

/-- Where a head is ready, turns pass and then one of the ready heads of the highest level is admitted. -/
theorem admitOne_admits {s s0 : State} {p : Nat} {ready : List State.Head}
    (hs : s0 = (s.ioQueues p).foldl (fun s x => State.dropFails x.qid 65 0 s) s)
    (hr : ready = (s0.heads p).filter (fun h => s0.holdOf h == .none)) (hne : ready ≠ []) :
    ∃ h ∈ ready, Entry.prio h.job.entry = State.topLevel ready ∧ ∃ s1, TurnsPass s0 s1 ∧ s.admitOne p = s1.admitInto h := by
  unfold State.admitOne
  rw [← hs]
  dsimp only
  rw [← hr, if_neg (by simpa using hne)]
  have served {h : State.Head} (hh : h ∈ ready.filter fun h => Entry.prio h.job.entry == State.topLevel ready) :
      h ∈ ready ∧ Entry.prio h.job.entry = State.topLevel ready := by simpa using hh
  split
  · next h hfind =>
    obtain ⟨mem, top⟩ := served (List.mem_of_find?_eq_some hfind)
    exact ⟨h, mem, top, s0, turnsPass_refl s0, rfl⟩
  · obtain ⟨k, hk, hkt⟩ := exists_prio_eq_topLevel hne
    obtain ⟨h, hh, hnext⟩ := exists_nextHead (l := ready.filter fun h => Entry.prio h.job.entry == State.topLevel ready)
      (List.ne_nil_of_mem (List.mem_filter.2 ⟨hk, beq_iff_eq.2 hkt⟩)) ((s0.part p).cursor.getD (State.topLevel ready) 4096)
    rw [hnext]
    obtain ⟨mem, top⟩ := served hh
    exact ⟨h, mem, top, _, ((TurnsPass.foldl (fun t k => turnsPass_countHold t k 1) (turnsPass_refl s0) _).trans
      (turnsPass_passTurns _ _ _ _ _ _ _)).trans (turnsPass_modPart _ _ _), rfl⟩

/-- A job of a head as its admission leaves it (04 R107): it runs, with the next place in the order and its tiles counted. -/
structure Admitted (n : Nat) (h : State.Head) (j : Job) : Prop where
  phase : j.phase = .running
  order : j.order = n + 1
  elems : j.elems = h.elems
  entry : j.entry = h.job.entry
  tiles : j.tiles = ceilDiv h.elems (max 1 h.tlen)

theorem admitInto_job {s : State} {h : State.Head} (hj : s.job? h.job.uid = some h.job) :
    (∃ j, (s.admitInto h).job? h.job.uid = some j ∧ Admitted s.orderNext h j) ∧
      ∀ u, u ≠ h.job.uid → (s.admitInto h).job? u = s.job? u := by
  unfold State.admitInto
  extract_lets e n tl uid q banks s1 s2
  refine ⟨⟨_, job?_modJob_self (s := s1) hj rfl, ⟨rfl, rfl, rfl, rfl, rfl⟩⟩, fun u hu => ?_⟩
  exact job?_modJob_ne (s := s1) (fun _ => rfl) hu

/-- A queue whose head of a cost has been admitted, but for its deficit and its holds (04 R112). -/
structure Charged (cost : Nat) (x y : Queue) : Prop where
  fetched       : y.fetched = x.fetched.drop 1
  admittedJobs  : y.admittedJobs = x.admittedJobs + 1
  admittedBytes : y.admittedBytes = x.admittedBytes + BitVec.ofNat 64 cost
  tokens        : y.tokens = if x.shaper.rate = 0 then x.tokens
    else max (x.tokens - 25 * (cost : Int)) (-(25 * x.shaper.burst * 4096 : Nat) : Int)

theorem admitInto_queue {s : State} {h : State.Head} {x : Queue} (hx : s.queue? h.queue.qid = some x) :
    (∃ y, (s.admitInto h).queue? h.queue.qid = some y ∧ Charged h.cost x y) ∧
      ∀ q, q ≠ h.queue.qid → (s.admitInto h).queue? q = s.queue? q := by
  unfold State.admitInto
  extract_lets e n tl uid q banks s1 s2
  refine ⟨⟨_, queue?_modQueue_self (s := s2) hx rfl, ⟨rfl, rfl, rfl, rfl⟩⟩, fun r hr => ?_⟩
  exact queue?_modQueue_ne (s := s2) (fun _ => rfl) hr

/-- Turns that have passed before do not change the charge. -/
theorem Charged.of_turned {cost : Nat} {x y z : Queue} (h : Turned x y) (k : Charged cost y z) : Charged cost x z := by
  obtain ⟨fetched, jobs, bytes, tokens⟩ := k
  rw [h] at fetched jobs bytes tokens
  exact ⟨fetched, jobs, bytes, tokens⟩

/-- Settles O17: turns that pass before the admission touch no job, and of queues only deficits and counts of holds. -/
theorem admissionServesTheHighestLevel : Obligations.AdmissionServesTheHighestLevel := by
  unfold Obligations.AdmissionServesTheHighestLevel
  intro s s0 p ready hrun hcommit hawake hs hready hne
  obtain ⟨h, mem, top, s1, pass, admission⟩ := admitOne_admits hs hready hne
  obtain ⟨hqueue, hjob⟩ := lookup_of_mem_heads (List.mem_filter.1 (hready ▸ mem)).1
  have run : exec (.admitJob p) s = .next (s1.admitInto h) := by
    refine congrArg Host.Outcome.next ?_
    rw [if_pos (by simp [hrun, hcommit, hawake]), admission]
  have sameJob (u : Nat) : s1.job? u = s0.job? u := by
    rw [State.job?, pass.jobs]
    rfl
  obtain ⟨x, hx, turned⟩ := pass.queues _ _ hqueue
  obtain ⟨⟨j, hj, admitted⟩, otherJobs⟩ := admitInto_job ((sameJob _).trans hjob)
  obtain ⟨⟨y, hy, charged⟩, otherQueues⟩ := admitInto_queue hx
  obtain ⟨fetched, jobs, bytes, tokens⟩ := charged.of_turned turned
  refine ⟨h, mem, _, j, y, run, fun k hk => top ▸ prio_le_topLevel hk, hj, admitted.phase, ?_, admitted.elems, admitted.entry,
    admitted.tiles, fun u hu => (otherJobs u hu).trans (sameJob u), ?_, hy, fetched, jobs, bytes, tokens, fun q w hq hw => ?_⟩
  · rw [admitted.order, pass.orderNext]
  · exact congrArg (· + 1) pass.orderNext
  · obtain ⟨z, hz, turnedHere⟩ := pass.queues q w hw
    exact ⟨z, (otherQueues q hq).trans hz, turnedHere⟩

end Sys2Proof.Proofs

/-! An entry that fails decode (04 R105, 11 R261). -/

namespace Sys2Proof.Proofs

open Sys2Proof Sys2Proof.Machine Sys2Proof.Laws

/-! What entries that end leave of the queues. -/

/-- A queue as the ends of entries leave it: entries may have gone, and a status line may have been called for (03 R99). -/
structure Waned (x y : Queue) : Prop where
  rest    : y = { x with
    fetched := y.fetched, haltIndex := y.haltIndex, haltCount := y.haltCount, due := y.due, seq := y.seq, xlat := y.xlat }
  fetched : y.fetched ⊆ x.fetched

theorem waned_refl (x : Queue) : Waned x x := ⟨rfl, List.Subset.refl _⟩

theorem Waned.trans {x y z : Queue} (h : Waned x y) (k : Waned y z) : Waned x z :=
  ⟨k.rest.trans (congrArg (fun w : Queue => { w with
    fetched := z.fetched, haltIndex := z.haltIndex, haltCount := z.haltCount, due := z.due, seq := z.seq, xlat := z.xlat }) h.rest),
    List.Subset.trans k.fetched h.fetched⟩

theorem waned_waitsNoMore (uid : Nat) (x : Queue) : Waned x (waitsNoMore uid x) := ⟨rfl, List.filter_subset_self _⟩

/-- From s to t entries may have ended. -/
def QueuesWane (s t : State) : Prop := QueuesBecome Waned s t

theorem QueuesWane.trans {s t u : State} (h : QueuesWane s t) (k : QueuesWane t u) : QueuesWane s u :=
  QueuesBecome.trans (fun a b => a.trans b) h k

theorem queue?_of_within {l : List Field} {s t : State} (h : Within l s t) (q : QId) (hl : Field.queues ∉ l := by decide) :
    t.queue? q = s.queue? q := by
  unfold State.queue?
  rw [(h.only .queues).resolve_left hl]

theorem queuesWane_refl (s : State) : QueuesWane s s := queuesBecome_of_queues_eq waned_refl rfl

theorem queuesWane_of_within {l : List Field} {s t : State} (h : Within l s t) (hl : Field.queues ∉ l := by decide) : QueuesWane s t :=
  queuesBecome_of_queues_eq waned_refl ((h.only .queues).resolve_left hl)

theorem queuesWane_foldl {α : Type} {f : State → α → State} (hf : ∀ t x, QueuesWane t (f t x)) (xs : List α) (s : State) :
    QueuesWane s (xs.foldl f s) := by
  induction xs generalizing s with
  | nil => exact queuesWane_refl s
  | cons x r ih => exact (hf s x).trans (ih _)

theorem queuesWane_writeStatus (s : State) (q : QId) : QueuesWane s (s.writeStatus q) := by
  cases hq : s.queue? q with
  | none =>
    have quiet : s.writeStatus q = s := by
      unfold State.writeStatus
      rw [hq]
    exact quiet.symm ▸ queuesWane_refl s
  | some x =>
    cases hl : x.lost with
    | true => exact (writeStatus_of_lost hq hl).symm ▸ queuesWane_refl s
    | false =>
      obtain ⟨⟨i, n, d, o, l, hy⟩, others⟩ := writeStatus_queue hq hl
      intro r z hz
      by_cases hr : r = q
      · subst hr
        obtain rfl := Option.some.inj (hq.symm.trans hz)
        exact ⟨_, hy, rfl, List.Subset.refl _⟩
      · exact ⟨z, (others r hr).trans hz, waned_refl z⟩

theorem queuesWane_noteHalts (s : State) (q : QId) : QueuesWane s (s.noteHalts q) := by
  unfold State.noteHalts
  split
  · split
    · exact queuesWane_writeStatus s q
    · exact queuesWane_refl s
  · exact queuesWane_refl s

/-- A queue that is not HALTED owes no line for its halted entries (03 R99). -/
theorem noteHalts_of_awake {s : State} {q : QId} {x : Queue} (hx : s.queue? q = some x) (hs : x.state ≠ .halted) :
    s.noteHalts q = s := by
  unfold State.noteHalts
  rw [hx]
  exact if_neg fun h => hs h.2.1

/-! What the end of an entry does, in parts: its outcome, its threads, the status line. -/

/-- The state in which an entry has its outcome and waits no more, before its threads are gone. -/
def outcomeGiven (s : State) (j : Job) (code detail pos : Nat) : State :=
  ((s.adminEffect j).modJob j.uid fun y => y.ended code detail pos).modQueue j.queue (waitsNoMore j.uid)

/-- The state in which a job's reads drain and the spans of its threads settle. -/
def threadsGone (s : State) (j : Job) : State :=
  (j.threads.map (·.span)).eraseDups.foldl State.settleRun (s.drainReads j.uid fun _ => true)

theorem endRaw_eq {s : State} {j : Job} (h : s.job? j.uid = some j) (code detail pos : Nat) :
    s.endRaw j.uid code detail pos = (threadsGone (outcomeGiven s j code detail pos) j).noteHalts j.queue := by
  unfold State.endRaw
  rw [h]
  rfl

theorem within_threadsGone (s : State) (j : Job) : Within [.requests, .spans] s (threadsGone s j) :=
  foldl_within (fun _ _ h => h.step (within_settleRun _ _)) ((within_refl s).step (within_drainReads s _ _))

theorem outcomeGiven_queue? {s : State} {j : Job} {x : Queue} (hx : s.queue? j.queue = some x) (code detail pos : Nat) :
    (outcomeGiven s j code detail pos).queue? j.queue = some (waitsNoMore j.uid x) :=
  queue?_modQueue_self (s := (s.adminEffect j).modJob j.uid _) ((queue?_of_within (within_adminEffect s j) _).trans hx) rfl

theorem queuesWane_outcomeGiven (s : State) (j : Job) (code detail pos : Nat) : QueuesWane s (outcomeGiven s j code detail pos) :=
  (queuesWane_of_within (((within_refl s).step (m := modJobParts ++ modPartParts) (within_adminEffect s j)).step
    (within_modJob _ j.uid _))).trans (queuesBecome_modQueue waned_refl _ _ (fun _ => rfl) (waned_waitsNoMore _))

theorem queuesWane_endRaw_outcomeGiven {s : State} {j : Job} (h : s.job? j.uid = some j) (code detail pos : Nat) :
    QueuesWane (outcomeGiven s j code detail pos) (s.endRaw j.uid code detail pos) := by
  rw [endRaw_eq h]
  exact (queuesWane_of_within (within_threadsGone _ j)).trans (queuesWane_noteHalts _ _)

theorem endRaw_of_no_job {s : State} {uid : Nat} (h : s.job? uid = none) (code detail pos : Nat) : s.endRaw uid code detail pos = s := by
  unfold State.endRaw
  rw [h]

theorem queuesWane_endRaw (s : State) (uid code detail pos : Nat) : QueuesWane s (s.endRaw uid code detail pos) := by
  cases h : s.job? uid with
  | none => exact (endRaw_of_no_job h code detail pos).symm ▸ queuesWane_refl s
  | some j =>
    obtain rfl := uid_of_job? h
    exact (queuesWane_outcomeGiven s j code detail pos).trans (queuesWane_endRaw_outcomeGiven h code detail pos)

/-- The end of an entry takes it from its queue, and where the queue is not HALTED changes nothing else of it. -/
theorem endRaw_queue?_of_awake {s : State} {j : Job} {x : Queue} (h : s.job? j.uid = some j) (hx : s.queue? j.queue = some x)
    (hs : x.state ≠ .halted) (code detail pos : Nat) :
    (s.endRaw j.uid code detail pos).queue? j.queue = some (waitsNoMore j.uid x) := by
  have hy := (queue?_of_within (within_threadsGone _ j) j.queue).trans (outcomeGiven_queue? hx code detail pos)
  rw [endRaw_eq h, noteHalts_of_awake hy hs, hy]

/-! The abort of a group, for an entry that has its outcome (11 R265, R267). -/

/-- Every job of a number has its outcome. -/
def AllEnding (s : State) (uid : Nat) : Prop := ∀ a ∈ s.jobs, a.uid = uid → a.phase = .ending

theorem AllEnding.of_jobsStand {s t : State} {uid : Nat} (h : AllEnding s uid) (k : JobsStand s t) : AllEnding t uid := by
  intro a ha hu
  obtain ⟨b, hb, e⟩ := List.mem_map.1 (k ▸ List.mem_map_of_mem ha : bare a ∈ s.jobs.map bare)
  have uid : b.uid = a.uid := (congrArg Job.uid e :)
  have phase : b.phase = a.phase := (congrArg Job.phase e :)
  exact phase.symm.trans (h b hb (uid.trans hu))

theorem allEnding_endRaw {s : State} {j : Job} (h : s.job? j.uid = some j) (code detail pos : Nat) :
    AllEnding (s.endRaw j.uid code detail pos) j.uid := by
  have given : AllEnding (outcomeGiven s j code detail pos) j.uid := by
    refine List.forall_mem_map.2 fun a _ => ?_
    split
    · exact fun _ => rfl
    · next hne => exact fun hu => absurd (beq_iff_eq.2 hu) hne
  rw [endRaw_eq h]
  exact given.of_jobsStand ((jobsStand_of_within (within_threadsGone _ j)).trans (jobsStand_noteHalts _ _))

theorem othersStand_endRaw (s : State) (uid code detail pos : Nat) : OthersStand s (s.endRaw uid code detail pos) uid := by
  cases h : s.job? uid with
  | none => exact (endRaw_of_no_job h code detail pos).symm ▸ othersStand_refl s uid
  | some j => exact (endRaw_job h code detail pos).2

/-- The pending jobs of a group that end are not among those that have their outcome. -/
theorem endGroupJobs_job? {s : State} {uid : Nat} (h : AllEnding s uid) (p g : Nat) (cause : AbortCause) :
    ((s.endGroupJobs p g cause).job? uid).map bare = (s.job? uid).map bare := by
  unfold State.endGroupJobs
  extract_lets code
  have others {xs : List Job} (hxs : ∀ k ∈ xs, k.uid ≠ uid) (t : State) :
      ((xs.foldl (fun s j => s.endRaw j.uid code g j.stopPosition) t).job? uid).map bare = (t.job? uid).map bare := by
    induction xs generalizing t with
    | nil => rfl
    | cons k r ih =>
      obtain ⟨hk, hr⟩ := List.forall_mem_cons.1 hxs
      exact (ih hr _).trans (othersStand_endRaw t k.uid code g k.stopPosition uid hk.symm)
  refine others (fun k hk hu => ?_) s
  obtain ⟨mem, pending⟩ := List.mem_filter.1 hk
  simp [h k mem hu] at pending

theorem abortGroup_job? {s : State} {uid : Nat} (h : AllEnding s uid) (p g : Nat) (cause : AbortCause) :
    ((s.abortGroup p g cause).job? uid).map bare = (s.job? uid).map bare := by
  unfold State.abortGroup
  split
  · rfl
  · extract_lets s1 s2
    split
    · rfl
    · have told : JobsStand s s2 := jobsStand_foldl (fun t d => jobsStand_postMsg t p d _) _ s1
      exact (endGroupJobs_job? (h.of_jobsStand told) p g cause).trans (told.job? uid)

theorem queuesWane_abortGroup (s : State) (p g : Nat) (cause : AbortCause) : QueuesWane s (s.abortGroup p g cause) := by
  unfold State.abortGroup
  split
  · exact queuesWane_refl s
  · extract_lets s1 s2
    split
    · exact queuesWane_refl s
    · have told : QueuesWane s1 s2 :=
        queuesWane_of_within (l := pumpGoParts) (foldl_within (fun _ _ h => h.step (within_postMsg _ _ _ _)) (within_refl s1))
      refine ((queuesWane_of_within (within_modGroup s p g _)).trans told).trans ?_
      exact queuesWane_foldl (fun t (k : Job) => queuesWane_endRaw t k.uid _ g _) _ _

/-! The end of an entry and what comes of it for its group (11 R261, R262). -/

/-- Besides the entry's own end there is nothing, or a mark on its group, or the abort of its group. -/
theorem endJob_cases {s : State} {uid : Nat} {j : Job} (h : s.job? uid = some j) (code detail pos : Nat) :
    s.endJob uid code detail pos = s.endRaw uid code detail pos ∨
      (∃ f, s.endJob uid code detail pos = (s.endRaw uid code detail pos).modGroup j.part j.groupNo f) ∨
      ∃ cause, s.endJob uid code detail pos = (s.endRaw uid code detail pos).abortGroup j.part j.groupNo cause := by
  unfold State.endJob
  rw [h]
  dsimp -zeta only
  extract_lets s1 late
  split
  · exact .inl rfl
  · split
    · split
      · exact .inl rfl
      · exact .inr (.inl ⟨_, rfl⟩)
    · exact .inr (.inr ⟨_, rfl⟩)

theorem endJob_job {s : State} {j : Job} (h : s.job? j.uid = some j) (code detail pos : Nat) :
    ∃ k, (s.endJob j.uid code detail pos).job? j.uid = some k ∧ bare k = bare (j.ended code detail pos) := by
  obtain ⟨⟨k, hk, same⟩, -⟩ := endRaw_job h code detail pos
  rcases endJob_cases h code detail pos with e | ⟨f, e⟩ | ⟨cause, e⟩ <;> rw [e]
  · exact ⟨k, hk, same⟩
  · exact ⟨k, hk, same⟩
  · have stand := abortGroup_job? (allEnding_endRaw h code detail pos) j.part j.groupNo cause
    rw [hk] at stand
    obtain ⟨k', hk', same'⟩ := Option.map_eq_some_iff.1 stand
    exact ⟨k', hk', same'.trans same⟩

/-- The entry waits no more on its queue, of which other entries of its group may have gone as well. -/
theorem endJob_queue {s : State} {j : Job} {x : Queue} (h : s.job? j.uid = some j) (hx : s.queue? j.queue = some x)
    (code detail pos : Nat) :
    ∃ y, (s.endJob j.uid code detail pos).queue? j.queue = some y ∧ Waned (waitsNoMore j.uid x) y := by
  have wane := queuesWane_endRaw_outcomeGiven h code detail pos
  refine QueuesWane.trans wane ?_ _ _ (outcomeGiven_queue? hx code detail pos)
  rcases endJob_cases h code detail pos with e | ⟨f, e⟩ | ⟨cause, e⟩ <;> rw [e]
  · exact queuesWane_refl _
  · exact queuesWane_of_within (within_modGroup _ _ _ f)
  · exact queuesWane_abortGroup _ _ _ cause

/-! One entry of a queue that fails decode. -/

theorem awake_of_admits {s : State} {x : Queue} (h : s.admits x = true) : x.state ≠ .halted := by
  intro hs
  simp [State.admits, hs] at h

/-- The state in which an entry that fails decode has completed and is counted (04 R105, R117). -/
def decodeFailed (s : State) (j : Job) (code detail : Nat) : State :=
  (s.endJob j.uid code detail 0).modQueue j.queue fun y => { y with decodeFails := y.decodeFails + 1 }

/-- The entry that fails is completed, and the same place is looked at next. -/
theorem dropFails_of_fail {s : State} {x : Queue} {f : Fetched} {j : Job} {i c d : Nat} (hx : s.queue? j.queue = some x)
    (ha : s.admits x = true) (hf : x.fetched[i]? = some f) (hj : s.job? f.uid = some j) (hp : j.phase = .fetched)
    (hv : (if i = 0 then s.decode x j else s.decodeForm x j) = .fail c d none) (n : Nat) :
    State.dropFails j.queue (n + 1) i s = State.dropFails j.queue n i (decodeFailed s j c d) := by
  have entry : ((x.fetched[i]?).bind fun f => (s.job? f.uid).filter fun j => j.phase == .fetched) = some j := by
    simp [hf, hj, hp, Option.filter]
  rw [State.dropFails, hx]
  dsimp only
  rw [if_neg (by simp [ha]), entry]
  dsimp only
  rw [hv]
  rfl

/-- Settles O18: the entry ends as it would without a group; its group's abort takes at most entries from a queue and calls for its line. -/
theorem entryThatFailsDecodeCompletesAtOnce : Obligations.EntryThatFailsDecodeCompletesAtOnce := by
  unfold Obligations.EntryThatFailsDecodeCompletesAtOnce
  intro s q x f j i c d hx ha hf hj hq hp hv
  subst hq
  have hj' : s.job? j.uid = some j := uid_of_job? hj ▸ hj
  obtain ⟨k, hk, ended⟩ := endJob_job hj' c d 0
  obtain ⟨y, hy, waned⟩ := endJob_queue hj' hx c d 0
  refine ⟨decodeFailed s j c d, k, _, dropFails_of_fail hx ha hf hj hp hv, queue?_modQueue_self hy rfl, ?_⟩
  refine ⟨?_, ?_, ?_, ?_, ?_, fun g hg => ?_, fun hgroup => ?_, hk, (congrArg Job.phase ended :), (congrArg Job.code ended :),
    (congrArg Job.detail ended :), (congrArg Job.position ended :), (congrArg Job.order ended :)⟩
  · exact (congrArg (fun w : Queue => w.decodeFails + 1) waned.rest :)
  · exact (congrArg Queue.deficit waned.rest :)
  · exact (congrArg Queue.tokens waned.rest :)
  · exact (congrArg Queue.admittedJobs waned.rest :)
  · exact (congrArg Queue.admittedBytes waned.rest :)
  · simpa [waitsNoMore] using waned.fetched hg
  · have alone := endRaw_queue?_of_awake hj' hx (awake_of_admits ha) c d 0
    rw [← endJob_eq_endRaw hj' hgroup, hy] at alone
    rw [Option.some.inj alone]
    rfl

end Sys2Proof.Proofs

/-! The bytes of a job's destination (02 R67, R71, 01 R22). -/

namespace Sys2Proof.Proofs

open Sys2Proof Sys2Proof.Machine Sys2Proof.Laws

/-! A write's request stands, but for its transfer, until it is answered; only the host port answers at the transfer (19 R438). -/

/-- A request stands in a state, but for its transfer. -/
def Pends (q : Request) (t : State) : Prop := ∃ r ∈ t.ports.requests, untransferred r = untransferred q

/-- A request that waits for a port has its place and its port. -/
theorem waiting_some {rs : List Request} {p : Port} {f : Request → Bool} {i : Nat} {r : Request} (h : State.waiting rs p f = some (i, r)) :
    rs[i]? = some r ∧ r.port = p := by
  obtain ⟨k, hk⟩ := List.mem_iff_getElem?.1 (List.mem_of_find?_eq_some h)
  obtain ⟨hi, hr⟩ := List.getElem?_zip_eq_some.1 hk
  obtain ⟨_, hi⟩ := List.getElem?_eq_some_iff.1 hi
  obtain rfl : k = i := (List.getElem_range _).symm.trans hi
  have found := List.find?_some h
  simp only [Bool.and_eq_true, beq_iff_eq] at found
  exact ⟨hr, found.1.1⟩

/-- What a port transfers next waits for it. -/
theorem choose_some {s : State} {x y : PortState} {i : Nat} {r : Request} (h : s.choose x = some (i, r, y)) :
    s.ports.requests[i]? = some r ∧ r.port = x.port := by
  unfold State.choose at h
  extract_lets rs z at h
  split at h
  · next hw =>
    obtain ⟨rfl, rfl, -⟩ : _ ∧ _ ∧ _ := by simpa using h
    exact waiting_some hw
  · split at h
    · next hw =>
      obtain ⟨rfl, rfl, -⟩ : _ ∧ _ ∧ _ := by simpa using h
      exact waiting_some (Option.filter_eq_some_iff.1 hw).1
    · obtain ⟨q, -, h⟩ := Option.bind_eq_some_iff.1 h
      obtain ⟨⟨k, r'⟩, hw, e⟩ := Option.map_eq_some_iff.1 h
      obtain ⟨rfl, rfl, -⟩ : _ ∧ _ ∧ _ := by simpa using e
      exact waiting_some hw

section

variable {q : Request} (hb : State.fetchOf q = none)

include hb

/-- Of the requests only reads take note of a write that lands (02 R70). -/
theorem pends_landBytes {s : State} (h : Pends q s) (own : Owner) (bs : List WByte) (poison : List Nat) :
    Pends q (s.landBytes own bs poison) := by
  obtain ⟨r, hr, e⟩ := h
  have body : r.body = q.body := (congrArg Request.body e :)
  have kept (z : State) (gs : List Nat) : (z.noteInjected gs).ports.requests = z.ports.requests :=
    congrArg Prod.fst (((within_noteInjected z gs).only .requests).resolve_left (by decide))
  refine ⟨r, List.mem_map.2 ⟨r, (kept _ _).symm ▸ hr, ?_⟩, e⟩
  split
  · next f hf =>
    rw [State.fetchOf, ← body, hf] at hb
    cases hb
  · rfl

/-- An acknowledgement at the host port lands bytes, and emits at most. -/
theorem pends_hostDone {s : State} (h : Pends q s) (r : Request) : Pends q (s.hostDone r) := by
  have landed : Pends q (s.landBody { r with sent := true } .okay) := by
    unfold State.landBody
    split
    · exact pends_landBytes hb h _ _ _
    · next e => cases e
    · exact h
    · exact h
  unfold State.hostDone
  split
  · exact landed
  · exact landed

/-- Transfers at a port, the host's or another, leave the requests of the other ports than the host's. -/
theorem pends_pumpGo (hq : q.port ≠ .host) (p : Port) (n : Nat) (s : State) (acc : List Request) (h : Pends q s) :
    Pends q (State.pumpGo p n s acc).1 := by
  induction n generalizing s acc with
  | zero => exact h
  | succ n ih =>
    unfold State.pumpGo
    split
    · extract_lets
      split <;> exact h
    · next i r x chosen =>
      extract_lets read tag wd s1 s2 s3 done rs _ s4
      split
      · exact h
      · have h2 : s2.ports.requests = s.ports.requests := by
          unfold s2 State.countBytes
          split
          · rfl
          · split <;> rfl
        have h3 : rs = s.ports.requests := by
          unfold rs s3
          split <;> exact h2
        have h4 : Pends q s4 := by
          obtain ⟨r', hr', e⟩ := h
          cases hd : done with
          | false =>
            have kept : s4.ports.requests.map untransferred = rs.map untransferred := by
              unfold s4
              rw [hd]
              exact map_modAt untransferred _ _ _ fun _ => rfl
            exact List.mem_map.1 (kept ▸ h3 ▸ e ▸ List.mem_map_of_mem hr')
          | true =>
            obtain ⟨place, port⟩ := choose_some chosen
            have host : p = .host := by
              unfold done at hd
              simpa using (Bool.and_eq_true_iff.1 hd).1
            have other : r' ≠ r := by
              rintro rfl
              have same : r'.port = q.port := (congrArg Request.port e :)
              exact hq (same.symm.trans (port.trans ((portState_port s p).trans host)))
            have erased : s4.ports.requests = s.ports.requests.eraseIdx i := by
              unfold s4
              rw [hd, h3]
              rfl
            obtain ⟨k, hk⟩ := List.mem_iff_getElem?.1 hr'
            refine ⟨r', erased ▸ List.mem_eraseIdx_iff_getElem?.2 ⟨k, ?_, hk⟩, e⟩
            rintro rfl
            exact other (Option.some.inj (hk.symm.trans place))
        refine ih _ _ ?_
        split
        · exact pends_hostDone hb h4 r
        · exact h4

theorem pends_addRequests (hq : q.port ≠ .host) {s : State} {rs : List Request} (hr : q ∈ rs) : Pends q (s.addRequests rs) := by
  unfold State.addRequests
  exact List.foldlRecOn (motive := Pends q) _ _ ⟨q, List.mem_append_right _ hr, rfl⟩ fun t ht p _ => pends_pumpGo hb hq p _ t [] ht

end

/-- A byte of a write is in the piece of its block, so it is requested of the port of its target (19 R428). -/
theorem requested_issueElems {s : State} {own : Owner} {part route : Nat} {bs : List State.Put8} {poison : List Nat}
    {span : Option Nat} {b : State.Put8} {p : Port} (hb : b ∈ bs) (hp : s.portOf b.target = some p) (hne : p ≠ .host) :
    Requested (s.issueElems own part route bs poison span) p own part b.wbyte := by
  unfold State.issueElems
  extract_lets here s1 reqs
  let mine := bs.filter fun x => x.target == b.target && x.addr / 256 == b.addr / 256
  have mem : b ∈ mine := List.mem_filter.2 ⟨hb, by simp⟩
  obtain ⟨k, hk, htgt, hblock⟩ : ∃ k ∈ State.pieces (bs.map fun x => (x.target, x.addr)), k.1 = b.target ∧ k.2.1 = b.addr / 256 := by
    refine ⟨_, List.mem_map_of_mem (List.mem_eraseDups.2 (List.mem_map_of_mem (List.mem_map_of_mem hb))), rfl, rfl⟩
  let q : Request := { port := p, owner := own, body := .write (mine.map State.Put8.wbyte) poison, elem := listMinD (mine.map (·.elem)) 0,
                       route, part, granules := State.pieceGranules k.2.2, span }
  have hq : q ∈ reqs := List.mem_filterMap.2 ⟨k, hk, by rw [htgt, hp, hblock]; rfl⟩
  obtain ⟨r, hr, e⟩ := pends_addRequests (q := q) rfl hne hq (s := s1)
  exact ⟨r, hr, (congrArg Request.port e :), (congrArg Request.owner e :), (congrArg Request.part e :), _, _,
    (congrArg Request.body e :), List.mem_map_of_mem mem⟩

/-! Bytes in staging stand at once (02 R45). -/

def inStaging : Target → Bool
  | .staging _ => true
  | _ => false

/-- The bytes of a write that lie in staging, in order. -/
def stagingBytes (bs : List State.Put8) : List WByte := (bs.filter fun b => inStaging b.target).map State.Put8.wbyte

theorem portOf_ne_host {s : State} {t : Target} {p : Port} (ht : t ≠ .host) (h : s.portOf t = some p) : p ≠ .host := by
  rintro rfl
  cases t <;> simp_all [State.portOf]

/-- A write of no byte at the host changes the bytes in staging and no other. -/
theorem get_issueElems {s : State} {own : Owner} {part route : Nat} {bs : List State.Put8} {poison : List Nat} {span : Option Nat}
    (h : ∀ b ∈ bs, b.target ≠ .host) (k : Nat) :
    (s.issueElems own part route bs poison span).store.get k = (s.store.change (stagingBytes bs)).get k := by
  unfold State.issueElems
  extract_lets here s1 reqs
  have hhere : stagingBytes bs = here.map State.Put8.wbyte := by
    refine congrArg (List.map State.Put8.wbyte) (List.filter_congr fun b _ => ?_)
    cases b.target <;> rfl
  have landed : s1.store.get k = (s.store.change (stagingBytes bs)).get k := by
    rw [hhere]
    cases e : here with
    | nil => rw [show s1 = s from if_pos (List.isEmpty_iff.2 e)]; rfl
    | cons x r =>
      rw [show s1 = s.landBytes own (here.map State.Put8.wbyte) poison from if_neg (by simp [e]), e]
      exact get_landBytes _ _ _ _ _
  have ports : ∀ r ∈ reqs, r.port ≠ .host := by
    intro r hr
    obtain ⟨x, hx, hr⟩ := List.mem_filterMap.1 hr
    obtain ⟨p, hp, rfl⟩ := Option.map_eq_some_iff.1 hr
    obtain ⟨y, hy, hyx⟩ := target_of_mem_pieces hx
    obtain ⟨b, hb, rfl⟩ := List.mem_map.1 hy
    exact portOf_ne_host (h b hb) ((congrArg s.portOf hyx).trans hp)
  exact (congrArg (fun st : Store => st.get k) (onlyTransfers_addRequests s1 reqs ports).store).trans landed

theorem change_append (st : Store) (l m : List WByte) : st.change (l ++ m) = (st.change l).change m := by
  induction l generalizing st with
  | nil => rfl
  | cons b r ih => exact ih _

/-- A byte that one write of a list alone names takes that write's bits. -/
theorem get_change_once {st : Store} {l m : List WByte} {b : WByte} (hw : Memory.wf st) (hl : ∀ c ∈ l, c.key ≠ b.key)
    (hm : ∀ c ∈ m, c.key ≠ b.key) : (st.change (l ++ b :: m)).get b.key =
      BitVec.ofNat 8 (Nat.lor ((st.get b.key).toNat - Nat.land (st.get b.key).toNat b.mask) b.val) := by
  rw [change_append, Store.change, get_change_other (wf_put _ _ _ (wf_change _ _ hw)) hm, get_put _ _ _ _ (wf_change _ _ hw),
    if_pos rfl, get_change_other hw hl]

/-! The cells of a destination, at their places. -/

/-- Place of a cell of a job's destination. -/
def cellPlace (s : State) (j : Job) (route : Nat) (c : Machine.Cell) : Option (Target × Nat) :=
  s.locate j.part j.xlat (route * 2 ^ 56 + c.off.toNat)

/-- The spec leaves the byte of a cell open: the whole landing's, one that two elements share, one that another element of the job
claims (05 R130, 01 R39). -/
def leftOpen (s : State) (j : Job) (free : Bool) (mine : Nat → Bool) (c : Machine.Cell) : Bool :=
  free || c.shared || (Entry.hasDst j.entry && !Entry.apart j.entry && s.claimed j mine c)

/-- The bytes of the cells that have places, as they are issued. -/
def landPuts (s : State) (j : Job) (route : Nat) (free : Bool) (mine : Nat → Bool) (cs : List Machine.Cell) : List State.Put8 :=
  cs.filterMap fun c => (cellPlace s j route c).map fun t => s.cellPut c t (leftOpen s j free mine c)

/-- Cells that land all have places, and their bytes are issued; besides, the job keeps what its seals and its poison need. -/
theorem landCells_done {s t : State} {j : Job} {own : Owner} {route : Nat} {cs : List Machine.Cell} {free : Bool} {mine : Nat → Bool}
    {span : Option Nat} (h : s.landCells j own route cs free mine span = .done t) :
    (∀ c ∈ cs, ∃ u, cellPlace s j route c = some u) ∧
      ∃ poison f, t = ((s.issueElems own j.part route (landPuts s j route free mine cs) poison span).modJob j.uid f).useFree := by
  unfold State.landCells at h
  split at h
  · split at h <;> cases h
  · next placed =>
    extract_lets ls at h
    split at h
    · cases h
    · next bs _ _ _ _ _ _ _ _ =>
      obtain rfl := State.Land.done.inj h
      refine ⟨fun c hc => ?_, _, _, congrArg (fun bs => ((s.issueElems own j.part route bs _ span).modJob j.uid _).useFree) ?_⟩
      · exact Option.ne_none_iff_exists'.1 (by simpa [cellPlace] using List.find?_eq_none.1 placed c hc)
      · simp only [bs, ls, List.map_filterMap, Option.map_map]
        rfl

section

variable {s : State} {j : Job} {route : Nat} {free : Bool} {mine : Nat → Bool}

theorem mem_landPuts {cs : List Machine.Cell} {b : State.Put8} : b ∈ landPuts s j route free mine cs ↔
    ∃ c ∈ cs, ∃ u, cellPlace s j route c = some u ∧ s.cellPut c u (leftOpen s j free mine c) = b := by
  simp only [landPuts, List.mem_filterMap, Option.map_eq_some_iff]

theorem landPuts_split {l m : List Machine.Cell} {c : Machine.Cell} {u : Target × Nat} (h : cellPlace s j route c = some u) :
    landPuts s j route free mine (l ++ c :: m) = landPuts s j route free mine l ++
      s.cellPut c u (leftOpen s j free mine c) :: landPuts s j route free mine m := by
  simp [landPuts, h]

/-- A byte in staging that cells land on is the place of one of them. -/
theorem mem_stagingBytes_landPuts {cs : List Machine.Cell} {b : WByte} (h : b ∈ stagingBytes (landPuts s j route free mine cs)) :
    ∃ c ∈ cs, ∃ n a, cellPlace s j route c = some (.staging n, a) ∧ locKey (.staging n) a = b.key := by
  obtain ⟨x, hx, rfl⟩ := List.mem_map.1 h
  obtain ⟨mem, staging⟩ := List.mem_filter.1 hx
  obtain ⟨c, hc, ⟨tgt, a⟩, hu, rfl⟩ := mem_landPuts.1 mem
  cases tgt with
  | staging n => exact ⟨c, hc, n, a, hu, rfl⟩
  | _ => cases staging

/-- Of a byte in staging that one cell alone lands on, the bits of its mask are written. -/
theorem get_change_landPuts {cs : List Machine.Cell} {c : Machine.Cell} {n a : Nat} (hw : Memory.wf s.store) (distinct : cs.Nodup)
    (hc : c ∈ cs) (hu : cellPlace s j route c = some (.staging n, a))
    (sole : ∀ y ∈ cs, ∀ u d, cellPlace s j route y = some (u, d) → locKey u d = locKey (.staging n) a → y = c) :
    (s.store.change (stagingBytes (landPuts s j route free mine cs))).get (locKey (.staging n) a) =
      BitVec.ofNat 8 (Nat.lor ((s.store.get (locKey (.staging n) a)).toNat - Nat.land (s.store.get (locKey (.staging n) a)).toNat c.mask)
        (s.cellPut c (.staging n, a) (leftOpen s j free mine c)).val) := by
  obtain ⟨l, m, rfl⟩ := List.append_of_mem hc
  obtain ⟨-, hm, hl⟩ := List.nodup_append.1 distinct
  have apart {y : Machine.Cell} (hy : y ∈ l ++ c :: m) (hne : y ≠ c) {u : Target} {d : Nat} (hd : cellPlace s j route y = some (u, d)) :
      locKey u d ≠ locKey (.staging n) a := fun e => hne (sole y hy u d hd e)
  rw [landPuts_split hu]
  unfold stagingBytes
  rw [List.filter_append, List.filter_cons_of_pos rfl, List.map_append, List.map_cons]
  refine get_change_once (b := (s.cellPut c (.staging n, a) _).wbyte) hw (fun b hb => ?_) fun b hb => ?_
  · obtain ⟨y, hy, i, d, hd, e⟩ := mem_stagingBytes_landPuts hb
    exact e ▸ apart (List.mem_append_left _ hy) (hl y hy c List.mem_cons_self) hd
  · obtain ⟨y, hy, i, d, hd, e⟩ := mem_stagingBytes_landPuts hb
    exact e ▸ apart (List.mem_append_right _ (List.mem_cons_of_mem _ hy)) (fun e => (List.nodup_cons.1 hm).1 (e ▸ hy)) hd

end

/-- Settles O29: the cells' bytes are issued together. Those in staging land at once, one after another; the others stand as requests,
which a transfer at the host port, where writes land at once, leaves alone. -/
theorem landedBytesStandAndNoOther : Obligations.LandedBytesStandAndNoOther := by
  unfold Obligations.LandedBytesStandAndNoOther
  intro s s1 j own route cells free mine span run place
  obtain ⟨placed, poison, f, rfl⟩ := landCells_done run
  have only := (land_within run (within_landCells s j own route cells free mine span)).only
  have bytes (hhost : ∀ y ∈ cells, ∀ u c, place y = some (u, c) → u ≠ .host) (k : Nat) :=
    get_issueElems (s := s) (own := own) (part := j.part) (route := route) (poison := poison) (span := span)
      (bs := landPuts s j route free mine cells) (fun b hb => by
        obtain ⟨c, hc, u, hu, rfl⟩ := mem_landPuts.1 hb
        exact hhost c hc _ _ hu) k
  refine ⟨(only .queues).resolve_left (by decide), (only .spans).resolve_left (by decide), (only .chans).resolve_left (by decide),
    (only .tables).resolve_left (by decide), (only .levels).resolve_left (by decide), (working_landCells run).others, fun x hx => ?_,
    fun hhost hw k hk => ?_⟩
  · obtain ⟨⟨tgt, a⟩, hu⟩ := placed x hx
    have put : s.cellPut x (tgt, a) (leftOpen s j free mine x) ∈ landPuts s j route free mine cells := mem_landPuts.2 ⟨x, hx, _, hu, rfl⟩
    refine ⟨tgt, a, s.cellPut x (tgt, a) (leftOpen s j free mine x), hu, rfl, fun hfree hshared alone => if_neg ?_, fun hopen => if_pos ?_,
      fun p hp hne => requested_issueElems put hp hne, fun hhost hw distinct n hn sole => ?_⟩
    · rcases alone with e | e | e <;> simp [leftOpen, hfree, hshared, e]
    · rcases hopen with e | e <;> simp [leftOpen, e]
    · subst hn
      exact (bytes hhost _).trans (get_change_landPuts hw distinct hx hu sole)
  · refine (bytes hhost k).trans (get_change_other hw fun b hb => ?_)
    obtain ⟨c, hc, n, a, ha, e⟩ := mem_stagingBytes_landPuts hb
    exact e ▸ hk c hc n a ha

end Sys2Proof.Proofs

/-! Descriptor timeouts (05 R122, 03 R93, 02 R75, 11 R261, R264). -/

namespace Sys2Proof.Proofs

open Sys2Proof Sys2Proof.Machine Sys2Proof.Laws

/-! Reads that are given up drain (06 R155). -/

/-- The read of a job that a request is, if it is one, has been transferred and drains. -/
def Drains (uid : Nat) (r : Request) : Prop :=
  ∀ m, r.owner = .fetch uid m → r.sent = true ∧ ∀ f, State.fetchOf r = some f → f.drained = true

theorem drains_giveTags {s : State} {uid : Nat} (h : ∀ r ∈ s.ports.requests, Drains uid r) (n : Nat) :
    ∀ r ∈ (s.giveTags n).ports.requests, Drains uid r := by
  unfold State.giveTags
  refine List.foldlRecOn (motive := fun a : List Request × Nat => ∀ r ∈ a.1, Drains uid r) _ _ (List.forall_mem_nil _)
    fun a ha r hr => ?_
  have tagged (f : Fetch) (hf : r.body = .fetch f) : Drains uid { r with body := .fetch { f with tagged := true } } := by
    intro m hm
    obtain ⟨sent, drained⟩ := h r hr m hm
    refine ⟨sent, fun x hx => ?_⟩
    obtain rfl := Option.some.inj hx
    exact drained f (by rw [State.fetchOf, hf])
  have behind {q : Request} (hq : Drains uid q) : ∀ r ∈ a.1 ++ [q], Drains uid r :=
    List.forall_mem_append.2 ⟨ha, List.forall_mem_singleton.2 hq⟩
  split
  · next f hf =>
    split
    · exact behind (tagged f hf)
    · exact behind (h r hr)
  · exact behind (h r hr)

theorem drains_drainReads (s : State) (uid : Nat) : ∀ r ∈ (s.drainReads uid fun _ => true).ports.requests, Drains uid r := by
  unfold State.drainReads
  extract_lets mine spans rs
  refine List.foldlRecOn (motive := fun t : State => ∀ r ∈ t.ports.requests, Drains uid r) _ _ ?_ fun t ht n _ => drains_giveTags ht n
  intro r hr m hm
  obtain ⟨q, hq, e⟩ := List.mem_map.1 hr
  obtain ⟨-, kept⟩ := List.mem_filter.1 hq
  have own : q.owner = .fetch uid m := by
    rw [← hm, ← e]
    split
    · split <;> rfl
    · rfl
  have isMine : mine q = true := by simp [mine, own]
  have sent : q.sent = true := by simpa [isMine] using kept
  split at e
  · rw [if_pos isMine] at e
    subst e
    refine ⟨sent, fun f hf => ?_⟩
    obtain rfl := Option.some.inj hf
    rfl
  · next notRead =>
    subst e
    refine ⟨sent, fun f hf => ?_⟩
    unfold State.fetchOf at hf
    split at hf
    · next x hx => exact absurd hx (notRead x)
    · cases hf

/-! The end of an entry of an I/O queue that is not HALTED. -/

/-- The state in which an entry of an I/O queue has its outcome and waits no more. -/
def outcomeTaken (s : State) (j : Job) (code detail pos : Nat) : State :=
  (s.modJob j.uid fun y => y.ended code detail pos).modQueue j.queue (waitsNoMore j.uid)

theorem adminEffect_of_io {s : State} {j : Job} {n : Nat} (hio : j.queue = .io n) : s.adminEffect j = s := by
  unfold State.adminEffect
  rw [hio]

theorem outcomeGiven_of_io {s : State} {j : Job} {n : Nat} (hio : j.queue = .io n) (code detail pos : Nat) :
    outcomeGiven s j code detail pos = outcomeTaken s j code detail pos := by
  unfold outcomeGiven
  rw [adminEffect_of_io hio]
  rfl

theorem threadsGone_eq (s : State) (j : Job) : ∃ l, threadsGone s j =
    { s.drainReads j.uid (fun _ => true) with spans := l } := by
  unfold threadsGone
  generalize s.drainReads j.uid (fun _ => true) = t
  generalize (j.threads.map (·.span)).eraseDups = ns
  induction ns generalizing t with
  | nil => exact ⟨_, rfl⟩
  | cons n r ih =>
    obtain ⟨x, hx⟩ := settleRun_eq t n
    obtain ⟨l, hl⟩ := ih (t.settleRun n)
    exact ⟨l, by rw [List.foldl_cons, hl, hx]⟩

/-- What a timeout leaves of a running entry: it has its outcome, its threads are gone and its reads drain, and nothing else changes. -/
structure Ended (s t : State) (j : Job) (x : Queue) (code detail pos : Nat) : Prop where
  rest   : t = { s with jobs := t.jobs, queues := t.queues, spans := t.spans, ports := { s.ports with requests := t.ports.requests } }
  job    : t.job? j.uid = some (j.ended code detail pos)
  queue  : t.queue? j.queue = some (waitsNoMore j.uid x)
  reads  : ∀ r ∈ t.ports.requests, Drains j.uid r
  queues : ∀ q, q ≠ j.queue → t.queue? q = s.queue? q
  jobs   : ∀ u, u ≠ j.uid → t.job? u = s.job? u

theorem ended_endRaw {s : State} {j : Job} {x : Queue} {n : Nat} (h : s.job? j.uid = some j) (hio : j.queue = .io n)
    (hx : s.queue? j.queue = some x) (hs : x.state ≠ .halted) (code detail pos : Nat) :
    Ended s (s.endRaw j.uid code detail pos) j x code detail pos := by
  let given := outcomeTaken s j code detail pos
  have hq : given.queue? j.queue = some (waitsNoMore j.uid x) := queue?_modQueue_self (s := s.modJob j.uid _) hx rfl
  have run : s.endRaw j.uid code detail pos = threadsGone given j := by
    rw [endRaw_eq h, outcomeGiven_of_io hio, noteHalts_of_awake ((queue?_of_within (within_threadsGone given j) _).trans hq) hs]
  have within := within_threadsGone given j
  obtain ⟨spans, gone⟩ := threadsGone_eq given j
  obtain ⟨requests, drained⟩ := drainReads_eq given j.uid fun _ => true
  rw [run]
  refine ⟨?_, ?_, (queue?_of_within within _).trans hq, ?_, fun q hne => ?_, fun u hne => ?_⟩
  · rw [gone, drained]
    rfl
  · exact (job?_of_within within _).trans (job?_modJob_self h rfl)
  · rw [gone]
    exact drains_drainReads given j.uid
  · exact (queue?_of_within within q).trans (queue?_modQueue_ne (fun _ => rfl) hne)
  · exact (job?_of_within within u).trans (job?_modJob_ne (fun _ => rfl) hne)

/-! Groups: what the abort of one leaves of it (11 R265). -/

/-- A partition but for its PORT_BYTES counters. -/
def uncounted (x : Part) : Part := { x with portBytes := [] }

theorem groups_uncounted (s : State) (p : Nat) : ((s.parts.map uncounted).getD p (uncounted {})).groups = (s.part p).groups := by
  rw [List.getD_map]
  rfl

/-- What leaves the partitions but their counters leaves their groups. -/
theorem group?_of_within {l : List Field} {s t : State} (h : Within l s t) (p g : Nat) (hl : Field.parts ∉ l := by decide) :
    t.group? p g = s.group? p g := by
  have same : t.parts.map uncounted = s.parts.map uncounted := (h.only .parts).resolve_left hl
  unfold State.group?
  rw [← groups_uncounted, ← groups_uncounted, same]

theorem group?_modPart {f : Part → Part} (hf : ∀ x, (f x).groups = x.groups) (s : State) (n p g : Nat) :
    (s.modPart n f).group? p g = s.group? p g := by
  have same : ((s.modPart n f).part p).groups = (s.part p).groups := by
    simp only [State.part, modPart_parts, List.getD_eq_getElem?_getD, getElem?_modAt]
    split
    · cases s.parts[p]? with
      | none => rfl
      | some x => exact hf x
    · rfl
  unfold State.group?
  rw [same]

theorem group?_adminEffect (s : State) (j : Job) (p g : Nat) : (s.adminEffect j).group? p g = s.group? p g := by
  unfold State.adminEffect
  split
  · rfl
  · extract_lets
    split
    · rfl
    · split
      · exact group?_modPart (by exact fun _ => rfl) s _ p g
      · exact group?_modPart (by exact fun _ => rfl) s _ p g
      · rfl

theorem group?_endRaw (s : State) (uid code detail pos p g : Nat) : (s.endRaw uid code detail pos).group? p g = s.group? p g := by
  unfold State.endRaw
  split
  · rfl
  · exact (group?_of_within (within_afterKill _ _ _ _ _) p g).trans (group?_adminEffect s _ p g)

theorem group?_modGroup {s : State} {p g : Nat} {x : Group} (h : s.group? p g = some x) {f : Group → Group} (hf : (f x).g = x.g) :
    (s.modGroup p g f).group? p g = some (f x) := by
  have inRange : p < s.parts.length := by
    by_contra hp
    have none : s.part p = {} := List.getD_eq_default _ _ (not_lt.1 hp)
    rw [State.group?, none] at h
    cases h
  unfold State.group? State.modGroup State.part
  rw [modPart_parts, getD_modAt_self _ _ _ _ inRange]
  exact find_map_self Group.g g f _ x h hf

/-- Where no coordinator has closed the epoch, an abort leaves the group ABORTED (11 R263, R265). -/
theorem abortGroup_aborted {s : State} {p g : Nat} {x : Group} (h : s.group? p g = some x) (hc : x.closing ≠ some x.epoch)
    (cause : AbortCause) : ∃ y, (s.abortGroup p g cause).group? p g = some y ∧ y.state = .aborted := by
  unfold State.abortGroup
  rw [h]
  dsimp -zeta only
  extract_lets s1 s2
  split
  · next stands => exact ⟨x, h, stands.resolve_right hc⟩
  · have told : Within pumpGoParts s1 s2 := foldl_within (fun _ _ k => k.step (within_postMsg _ _ _ _)) (within_refl s1)
    have ended : (s2.endGroupJobs p g cause).group? p g = s2.group? p g :=
      foldl_same (fun t : State => t.group? p g) _ _ s2 fun t k => group?_endRaw t _ _ _ _ p g
    exact ⟨_, ended.trans ((group?_of_within told p g).trans (group?_modGroup h rfl)), rfl⟩

/-! The timeout of a job. -/

/-- A job whose timeout may expire: it runs, its descriptor has one, and its queue is not HALTED (05 R121, R122). -/
structure Timed (s : State) (j : Job) (x : Queue) : Prop where
  job     : s.job? j.uid = some j
  queue   : s.queue? j.queue = some x
  awake   : x.state ≠ .halted
  order   : j.order ≠ 0
  running : j.phase = .running
  going   : j.stopped = false
  timeout : Entry.timeout j.entry ≠ 0

/-- A GROUP_BARRIER that only waits for the coordinator's word: its group is READY here, and no rank 0 of it is LOCAL (11 R264). -/
def PastTimeout (s : State) (j : Job) : Prop :=
  Entry.opcode j.entry = 0x0C ∧ ∃ g, s.group? j.part j.groupNo = some g ∧ g.state = .ready ∧ 0 ∉ State.localRanks g

theorem timeoutJob_of_timed {s : State} {j : Job} {x : Queue} (h : Timed s j x) (hp : ¬ PastTimeout s j) :
    s.timeoutJob j.uid = if Entry.opcode j.entry = 0x0B then s.endJob j.uid 0x82 (s.barrierDetail j) 0
      else s.endJob j.uid 0xA0 1 j.stopPosition := by
  unfold State.timeoutJob
  rw [h.job]
  dsimp only
  rw [h.queue, if_neg]
  simp only [h.order, h.running, h.going, h.timeout]
  cases hg : s.group? j.part j.groupNo with
  | none => simp [h.awake]
  | some g => simpa [h.awake, PastTimeout, hg] using hp

theorem timeoutJob_of_past {s : State} {j : Job} (h : s.job? j.uid = some j) (hp : PastTimeout s j) : s.timeoutJob j.uid = s := by
  obtain ⟨hop, g, hg, ready, far⟩ := hp
  unfold State.timeoutJob
  rw [h]
  dsimp only
  exact if_pos (by simp [hop, hg, ready, far])

theorem outcome_of_bare {j k : Job} (h : bare k = bare j) :
    k.phase = j.phase ∧ k.code = j.code ∧ k.detail = j.detail ∧ k.position = j.position ∧ k.stopped = j.stopped :=
  ⟨(congrArg Job.phase h :), (congrArg Job.code h :), (congrArg Job.detail h :), (congrArg Job.position h :), (congrArg Job.stopped h :)⟩

/-- A group job that ends with CANCELLED aborts its group (11 R261). -/
theorem endJob_cancelled {s : State} {j : Job} (h : s.job? j.uid = some j) (hg : j.groupOp = true) (detail pos : Nat) :
    s.endJob j.uid 0xA0 detail pos = (s.endRaw j.uid 0xA0 detail pos).abortGroup j.part j.groupNo .groupAbort := by
  unfold State.endJob
  rw [h]
  simp [hg, groupHarmless]

/-- Settles O20: a job of no group ends alone; the end of a group job aborts its group, which leaves that job's outcome as it is. -/
theorem descriptorTimeoutEndsTheJob : Obligations.DescriptorTimeoutEndsTheJob := by
  unfold Obligations.DescriptorTimeoutEndsTheJob
  intro s j x n hj hx hio hs ho hp hst ht
  have timed : Timed s j x := ⟨hj, hx, hs, ho, hp, hst, ht⟩
  have step {t : State} (e : s.timeoutJob j.uid = t) : exec (.jobTimeout j.uid) s = .next t := congrArg Host.Outcome.next e
  refine ⟨fun hgroup hbar hgbar => ?_, fun hgroup hbar => ?_, fun hgroup => ⟨fun hpast => ?_, fun hop g hg ready far => ?_⟩⟩
  · have run := timeoutJob_of_timed timed fun past => hgbar past.1
    rw [if_neg hbar, endJob_eq_endRaw hj hgroup] at run
    have ended := ended_endRaw hj hio hx hs 0xA0 1 j.stopPosition
    obtain ⟨count, aux⟩ := ended_counts hp 0xA0 1 j.stopPosition
    refine ⟨_, step run, ended.rest, ended.job.trans ?_, ended.queue, ended.reads, ended.queues, ended.jobs⟩
    rw [← count, ← aux]
    rfl
  · have run := timeoutJob_of_timed timed fun past => absurd (hbar.symm.trans past.1) (by decide)
    rw [if_pos hbar, endJob_eq_endRaw hj hgroup] at run
    have ended := ended_endRaw hj hio hx hs 0x82 (s.barrierDetail j) 0
    exact ⟨_, _, step run, ended.rest, ended.job, rfl, rfl, rfl, rfl, rfl, ended.jobs⟩
  · have noBarrier : Entry.opcode j.entry ≠ 0x0B := fun hop => by simp [groupOp_of_opcode hop rfl] at hgroup
    have run := timeoutJob_of_timed timed fun ⟨hop, g, hg, ready, far⟩ =>
      hpast.elim (fun hne => hne hop) fun here => (here g hg).elim (fun hne => hne ready) far
    rw [if_neg noBarrier] at run
    obtain ⟨k, hk, same⟩ := endJob_job hj 0xA0 1 j.stopPosition
    obtain ⟨phase, code, detail, position, stopped⟩ := outcome_of_bare same
    refine ⟨_, k, step run, hk, phase, code, detail, position, stopped, fun g hg hclosing => ?_⟩
    rw [endJob_cancelled hj hgroup]
    exact abortGroup_aborted ((group?_endRaw ..).trans hg) hclosing _
  · exact step (timeoutJob_of_past hj ⟨hop, g, hg, ready, far⟩)

end Sys2Proof.Proofs

/-! The winners of an index pass (06 R144). -/

namespace Sys2Proof.Proofs

open Sys2Proof Sys2Proof.Machine Sys2Proof.Laws

/-! A list of winners holds one place for each key. -/

theorem keys_putWinner_subset {w : List ((Int × Nat) × Nat)} {k : Int × Nat} {x : Nat} :
    ∀ q ∈ State.putWinner w k x, q.1 = k ∨ q.1 ∈ w.map Prod.fst := by
  induction w with
  | nil => simp [State.putWinner]
  | cons p r ih =>
    unfold State.putWinner
    intro q hq
    split at hq
    · rcases List.mem_cons.1 hq with rfl | hq
      · exact .inl rfl
      · exact .inr (List.mem_cons_of_mem _ (List.mem_map_of_mem hq))
    · rcases List.mem_cons.1 hq with rfl | hq
      · exact .inr List.mem_cons_self
      · exact (ih q hq).imp_right (List.mem_cons_of_mem _)

theorem nodup_putWinner {w : List ((Int × Nat) × Nat)} (h : (w.map Prod.fst).Nodup) (k : Int × Nat) (x : Nat) :
    ((State.putWinner w k x).map Prod.fst).Nodup := by
  induction w with
  | nil => simp [State.putWinner]
  | cons p r ih =>
    obtain ⟨hp, hr⟩ := List.nodup_cons.1 h
    unfold State.putWinner
    split
    · next e => exact e ▸ h
    · next e =>
      refine List.nodup_cons.2 ⟨fun hm => ?_, ih hr⟩
      obtain ⟨q, hq, heq⟩ := List.mem_map.1 hm
      rcases keys_putWinner_subset q hq with hk | hk
      · exact e (heq.symm.trans hk)
      · exact hp (heq ▸ hk)

theorem mem_putWinner {w : List ((Int × Nat) × Nat)} (h : (w.map Prod.fst).Nodup) (k : Int × Nat) (x : Nat) (q : (Int × Nat) × Nat) :
    q ∈ State.putWinner w k x ↔ q = (k, x) ∨ q ∈ w ∧ q.1 ≠ k := by
  induction w with
  | nil => simp [State.putWinner]
  | cons p r ih =>
    obtain ⟨hp, hr⟩ := List.nodup_cons.1 h
    have later : ∀ y ∈ r, y.1 ≠ p.1 := fun y hy e => hp (e ▸ List.mem_map_of_mem hy)
    unfold State.putWinner
    split
    · next e =>
      subst e
      rw [List.mem_cons, List.mem_cons]
      constructor
      · exact Or.imp_right fun hq => ⟨.inr hq, later q hq⟩
      · exact Or.imp_right fun ⟨hq, hne⟩ => hq.resolve_left fun e => hne (e ▸ rfl)
    · next e =>
      rw [List.mem_cons, List.mem_cons, ih hr]
      constructor
      · rintro (rfl | rfl | ⟨hq, hne⟩)
        · exact .inr ⟨.inl rfl, e⟩
        · exact .inl rfl
        · exact .inr ⟨.inr hq, hne⟩
      · rintro (rfl | ⟨rfl | hq, hne⟩)
        · exact .inr (.inl rfl)
        · exact .inl rfl
        · exact .inr (.inr ⟨hq, hne⟩)

/-- Claims to a key that come in rising places, recorded one after another: the highest place of each key is left. -/
theorem mem_foldl_putWinner {cs : List ((Int × Nat) × Nat)} (h : cs.Pairwise fun p q => p.1 = q.1 → p.2 < q.2) :
    ((cs.foldl (fun w c => State.putWinner w c.1 c.2) []).map Prod.fst).Nodup ∧
    ∀ q, q ∈ cs.foldl (fun w c => State.putWinner w c.1 c.2) [] ↔ q ∈ cs ∧ ∀ p ∈ cs, p.1 = q.1 → p.2 ≤ q.2 := by
  induction cs using List.reverseRecOn with
  | nil => simp
  | append_singleton cs c ih =>
    obtain ⟨hcs, -, hlast⟩ := List.pairwise_append.1 h
    obtain ⟨hn, hm⟩ := ih hcs
    have last : ∀ p ∈ cs, p.1 = c.1 → p.2 < c.2 := fun p hp => hlast p hp c List.mem_cons_self
    rw [List.foldl_concat]
    refine ⟨nodup_putWinner hn c.1 c.2, fun q => ?_⟩
    rw [mem_putWinner hn, hm]
    simp only [List.mem_append, List.mem_singleton]
    constructor
    · rintro (rfl | ⟨⟨hq, hmax⟩, hne⟩)
      · refine ⟨.inr rfl, ?_⟩
        rintro p (hp | rfl) e
        · exact (last p hp e).le
        · exact le_rfl
      · refine ⟨.inl hq, ?_⟩
        rintro p (hp | rfl) e
        · exact hmax p hp e
        · exact absurd e.symm hne
    · rintro ⟨hq | rfl, hmax⟩
      · refine .inr ⟨⟨hq, fun p hp => hmax p (.inl hp)⟩, fun e => ?_⟩
        exact absurd (last q hq e) (Nat.not_lt.2 (hmax c (.inr rfl) e.symm))
      · exact .inl rfl

/-! The places of an index stream, and what their reads claim. -/

/-- The extent of the outer dimension: 1 where the stream has none. -/
def outerExtent (e : Entry) : Nat := if Entry.idxOuter e = 7 then 1 else Entry.extent e (Entry.idxOuter e)

/-- The places of the index stream, with the indexed dimension fastest. -/
def streamPlaces (e : Entry) : List (Nat × Nat) :=
  (List.range (outerExtent e)).flatMap fun iy => (List.range (Entry.extent e (Entry.idxDim e))).map fun ix => (iy, ix)

theorem mem_streamPlaces {e : Entry} {iy ix : Nat} :
    (iy, ix) ∈ streamPlaces e ↔ iy < outerExtent e ∧ ix < Entry.extent e (Entry.idxDim e) := by
  simp [streamPlaces]

theorem streamPlaces_rise (e : Entry) : (streamPlaces e).Pairwise fun p q => p.1 = q.1 → p.2 < q.2 := by
  unfold streamPlaces
  refine List.pairwise_flatMap.2 ⟨fun iy _ => List.pairwise_map.2 (List.pairwise_lt_range.imp fun {_ _} hlt (_ : iy = iy) => hlt), ?_⟩
  refine List.pairwise_lt_range.imp fun {iy iz} hlt p hp q hq heq => ?_
  obtain ⟨ix, -, rfl⟩ := List.mem_map.1 hp
  obtain ⟨jx, -, rfl⟩ := List.mem_map.1 hq
  exact absurd heq hlt.ne

/-- What the read of a place claims: its value with its outer index, where the value is in range, for its place. -/
def claimOf (e : Entry) (r : (Nat × Nat) × Nat × Got (List Byte)) : Option ((Int × Nat) × Nat) :=
  match r.2.2 with
  | .ok b =>
    if Entry.idxMin e ≤ Entry.idxVal e (leNat b) ∧ Entry.idxVal e (leNat b) ≤ Entry.idxMax e then
      some ((Entry.idxVal e (leNat b), r.1.1), r.1.2)
    else none
  | _ => none

theorem claimOf_ok_eq_some {e : Entry} {p : Nat × Nat} {n : Nat} {b : List Byte} {c : (Int × Nat) × Nat} :
    claimOf e (p, n, .ok b) = some c ↔
      c = ((Entry.idxVal e (leNat b), p.1), p.2) ∧ Entry.idxMin e ≤ Entry.idxVal e (leNat b) ∧ Entry.idxVal e (leNat b) ≤ Entry.idxMax e := by
  unfold claimOf
  dsimp only
  split <;> simp_all [eq_comm]

/-- Whatever a read claims, it claims for its own place. -/
theorem claimOf_place {e : Entry} {r : (Nat × Nat) × Nat × Got (List Byte)} {c : (Int × Nat) × Nat} (h : claimOf e r = some c) :
    (c.1.2, c.2) = r.1 := by
  obtain ⟨p, n, g⟩ := r
  cases g with
  | ok b => rw [(claimOf_ok_eq_some.1 h).1]
  | wait as gs => cases h
  | bad c d u => cases h

theorem winnersOf_eq_foldl (e : Entry) (l : List ((Nat × Nat) × Nat × Got (List Byte))) :
    State.winnersOf e l = (l.filterMap (claimOf e)).foldl (fun w c => State.putWinner w c.1 c.2) [] := by
  rw [List.foldl_filterMap]
  unfold State.winnersOf
  congr 1
  funext w r
  obtain ⟨p, n, g⟩ := r
  cases g with
  | ok b =>
    unfold claimOf
    dsimp only
    split <;> rfl
  | wait as gs => rfl
  | bad c d u => rfl

theorem claims_rise (s : State) (j : Job) :
    ((s.indexReads j).filterMap (claimOf j.entry)).Pairwise fun p q => p.1 = q.1 → p.2 < q.2 := by
  refine List.pairwise_filterMap.2 (List.pairwise_map.2 ((streamPlaces_rise j.entry).imp fun {p q} rise c hc d hd same => ?_))
  obtain rfl := claimOf_place hc
  obtain rfl := claimOf_place hd
  exact rise (congrArg Prod.snd same)

/-! A stream that can be read whole. -/

/-- Each place of the stream has been read and holds a value; the elements that use it are the job's. -/
def StreamRead (s : State) (j : Job) (val : Nat → Nat → Int) : Prop :=
  ∀ iy ix, iy < outerExtent j.entry → ix < Entry.extent j.entry (Entry.idxDim j.entry) →
    rank (Entry.exts j.entry) (State.indexVec j.entry (iy, ix)) < j.elems ∧
    ∃ b, s.got (State.passWork j) (State.indexAddr j.entry (iy, ix)) 4 = .ok b ∧ val iy ix = Entry.idxVal j.entry (leNat b)

section

variable {s : State} {j : Job} {val : Nat → Nat → Int} (hread : StreamRead s j val)
include hread

theorem indexReads_ok : ∀ r ∈ s.indexReads j, r.2.1 < j.elems ∧ ∃ b, r.2.2 = .ok b := by
  refine List.forall_mem_map.2 fun p hp => ?_
  obtain ⟨hy, hx⟩ := mem_streamPlaces.1 hp
  obtain ⟨hlt, b, hb, -⟩ := hread p.1 p.2 hy hx
  exact ⟨hlt, b, hb⟩

theorem mem_claims {v : Int} {iy ix : Nat} : ((v, iy), ix) ∈ (s.indexReads j).filterMap (claimOf j.entry) ↔
    iy < outerExtent j.entry ∧ ix < Entry.extent j.entry (Entry.idxDim j.entry) ∧ val iy ix = v ∧
      Entry.idxMin j.entry ≤ v ∧ v ≤ Entry.idxMax j.entry := by
  rw [List.mem_filterMap]
  constructor
  · rintro ⟨r, hr, hc⟩
    obtain ⟨p, hp, rfl⟩ := List.mem_map.1 hr
    obtain rfl := claimOf_place hc
    obtain ⟨hy, hx⟩ := mem_streamPlaces.1 hp
    obtain ⟨-, b, hb, hval⟩ := hread iy ix hy hx
    rw [hb] at hc
    obtain ⟨heq, hmin, hmax⟩ := claimOf_ok_eq_some.1 hc
    obtain rfl : v = Entry.idxVal j.entry (leNat b) := congrArg (fun c => c.1.1) heq
    exact ⟨hy, hx, hval, hmin, hmax⟩
  · rintro ⟨hy, hx, rfl, hmin, hmax⟩
    obtain ⟨-, b, hb, hval⟩ := hread iy ix hy hx
    refine ⟨_, List.mem_map_of_mem (mem_streamPlaces.2 ⟨hy, hx⟩), ?_⟩
    rw [hb, claimOf_ok_eq_some, ← hval]
    exact ⟨rfl, hmin, hmax⟩

/-- The winner of a value in range is the highest place that holds it. -/
theorem mem_winnersOf_indexReads {v : Int} {iy ix : Nat} : ((v, iy), ix) ∈ State.winnersOf j.entry (s.indexReads j) ↔
    iy < outerExtent j.entry ∧ ix < Entry.extent j.entry (Entry.idxDim j.entry) ∧ val iy ix = v ∧
      Entry.idxMin j.entry ≤ v ∧ v ≤ Entry.idxMax j.entry ∧
      ∀ z, ix < z → z < Entry.extent j.entry (Entry.idxDim j.entry) → val iy z ≠ v := by
  rw [winnersOf_eq_foldl, (mem_foldl_putWinner (claims_rise s j)).2, mem_claims hread]
  constructor
  · rintro ⟨⟨hy, hx, hval, hmin, hmax⟩, highest⟩
    refine ⟨hy, hx, hval, hmin, hmax, fun z hlt hz hvz => ?_⟩
    exact absurd (highest ((v, iy), z) ((mem_claims hread).2 ⟨hy, hz, hvz, hmin, hmax⟩) rfl) (Nat.not_le.2 hlt)
  · rintro ⟨hy, hx, hval, hmin, hmax, last⟩
    refine ⟨⟨hy, hx, hval, hmin, hmax⟩, fun ⟨k, z⟩ hmem hk => ?_⟩
    subst hk
    obtain ⟨-, hz, hvz, -⟩ := (mem_claims hread).1 hmem
    exact Nat.not_lt.1 fun hlt => last z hlt hz hvz

end

/-! The pass itself. -/

theorem recheckJob_eq_self {s : State} {j : Job} (h : s.job? j.uid = some j) (hr : j.recheck = false) : s.recheckJob j.uid = s := by
  unfold State.recheckJob
  rw [h]
  dsimp only
  split
  · rfl
  · simp [hr]

theorem awaited_of_ok {α : Type} {l : List (Got α)} (h : ∀ g ∈ l, ∃ a, g = .ok a) : State.awaited l = ([], []) := by
  unfold State.awaited
  refine List.foldrRecOn (motive := (· = ([], []))) _ _ rfl fun a ha g hg => ?_
  obtain ⟨b, rfl⟩ := h g hg
  exact ha

/-- A pass whose reads have all been answered records the winners among them, and corrects no codeword. -/
theorem indexPass_of_ok {s : State} {j : Job} (hj : s.job? j.uid = some j) (hop : Entry.opcode j.entry = 0x03)
    (hp : s.passJob j.uid = some j) (hr : j.recheck = false) (hi : j.pass.indexed = false) (he : j.early = none)
    (hinj : ∀ x ∈ s.store.inj, 0x28 ≤ x.1) (ok : ∀ r ∈ s.indexReads j, r.2.1 < j.elems ∧ ∃ b, r.2.2 = .ok b) :
    s.indexPass j.uid = s.modJob j.uid fun k =>
      { k with pass := { k.pass with indexed := true, winners := State.winnersOf j.entry (s.indexReads j), seen := {} } } := by
  have quiet (f : State → (Nat × Nat) × Nat × Got (List Byte) → State) (hf : ∀ r b, r.2.2 = .ok b → f s r = s) :
      (s.indexReads j).foldl f s = s :=
    List.foldlRecOn (motive := (· = s)) _ _ rfl fun t ht r hr => by
      obtain ⟨b, hb⟩ := (ok r hr).2
      rw [ht, hf r b hb]
  have below : (s.indexReads j).filter (fun r => decide (r.2.1 < j.elems)) = s.indexReads j :=
    List.filter_eq_self.2 fun r hr => decide_eq_true (ok r hr).1
  have noneAwaited : State.awaited ((s.indexReads j).map (·.2.2)) = ([], []) :=
    awaited_of_ok (List.forall_mem_map.2 fun r hr => (ok r hr).2)
  unfold State.indexPass
  rw [recheckJob_eq_self hj hr]
  dsimp only
  rw [hp]
  dsimp only
  rw [if_neg (by simp [hop, hi]), quiet _ fun r b hb => by rw [hb], hj]
  simp only [Option.bind_some, he, Option.map_none, Option.getD_none]
  rw [below, noneAwaited, correctStaging_eq_self hinj, if_neg (by simp)]
  exact settleEarly_of_not_over (job?_modJob_self hj rfl) (earlyOver_of_no_early he)

/-- Settles O24: the claims of the stream's reads come in rising places, so the last one recorded for a value is its highest. -/
theorem indexPassKeepsTheLastDuplicate : Obligations.IndexPassKeepsTheLastDuplicate := by
  unfold Obligations.IndexPassKeepsTheLastDuplicate
  intro s j val hj hop hrun hstop horder hrecheck hindexed hearly hinj
  dsimp only
  intro hread
  have stream : StreamRead s j val := hread
  have hpass : s.passJob j.uid = some j := by
    unfold State.passJob
    simp [hj, hrun, hstop, horder, hrecheck]
  exact ⟨State.winnersOf j.entry (s.indexReads j),
    congrArg Host.Outcome.next (indexPass_of_ok hj hop hpass hrecheck hindexed hearly hinj (indexReads_ok stream)),
    fun v iy ix => mem_winnersOf_indexReads stream⟩

end Sys2Proof.Proofs

/-! Read data at the ports (19 R429, R432, R433, 06 R147). -/

namespace Sys2Proof.Proofs

open Sys2Proof Sys2Proof.Machine Sys2Proof.Laws

/-! The bytes of a granule in memory. -/

/-- Bytes written once read back. -/
theorem get_writeAll_of_mem {st : Store} {l : List (Nat × Byte)} (hw : Memory.wf st) (hn : (l.map Prod.fst).Nodup) {k : Nat} {b : Byte}
    (hb : (k, b) ∈ l) : (st.writeAll l).get k = b := by
  induction l generalizing st with
  | nil => cases hb
  | cons c r ih =>
    obtain ⟨hc, hr⟩ := List.nodup_cons.1 hn
    rcases List.mem_cons.1 hb with rfl | hb
    · have others : ∀ x ∈ r, x.1 ≠ k := fun x hx e => hc (List.mem_map.2 ⟨x, hx, e⟩)
      exact (get_writeAll_other _ _ _ (wf_put _ _ _ hw) others).trans ((get_put _ _ _ _ hw).trans (if_pos rfl))
    · exact ih (wf_put _ _ _ hw) hr hb

/-- The bytes of a granule at a key, but for those that writes have reached since. -/
def granuleCells (k : Nat) (data : Granule) (newer : List Nat) : List (Nat × Byte) :=
  (((List.range 64).zip (leBytes 64 data.toNat)).filter fun x => !newer.contains (k + x.1)).map fun x => (k + x.1, x.2)

theorem mem_granuleCells {k i : Nat} {data : Granule} {newer : List Nat} (hi : i < 64) (hk : k + i ∉ newer) :
    (k + i, (leBytes 64 data.toNat).getD i 0) ∈ granuleCells k data newer := by
  have hlen : i < (leBytes 64 data.toNat).length := by rwa [length_leBytes]
  have zipped : (i, (leBytes 64 data.toNat).getD i 0) ∈ (List.range 64).zip (leBytes 64 data.toNat) :=
    List.mem_iff_getElem?.2 ⟨i, List.getElem?_zip_eq_some.2 ⟨List.getElem?_range hi, by simp [hlen]⟩⟩
  exact List.mem_map.2 ⟨_, List.mem_filter.2 ⟨zipped, by simpa using hk⟩, rfl⟩

theorem key_of_mem_granuleCells {k : Nat} {data : Granule} {newer : List Nat} {x : Nat × Byte} (h : x ∈ granuleCells k data newer) :
    ∃ i < 64, x.1 = k + i ∧ k + i ∉ newer := by
  obtain ⟨y, hy, rfl⟩ := List.mem_map.1 h
  obtain ⟨hzip, hnew⟩ := List.mem_filter.1 hy
  exact ⟨y.1, List.mem_range.1 (List.of_mem_zip hzip).1, rfl, by simpa using hnew⟩

theorem nodup_keys_granuleCells (k : Nat) (data : Granule) (newer : List Nat) : ((granuleCells k data newer).map Prod.fst).Nodup := by
  have offsets : (((List.range 64).zip (leBytes 64 data.toNat)).map Prod.fst).Nodup := by
    rw [List.map_fst_zip (by simp [length_leBytes])]
    exact List.nodup_range
  unfold granuleCells
  rw [List.map_map, show Prod.fst ∘ (fun x : Nat × Byte => (k + x.1, x.2)) = (k + ·) ∘ Prod.fst from rfl, ← List.map_map]
  exact (offsets.sublist (List.filter_sublist.map _)).map (add_right_injective k)

section

variable (s : State) (t : Target × Nat) (data : Granule) (poison : Bool) (newer : List Nat)

theorem get_storeGranule (k : Nat) : (s.storeGranule t data poison newer).store.get k =
    (s.store.writeAll (granuleCells (locKey t.1 t.2) data newer)).get k := by
  unfold State.storeGranule
  dsimp only
  split <;> rfl

@[simp] theorem storeGranule_jobs : (s.storeGranule t data poison newer).jobs = s.jobs := rfl

@[simp] theorem storeGranule_queues : (s.storeGranule t data poison newer).queues = s.queues := rfl

variable {s t data poison newer} (hw : Memory.wf s.store)
include hw

theorem get_storeGranule_inside {i : Nat} (hi : i < 64) : (s.storeGranule t data poison newer).store.get (locKey t.1 t.2 + i) =
    if locKey t.1 t.2 + i ∈ newer then s.store.get (locKey t.1 t.2 + i) else (leBytes 64 data.toNat).getD i 0 := by
  rw [get_storeGranule]
  split
  · next hnew =>
    refine get_writeAll_other _ _ _ hw fun x hx e => ?_
    obtain ⟨n, -, hkey, hold⟩ := key_of_mem_granuleCells hx
    exact hold (hkey.symm.trans e ▸ hnew)
  · next hold => exact get_writeAll_of_mem hw (nodup_keys_granuleCells _ _ _) (mem_granuleCells hi hold)

theorem get_storeGranule_outside {k : Nat} (hk : ∀ i < 64, k ≠ locKey t.1 t.2 + i) :
    (s.storeGranule t data poison newer).store.get k = s.store.get k := by
  rw [get_storeGranule]
  refine get_writeAll_other _ _ _ hw fun x hx e => ?_
  obtain ⟨i, hi, hkey, -⟩ := key_of_mem_granuleCells hx
  exact hk i hi (e.symm.trans hkey)

end

theorem not_mem_poison_storeGranule (s : State) (t : Target × Nat) (data : Granule) :
    granuleOf (locKey t.1 t.2) ∉ (s.storeGranule t data false []).store.poison := by
  simp [State.storeGranule, Store.setPoison]

/-- A port's granules lie at whole granules of their memories. -/
theorem portTarget_aligned {s : State} {p addr : Nat} {port : Port} {t : Target × Nat}
    (h : s.portTarget p port (addr / 64 * 64) = some t) : t.2 % 64 = 0 := by
  cases port with
  | host | ap n | mp n => cases h; exact Nat.mul_mod_left _ _
  | vp n =>
    simp only [State.portTarget] at h
    split at h
    · cases h; omega
    · cases h
  | tp n =>
    obtain ⟨w, -, rfl⟩ := Option.map_eq_some_iff.1 h
    exact Nat.mul_mod_left _ _

theorem granuleOf_locKey_add {t : Target × Nat} (ht : t.2 % 64 = 0) {i : Nat} (hi : i < 64) :
    granuleOf (locKey t.1 t.2 + i) = granuleOf (locKey t.1 t.2) := by
  unfold granuleOf locKey
  omega

/-! What stands when data is counted, and what an answer means. -/

section

variable (s : State) (part : Nat) (p : Port) (dir n : Nat)

@[simp] theorem countBytes_store : (s.countBytes part p dir n).store = s.store := by
  unfold State.countBytes
  split <;> rfl

@[simp] theorem countBytes_jobs : (s.countBytes part p dir n).jobs = s.jobs := by
  unfold State.countBytes
  split <;> rfl

@[simp] theorem countBytes_queues : (s.countBytes part p dir n).queues = s.queues := by
  unfold State.countBytes
  split <;> rfl

end

theorem correctRead_eq_self {s : State} (h : s.store.inj = []) (port : Port) (t : Target × Nat) (c : FaultCtx) :
    s.correctRead port t c = s := by
  cases port <;> simp [State.correctRead, h]

@[simp] theorem answerAt_okay (p : Port) : answerAt p .okay = .okay := by cases p <;> rfl

@[simp] theorem answerAt_error (p : Port) : answerAt p .error = .error := by cases p <;> rfl

/-! Reads of rings, decode, channels and commands. -/

/-- The accesses whose reads no thread or pass waits for. -/
def PlainRead (a : Access) : Prop := (∃ q, a = .ring q) ∨ (∃ u, a = .decode u) ∨ (∃ ch, a = .channel ch) ∨ ∃ aq, a = .admin aq

section

variable {s : State} {port : Port} {a : Access}

theorem readData_of_late (h : (port, a) ∈ s.ports.lateReads) (addr : Nat) (data : Granule) (poison : Bool) (res : Resp) :
    s.readData port a addr data poison res = { s with ports := { s.ports with lateReads := s.ports.lateReads.erase (port, a) } } := by
  unfold State.readData
  exact if_pos (List.contains_iff_mem.2 h)

variable (hl : (port, a) ∉ s.ports.lateReads)
include hl

theorem readData_of_plain (ha : PlainRead a) (addr : Nat) (data : Granule) (poison : Bool) (res : Resp) :
    s.readData port a addr data poison res = s.otherData port a addr data poison (answerAt port res) := by
  unfold State.readData
  dsimp only
  rw [if_neg (mt List.contains_iff_mem.1 hl)]
  rcases ha with ⟨q, rfl⟩ | ⟨u, rfl⟩ | ⟨ch, rfl⟩ | ⟨aq, rfl⟩ <;> rfl

theorem readData_of_unknown (ha : a = .unknown) (addr : Nat) (data : Granule) (poison : Bool) (res : Resp) :
    s.readData port a addr data poison res = s.countEvent (State.portUnit port) 4 {} := by
  unfold State.readData
  dsimp only
  rw [if_neg (mt List.contains_iff_mem.1 hl), ha]

theorem readData_of_fetch {tag : Nat} (ha : a = .fetch tag) (addr : Nat) (data : Granule) (poison : Bool) (res : Resp) :
    s.readData port a addr data poison res = s.fetchData port tag addr data poison (answerAt port res) := by
  unfold State.readData
  dsimp only
  rw [if_neg (mt List.contains_iff_mem.1 hl), ha]

end

section

variable {s : State} {port : Port} {a : Access}

theorem otherData_of_gone (h : s.accKnown a = false) (addr : Nat) (data : Granule) (poison : Bool) (res : Resp) :
    s.otherData port a addr data poison res = s.countEvent (State.portUnit port) 4 {} := by
  simp [State.otherData, h]

theorem otherData_of_error (h : s.accKnown a = true) (addr : Nat) (data : Granule) (poison : Bool) :
    s.otherData port a addr data poison .error =
      ((s.countBytes (s.accPart a) port 1 1).countEvent (State.portUnit port) 4 (s.accCtx a)).accessFails a 0x48 (s.accRoute port a)
        false := by
  simp [State.otherData, h, failCode]

theorem otherData_of_okay (h : s.accKnown a = true) {addr : Nat} {t : Target × Nat}
    (ht : s.portTarget (s.accPart a) port (addr / 64 * 64) = some t) (hinj : s.store.inj = []) (data : Granule) :
    s.otherData port a addr data false .okay = (s.countBytes (s.accPart a) port 1 1).storeGranule t data false [] := by
  have none_injected : (s.countBytes (s.accPart a) port 1 1).store.inj = [] := by rwa [countBytes_store]
  simp [State.otherData, h, failCode, ht, correctRead_eq_self none_injected]

end

/-! Reads of the fetch stage. -/

/-- A granule at an address is one that a read of the fetch stage still waits for under a tag, and comes from a place t. -/
structure Awaited (s : State) (port : Port) (tag addr : Nat) (r : Request) (f : Fetch) (t : Target × Nat) : Prop where
  sent : s.sentAs true port tag = some r
  body : r.body = .fetch f
  late : r.late = false
  drained : f.drained = false
  place : s.portTarget r.part port (addr / 64 * 64) = some t
  left : granuleOf (locKey t.1 t.2) ∈ f.left

theorem fetchData_of_stray {s : State} {port : Port} {tag : Nat} (h : s.sentAs true port tag = none) (addr : Nat) (data : Granule)
    (poison : Bool) (res : Resp) : s.fetchData port tag addr data poison res = s.countEvent (State.portUnit port) 4 {} := by
  simp [State.fetchData, h]

/-- A granule of a read of the fetch stage stands in its memory, and the read waits for it no more. -/
def granuleArrived (s : State) (port : Port) (tag : Nat) (r : Request) (f : Fetch) (t : Target × Nat) (data : Granule) : State :=
  (s.storeGranule t data false (f.newer.filter fun k => granuleOf k == granuleOf (locKey t.1 t.2))).returned port tag r f
    [granuleOf (locKey t.1 t.2)]

theorem returned_of_left {s : State} {f : Fetch} {g q : Nat} (hq : q ∈ f.left) (hne : q ≠ g) (port : Port) (tag : Nat) (r : Request) :
    s.returned port tag r f [g] = s.modSent true port tag fun x =>
      some { x with body := .fetch { f with left := f.left.filter fun y => !List.contains [g] y } } := by
  have more : (f.left.filter fun y => !List.contains [g] y).isEmpty = false :=
    List.isEmpty_eq_false_iff.2 (List.ne_nil_of_mem (List.mem_filter.2 ⟨hq, by simpa using hne⟩))
  unfold State.returned
  simp only [more, Bool.false_eq_true, if_false]

section

variable {s : State} {port : Port} {tag addr uid tile : Nat} {r : Request} {f : Fetch} {t : Target × Nat}
  (h : Awaited s port tag addr r f t) (ho : r.owner = .fetch uid tile) (data : Granule)
include h ho

theorem fetchData_of_okay (hinj : (granuleArrived s port tag r f t data).store.inj = []) :
    s.fetchData port tag addr data false .okay =
      ((granuleArrived s port tag r f t data).countBytes r.part port 1 1).modSeen uid tile fun v =>
        { v with has := granuleOf (locKey t.1 t.2) :: v.has } := by
  have none_injected := (congrArg Store.inj (countBytes_store _ r.part port 1 1)).trans hinj
  unfold granuleArrived at none_injected ⊢
  simp [State.fetchData, h.sent, State.fetchOf, h.body, h.place, h.left, h.late, h.drained, ho, failCode,
    correctRead_eq_self none_injected]

theorem fetchData_of_error (poison : Bool) : s.fetchData port tag addr data poison .error =
    ((((s.returned port tag r f [granuleOf (locKey t.1 t.2)]).countBytes r.part port 1 1).countEvent (State.portUnit port) 4
      (s.requestCtx r)).modSeen uid tile fun v => { v with bad := v.bad ++ [(granuleOf (locKey t.1 t.2), 0x48)] }).wakeReader uid tile := by
  simp [State.fetchData, h.sent, State.fetchOf, h.body, h.place, h.left, h.late, h.drained, ho, failCode]

end

/-- Settles O42: each answer of a port, by whether its read is late, known, outstanding or none. -/
theorem readDataStandsInItsMemory : Obligations.ReadDataStandsInItsMemory := by
  unfold Obligations.ReadDataStandsInItsMemory
  intro s port acc addr data plain a
  have step {b : Access} {poison : Bool} {res : Resp} {z : State} (e : s.readData port b addr data poison res = z) :
      exec (.portReadData port b addr data poison res) s = .next z := congrArg Host.Outcome.next e
  refine ⟨fun t hplain hknown hlate hwf hinj ht => ?_, fun poison res hlate => step (readData_of_late hlate ..),
    fun poison res hgone hlate => step ?_, fun poison hplain hknown hlate => step ?_,
    fun tag r f uid tile t hlate hsent hbody howner hl hdrained ht hleft => ?_,
    fun tag poison res hlate hsent => step ((readData_of_fetch hlate rfl ..).trans (fetchData_of_stray hsent ..))⟩
  · have store := countBytes_store s (s.accPart acc) port 1 1
    have run : s.readData port acc addr data false .okay =
        (s.countBytes (s.accPart acc) port 1 1).storeGranule t data false [] := by
      rw [readData_of_plain hlate hplain, answerAt_okay, otherData_of_okay hknown ht hinj]
    have hwf' : Memory.wf (s.countBytes (s.accPart acc) port 1 1).store := store ▸ hwf
    refine ⟨_, step run, fun i hi => ?_, fun k hk => ?_, not_mem_poison_storeGranule _ t data, ?_, ?_⟩
    · exact (get_storeGranule_inside hwf' hi).trans (if_neg List.not_mem_nil)
    · rw [get_storeGranule_outside hwf' hk, store]
    · exact (storeGranule_jobs ..).trans (countBytes_jobs ..)
    · exact (storeGranule_queues ..).trans (countBytes_queues ..)
  · rcases hgone with rfl | ⟨hplain, hgone⟩
    · exact readData_of_unknown hlate rfl ..
    · rw [readData_of_plain hlate hplain, otherData_of_gone hgone]
  · rw [readData_of_plain hlate hplain, answerAt_error, otherData_of_error hknown]
  · have awaited : Awaited s port tag addr r f t := ⟨hsent, hbody, hl, hdrained, ht, hleft⟩
    refine ⟨fun hinj => step ?_, fun hwf i hi => ?_, fun q hq hne => returned_of_left hq hne .., fun poison => step ?_⟩
    · rw [readData_of_fetch hlate rfl, answerAt_okay]
      exact fetchData_of_okay awaited howner data hinj
    · rw [get_storeGranule_inside hwf hi]
      simp [granuleOf_locKey_add (portTarget_aligned ht) hi]
    · rw [readData_of_fetch hlate rfl, answerAt_error, fetchData_of_error awaited howner data]

end Sys2Proof.Proofs

/-! The histogram of HISTOGRAM_BUILD and the tuples that it keeps (07 R180). -/

namespace Sys2Proof.Proofs

open Sys2Proof Sys2Proof.Machine Sys2Proof.Laws

/-! Counts. -/

/-- A list of tuples with their counts that rises by tuple. -/
def Ascending (l : List (Nat × Nat)) : Prop := l.Pairwise fun x y => x.1 < y.1

/-- Counting a tuple adds one to the count it has, or gives it the count 1. -/
theorem mem_countTuple {l : List (Nat × Nat)} (h : Ascending l) {t u n : Nat} : (u, n) ∈ countTuple l t ↔
    if u = t then (∃ c, (t, c) ∈ l ∧ n = c + 1) ∨ (n = 1 ∧ ∀ c, (t, c) ∉ l) else (u, n) ∈ l := by
  induction l with
  | nil => by_cases hu : u = t <;> simp [countTuple, hu]
  | cons y r ih =>
    obtain ⟨x, c⟩ := y
    obtain ⟨above, hr⟩ := List.pairwise_cons.1 h
    unfold countTuple
    split
    · next lt =>
      have absent (d : Nat) : (t, d) ∉ r := fun hd => by have := above _ hd; omega
      by_cases hu : u = t
      · simp [hu, absent, lt.ne]
      · simp [hu]
    · split
      · next eq =>
        subst eq
        have absent (d : Nat) : (t, d) ∉ r := fun hd => (above _ hd).false
        by_cases hu : u = t
        · subst hu
          simp [absent]
        · simp [hu]
      · next ne =>
        rw [List.mem_cons, ih hr]
        by_cases hu : u = t
        · simp [hu, ne]
        · simp [hu]

theorem ascending_countTuple {l : List (Nat × Nat)} (h : Ascending l) (t : Nat) : Ascending (countTuple l t) := by
  induction l with
  | nil => exact List.pairwise_singleton _ _
  | cons y r ih =>
    obtain ⟨x, c⟩ := y
    obtain ⟨above, hr⟩ := List.pairwise_cons.1 h
    unfold countTuple
    split
    · next lt =>
      exact List.pairwise_cons.2 ⟨List.forall_mem_cons.2 ⟨lt, fun z hz => lt.trans (above z hz)⟩, h⟩
    · next notLt =>
      split
      · exact List.pairwise_cons.2 ⟨above, hr⟩
      · next ne =>
        refine List.pairwise_cons.2 ⟨fun ⟨u, n⟩ hz => ?_, ih hr⟩
        have hz := (mem_countTuple hr).1 hz
        by_cases hu : u = t
        · exact hu ▸ (by omega : x < t)
        · exact above _ (by simpa [hu] using hz)

/-- l holds the tuples among ts, rising, each with how often it occurs. -/
structure Tally (l : List (Nat × Nat)) (ts : List Nat) : Prop where
  ascending : Ascending l
  mem_iff   : ∀ t n, (t, n) ∈ l ↔ n = ts.count t ∧ n ≠ 0

theorem Tally.countTuple {l : List (Nat × Nat)} {ts : List Nat} (h : Tally l ts) (t : Nat) : Tally (countTuple l t) (ts ++ [t]) := by
  refine ⟨ascending_countTuple h.ascending t, fun u n => ?_⟩
  rw [mem_countTuple h.ascending, List.count_append]
  by_cases hu : u = t
  · subst hu
    simp only [h.mem_iff, if_true, List.count_singleton_self]
    by_cases hc : ts.count u = 0
    · simp +contextual [hc]
    · constructor
      · rintro (⟨c, ⟨rfl, -⟩, rfl⟩ | ⟨-, absent⟩)
        · exact ⟨rfl, Nat.succ_ne_zero _⟩
        · exact absurd ⟨rfl, hc⟩ (absent _)
      · rintro ⟨rfl, -⟩
        exact .inl ⟨_, ⟨rfl, hc⟩, rfl⟩
  · rw [if_neg hu, h.mem_iff, List.count_singleton, if_neg (by simpa using Ne.symm hu), Nat.add_zero]

/-- The counts of a source tally the tuples of its groups of four. -/
theorem tally_tupleCounts (ws : List Nat) : Tally (tupleCounts ws) ((List.range (ws.length / 4)).map (tupleOf ws)) := by
  have run (ts : List Nat) {l : List (Nat × Nat)} {us : List Nat} (h : Tally l us) : Tally (ts.foldl countTuple l) (us ++ ts) := by
    induction ts generalizing l us with
    | nil => simpa using h
    | cons t r ih => simpa using ih (h.countTuple t)
  exact run _ (l := []) (us := []) ⟨List.Pairwise.nil, by simp +contextual⟩

/-! Both orders of R180 are insertion sorts by a strict order that compares any two of the values sorted. -/

section

variable {α : Type} {r : α → α → Prop} [DecidableRel r] (trans : ∀ a b c, r a b → r b c → r a c)
  (comp : ∀ a b, a ≠ b → r a b ∨ r b a)
include trans comp

theorem pairwise_orderedInsert_of_not_mem {l : List α} {a : α} (h : l.Pairwise r) (ha : a ∉ l) : (l.orderedInsert r a).Pairwise r := by
  induction l with
  | nil => exact List.pairwise_singleton _ _
  | cons x l ih =>
    obtain ⟨above, hl⟩ := List.pairwise_cons.1 h
    rw [List.orderedInsert_cons]
    split
    · next hax => exact List.pairwise_cons.2 ⟨List.forall_mem_cons.2 ⟨hax, fun z hz => trans _ _ _ hax (above z hz)⟩, h⟩
    · next hax =>
      refine List.pairwise_cons.2 ⟨fun z hz => ?_, ih hl fun hm => ha (List.mem_cons_of_mem _ hm)⟩
      rcases (List.mem_orderedInsert r).1 hz with rfl | hz
      · exact (comp z x fun e => ha (e ▸ List.mem_cons_self)).resolve_left hax
      · exact above z hz

theorem pairwise_insertionSort_of_nodup {l : List α} (h : l.Nodup) : (l.insertionSort r).Pairwise r := by
  induction l with
  | nil => exact List.Pairwise.nil
  | cons a l ih =>
    obtain ⟨ha, hl⟩ := List.nodup_cons.1 h
    exact pairwise_orderedInsert_of_not_mem trans comp (ih hl) fun hm => ha ((List.mem_insertionSort r).1 hm)

end

/-- Inserting the values of a list one after another sorts it. -/
theorem foldl_orderedInsert {α : Type} {r : α → α → Prop} [DecidableRel r] {f : List α → α → List α}
    (hf : ∀ l a, f l a = l.orderedInsert r a) (l : List α) : l.foldl f [] = l.reverse.insertionSort r := by
  rw [List.insertionSort, List.foldr_reverse]
  exact congrArg (fun g => l.foldl g []) (funext₂ hf)

/-- The order in which tuples are kept: by descending count, then by tuple. -/
abbrev KeptBefore (x y : Nat × Nat) : Prop := x.2 > y.2 ∨ (x.2 = y.2 ∧ x.1 < y.1)

theorem KeptBefore.trans (x y z : Nat × Nat) (h : KeptBefore x y) (k : KeptBefore y z) : KeptBefore x z := by
  unfold KeptBefore at *
  omega

theorem keptBefore_or_keptBefore (x y : Nat × Nat) (h : x ≠ y) : KeptBefore x y ∨ KeptBefore y x := by
  have := mt Prod.ext_iff.2 h
  unfold KeptBefore
  omega

theorem insertByCount_eq (l : List (Nat × Nat)) (a : Nat × Nat) : insertByCount l a = l.orderedInsert KeptBefore a := by
  induction l with
  | nil => rfl
  | cons x r ih => rw [insertByCount, ih, List.orderedInsert_cons]

theorem insertAsc'_eq (l : List Nat) (a : Nat) : keptTuples.insertAsc' l a = l.orderedInsert (· < ·) a := by
  induction l with
  | nil => rfl
  | cons x r ih => rw [keptTuples.insertAsc', ih, List.orderedInsert_cons]

/-- The counts in the order in which their tuples are kept. -/
def ranked (counts : List (Nat × Nat)) : List (Nat × Nat) := counts.reverse.insertionSort KeptBefore

theorem ranked_perm (counts : List (Nat × Nat)) : (ranked counts).Perm counts :=
  (List.perm_insertionSort _ _).trans (List.reverse_perm _)

theorem Ascending.nodup_tuples {counts : List (Nat × Nat)} (h : Ascending counts) : (counts.map Prod.fst).Nodup :=
  List.pairwise_map.2 (h.imp Nat.ne_of_lt)

theorem ranked_pairwise {counts : List (Nat × Nat)} (h : Ascending counts) : (ranked counts).Pairwise KeptBefore :=
  pairwise_insertionSort_of_nodup KeptBefore.trans keptBefore_or_keptBefore (List.nodup_reverse.2 h.nodup_tuples.of_map)

/-- The first 4,096 of them are kept. -/
def keptCounts (counts : List (Nat × Nat)) : List (Nat × Nat) := (ranked counts).take (min 4096 counts.length)

theorem keptTuples_eq (counts : List (Nat × Nat)) :
    keptTuples counts = ((keptCounts counts).map Prod.fst).reverse.insertionSort (· < ·) := by
  unfold keptTuples keptCounts ranked
  rw [foldl_orderedInsert insertByCount_eq, foldl_orderedInsert insertAsc'_eq]

theorem keptTuples_perm (counts : List (Nat × Nat)) : (keptTuples counts).Perm ((keptCounts counts).map Prod.fst) := by
  rw [keptTuples_eq]
  exact (List.perm_insertionSort _ _).trans (List.reverse_perm _)

theorem mem_keptTuples {counts : List (Nat × Nat)} {t : Nat} : t ∈ keptTuples counts ↔ ∃ n, (t, n) ∈ keptCounts counts := by
  rw [(keptTuples_perm counts).mem_iff, List.mem_map]
  simp

theorem length_keptTuples (counts : List (Nat × Nat)) : (keptTuples counts).length = min 4096 counts.length := by
  rw [(keptTuples_perm counts).length_eq, List.length_map, keptCounts, List.length_take, (ranked_perm counts).length_eq]
  omega

theorem keptTuples_pairwise {counts : List (Nat × Nat)} (h : Ascending counts) : (keptTuples counts).Pairwise (· < ·) := by
  have distinct : ((keptCounts counts).map Prod.fst).Nodup :=
    (((ranked_perm counts).map _).nodup_iff.2 h.nodup_tuples).sublist ((List.take_sublist _ _).map _)
  rw [keptTuples_eq]
  exact pairwise_insertionSort_of_nodup (r := (· < ·)) (fun _ _ _ => Nat.lt_trans) (fun _ _ => Nat.lt_or_gt_of_ne)
    (List.nodup_reverse.2 distinct)

theorem mem_of_mem_keptCounts {counts : List (Nat × Nat)} {x : Nat × Nat} (h : x ∈ keptCounts counts) : x ∈ counts :=
  (ranked_perm counts).mem_iff.1 (List.mem_of_mem_take h)

/-- What is kept comes before what is not. -/
theorem keptBefore_of_mem_of_not_mem {counts : List (Nat × Nat)} (h : Ascending counts) {x y : Nat × Nat} (hx : x ∈ keptCounts counts)
    (hy : y ∈ counts) (hn : y ∉ keptCounts counts) : KeptBefore x y := by
  have sorted := ranked_pairwise h
  have hy := (ranked_perm counts).mem_iff.2 hy
  rw [← List.take_append_drop (min 4096 counts.length) (ranked counts)] at sorted hy
  exact (List.pairwise_append.1 sorted).2.2 x hx y ((List.mem_append.1 hy).resolve_left hn)

/-- Settles O32: the counts tally the tuples; what is kept is the front of their order by count and tuple, sorted by tuple. -/
theorem codebookKeepsTheCommonestTuples : Obligations.CodebookKeepsTheCommonestTuples := by
  unfold Obligations.CodebookKeepsTheCommonestTuples
  intro ws counts occurs kept
  have tally := tally_tupleCounts ws
  have hcount (t : Nat) : ((List.range (ws.length / 4)).map (tupleOf ws)).count t = occurs t := by
    rw [List.count, List.countP_map, List.countP_eq_length_filter]
    rfl
  have mem (t n : Nat) : (t, n) ∈ counts ↔ n = occurs t ∧ n ≠ 0 := hcount t ▸ tally.mem_iff t n
  refine ⟨mem, keptTuples_pairwise tally.ascending, length_keptTuples counts, fun t ht => ?_, fun t ht u hu hn => ?_⟩
  · obtain ⟨n, hk⟩ := mem_keptTuples.1 ht
    obtain ⟨rfl, hne⟩ := (mem t n).1 (mem_of_mem_keptCounts hk)
    exact hne
  · obtain ⟨n, hk⟩ := mem_keptTuples.1 ht
    obtain ⟨rfl, -⟩ := (mem t n).1 (mem_of_mem_keptCounts hk)
    have before : KeptBefore (t, occurs t) (u, occurs u) :=
      keptBefore_of_mem_of_not_mem tally.ascending hk ((mem u _).2 ⟨rfl, hu⟩) fun hm => hn (mem_keptTuples.2 ⟨_, hm⟩)
    exact before.imp id fun ⟨same, lt⟩ => ⟨same.symm, lt⟩

end Sys2Proof.Proofs

/-! HISTOGRAM_BUILD and FOLIO_ENTRY_WRITE: the codebook, the leaves, the folio entry (07 R178 to R182). -/

namespace Sys2Proof.Proofs

open Sys2Proof Sys2Proof.Machine Sys2Proof.Laws

/-- A HISTOGRAM_BUILD that runs and has met no early event. -/
structure HistRuns (s : State) (j : Job) : Prop where
  job     : s.job? j.uid = some j
  opcode  : Entry.opcode j.entry = 0x10
  running : j.phase = .running
  goesOn  : j.stopped = false
  order   : j.order ≠ 0
  checked : j.recheck = false
  early   : j.early = none

/-- It runs on while only its passes, the places of its threads and what it knows of others' writes change. -/
theorem HistRuns.of_sketch {s t : State} {j k : Job} (h : HistRuns s j) (hk : t.job? j.uid = some k) (same : sketch k = sketch j) :
    HistRuns t k := by
  have huid : k.uid = j.uid := (congrArg Job.uid same :)
  have hentry : k.entry = j.entry := (congrArg Job.entry same :)
  exact ⟨huid ▸ hk, hentry ▸ h.opcode, (congrArg Job.phase same :).trans h.running, (congrArg Job.stopped same :).trans h.goesOn,
    fun e => h.order ((congrArg Job.order same :).symm.trans e), (congrArg Job.recheck same :).trans h.checked,
    (congrArg Job.early same :).trans h.early⟩

theorem sketch_of_bare {j k : Job} (h : bare k = bare j) : sketch k = sketch j :=
  (congrArg sketch h :)

theorem passJob_of_histRuns {s : State} {j : Job} (h : HistRuns s j) : s.passJob j.uid = some j := by
  unfold State.passJob
  simp [h.job, h.running, h.goesOn, h.order, h.checked]

/-- Until the codebook is built, the command is its pass 1; from then on it runs the threads that have still to run. -/
theorem histStep_eq {s : State} {j : Job} (h : HistRuns s j) : s.histStep j.uid =
    if j.pass.built then (State.idleTiles j).foldl (fun (s : State) t => s.runThread j.uid t State.histWork State.histFinish) s
    else (s.histPass j).settleHist j.uid := by
  unfold State.histStep
  rw [recheckJob_eq_self h.job h.checked]
  dsimp only
  rw [passJob_of_histRuns h]
  cases hb : j.pass.built <;> simp [h.opcode, h.early, hb]

/-! The completion (07 R182). -/

theorem settleHist_of_ending {s : State} {uid : Nat} {j : Job} (h : s.job? uid = some j) (hp : j.phase = .ending) :
    s.settleHist uid = s := by
  unfold State.settleHist
  simp [h, hp]

theorem settleHist_of_unanswered {s : State} {uid : Nat} (hw : s.jobWrites uid ≠ []) : s.settleHist uid = s := by
  unfold State.settleHist
  split
  · rfl
  · simp [hw]

theorem settleHist_of_answered {s : State} {j : Job} (h : HistRuns s j) (hb : j.pass.built = true) (hf : j.pass.folio = true)
    (hw : s.jobWrites j.uid = []) : s.settleHist j.uid = s.endJob j.uid 0 0 j.elems := by
  unfold State.settleHist
  simp [h.job, h.opcode, h.running, h.goesOn, h.order, h.early, hb, hf, hw]

/-- Completed or not, a job keeps what its passes and its counts are. -/
theorem settleHist_job {s : State} {j : Job} (h : s.job? j.uid = some j) :
    ∃ k, (s.settleHist j.uid).job? j.uid = some k ∧ k.pass = j.pass ∧ k.contribs = j.contribs := by
  have cases : s.settleHist j.uid = s ∨ s.settleHist j.uid = s.endJob j.uid 0 0 j.elems := by
    unfold State.settleHist
    rw [h]
    exact ite_eq_or_eq _ _ _
  rcases cases with e | e <;> rw [e]
  · exact ⟨j, h, rfl, rfl⟩
  · obtain ⟨k, hk, same⟩ := endJob_job h 0 0 j.elems
    exact ⟨k, hk, (congrArg Job.pass same :), (congrArg Job.contribs same :)⟩

/-! Pass 1 (07 R178, R180). -/

/-- Pass 1 has begun: SCRATCH, at these pages, is undefined from its first use on. -/
def passBegun (s : State) (j : Job) (ks : List Nat) : State :=
  if j.pass.bphase = 0 then (s.spoilScratch ks).modJob j.uid fun y => { y with pass := { y.pass with bphase := 1 } } else s

theorem passBegun_histRuns {s : State} {j : Job} (h : HistRuns s j) (ks : List Nat) :
    ∃ k, HistRuns (passBegun s j ks) k ∧ k.uid = j.uid := by
  unfold passBegun
  split
  · exact ⟨_, h.of_sketch (job?_modJob_self ((job?_of_within (within_spoilScratch s ks) j.uid).trans h.job) rfl) rfl, rfl⟩
  · exact ⟨j, h, rfl⟩

theorem passBegun_inj (s : State) (j : Job) (ks : List Nat) : (passBegun s j ks).store.inj = s.store.inj := by
  unfold passBegun
  split
  · exact ((within_spoilScratch s ks).only .inj).resolve_left (by decide)
  · rfl

/-- Once the whole source has been read, it is counted. -/
theorem histPass_of_read {s : State} {j : Job} {span : Nat} {ws ks : List Nat} (hspan : s.passSpan j.part = some span)
    (hks : s.scratchKeys j = some ks) (hinj : ∀ x ∈ s.store.inj, 0x28 ≤ x.1)
    (hread : (passBegun s j ks).histSource (State.passWork j) span 0 j.elems = .ok ws) :
    s.histPass j = (passBegun s j ks).histBuild j ws := by
  have begun := passBegun_inj s j ks
  unfold passBegun at *
  unfold State.histPass
  rw [hspan, hks]
  dsimp only
  rw [hread]
  dsimp only
  rw [correctStaging_eq_self (begun ▸ hinj)]

theorem histBuild_of_many {s : State} {j : Job} {ws : List Nat} (h : 2 ^ 20 < (tupleCounts ws).length) :
    s.histBuild j ws = s.endJob j.uid 7 0xA8 0 := if_pos h

/-- A job of entry e whose codebook of the source ws is built: it counts the distinct tuples and, in AUX, the groups whose tuple is not
kept; mode 0 has no tile to run. -/
def bookBuilt (e : Entry) (ws : List Nat) (y : Job) : Job :=
  let counts := tupleCounts ws
  let kept := keptTuples counts
  { y with
    contribs := [⟨0, 0, counts.length, listSum ((counts.filter fun c => !kept.contains c.1).map (·.2)), false⟩]
    retired := if Entry.hMode e = 1 then [] else List.range y.tiles
    next := if Entry.hMode e = 1 then 0 else y.tiles
    pass := { y.pass with built := true, book := buildCodebook kept, seen := {} } }

theorem bookBuilt_pass (e : Entry) (ws : List Nat) (y : Job) :
    (bookBuilt e ws y).pass = { y.pass with built := true, book := buildCodebook (keptTuples (tupleCounts ws)), seen := {} } := rfl

theorem histBuild_of_placed {s : State} {j : Job} {ws : List Nat} {bs : List (Target × Nat × Byte)}
    (hle : (tupleCounts ws).length ≤ 2 ^ 20) (hmeets : s.histMeets j 0 j.elems = false)
    (hplace : s.place j.part j.xlat (Entry.hCodebook j.entry) (buildCodebook (keptTuples (tupleCounts ws))) = some bs) :
    s.histBuild j ws = (s.useFree.issue (.job j.uid .other 0) j.part 0 (Entry.hCodebook j.entry / 2 ^ 56) bs []).modJob j.uid
      (bookBuilt j.entry ws) := by
  unfold State.histBuild
  extract_lets e uid counts kept r book
  have sound : book = buildCodebook kept := if_neg (by simp [hmeets])
  rw [if_neg (Nat.not_lt.2 hle), sound, hplace]
  rfl

/-- Pass 1 of a source of too many distinct tuples. -/
theorem histogramBuild_limit {s : State} {j : Job} {span : Nat} {ws ks : List Nat} (h : HistRuns s j) (hb : j.pass.built = false)
    (hspan : s.passSpan j.part = some span) (hks : s.scratchKeys j = some ks) (hinj : ∀ x ∈ s.store.inj, 0x28 ≤ x.1)
    (hread : (passBegun s j ks).histSource (State.passWork j) span 0 j.elems = .ok ws) (hmany : 2 ^ 20 < (tupleCounts ws).length) :
    ∃ t k, exec (.histogramBuild j.uid) s = .next t ∧ t.job? j.uid = some k ∧ k.phase = .ending ∧ k.code = 7 ∧ k.detail = 0xA8 ∧
      k.position = 0 := by
  obtain ⟨y, hy, huid⟩ := passBegun_histRuns h ks
  obtain ⟨k, hk, same⟩ := endJob_job hy.job 7 0xA8 0
  rw [huid] at hk
  have ending : k.phase = .ending := (congrArg Job.phase same :)
  refine ⟨_, k, congrArg Host.Outcome.next ?_, hk, ending, (congrArg Job.code same :), (congrArg Job.detail same :),
    (congrArg Job.position same :)⟩
  rw [histStep_eq h, if_neg (by simp [hb]), histPass_of_read hspan hks hinj hread, histBuild_of_many hmany]
  exact settleHist_of_ending hk ending

/-- Pass 1 of a source whose codebook has its place. -/
theorem histogramBuild_book {s : State} {j : Job} {span : Nat} {ws ks : List Nat} {bs : List (Target × Nat × Byte)} (h : HistRuns s j)
    (hb : j.pass.built = false) (hspan : s.passSpan j.part = some span) (hks : s.scratchKeys j = some ks)
    (hinj : ∀ x ∈ s.store.inj, 0x28 ≤ x.1)
    (hread : (passBegun s j ks).histSource (State.passWork j) span 0 j.elems = .ok ws)
    (hle : (tupleCounts ws).length ≤ 2 ^ 20) (hmeets : (passBegun s j ks).histMeets j 0 j.elems = false)
    (hplace : (passBegun s j ks).place j.part j.xlat (Entry.hCodebook j.entry) (buildCodebook (keptTuples (tupleCounts ws))) =
      some bs) :
    let z1 := (passBegun s j ks).useFree.issue (.job j.uid .other 0) j.part 0 (Entry.hCodebook j.entry / 2 ^ 56) bs []
    ∃ t k, exec (.histogramBuild j.uid) s = .next t ∧ t.job? j.uid = some k ∧ k.pass.built = true ∧
      k.pass.book = buildCodebook (keptTuples (tupleCounts ws)) ∧
      k.contribs = [⟨0, 0, (tupleCounts ws).length,
        listSum (((tupleCounts ws).filter fun c => !(keptTuples (tupleCounts ws)).contains c.1).map (·.2)), false⟩] ∧
      (z1.jobWrites j.uid ≠ [] → k.phase = .running ∧ t = { z1 with jobs := t.jobs }) := by
  intro z1
  obtain ⟨y, hy, huid⟩ := passBegun_histRuns h ks
  obtain ⟨y1, hy1, same⟩ := (jobsStand_issue (passBegun s j ks).useFree (.job j.uid .other 0) j.part 0
    (Entry.hCodebook j.entry / 2 ^ 56) bs [] none).job?_some hy.job
  have hy1 : z1.job? j.uid = some y1 := huid ▸ hy1
  have huid1 : y1.uid = j.uid := (congrArg Job.uid same :).trans huid
  have hk : (z1.modJob j.uid (bookBuilt j.entry ws)).job? j.uid = some (bookBuilt j.entry ws y1) := job?_modJob_self hy1 rfl
  have run : exec (.histogramBuild j.uid) s = .next ((z1.modJob j.uid (bookBuilt j.entry ws)).settleHist j.uid) := by
    refine congrArg Host.Outcome.next ?_
    rw [histStep_eq h, if_neg (by simp [hb]), histPass_of_read hspan hks hinj hread, histBuild_of_placed hle hmeets hplace]
  by_cases hw : z1.jobWrites j.uid = []
  · obtain ⟨k, hend, hpass, hcontribs⟩ := settleHist_job (j := bookBuilt j.entry ws y1) (huid1.symm ▸ hk)
    rw [bookBuilt_pass] at hpass
    exact ⟨_, k, run, huid1 ▸ hend, by rw [hpass], by rw [hpass], hcontribs, fun hne => absurd hw hne⟩
  · rw [settleHist_of_unanswered (s := z1.modJob j.uid (bookBuilt j.entry ws)) hw] at run
    exact ⟨_, _, run, hk, rfl, by rw [bookBuilt_pass], rfl, fun _ => ⟨(congrArg Job.phase same :).trans hy.running, rfl⟩⟩

/-! Pass 2 (07 R181). -/

theorem idleTiles_of_one {j : Job} {x : Thread} (ht : j.threads = [x]) (hx : x.ran = false) : State.idleTiles j = [x.tile] := by
  unfold State.idleTiles
  simp [ht, hx]

/-- Without an early event a tile's thread compresses each leaf of the tile that lies whole below the job's element count. -/
theorem histWork_eq {w : Work} (he : w.early = none) (s : State) (th : Thread) : s.histWork w th =
    State.runElems (fun n => (s.histSource w th.span n (n + 1024)).map fun ws => (ex4Compress ws w.pass.book).1)
      ((((List.range (w.tileStart (th.tile + 1) / 1024 - w.tileStart th.tile / 1024)).map (w.tileStart th.tile / 1024 + ·)).filter
        fun n => decide (1024 * (n + 1) ≤ w.elems)).map (1024 * ·)) := by
  unfold State.histWork
  rw [he]

/-- The leaves of a tile that are read begin below the job's element count. -/
theorem lt_elems_of_histWork {s : State} {w : Work} {th : Thread} (he : w.early = none) {x : Nat × List Byte}
    (h : x ∈ (s.histWork w th).done) : x.1 < w.elems := by
  rw [histWork_eq he] at h
  obtain ⟨n, hn, e⟩ := List.mem_map.1 (mem_of_runElems_done h)
  have live : 1024 * (n + 1) ≤ w.elems := of_decide_eq_true (List.mem_filter.1 hn).2
  omega

/-- The leaves that land are what the tile's thread has to write. -/
theorem histFinish_of_landed {s s1 : State} {w : Work} {th : Thread} {l : List (Nat × List Byte)}
    (hinj : ∀ x ∈ s1.store.inj, 0x28 ≤ x.1)
    (hland : s.landCells w.toJob (.job w.uid .thread th.tile) (Entry.tensorBase w.entry / 2 ^ 56)
      (l.flatMap fun y =>
        cellsAt (Entry.tensorBase w.entry % 2 ^ 56 + Entry.hPayload w.entry + 1408 * (y.1 / 1024) : Nat) y.1 y.2 ++
        cellsAt (Entry.tensorBase w.entry % 2 ^ 56 + Entry.hTable w.entry + 16 * (y.1 / 1024) : Nat) y.1
          (ex4Record (Entry.hId w.entry) y.2))
      (s.histMeets w.toJob (w.tileStart th.tile) (w.tileStart (th.tile + 1))) (fun _ => true) (some th.span) = .done s1) :
    s.histFinish w th l = .done (s1.threadRan w.uid th.tile (w.contribs.filter fun c => c.tile == th.tile) []) := by
  unfold State.histFinish
  dsimp only
  rw [hland]
  dsimp only
  rw [correctStaging_eq_self hinj]

/-! The folio entry (07 R181). -/

theorem writeFolio_eq {s : State} {j : Job} {bs : List (Target × Nat × Byte)} (h : HistRuns s j) (hm : Entry.hMode j.entry = 1)
    (hb : j.pass.built = true) (hf : j.pass.folio = false) (ht : j.threads = []) (hl : j.tiles ≤ j.lowestUnretired)
    (hw : s.jobWrites j.uid = [])
    (hplace : s.place j.part j.xlat (Entry.hFolio j.entry) (Folio.bytes (Entry.hFolioEntry j.entry)) = some bs) :
    s.writeFolio j.uid = ((s.issue (.job j.uid .other j.elems) j.part j.elems (Entry.hFolio j.entry / 2 ^ 56) bs []).modJob j.uid
      fun y => { y with pass := { y.pass with folio := true } }).settleHist j.uid := by
  unfold State.writeFolio
  rw [h.job]
  dsimp only
  rw [if_neg (by simp [h.opcode, hm, h.running, h.goesOn, h.early, hb, hf, ht, Nat.not_lt.2 hl, hw]), hplace]

/-- The folio entry is written once; answered at once, it completes the job. -/
theorem folioEntryWrite_spec {s : State} {j : Job} {bs : List (Target × Nat × Byte)} (h : HistRuns s j) (hm : Entry.hMode j.entry = 1)
    (hb : j.pass.built = true) (hf : j.pass.folio = false) (ht : j.threads = []) (hl : j.tiles ≤ j.lowestUnretired)
    (hw : s.jobWrites j.uid = [])
    (hplace : s.place j.part j.xlat (Entry.hFolio j.entry) (Folio.bytes (Entry.hFolioEntry j.entry)) = some bs) :
    let z := s.issue (.job j.uid .other j.elems) j.part j.elems (Entry.hFolio j.entry / 2 ^ 56) bs []
    ∃ t k, exec (.folioEntryWrite j.uid) s = .next t ∧ t.job? j.uid = some k ∧ k.pass.folio = true ∧
      (z.jobWrites j.uid ≠ [] → t = z.modJob j.uid fun y => { y with pass := { y.pass with folio := true } }) ∧
      (z.jobWrites j.uid = [] → k.phase = .ending ∧ k.code = 0 ∧ k.position = j.elems) := by
  intro z
  let z1 := z.modJob j.uid fun y => { y with pass := { y.pass with folio := true } }
  obtain ⟨y, hy, same⟩ := (jobsStand_issue s (.job j.uid .other j.elems) j.part j.elems (Entry.hFolio j.entry / 2 ^ 56) bs []
    none).job?_some h.job
  let k : Job := { y with pass := { y.pass with folio := true } }
  have hk : z1.job? j.uid = some k := job?_modJob_self hy rfl
  have run : exec (.folioEntryWrite j.uid) s = .next (z1.settleHist j.uid) :=
    congrArg Host.Outcome.next (writeFolio_eq h hm hb hf ht hl hw hplace)
  by_cases hz : z.jobWrites j.uid = []
  · have huid : k.uid = j.uid := (congrArg Job.uid same :)
    have runs : HistRuns z1 k := h.of_sketch hk (show sketch y = sketch j from sketch_of_bare same)
    have built : k.pass.built = true := (congrArg (·.pass.built) same :).trans hb
    obtain ⟨k1, hk1, ended⟩ := endJob_job runs.job 0 0 k.elems
    have complete : z1.settleHist j.uid = z1.endJob k.uid 0 0 k.elems := by
      rw [← huid]
      exact settleHist_of_answered runs built rfl (huid.symm ▸ hz)
    rw [complete] at run
    exact ⟨_, k1, run, huid ▸ hk1, (congrArg (·.pass.folio) ended :), fun hne => absurd hz hne, fun _ =>
      ⟨(congrArg Job.phase ended :), (congrArg Job.code ended :), (congrArg Job.position ended :).trans (congrArg Job.elems same :)⟩⟩
  · rw [settleHist_of_unanswered (s := z1) hz] at run
    exact ⟨_, k, run, hk, rfl, fun _ => rfl, fun h0 => absurd h0 hz⟩

/-- Settles O33: the command counts the source and issues the codebook, then runs the one idle thread; the folio entry is a write of its
own. -/
theorem histogramBuildsCodebookLeavesAndFolio : Obligations.HistogramBuildsCodebookLeavesAndFolio := by
  unfold Obligations.HistogramBuildsCodebookLeavesAndFolio
  intro s j hj hop hrun hstop horder hrecheck hearly
  have runs : HistRuns s j := ⟨hj, hop, hrun, hstop, horder, hrecheck, hearly⟩
  refine ⟨?_, ?_, fun bs hm hb hf ht hl hw hplace => folioEntryWrite_spec runs hm hb hf ht hl hw hplace⟩
  · intro span ws ks bs hb hspan hks hinj z hread
    refine ⟨histogramBuild_limit runs hb hspan hks hinj hread, ?_⟩
    intro hle hmeets kept hplace
    exact histogramBuild_book runs hb hspan hks hinj hread hle hmeets hplace
  · intro s0 s1 w th x l hb ht hx hready
    obtain ⟨hjob, htile, hseat⟩ := readyThread_some hready
    obtain rfl := Option.some.inj (hj.symm.trans hjob)
    rw [← htile] at hready ⊢
    intro a hwork o hland hinj
    have work : s0.histWork w th = { done := l } := (histWork_eq hearly s0 th).trans hwork
    have below : ∀ y ∈ l, y.1 < w.elems := fun y hy => lt_elems_of_histWork (s := s0) (th := th) hearly (by rw [work]; exact hy)
    have working : Working s s1 w.uid := hseat.trans (working_landCells hland)
    obtain ⟨k, hk, same⟩ := working.job?_some hj
    obtain ⟨-, -, noEvent, -⟩ := same_of_sketch same
    have run : s.histStep w.uid = s1.threadRan w.uid th.tile (w.contribs.filter fun c => c.tile == th.tile) [] := by
      rw [histStep_eq runs, if_pos hb, idleTiles_of_one ht hx, ← htile]
      exact (runThread_of_done hready work below (histFinish_of_landed hinj hland)).trans
        (settleEarly_of_not_over (threadRan_job hk) (earlyOver_of_no_early (noEvent.trans hearly)))
    exact ⟨_, congrArg Host.Outcome.next run, rfl, rfl, othersStand_trans working.others (threadRan_others _ _ _ _ _ _),
      ranTile_threadRan hj hk same⟩

end Sys2Proof.Proofs

/-! A group's scale record (08 R193, R194). -/

namespace Sys2Proof.Proofs

open Sys2Proof Sys2Proof.Machine Sys2Proof.Laws

theorem listMaxD_eq_foldl {l : List Int} {b : Int} (d : Int) (hn : l ≠ []) (hb : ∀ x ∈ l, b ≤ x) : listMaxD l d = l.foldl max b := by
  cases l with
  | nil => exact absurd rfl hn
  | cons x r =>
    rw [List.foldl_cons, max_eq_right (hb x List.mem_cons_self)]
    rfl

theorem le_listMaxD {l : List Int} {x : Int} (d : Int) (h : x ∈ l) : x ≤ listMaxD l d := by
  cases l with
  | nil => exact absurd h List.not_mem_nil
  | cons y r => exact List.le_max_of_mem h

/-- The base of rows none of which has faulted. -/
theorem formBase_map_some {l : List Int} (hn : l ≠ []) (d : Nat) : (formBase (l.map some) d : Int) = max 0 (listMaxD l 0 + 113) := by
  have shifts : (l.map some).filterMap id = l := by simp
  unfold formBase
  rw [shifts]
  cases l with
  | nil => exact absurd rfl hn
  | cons x r => exact Int.toNat_of_nonneg (le_max_left _ _)

/-- A base of at least a row's shift plus 113 has an offset for it below the mark of a faulted row, which decodes as the shift or as the
lowest one of the base. -/
theorem formOff_some {b : Nat} {x : Int} (h : x + 113 ≤ b) :
    formOff b (some x) ≤ 14 ∧ effShift b (formOff b (some x)) = max x ((b : Int) - 127) := by
  have off : formOff b (some x) = (max x ((b : Int) - 127) - ((b : Int) - 127)).toNat := rfl
  refine ⟨by omega, ?_⟩
  unfold effShift
  rw [if_neg (by omega), off]
  omega

/-- Settles O26: the base is taken from the largest shift, so every row's shift has an offset below the mark of a faulted row. -/
theorem scaleRecordHoldsEveryShift : Obligations.ScaleRecordHoldsEveryShift := by
  unfold Obligations.ScaleRecordHoldsEveryShift
  intro g d l hn hl r
  have base : (r.base : Int) = max 0 (listMaxD l 0 + 113) := formBase_map_some hn d
  refine ⟨by rw [base, listMaxD_eq_foldl 0 hn fun x hx => (hl x hx).1], by simp [r, State.formRecord], fun i x hx => ?_⟩
  have off : r.offs.getD i 0 = formOff r.base (some x) := by simp [r, State.formRecord, hx]
  have largest := le_listMaxD 0 (List.mem_of_getElem? hx)
  rw [off]
  exact formOff_some (by omega)

end Sys2Proof.Proofs

/-! STATS (08 R205, R206). -/

namespace Sys2Proof.Proofs

open Sys2Proof Sys2Proof.Machine Sys2Proof.Laws

/-- A run that finds every value waits for nothing and stops at nothing. -/
theorem runElems_of_ok {α : Type} {f : Nat → Res α} {g : Nat → α} {ns : List Nat} (h : ∀ n ∈ ns, f n = .ok (g n)) :
    State.runElems f ns = { done := ns.map fun n => (n, g n) } := by
  induction ns with
  | nil => rfl
  | cons n r ih =>
    unfold State.runElems
    rw [h n List.mem_cons_self, ih fun m hm => h m (List.mem_cons_of_mem n hm)]
    rfl

/-- What row r of a STATS job with these values puts into its destination. -/
def statsRowPut (s : State) (w : Work) (r : Nat) (vs : List (Option Sys2Proof.Machine.Num)) : State.Put :=
  { bits := (List.range 32).map fun (k : Nat) => ((((u64 w.entry 0xC0 % 2 ^ 56 : Nat) : Int) + (4 * r : Nat)) * 8 + (k : Int))
    code := (State.statsRow vs).1.toNat
    cnt := (State.statsRow vs).2.1
    aux := if (State.statsRow vs).2.2 then 1 else 0
    faults := (List.range (Entry.rowLen w.entry)).flatMap fun k => s.faultsOf w.toJob (Entry.inRow w.entry r k) }

theorem statsWork_of_read {s : State} {w : Work} {th : Thread} {vals : Nat → List (Option Sys2Proof.Machine.Num)}
    (h : ∀ r ∈ State.liveElems w.toJob th.tile, s.rowValues w (s.bookAt w th.span) r (some r) = .ok (vals r)) :
    s.statsWork w th = { done := (State.liveElems w.toJob th.tile).map fun r => (r, statsRowPut s w r (vals r)) } := by
  unfold State.statsWork
  refine runElems_of_ok fun r hr => ?_
  rw [h r hr]
  rfl

/-- A job that has kept the max-abs of these rows. -/
def rowsKept (l : List (Nat × State.Put)) (y : Job) : Job :=
  { y with pass := { y.pass with
      rowMax := (y.pass.rowMax.filter fun m => !(l.any fun x => x.1 == m.1)) ++ l.map fun x => (x.1, BitVec.ofNat 32 x.2.code) } }

theorem mem_rowMax_rowsKept {l : List (Nat × State.Put)} {r : Nat} {p : State.Put} {m : Word32} (h : (r, p) ∈ l)
    (hm : p.code = m.toNat) (y : Job) : (r, m) ∈ (rowsKept l y).pass.rowMax := by
  refine List.mem_append_right _ (List.mem_map.2 ⟨_, h, ?_⟩)
  simp [hm]

/-- The rows that land are kept for the tensor's maximum, and the tile's thread has run. -/
theorem statsFinish_of_landed {s s1 : State} {w : Work} {th : Thread} {l : List (Nat × State.Put)} (hinj : ∀ x ∈ s1.store.inj, 0x28 ≤ x.1)
    (hland : s.landCells w.toJob (.job w.uid .thread th.tile) (u64 w.entry 0xC0 / 2 ^ 56) (cellsOfAll l)
      (s.tileMeets w.toJob (l.map (·.1))) (fun _ => true) (some th.span) = .done s1) :
    s.statsFinish w th l = .done ((s1.modJob w.uid (rowsKept l)).threadRan w.uid th.tile
      (l.flatMap fun x => State.contribsOf w.entry th.tile x.1 x.2) (State.marksOf th.tile l)) := by
  unfold State.statsFinish
  dsimp only
  rw [hland]
  dsimp only
  rw [correctStaging_eq_self hinj]
  rfl

theorem runStats_eq_runThread {s : State} {uid tile : Nat} {j : Job} (h : s.job? uid = some j) (hop : Entry.opcode j.entry = 0x04) :
    s.runStats uid tile = s.runThread uid tile State.statsWork State.statsFinish := by
  unfold State.runStats
  rw [h]
  exact if_neg (not_not.2 hop)

/-- Settles O23: the tile's rows are all there, so the thread lands their values and keeps them; nothing met ends the job. -/
theorem statsMeasuresItsRows : Obligations.StatsMeasuresItsRows := by
  unfold Obligations.StatsMeasuresItsRows
  intro s s0 s1 tile w th vals hready hop he hread put l hland hinj
  obtain ⟨hj, htile, hseat⟩ := readyThread_some hready
  subst htile
  let t := (s1.modJob w.uid (rowsKept l)).threadRan w.uid th.tile (l.flatMap fun x => State.contribsOf w.entry th.tile x.1 x.2)
    (State.marksOf th.tile l)
  have below : ∀ x ∈ l, x.1 < w.elems := List.forall_mem_map.2 fun r hr => lt_elems_of_live he hr
  have seen : Working s s1 w.uid := hseat.trans (working_landCells hland)
  have work : Working s (s1.modJob w.uid (rowsKept l)) w.uid := seen.trans (working_modJob _ _ fun _ => rfl)
  obtain ⟨k, hk, same⟩ := seen.job?_some hj
  have hk1 : (s1.modJob w.uid (rowsKept l)).job? w.uid = some (rowsKept l k) := job?_modJob_self hk rfl
  obtain ⟨-, -, hearly, -⟩ := same_of_sketch same
  have run : s.runStats w.uid th.tile = t := by
    rw [runStats_eq_runThread hj hop, runThread_of_done hready (statsWork_of_read hread) below (statsFinish_of_landed hinj hland)]
    exact settleEarly_of_not_over (threadRan_job hk1) (earlyOver_of_no_early (hearly.trans he))
  refine ⟨t, _, congrArg Host.Outcome.next run, rfl, rfl, othersStand_trans work.others (threadRan_others _ _ _ _ _ _),
    ranTile_threadRan hj hk1 same, threadRan_job hk1, fun r hr => ?_⟩
  exact mem_rowMax_rowsKept (p := put r) (List.mem_map.2 ⟨r, hr, rfl⟩) rfl k

end Sys2Proof.Proofs

/-! The scale pass of FIRST_PASS and its conversion pass (08 R197). -/

namespace Sys2Proof.Proofs

open Sys2Proof Sys2Proof.Machine Sys2Proof.Laws

/-- A FIRST_PASS job that runs, has met no early event, and has not begun to convert. -/
structure FormsScales (s : State) (j : Job) : Prop where
  job     : s.job? j.uid = some j
  running : j.phase = .running
  goesOn  : j.stopped = false
  order   : j.order ≠ 0
  checked : j.recheck = false
  early   : j.early = none
  mode    : Entry.mode j.entry = 1
  forming : j.pass.converting = false

theorem passJob_of_formsScales {s : State} {j : Job} (h : FormsScales s j) : s.passJob j.uid = some j := by
  unfold State.passJob
  simp [h.job, h.running, h.goesOn, h.order, h.checked]

theorem viewStep_eq_scalePass {s : State} {j : Job} (h : FormsScales s j) (op tile : Nat) :
    s.viewStep op j.uid tile = s.scalePass op j.uid tile := by
  unfold State.viewStep
  rw [h.job]
  exact if_pos ⟨h.mode, by simp [h.forming]⟩

/-- The record of a group whose rows have all been read and which has its place. -/
theorem scalePass_of_read {s : State} {j : Job} {op g span : Nat} {rows : List (List (Option Sys2Proof.Machine.Num))}
    {bs : List (Target × Nat × Byte)} (h : FormsScales s j) (hop : Entry.opcode j.entry = op) (hix : op = 0x03 → j.pass.indexed = true)
    (hg : g = j.pass.scales.length) (hlt : g < Entry.groups j.entry) (hspan : s.passSpan j.part = some span)
    (hinj : ∀ x ∈ s.store.inj, 0x28 ≤ x.1)
    (hread : Res.all ((State.groupRows j.entry g).map fun r =>
      s.rowValues (State.passWork j) (s.bookAt (State.passWork j) span) r (some 0)) = .ok rows) :
    let r := State.formRecord g (rows.map fun l => some (State.rowNeed j.entry (State.rowMaxAbs l))) 0
    s.place j.part j.xlat (Entry.scaleOut j.entry + 48 * g) (State.recordOf r (Entry.pmOut j.entry) 0) = some bs →
    s.scalePass op j.uid g = ((s.loadBooks (State.passWork j) span (State.rowFolios j (State.groupRows j.entry g))).issue
      (.job j.uid .scale g) j.part 0 ((Entry.scaleOut j.entry + 48 * g) / 2 ^ 56) bs []).modJob j.uid
        fun y => { y with pass := { y.pass with scales := y.pass.scales ++ [r], seen := {} } } := by
  intro r hplace
  have due : ¬(Entry.opcode j.entry ≠ op ∨ j.early.isSome ∨ j.pass.converting ∨ g ≠ j.pass.scales.length ∨ Entry.groups j.entry ≤ g ∨
      (op = 0x03 ∧ !j.pass.indexed)) := by
    simpa [hop, h.early, h.forming, hg] using And.intro (hg ▸ hlt) hix
  unfold State.scalePass
  rw [recheckJob_eq_self h.job h.checked]
  dsimp only
  rw [passJob_of_formsScales h]
  dsimp only
  rw [if_neg due, hspan]
  dsimp only
  rw [hread]
  dsimp only
  rw [hplace]
  dsimp only
  rw [correctStaging_eq_self hinj]

/-- A job whose records are all formed and answered begins to convert. -/
theorem conversionPass_of_answered {s : State} {j : Job} (h : FormsScales s j) (hv : Entry.isView j.entry = true)
    (hg : j.pass.scales.length = Entry.groups j.entry) (hw : s.jobWrites j.uid = []) :
    s.conversionPass j.uid = s.modJob j.uid fun y => { y with pass := { y.pass with converting := true } } := by
  unfold State.conversionPass
  rw [h.job, hw]
  exact if_pos (by simp [hv, h.mode, h.running, h.goesOn, h.order, h.early, h.forming, hg])

/-- Settles O25: until it converts, a view opcode's command is its scale pass. -/
theorem firstPassFormsRecordsThenConverts : Obligations.FirstPassFormsRecordsThenConverts := by
  unfold Obligations.FirstPassFormsRecordsThenConverts
  intro s j hj hrun hstop horder hrecheck hearly hmode hconv
  have forms : FormsScales s j := ⟨hj, hrun, hstop, horder, hrecheck, hearly, hmode, hconv⟩
  refine ⟨?_, fun hv hg hw => congrArg Host.Outcome.next (conversionPass_of_answered forms hv hg hw)⟩
  intro c g span rows bs hc hg hlt hspan hinj hread r hplace
  have step (op : Nat) (hop : Entry.opcode j.entry = op) (hix : op = 0x03 → j.pass.indexed = true) :=
    (viewStep_eq_scalePass forms op g).trans (scalePass_of_read forms hop hix hg hlt hspan hinj hread hplace)
  rcases hc with ⟨rfl, hop⟩ | ⟨rfl, hop⟩ | ⟨rfl, hop, hix⟩
  · exact congrArg Host.Outcome.next (step 0x01 hop (absurd · (by decide)))
  · exact congrArg Host.Outcome.next (step 0x02 hop (absurd · (by decide)))
  · exact congrArg Host.Outcome.next (step 0x03 hop fun _ => hix)

end Sys2Proof.Proofs

/-! The redo of a group under RESEND (08 R203). -/

namespace Sys2Proof.Proofs

open Sys2Proof Sys2Proof.Machine Sys2Proof.Laws

/-! What a job keeps while its bytes land and its codebooks are loaded. -/

/-- A job but for its bytes that have landed, its codebooks that have been loaded, and what it knows of the bytes that others write. -/
def course (j : Job) : Job := { j with touched := [], pass := { j.pass with outs := [], poisoned := [], loaded := [] } }

/-- A job but for what its passes keep, what its tiles count, and what it knows of the bytes that others write. -/
def outline (j : Job) : Job := { j with touched := [], pass := {}, contribs := [] }

/-- A change of one job that a view of jobs does not show. -/
theorem map_jobs_modJob {β : Type} {g : Job → β} {f : Job → Job} (s : State) (uid : Nat) (hf : ∀ x, g (f x) = g x) :
    (s.modJob uid f).jobs.map g = s.jobs.map g := by
  rw [modJob_jobs, List.map_map]
  refine List.map_congr_left fun x _ => ?_
  dsimp only [Function.comp]
  split
  · exact hf x
  · rfl

/-- A span loads codebooks into its sets: the ports stand, and of a job only the codebooks that have been loaded change. -/
theorem loadBooks_course_ports (s : State) (w : Work) (span : Nat) (fs : List (Nat × Folio)) :
    (s.loadBooks w span fs).jobs.map course = s.jobs.map course ∧ (s.loadBooks w span fs).ports = s.ports := by
  refine Prod.mk.inj ?_
  unfold State.loadBooks
  refine foldl_same (fun t : State => (t.jobs.map course, t.ports)) _ fs s fun t x => ?_
  split
  · rfl
  · split
    · rfl
    · split
      · exact Prod.ext (map_jobs_modJob _ _ fun _ => rfl) rfl
      · rfl

theorem course_of_jobsStand {s t : State} (h : JobsStand s t) : t.jobs.map course = s.jobs.map course := by
  have e := congrArg (List.map course) h
  rw [List.map_map, List.map_map] at e
  exact e

theorem course_landCells {s t : State} {j : Job} {own : Owner} {route : Nat} {cs : List Machine.Cell} {free : Bool} {mine : Nat → Bool}
    {span : Option Nat} (h : s.landCells j own route cs free mine span = .done t) : t.jobs.map course = s.jobs.map course := by
  unfold State.landCells at h
  split at h
  · split at h <;> cases h
  · extract_lets ls at h
    split at h
    · cases h
    · obtain rfl := State.Land.done.inj h
      rw [useFree_jobs]
      exact Eq.trans (map_jobs_modJob _ _ fun _ => rfl) (course_of_jobsStand (jobsStand_issueElems _ _ _ _ _ _ _))

theorem job?_of_course {s t : State} {uid : Nat} {j : Job} (h : t.jobs.map course = s.jobs.map course) (hj : s.job? uid = some j) :
    ∃ k, t.job? uid = some k ∧ course k = course j := by
  have hid (x : Job) : (course x).uid = x.uid := rfl
  have e : (t.job? uid).map course = (s.job? uid).map course := by
    unfold State.job?
    rw [find?_map_uid hid, find?_map_uid hid, h]
  rw [hj] at e
  exact Option.map_eq_some_iff.1 e

/-! The command's parts. -/

/-- A group of a running job, below its end, waits for its redo. -/
structure Redoes (s : State) (j : Job) (g : Nat) : Prop where
  job     : s.job? j.uid = some j
  running : j.phase = .running
  goesOn  : j.stopped = false
  early   : j.early = none
  waits   : j.pass.redo.contains g = true
  below   : 64 * g * Entry.rowLen j.entry < j.elems

/-- It waits still while only counts and the passes change, and these not in the groups that wait. -/
theorem Redoes.of_outline {s t : State} {j k : Job} {g : Nat} (h : Redoes s j g) (hk : t.job? j.uid = some k)
    (same : outline k = outline j) (hredo : k.pass.redo = j.pass.redo) : Redoes t k g := by
  have huid : k.uid = j.uid := (congrArg Job.uid same :)
  have hentry : k.entry = j.entry := (congrArg Job.entry same :)
  have helems : k.elems = j.elems := (congrArg Job.elems same :)
  exact ⟨huid ▸ hk, (congrArg Job.phase same :).trans h.running, (congrArg Job.stopped same :).trans h.goesOn,
    (congrArg Job.early same :).trans h.early, hredo ▸ h.waits, hentry ▸ helems ▸ h.below⟩

/-- While a group below the job's end waits for its redo, the job does not complete. -/
theorem settle_eq_self_of_redoes {s : State} {uid : Nat} {j : Job} {g : Nat} (h : Redoes s j g) (hu : j.uid = uid) :
    s.settle uid = s := by
  subst hu
  have waiting : (j.pass.redo.all fun x => decide (j.elems ≤ 64 * x * Entry.rowLen j.entry)) = false :=
    List.all_eq_false.2 ⟨g, List.contains_iff_mem.1 h.waits, by simpa using h.below⟩
  have loud : s.closingsQuiet j j.elems = false := by
    unfold State.closingsQuiet
    simp [waiting]
  unfold State.settle
  rw [settleEarly_of_not_over h.job (earlyOver_of_no_early h.early)]
  unfold State.settleJob
  simp [h.job, loud]

theorem flushRedos_of_one {s : State} {uid : Nat} {j : Job} {r : ScaleRec} (h : s.job? uid = some j) (hr : j.pass.redoing = [r]) :
    s.flushRedos uid = s.finishRedo uid r := by
  unfold State.flushRedos
  rw [h]
  dsimp only
  rw [hr]
  rfl

/-- The steps of a group's redo that the command takes before its data are written. -/
theorem redoGroup_of_waiting {s t : State} {j : Job} {g span : Nat} (h : Redoes s j g) (hnone : j.pass.redoing = [])
    (hspan : s.passSpan j.part = some span)
    (hclash : State.folioClash j span (State.rowFolios j (State.groupRows j.entry g)) j.tiles = false)
    (ht : j.pass.redoAt = none ∧ t = s.redoMeasure j g span ∨ ∃ r, j.pass.redoAt = some r ∧ r.group = g ∧ t = s.redoConvert j r span) :
    s.redoGroup j.uid g = t := by
  have waits : g ∈ j.pass.redo := List.contains_iff_mem.1 h.waits
  unfold State.redoGroup
  rcases ht with ⟨hat, rfl⟩ | ⟨r, hat, hg, rfl⟩
  · simp [h.job, h.running, h.goesOn, waits, hnone, hspan, hclash, hat]
  · simp [h.job, h.running, h.goesOn, waits, hnone, hspan, hclash, hat, hg]

/-- A group whose data have been written is not read again. -/
theorem redoGroup_of_rewritten {s : State} {j : Job} {r : ScaleRec} (h : s.job? j.uid = some j) (hr : j.pass.redoing = [r]) :
    s.redoGroup j.uid r.group = s := by
  unfold State.redoGroup
  rw [h]
  exact if_pos (by simp [hr])

/-! Step 1: the rows are measured. -/

/-- A job that has measured a group whose redo it plans. -/
def planned (r : ScaleRec) (y : Job) : Job := { y with pass := { y.pass with redoAt := some r, seen := {} } }

/-- The record under which a group with these rows is converted again, with the flags of the record it had. -/
def redoRecord (j : Job) (g : Nat) (rows : List (List (Option Sys2Proof.Machine.Num))) : ScaleRec :=
  { State.formRecord g (rows.map fun v => some (State.rowNeed j.entry (State.rowMaxAbs v))) 0 with
    flags := ((j.pass.matched.find? fun x => x.group == g).map (·.flags)).getD 0 }

theorem redoMeasure_of_read {s : State} {j : Job} {g span : Nat} {rows : List (List (Option Sys2Proof.Machine.Num))}
    (hinj : ∀ x ∈ s.store.inj, 0x28 ≤ x.1)
    (hread : Res.all ((State.groupRows j.entry g).map fun r =>
      s.rowValues (State.passWork j) (s.bookAt (State.passWork j) span) r none) = .ok rows) :
    s.redoMeasure j g span = (s.loadBooks (State.passWork j) span (State.rowFolios j (State.groupRows j.entry g))).modJob j.uid
      (planned (redoRecord j g rows)) := by
  unfold State.redoMeasure
  dsimp only
  rw [hread]
  dsimp only
  rw [correctStaging_eq_self hinj]
  rfl

theorem resendRedo_measures {s : State} {j : Job} {g span : Nat} {rows : List (List (Option Sys2Proof.Machine.Num))} (h : Redoes s j g)
    (hinj : ∀ x ∈ s.store.inj, 0x28 ≤ x.1) (hnone : j.pass.redoing = []) (hspan : s.passSpan j.part = some span)
    (hclash : State.folioClash j span (State.rowFolios j (State.groupRows j.entry g)) j.tiles = false) (hat : j.pass.redoAt = none)
    (hread : Res.all ((State.groupRows j.entry g).map fun r =>
      s.rowValues (State.passWork j) (s.bookAt (State.passWork j) span) r none) = .ok rows) :
    ∃ t k r, exec (.resendRedo j.uid g) s = .next t ∧ t.job? j.uid = some k ∧ k.pass.redoAt = some r ∧
      { r with flags := 0 } = State.formRecord g (rows.map fun v => some (State.rowNeed j.entry (State.rowMaxAbs v))) 0 ∧
      k.pass.redo = j.pass.redo ∧ t.ports = s.ports ∧ OthersStand s t j.uid := by
  let fs := State.rowFolios j (State.groupRows j.entry g)
  let r := redoRecord j g rows
  let s1 := s.loadBooks (State.passWork j) span fs
  let t := s1.modJob j.uid (planned r)
  obtain ⟨courses, hports⟩ := loadBooks_course_ports s (State.passWork j) span fs
  obtain ⟨y, hy, same⟩ := job?_of_course courses h.job
  have hk : t.job? j.uid = some (planned r y) := job?_modJob_self hy rfl
  have hredo : y.pass.redo = j.pass.redo := (congrArg (·.pass.redo) same :)
  have hredoing : (planned r y).pass.redoing = [] := (congrArg (·.pass.redoing) same :).trans hnone
  have goesOn : Redoes t (planned r y) g := h.of_outline hk (congrArg outline same :) hredo
  have settled : t.settle j.uid = t := settle_eq_self_of_redoes goesOn (congrArg Job.uid same :)
  have run : ((s.redoGroup j.uid g).flushRedos j.uid).settle j.uid = t := by
    rw [redoGroup_of_waiting h hnone hspan hclash (.inl ⟨hat, rfl⟩), redoMeasure_of_read hinj hread, flushRedos_of_none hk hredoing,
      settled]
  refine ⟨t, _, r, congrArg Host.Outcome.next run, hk, rfl, rfl, hredo, hports, ?_⟩
  exact othersStand_trans (working_loadBooks s _ span fs).others (othersStand_modJob s1 j.uid (f := planned r) fun _ => rfl)

/-! Step 2: the elements are converted again. -/

/-- A job that has written again the elements of a group that lie from a on and below b. -/
def rewritten (e : Entry) (r : ScaleRec) (a b : Nat) (l : List (Nat × State.Put)) (y : Job) : Job :=
  { y with
    pass := { y.pass with redoAt := none, redoing := y.pass.redoing ++ [r], seen := {} }
    contribs := (y.contribs.filter fun c => !(c.conv && (decide (a ≤ c.elem) && decide (c.elem < b)))) ++
      (l.filter fun x => decide (a ≤ x.1) && decide (x.1 < b)).flatMap fun x => State.convContrib e (y.tileOf x.1) x.1 x.2.conv }

theorem encryptCells_eq_self {j : Job} (h : Entry.cipherWrite j.entry = false) (cs : List Machine.Cell) : State.encryptCells j cs = cs := by
  unfold State.encryptCells
  simp [h]

/-- The job at work under a group's new record. -/
def redoWork (j : Job) (r : ScaleRec) : Work :=
  { toJob := { j with pass := { j.pass with matched := j.pass.matched.map fun x => if x.group == r.group then r else x } }
    seen := some j.pass.seen }

theorem redoConvert_of_landed {s s1 : State} {j : Job} {r : ScaleRec} {span : Nat} {l : List (Nat × State.Put)}
    (hcipher : Entry.cipherWrite j.entry = false) :
    let a := 64 * r.group * Entry.rowLen j.entry
    let b := min (64 * (r.group + 1) * Entry.rowLen j.entry) j.elems
    let w := redoWork j r
    State.runElems (fun n => s.elemPut w (s.bookAt w span) (State.rowShift w.toJob) n) ((List.range (b - a)).map fun k => a + k) =
      { done := l } →
    s.landCells j (.job j.uid .other a) (Entry.dst j.entry).route (cellsOfAll l) (s.tileMeets j (l.map (·.1)))
      (fun n => decide (a ≤ n ∧ n < b)) none = .done s1 →
    s.redoConvert j r span = (s1.loadBooks w span (State.rowFolios j (State.groupRows j.entry r.group))).modJob j.uid
      (rewritten j.entry r a b l) := by
  intro a b w hrun hland
  unfold State.redoConvert
  simp only [hcipher, Bool.false_eq_true, if_false, encryptCells_eq_self hcipher]
  unfold a b w redoWork at hrun
  rw [hrun]
  dsimp only
  rw [if_neg (by simp)]
  unfold a b at hland
  rw [hland]
  rfl

theorem finishRedo_of_unanswered {s : State} {uid : Nat} {j : Job} {r : ScaleRec} (h : s.job? uid = some j)
    (hw : ((s.jobWrites uid).any fun x => x.owner == .job uid .other (64 * r.group * Entry.rowLen j.entry)) = true) :
    s.finishRedo uid r = s := by
  unfold State.finishRedo
  rw [h]
  exact if_pos (by rw [hw, Bool.or_true])

theorem resendRedo_rewrites {s s1 : State} {j : Job} {r : ScaleRec} {span : Nat} {l : List (Nat × State.Put)}
    (h : Redoes s j r.group) (hnone : j.pass.redoing = []) (hspan : s.passSpan j.part = some span)
    (hclash : State.folioClash j span (State.rowFolios j (State.groupRows j.entry r.group)) j.tiles = false)
    (hat : j.pass.redoAt = some r) (hcipher : Entry.cipherWrite j.entry = false) :
    let a := 64 * r.group * Entry.rowLen j.entry
    let b := min (64 * (r.group + 1) * Entry.rowLen j.entry) j.elems
    let w := redoWork j r
    State.runElems (fun n => s.elemPut w (s.bookAt w span) (State.rowShift w.toJob) n) ((List.range (b - a)).map fun k => a + k) =
      { done := l } →
    s.landCells j (.job j.uid .other a) (Entry.dst j.entry).route (cellsOfAll l) (s.tileMeets j (l.map (·.1)))
      (fun n => decide (a ≤ n ∧ n < b)) none = .done s1 →
    ((s1.jobWrites j.uid).any fun x => x.owner == .job j.uid .other a) = true →
    ∃ t k, exec (.resendRedo j.uid r.group) s = .next t ∧ t.job? j.uid = some k ∧ k.pass.redoing = [r] ∧ k.pass.redoAt = none ∧
      k.pass.redo = j.pass.redo ∧ t.ports = s1.ports ∧ OthersStand s t j.uid := by
  intro a b w hrun hland hw
  let fs := State.rowFolios j (State.groupRows j.entry r.group)
  let s2 := s1.loadBooks w span fs
  let t := s2.modJob j.uid (rewritten j.entry r a b l)
  obtain ⟨courses, hports⟩ := loadBooks_course_ports s1 w span fs
  obtain ⟨y, hy, same⟩ := job?_of_course (courses.trans (course_landCells hland)) h.job
  let k := rewritten j.entry r a b l y
  have hk : t.job? j.uid = some k := job?_modJob_self hy rfl
  have hentry : k.entry = j.entry := (congrArg Job.entry same :)
  have hredo : k.pass.redo = j.pass.redo := (congrArg (·.pass.redo) same :)
  have hredoing : k.pass.redoing = [r] := congrArg (· ++ [r]) ((congrArg (·.pass.redoing) same :).trans hnone)
  have unanswered : ((t.jobWrites j.uid).any fun x => x.owner == .job j.uid .other (64 * r.group * Entry.rowLen k.entry)) = true := by
    unfold State.jobWrites
    rw [show t.ports = s1.ports from hports, hentry]
    exact hw
  have goesOn : Redoes t k r.group := h.of_outline hk (congrArg outline same :) hredo
  have settled : t.settle j.uid = t := settle_eq_self_of_redoes goesOn (congrArg Job.uid same :)
  have run : ((s.redoGroup j.uid r.group).flushRedos j.uid).settle j.uid = t := by
    rw [redoGroup_of_waiting h hnone hspan hclash (.inr ⟨r, hat, rfl, rfl⟩), redoConvert_of_landed hcipher hrun hland,
      flushRedos_of_one hk hredoing, finishRedo_of_unanswered hk unanswered, settled]
  exact ⟨t, k, congrArg Host.Outcome.next run, hk, hredoing, rfl, hredo, hports, othersStand_trans (working_landCells hland).others
    (othersStand_trans (working_loadBooks s1 w span fs).others
      (othersStand_modJob s2 j.uid (f := rewritten j.entry r a b l) fun _ => rfl))⟩

/-! Step 3: the records are written. -/

/-- A job whose group [a, b) has been redone under a record. -/
def redone (r : ScaleRec) (a b : Nat) (y : Job) : Job :=
  { y with
    pass := { y.pass with redo := y.pass.redo.filter (· != r.group), redone := y.pass.redone ++ [r.group],
                          redoing := y.pass.redoing.filter fun x => x.group != r.group,
                          matched := y.pass.matched.map fun x => if x.group == r.group then r else x }
    marks := y.marks.filter fun m => !(m.kind == .row && decide (a ≤ m.elem) && decide (m.elem < b)) }

theorem finishRedo_of_answered {s : State} {j : Job} {r : ScaleRec} {bi bo : List (Target × Nat × Byte)} (h : s.job? j.uid = some j)
    (hrun : j.phase = .running) :
    let a := 64 * r.group * Entry.rowLen j.entry
    let b := min (64 * (r.group + 1) * Entry.rowLen j.entry) j.elems
    let rin := Entry.scaleIn j.entry + 48 * r.group
    let rout := Entry.scaleOut j.entry + 48 * r.group
    ((s.jobWrites j.uid).any fun x => x.owner == .job j.uid .other a) = false →
    s.routeLost j.part (rin / 2 ^ 56) = false → s.routeLost j.part (rout / 2 ^ 56) = false →
    s.place j.part j.xlat rin (State.recordOf r (Entry.pmIn j.entry) (r.flags % 2 + 4)) = some bi →
    s.place j.part j.xlat rout (State.recordOf r (Entry.pmOut j.entry) 5) = some bo →
    s.finishRedo j.uid r =
      (((s.issue (.job j.uid .closing a) j.part a (rin / 2 ^ 56) bi []).issue (.job j.uid .closing a) j.part a (rout / 2 ^ 56) bo
        []).modJob j.uid (redone r a b)).closeRange j.uid a b := by
  intro a b rin rout hw hin hout hbi hbo
  have noneLost : [rin, rout].find? (fun x => s.routeLost j.part (x / 2 ^ 56)) = none := by
    simp only [List.find?_cons, hin, hout, List.find?_nil]
  unfold State.finishRedo
  rw [h]
  dsimp only
  rw [if_neg (by rw [hw]; simp [hrun]), noneLost, hbi, hbo]
  rfl

/-- Settles O27: the command takes the group's redo one step further; the job does not complete while the group waits. -/
theorem redoRecomputesTheGroup : Obligations.RedoRecomputesTheGroup := by
  unfold Obligations.RedoRecomputesTheGroup
  intro s j g hj hrun hstop hearly hwaits hbelow hinj a b
  have redoes : Redoes s j g := ⟨hj, hrun, hstop, hearly, hwaits, hbelow⟩
  refine ⟨fun span rows hnone hspan hclash => ⟨fun hat hread => ?_, fun r l s1 hat hg hcipher => ?_⟩, ?_⟩
  · exact resendRedo_measures redoes hinj hnone hspan hclash hat hread
  · subst hg
    exact resendRedo_rewrites redoes hnone hspan hclash hat hcipher
  · intro r bi bo hredoing hg hw hin hout hbi hbo
    subst hg
    refine congrArg (fun t : State => Host.Outcome.next (t.settle j.uid)) ?_
    rw [redoGroup_of_rewritten hj hredoing, flushRedos_of_one hj hredoing]
    exact finishRedo_of_answered hj hrun hw hin hout hbi hbo

end Sys2Proof.Proofs

/-! TARIFF: the tables, and the rows of a tile (10 R232, R236, R240). -/

namespace Sys2Proof.Proofs

open Sys2Proof Sys2Proof.Machine Sys2Proof.Laws

/-! The table entries (R232). -/

/-- The chain of R232 over n + 1 places: the rounded product of the first, then a fused multiply-add for each further place. -/
theorem chain8_map_range (e a : Nat → Sys2Proof.Machine.Num) (n : Nat) :
    chain8 ((List.range (n + 1)).map e) ((List.range (n + 1)).map a) =
      (List.range n).foldl (fun acc i => f32fma (e (i + 1)) (a (i + 1)) acc) (f32mul (e 0) (a 0)) := by
  simp only [List.range_succ_eq_map, List.map_cons, List.map_map, chain8, List.zip_map', List.foldl_map]
  rfl

/-- Settles O31: the entry is a chain of eight places, of which seven follow the product. -/
theorem tableEntryIsTheRoundedChain : Obligations.TableEntryIsTheRoundedChain := by
  unfold Obligations.TableEntryIsTheRoundedChain
  intro cb alpha t v c e a
  exact chain8_map_range e a 7

/-! The tables are built (R231, R238, R240). -/

/-- A TARIFF job that runs, has met no early event, and whose tables are still to be built. -/
structure BuildsTables (s : State) (j : Job) : Prop where
  job     : s.job? j.uid = some j
  opcode  : Entry.opcode j.entry = 0x0A
  running : j.phase = .running
  goesOn  : j.stopped = false
  order   : j.order ≠ 0
  checked : j.recheck = false
  early   : j.early = none
  unbuilt : j.pass.built = false

theorem passJob_of_buildsTables {s : State} {j : Job} (h : BuildsTables s j) : s.passJob j.uid = some j := by
  unfold State.passJob
  simp [h.job, h.running, h.goesOn, h.order, h.checked]

/-- Until its tables are built, the command builds them, whichever tile it names. -/
theorem runTariff_eq_buildTables {s : State} {j : Job} (h : BuildsTables s j) (tile : Nat) :
    s.runTariff j.uid tile = s.buildTables j.uid := by
  unfold State.runTariff
  rw [h.job]
  dsimp only
  rw [if_neg (not_not.2 h.opcode), if_pos (by simp [h.unbuilt])]

/-- A job whose records are matched beyond group g reads none for it. -/
theorem matchTo_of_matched {s : State} {uid span g : Nat} {j : Job} (h : s.job? uid = some j) (hg : g < j.pass.matched.length) (n : Nat) :
    State.matchTo span uid g n s = (s, true) := by
  cases n with
  | zero => rfl
  | succ n =>
    unfold State.matchTo
    rw [h]
    exact if_pos (by simp [hg])

/-- A job whose scale record is matched, or that has none, and whose codebook and activations have been read stores its tables. -/
theorem buildTables_of_read {s : State} {j : Job} {span : Nat} {cb : List Byte} {acts : List (List Byte)} (h : BuildsTables s j)
    (hspan : s.passSpan j.part = some span) (hm : Entry.tScaled j.entry = true → j.pass.matched ≠ [])
    (hbook : s.tBook (State.passWork j) = .ok cb)
    (hacts : Res.all ((List.range (Entry.tB j.entry)).map fun k => s.tActs (State.passWork j) k) = .ok acts) :
    s.buildTables j.uid = s.storeTables j cb acts := by
  have pass := passJob_of_buildsTables h
  have matched : (if Entry.tScaled j.entry then State.matchTo span j.uid 0 2 s else (s, true)) = (s, true) := by
    split
    · next hs => exact matchTo_of_matched h.job (List.length_pos_iff.2 (hm hs)) 2
    · rfl
  unfold State.buildTables
  simp only [recheckJob_eq_self h.job h.checked, pass, hspan, matched, hbook, hacts, h.early, Res.both]
  simp [h.opcode]

/-- The tables that stand then: those of banks that the job does not hold, and its own in each bank that it holds. -/
theorem mem_tables_storeTables {s : State} {j : Job} (hb : j.banks ≠ []) (cb : List Byte) (acts : List (List Byte)) (x : TableBank) :
    x ∈ (s.storeTables j cb acts).store.tables ↔
      (x ∈ s.store.tables ∧ (x.span, x.core) ∉ j.banks) ∨ ∃ b ∈ j.banks, TableBank.mk b.1 b.2 cb acts = x := by
  have own : j.banks.isEmpty = false := by simpa using hb
  simp [State.storeTables, State.modJob, own]

/-- A job that holds banks keeps them, and its tables are built. -/
theorem storeTables_job {s : State} {j : Job} (hj : s.job? j.uid = some j) (hb : j.banks ≠ []) (cb : List Byte)
    (acts : List (List Byte)) : ∃ k, (s.storeTables j cb acts).job? j.uid = some k ∧ k.pass.built = true ∧ k.banks = j.banks := by
  have own : j.banks.isEmpty = false := by simpa using hb
  refine ⟨_, job?_modJob_self hj rfl, ?_, ?_⟩ <;> simp [own]

/-! The rows of a tile (R236). -/

/-- Once a bank holds its tables, the command runs the thread of the tile. -/
theorem runTariff_eq_runThread {s : State} {uid tile : Nat} {j : Job} {x : TableBank} (h : s.job? uid = some j)
    (hop : Entry.opcode j.entry = 0x0A) (hb : j.pass.built = true) (hr : j.recheck = false) (hx : s.tablesOf j = some x) :
    s.runTariff uid tile = s.runThread uid tile State.tariffWork State.tariffFinish := by
  unfold State.runTariff
  rw [h]
  dsimp only
  rw [if_neg (not_not.2 hop), if_neg (by simp [hb, hr, hx])]

/-- A thread that is seated finds its job's tables where they stood. -/
theorem tablesOf_of_readyThread {s s0 : State} {uid tile : Nat} {w : Work} {th : Thread} (h : s.readyThread uid tile = some (s0, w, th))
    (j : Job) : s0.tablesOf j = s.tablesOf j := by
  have rams := ((within_readyThread h).only .rams).resolve_left (by decide)
  unfold State.tablesOf
  rw [(Prod.mk.inj rams).1]

/-- The rows that land are all that the tile's thread has to do. -/
theorem tariffFinish_of_landed {s s1 : State} {w : Work} {th : Thread} {l : List (Nat × State.Put)} (hinj : ∀ x ∈ s1.store.inj, 0x28 ≤ x.1)
    (hland : s.landCells w.toJob (.job w.uid .thread th.tile) (Entry.tDst w.entry / 2 ^ 56) (cellsOfAll l)
      (s.rangesMeet w.toJob (State.tariffReads w.toJob th.tile) (State.tariffWrites w.entry)) (fun n => w.tileOf n == th.tile)
      (some th.span) = .done s1) :
    s.tariffFinish w th l = .done (s1.threadRan w.uid th.tile (l.flatMap fun x => State.contribsOf w.entry th.tile x.1 x.2)
      (State.marksOf th.tile l)) := by
  unfold State.tariffFinish State.tileFinish
  dsimp only
  rw [hland]
  dsimp only
  rw [correctStaging_eq_self hinj]

/-- Settles O30: the first command stores the tables in the job's banks; a later one finds them there, lands the rows of its tile and marks
the thread as run. -/
theorem tariffWritesItsRows : Obligations.TariffWritesItsRows := by
  unfold Obligations.TariffWritesItsRows
  refine ⟨?_, ?_⟩
  · intro s tile span j cb acts hj hop hrun hstop horder hrecheck hearly hbuilt hspan hm hbanks hbook hacts
    have builds : BuildsTables s j := ⟨hj, hop, hrun, hstop, horder, hrecheck, hearly, hbuilt⟩
    obtain ⟨k, hk, built, banks⟩ := storeTables_job hj hbanks cb acts
    have run : s.runTariff j.uid tile = s.storeTables j cb acts :=
      (runTariff_eq_buildTables builds tile).trans (buildTables_of_read builds hspan hm hbook hacts)
    refine ⟨_, k, congrArg Host.Outcome.next run, rfl, hk, built, banks, fun u hu => job?_modJob_ne (fun _ => rfl) hu,
      fun b hb => (mem_tables_storeTables hbanks cb acts _).2 (.inr ⟨b, hb, rfl⟩), fun x hx => ?_⟩
    rw [mem_tables_storeTables hbanks]
    refine ⟨?_, fun h => .inl ⟨h, hx⟩⟩
    rintro (⟨h, -⟩ | ⟨b, hb, rfl⟩)
    · exact h
    · exact absurd hb hx
  · intro s s0 s1 tile w th x l hready hop he hb hr hx b hrun hland hinj
    obtain ⟨hj, htile, hseat⟩ := readyThread_some hready
    subst htile
    have work : s0.tariffWork w th = { done := l } := by
      unfold State.tariffWork
      rw [tablesOf_of_readyThread hready, hx]
      exact hrun
    have below : ∀ y ∈ l, y.1 < w.elems := fun y hy => lt_elems_of_live he (mem_of_runElems_done (by rw [hrun]; exact hy))
    have working : Working s s1 w.uid := hseat.trans (working_landCells hland)
    obtain ⟨k, hk, same⟩ := working.job?_some hj
    obtain ⟨-, -, hearly, -⟩ := same_of_sketch same
    have run : s.runTariff w.uid th.tile = s1.threadRan w.uid th.tile
        (l.flatMap fun x => State.contribsOf w.entry th.tile x.1 x.2) (State.marksOf th.tile l) := by
      rw [runTariff_eq_runThread hj hop hb hr hx, runThread_of_done hready work below (tariffFinish_of_landed hinj hland)]
      exact settleEarly_of_not_over (threadRan_job hk) (earlyOver_of_no_early (hearly.trans he))
    exact ⟨_, congrArg Host.Outcome.next run, rfl, rfl, othersStand_trans working.others (threadRan_others _ _ _ _ _ _),
      ranTile_threadRan hj hk same⟩

end Sys2Proof.Proofs

/-! Slot positions of a routing stream (11 R270). -/

namespace Sys2Proof.Proofs

open Sys2Proof Sys2Proof.Machine Sys2Proof.Laws

/-- Position of a route of expert x once n routes of its expert have been placed or dropped. -/
def positionAfter (cap n : Nat) (x : Int) : State.RoutePos := if x < 0 then .none_ else if n < cap then .row n else .drop

theorem assignRows_cons (cap : Nat) (x : Int) (r : List Int) (n : List (Nat × Nat)) :
    State.assignRows cap (x :: r) n = positionAfter cap (lookupD n x.toNat 0) x ::
      State.assignRows cap r (if 0 ≤ x ∧ lookupD n x.toNat 0 < cap then assocPut n x.toNat (lookupD n x.toNat 0 + 1) else n) := by
  unfold positionAfter
  rw [State.assignRows]
  by_cases hx : x < 0
  · simp [hx, not_le.2 hx]
  · by_cases hk : lookupD n x.toNat 0 < cap <;> simp [hx, hk, not_lt.1 hx]

theorem length_assignRows (cap : Nat) (routes : List Int) (n : List (Nat × Nat)) :
    (State.assignRows cap routes n).length = routes.length := by
  induction routes generalizing n with
  | nil => rfl
  | cons x r ih => rw [assignRows_cons, List.length_cons, List.length_cons, ih]

/-- Once the capacity is reached, how far it is passed does not show. -/
theorem positionAfter_of_le {cap n m : Nat} (hn : cap ≤ n) (hm : cap ≤ m) (x : Int) : positionAfter cap n x = positionAfter cap m x := by
  unfold positionAfter
  rw [if_neg hn.not_gt, if_neg hm.not_gt]

/-- What a route of expert y leaves of the count of expert x: one more for its own, up to the capacity. -/
theorem positionAfter_step {cap m : Nat} {x y : Int} (n : List (Nat × Nat)) (hx : 0 ≤ x) :
    positionAfter cap (lookupD (if 0 ≤ y ∧ lookupD n y.toNat 0 < cap then assocPut n y.toNat (lookupD n y.toNat 0 + 1) else n) x.toNat 0
      + m) x = positionAfter cap (lookupD n x.toNat 0 + ((if y = x then 1 else 0) + m)) x := by
  by_cases e : y = x
  · subst e
    by_cases hk : lookupD n y.toNat 0 < cap
    · rw [if_pos ⟨hx, hk⟩, if_pos rfl, lookupD_assocPut, if_pos rfl, Nat.add_assoc]
    · rw [if_neg fun h => hk h.2, if_pos rfl]
      exact positionAfter_of_le (by omega) (by omega) y
  · rw [if_neg e, Nat.zero_add]
    split
    · next hy => rw [lookupD_assocPut, if_neg (by omega)]
    · rfl

/-- The counts at the start stand for the routes before the stream. -/
theorem getElem?_assignRows {cap : Nat} {routes : List Int} {i : Nat} {x : Int} (h : routes[i]? = some x) (n : List (Nat × Nat)) :
    (State.assignRows cap routes n)[i]? =
      some (positionAfter cap (lookupD n x.toNat 0 + ((routes.take i).filter (· == x)).length) x) := by
  induction routes generalizing i n with
  | nil => cases h
  | cons y r ih =>
    rw [assignRows_cons]
    cases i with
    | zero =>
      obtain rfl := Option.some.inj h
      rfl
    | succ i =>
      refine (ih h _).trans (congrArg some ?_)
      by_cases hx : x < 0
      · simp [positionAfter, hx]
      · rw [positionAfter_step n (not_lt.1 hx), List.take_succ_cons, List.filter_cons]
        by_cases e : y = x <;> simp [e, Nat.add_comm]

/-- Settles O40: the positions of a stream are those that follow no routes. -/
theorem routesFillSlotsInStreamOrder : Obligations.RoutesFillSlotsInStreamOrder := by
  unfold Obligations.RoutesFillSlotsInStreamOrder
  intro cap routes
  refine ⟨length_assignRows cap routes [], fun i x h => ?_⟩
  rw [getElem?_assignRows h]
  simp only [positionAfter, lookupD, Nat.zero_add]

end Sys2Proof.Proofs

/-! Group jobs and the messages of groups (11): what a job's commands and a message's arrival act on. -/

namespace Sys2Proof.Proofs

open Sys2Proof Sys2Proof.Machine Sys2Proof.Laws

/-! Group jobs that run. -/

/-- A job of a group opcode runs, and its group exists. -/
structure GroupRuns (s : State) (op : Nat) (j : Job) (g : Group) : Prop where
  job     : s.job? j.uid = some j
  opcode  : Entry.opcode j.entry = op
  groupOp : j.groupOp = true
  running : j.phase = .running
  goesOn  : j.stopped = false
  order   : j.order ≠ 0
  group   : s.group? j.part j.groupNo = some g

theorem groupReady_job {s : State} {op uid : Nat} {j : Job} {g : Group} (h : s.groupReady op uid = some (j, g)) : s.job? uid = some j := by
  obtain ⟨k, hk, h⟩ := Option.bind_eq_some_iff.1 h
  split at h
  · cases h
  · obtain ⟨x, -, e⟩ := Option.map_eq_some_iff.1 h
    obtain ⟨rfl, -⟩ := Prod.mk.inj e
    exact hk

theorem groupReady_iff {s : State} {op : Nat} {j : Job} {g : Group} : s.groupReady op j.uid = some (j, g) ↔ GroupRuns s op j g := by
  refine ⟨fun h => ?_, fun h => ?_⟩
  · have hj := groupReady_job h
    unfold State.groupReady at h
    rw [hj, Option.bind_some] at h
    split at h
    · cases h
    · next ok =>
      obtain ⟨x, hx, e⟩ := Option.map_eq_some_iff.1 h
      obtain rfl := (Prod.mk.inj e).2
      simp only [not_or, not_not, Bool.not_eq_true', Bool.not_eq_false, Bool.not_eq_true] at ok
      obtain ⟨hop, hg, hp, hs, ho⟩ := ok
      exact ⟨hj, hop, hg, hp, hs, ho, hx⟩
  · unfold State.groupReady
    rw [h.job, Option.bind_some, if_neg (by simp [h.opcode, h.groupOp, h.running, h.goesOn, h.order]), h.group]
    rfl

/-- No command of another opcode is the job's. -/
theorem groupReady_of_other {s : State} {op op' : Nat} {j : Job} {g : Group} (h : GroupRuns s op j g) (hop : op ≠ op') :
    s.groupReady op' j.uid = none := by
  unfold State.groupReady
  rw [h.job, Option.bind_some, if_pos (.inl (h.opcode.trans_ne hop))]

theorem number_of_group? {s : State} {p n : Nat} {g : Group} (h : s.group? p n = some g) : g.g = n :=
  beq_iff_eq.1 (List.find?_some (p := fun y : Machine.Group => y.g == n) h)

/-- A group job's group, by its number. -/
theorem GroupRuns.group_g {s : State} {op : Nat} {j : Job} {g : Group} (h : GroupRuns s op j g) : s.group? j.part g.g = some g :=
  number_of_group? h.group ▸ h.group

theorem allRetired_of_threads {j : Job} (h : j.threads ≠ []) : State.allRetired j = false := by
  unfold State.allRetired
  simp [h]

theorem threads_of_idleTiles {j : Job} {tile : Nat} (h : State.idleTiles j = [tile]) : j.threads ≠ [] := by
  rintro e
  simp [State.idleTiles, e] at h

theorem idleTiles_of_allRetired {j : Job} (h : State.allRetired j = true) : State.idleTiles j = [] := by
  have none_left : j.threads = [] := by simpa using (Bool.and_eq_true_iff.1 h).1
  unfold State.idleTiles
  rw [none_left]
  rfl

/-! The thread of a tile that runs. -/

/-- A thread that goes on has been seated at most: nothing but jobs changes. -/
theorem readyThread_eq {s s0 : State} {uid tile : Nat} {w : Work} {t : Thread} (h : s.readyThread uid tile = some (s0, w, t)) :
    s0 = { s with jobs := s0.jobs } := by
  unfold State.readyThread at h
  obtain ⟨j, -, h⟩ := Option.bind_eq_some_iff.1 h
  split at h
  · cases h
  · obtain ⟨x, -, h⟩ := Option.bind_eq_some_iff.1 h
    extract_lets at h
    split at h
    · simp only [Option.some.injEq, Prod.mk.injEq] at h
      exact h.1 ▸ rfl
    · split at h
      · cases h
      · simp only [Option.some.injEq, Prod.mk.injEq] at h
        exact h.1 ▸ rfl

theorem group?_of_readyThread {s s0 : State} {uid tile : Nat} {w : Work} {t : Thread} (h : s.readyThread uid tile = some (s0, w, t))
    (p n : Nat) : s0.group? p n = s.group? p n :=
  group?_of_within (within_readyThread h) p n

/-- A thread whose elements are all there and whose work lands leaves its job with the mark that it has run, and in every other way as it
was; other jobs stand. -/
theorem runThread_ran {α : Type} {s s0 s1 : State} {tile : Nat} {w : Work} {th : Thread} {work : State → Work → Thread → State.Run α}
    {finish : State → Work → Thread → List (Nat × α) → State.Land} {f : Nat → Res α} {l : List (Nat × α)} {cs : List Contrib}
    {ms : List Mark} (hready : s.readyThread w.uid tile = some (s0, w, th)) (he : w.early = none)
    (hwork : work s0 w th = State.runElems f (State.liveElems w.toJob tile))
    (hrun : State.runElems f (State.liveElems w.toJob tile) = { done := l })
    (hland : finish s0 w th l = .done (s1.threadRan w.uid tile cs ms)) (hs : Working s0 s1 w.uid) :
    s.runThread w.uid tile work finish = s1.threadRan w.uid tile cs ms ∧ OthersStand s (s1.threadRan w.uid tile cs ms) w.uid ∧
      RanTile s (s1.threadRan w.uid tile cs ms) w.uid tile cs ms := by
  obtain ⟨hj, -, hseat⟩ := readyThread_some hready
  have working : Working s s1 w.uid := hseat.trans hs
  obtain ⟨k, hk, same⟩ := working.job?_some hj
  obtain ⟨-, -, early, -⟩ := same_of_sketch same
  have below : ∀ x ∈ l, x.1 < w.elems := fun x hx => lt_elems_of_live he (mem_of_runElems_done (by rw [hrun]; exact hx))
  refine ⟨?_, othersStand_trans working.others (threadRan_others _ _ _ _ _ _), ranTile_threadRan hj hk same⟩
  rw [runThread_of_done hready (hwork.trans hrun) below hland]
  exact settleEarly_of_not_over (threadRan_job hk) (earlyOver_of_no_early (early.trans he))

/-- The job of a tile that has run has its threads still. -/
theorem threads_of_ranTile {s t : State} {uid tile : Nat} {cs : List Contrib} {ms : List Mark} {j : Job} (h : RanTile s t uid tile cs ms)
    (hj : s.job? uid = some j) (ht : j.threads ≠ []) : ∃ k, t.job? uid = some k ∧ k.threads ≠ [] := by
  obtain ⟨i, k, hi, hk, -, -, tiles, -⟩ := h
  obtain rfl := Option.some.inj (hi.symm.trans hj)
  exact ⟨k, hk, fun e => ht (List.map_eq_nil_iff.1 (tiles.symm.trans (e ▸ rfl)))⟩

/-! Messages sent. -/

theorem pumpGo_jobs {p : Port} (hp : p ≠ .host) (n : Nat) (s : State) (acc : List Request) :
    (State.pumpGo p n s acc).1.jobs = s.jobs := by
  have notHost : (p == .host) = false := beq_eq_false_iff_ne.2 hp
  induction n generalizing s acc with
  | zero => rfl
  | succ n ih =>
    unfold State.pumpGo
    split
    · extract_lets
      split <;> rfl
    · extract_lets _ _ _ s1 s2 s3 done _ _ s4
      split
      · rfl
      · have h2 : s2.jobs = s.jobs := by
          unfold s2
          split
          · rfl
          · exact Eq.trans (b := s1.jobs) (jobs_of_within (within_countBytes s1 _ _ _ _)) rfl
        have h3 : s3.jobs = s.jobs := by
          unfold s3
          split <;> exact h2
        have notDone : done = false := by
          unfold done
          rw [notHost, Bool.false_and]
        rw [notDone]
        exact (ih s4 _).trans h3

/-- A message put to a port changes no job and no byte: messages do not leave by the host port. -/
theorem postMsg_jobs_store (s : State) (p : Nat) (d : MsgSrc) (m : Msg) :
    (s.postMsg p d m).jobs = s.jobs ∧ (s.postMsg p d m).store = s.store := by
  cases e : s.msgPort d with
  | none =>
    unfold State.postMsg
    rw [e]
    exact ⟨rfl, rfl⟩
  | some port =>
    refine ⟨?_, (onlyTransfers_postMsg e p m).store⟩
    unfold State.postMsg
    rw [e]
    exact pumpGo_jobs (msgPort_ne_host e) _ _ _

theorem postMsg_store (s : State) (p : Nat) (d : MsgSrc) (m : Msg) : (s.postMsg p d m).store = s.store := (postMsg_jobs_store s p d m).2

theorem postMsg_job? (s : State) (p : Nat) (d : MsgSrc) (m : Msg) (uid : Nat) : (s.postMsg p d m).job? uid = s.job? uid := by
  unfold State.job?
  rw [(postMsg_jobs_store s p d m).1]

theorem inbox_of_within {l : List Field} {s t : State} (h : Within l s t) (hl : Field.inbox ∉ l := by decide) :
    t.ports.inbox = s.ports.inbox := (h.only .inbox).resolve_left hl

theorem postMsg_inbox (s : State) (p : Nat) (d : MsgSrc) (m : Msg) : (s.postMsg p d m).ports.inbox = s.ports.inbox :=
  inbox_of_within (within_postMsg s p d m)

theorem postMsg_group? (s : State) (p : Nat) (d : MsgSrc) (m : Msg) (q n : Nat) : (s.postMsg p d m).group? q n = s.group? q n :=
  group?_of_within (within_postMsg s p d m) q n

/-! Messages that arrive. -/

/-- A message of the current epoch of a group that is not ABORTED stands in the inbox. -/
structure Arrives (s : State) (m : Msg) (tag epoch p : Nat) (g : Group) : Prop where
  inbox : s.ports.inbox.contains m = true
  group : s.groupByTag tag = some (p, g)
  live  : g.state ≠ .aborted
  now   : epoch = State.epochNow g

theorem epochNow_ne_epochNext (g : Group) : State.epochNow g ≠ State.epochNext g := by
  unfold State.epochNow State.epochNext
  omega

/-- It is taken from the inbox and acted on. -/
theorem onMsg_of_arrives {s : State} {m : Msg} {tag epoch p : Nat} {g : Group} (h : Arrives s m tag epoch p g)
    (f : State → Nat → Group → State) : s.onMsg m tag epoch f = f (arrivalTaken s m) p g := by
  unfold State.onMsg
  rw [if_neg (by rw [h.inbox]; exact Bool.false_ne_true)]
  dsimp only
  rw [h.group]
  dsimp only
  rw [if_neg h.live, if_neg (h.now ▸ epochNow_ne_epochNext g), if_pos h.now]
  rfl

/-- The group that carries a tag is one of its partition's. -/
theorem groupByTag_some {s : State} {tag p : Nat} {g : Group} (h : s.groupByTag tag = some (p, g)) :
    g ∈ (s.part p).groups ∧ g.tag = tag := by
  obtain ⟨q, -, hq⟩ := List.exists_of_findSome?_eq_some h
  obtain ⟨x, hx, e⟩ := Option.map_eq_some_iff.1 hq
  obtain ⟨rfl, rfl⟩ := Prod.mk.inj e
  exact ⟨List.mem_of_find?_eq_some hx, beq_iff_eq.1 (List.find?_some (p := fun y : Machine.Group => y.tag == tag) hx)⟩

end Sys2Proof.Proofs

/-! CONTRIBUTE, the arrival of a contribution at its owner, and the request for it again (11 R251, R258). -/

namespace Sys2Proof.Proofs

open Sys2Proof Sys2Proof.Machine Sys2Proof.Laws

/-! A contribution sent. -/

/-- The contribution of a source of which the elements l have been read. -/
def contributionOf (s : State) (j : Job) (g : Group) (l : List (Nat × List Byte)) : Msg :=
  let data := s.openTiles j (Entry.dataAddr j.entry) (State.typeBytes g.inT) l
  .contribution g.tag (State.epochNow g) (Entry.chunkOf j.entry) (Entry.rankOf j.entry) (Entry.elemsOf j.entry) (crc32c data) data

/-- A job that has sent its contribution, or sent it again. -/
def hasSent (again : Bool) (y : Job) : Job :=
  { y with pass := { y.pass with sent := true, resends := y.pass.resends + (if again then 1 else 0) } }

/-- A group that knows of the contribution of an entry's rank to its chunk. -/
def knowsSent (e : Entry) (again : Bool) (y : Group) : Group :=
  if again then y else { y with contributed := y.contributed ++ [(Entry.rankOf e, Entry.chunkOf e)] }

/-- The state in which a contribution is on its way. -/
def sentNoted (s : State) (j : Job) (g : Group) (again : Bool) : State :=
  (s.useFree.modJob j.uid (hasSent again)).modGroup j.part g.g (knowsSent j.entry again)

theorem sendContribution_of_read {s : State} {j : Job} {g : Group} {l : List (Nat × List Byte)} (again : Bool)
    (hrun : State.runElems (s.packedElem { toJob := j } (Entry.dataAddr j.entry) (State.typeBytes g.inT)) (List.range j.elems) =
      { done := l }) :
    s.sendContribution j g again = (sentNoted s j g again).sendMsg j.part
      (State.member g (Entry.chunkOf j.entry % g.m)).place (contributionOf s j g l) := by
  unfold State.sendContribution
  dsimp only
  rw [hrun]
  rfl

/-- Where no other party has written since the job was admitted, the data are the bytes read. -/
theorem openTiles_of_untouched {s : State} {j : Job} (h : j.touched = []) (a w : Nat) (l : List (Nat × List Byte)) :
    s.openTiles j a w l = (l.map (·.2)).flatten := by
  unfold State.openTiles
  simp [h, List.flatMap_def]

theorem sentNoted_job? {s : State} {j : Job} (hj : s.job? j.uid = some j) (g : Group) (again : Bool) :
    (sentNoted s j g again).job? j.uid = some (hasSent again j) :=
  job?_modJob_self (s := s.useFree) hj rfl

/-! CONTRIBUTE. -/

/-- Until every tile has retired, the command runs the threads that have still to run. -/
theorem contributeStep_of_open {s : State} {j : Job} {g : Group} (h : GroupRuns s 0x05 j g) (ho : State.allRetired j = false) :
    s.contributeStep j.uid =
      (State.idleTiles j).foldl (fun (s : State) t => s.runThread j.uid t State.contributeWork State.contributeFinish) s := by
  unfold State.contributeStep
  rw [groupReady_iff.2 h]
  exact if_pos (by rw [ho]; rfl)

/-- Then the source is sent, once in an epoch. -/
theorem contributeStep_of_retired {s : State} {j : Job} {g : Group} (h : GroupRuns s 0x05 j g) (ha : State.allRetired j = true)
    (hs : j.pass.sent = false) (he : j.early = none) :
    s.contributeStep j.uid = if g.contributed.contains (Entry.rankOf j.entry, Entry.chunkOf j.entry) then s.endJob j.uid 2 0x22 0
      else s.sendContribution j g false := by
  unfold State.contributeStep
  rw [groupReady_iff.2 h]
  dsimp only
  rw [if_neg (by simp [ha]), if_neg (by simp [hs, he])]

theorem contribute_runsTile {s s0 : State} {tile : Nat} {w : Work} {th : Thread} {g : Group} {l : List (Nat × List Byte)}
    (h : GroupRuns s 0x05 w.toJob g) (he : w.early = none) (hinj : ∀ x ∈ s.store.inj, 0x28 ≤ x.1)
    (ho : State.allRetired w.toJob = false) (hidle : State.idleTiles w.toJob = [tile])
    (hready : s.readyThread w.uid tile = some (s0, w, th))
    (hrun : State.runElems (s0.packedElem w (Entry.dataAddr w.entry) (State.typeBytes g.inT)) (State.liveElems w.toJob tile) =
      { done := l }) :
    ∃ t, exec (.contribute w.uid) s = .next t ∧ t.ports = s.ports ∧ OthersStand s t w.uid ∧ RanTile s t w.uid tile [] [] := by
  obtain ⟨-, rfl, -⟩ := readyThread_some hready
  have seated := readyThread_eq hready
  have work : State.contributeWork s0 w th = State.runElems (s0.packedElem w (Entry.dataAddr w.entry) (State.typeBytes g.inT))
      (State.liveElems w.toJob th.tile) := by
    unfold State.contributeWork
    rw [group?_of_readyThread hready, h.group]
  have landed : State.contributeFinish s0 w th l = .done (s0.threadRan w.uid th.tile [] []) := by
    unfold State.contributeFinish
    dsimp only
    rw [correctStaging_eq_self (s := s0) (seated ▸ hinj)]
  obtain ⟨run, others, ran⟩ := runThread_ran hready he work hrun landed (working_refl s0 w.uid)
  refine ⟨_, congrArg Host.Outcome.next ?_, ?_, others, ran⟩
  · rw [contributeStep_of_open h ho, hidle]
    exact run
  · exact (congrArg State.ports seated :)

theorem contribute_refused {s : State} {j : Job} {g : Group} (h : GroupRuns s 0x05 j g) (ha : State.allRetired j = true)
    (hs : j.pass.sent = false) (he : j.early = none)
    (hc : g.contributed.contains (Entry.rankOf j.entry, Entry.chunkOf j.entry) = true) :
    ∃ t k, exec (.contribute j.uid) s = .next t ∧ t.job? j.uid = some k ∧ k.phase = .ending ∧ k.code = 2 ∧ k.detail = 0x22 ∧
      k.position = 0 := by
  obtain ⟨k, hk, same⟩ := endJob_job h.job 2 0x22 0
  obtain ⟨phase, code, detail, position, -⟩ := outcome_of_bare same
  exact ⟨_, k, congrArg Host.Outcome.next ((contributeStep_of_retired h ha hs he).trans (if_pos hc)), hk, phase, code, detail, position⟩

theorem contribute_sends {s : State} {j : Job} {g : Group} {l : List (Nat × List Byte)} (h : GroupRuns s 0x05 j g)
    (ha : State.allRetired j = true) (hs : j.pass.sent = false) (he : j.early = none)
    (hc : g.contributed.contains (Entry.rankOf j.entry, Entry.chunkOf j.entry) = false)
    (hrun : State.runElems (s.packedElem { toJob := j } (Entry.dataAddr j.entry) (State.typeBytes g.inT)) (List.range j.elems) =
      { done := l }) :
    ∃ t k x, exec (.contribute j.uid) s = .next t ∧ t.job? j.uid = some k ∧ k.pass.sent = true ∧ k.phase = .running ∧
      t.group? j.part g.g = some x ∧ x.contributed = g.contributed ++ [(Entry.rankOf j.entry, Entry.chunkOf j.entry)] ∧
      (∀ d, (State.member g (Entry.chunkOf j.entry % g.m)).place = some d →
        SentOn t j.part d (contributionOf s j g l) ∧ t.store = s.store) ∧
      ((State.member g (Entry.chunkOf j.entry % g.m)).place = none →
        t.ports = { s.ports with inbox := s.ports.inbox ++ [contributionOf s j g l] }) := by
  have noted := sentNoted_job? h.job g false
  have known : (sentNoted s j g false).group? j.part g.g = some (knowsSent j.entry false g) :=
    group?_modGroup (s := s.useFree.modJob j.uid (hasSent false)) h.group_g rfl
  have run := (contributeStep_of_retired h ha hs he).trans
    ((if_neg (by rw [hc]; exact Bool.false_ne_true)).trans (sendContribution_of_read false hrun))
  refine ⟨_, hasSent false j, knowsSent j.entry false g, congrArg Host.Outcome.next run, ?_⟩
  cases hd : (State.member g (Entry.chunkOf j.entry % g.m)).place with
  | none => exact ⟨noted, rfl, h.running, known, rfl, (fun d e => nomatch e), fun _ => rfl⟩
  | some d =>
    refine ⟨(postMsg_job? _ _ _ _ _).trans noted, rfl, h.running, (postMsg_group? _ _ _ _ _ _).trans known, rfl, fun d' e => ?_,
      fun e => nomatch e⟩
    obtain rfl := Option.some.inj e
    exact ⟨sentOn_postMsg _ _ _ _, postMsg_store _ _ _ _⟩

/-! CONTRIBUTION_ARRIVAL. -/

/-- The owner has accepted a rank's contribution to a chunk, or writes it into its slot. -/
abbrev ContributionKnown (s : State) (p : Nat) (g : Group) (c r : Nat) : Prop :=
  ((State.chunk? g c).any fun x => x.accepted.contains r) ∨ s.ports.requests.any fun q => q.owner == .contribution p g.g c r

/-- A contribution's seal fails, or its length is not that of its elements, or a chunk of the group does not hold them. -/
abbrev ContributionUnsound (g : Group) (elems : Nat) (crc : Word32) (data : List Byte) : Prop :=
  crc32c data ≠ crc ∨ data.length ≠ elems * State.typeBytes g.inT ∨ g.chunkElems < elems

theorem contributionKnown_iff {s : State} {p : Nat} {g : Group} {c r : Nat} : ContributionKnown s p g c r ↔
    (∃ x, State.chunk? g c = some x ∧ r ∈ x.accepted) ∨ ∃ q ∈ s.ports.requests, q.owner = .contribution p g.g c r := by
  unfold ContributionKnown
  simp only [Option.any_eq_true, List.contains_iff_mem, List.any_eq_true, beq_iff_eq]

theorem not_contributionUnsound_iff {g : Group} {elems : Nat} {crc : Word32} {data : List Byte} :
    ¬ContributionUnsound g elems crc data ↔
      crc32c data = crc ∧ data.length = elems * State.typeBytes g.inT ∧ elems ≤ g.chunkElems := by
  unfold ContributionUnsound
  simp only [not_or, not_not, not_lt]

theorem openChunk_store (s : State) (p : Nat) (g : Group) (c : Nat) : (s.openChunk p g c).store = s.store := by
  unfold State.openChunk
  split <;> rfl

/-- A damaged contribution is asked for again, while it has not failed three times. -/
theorem arrivalFails_of_few {s : State} {p : Nat} {g : Group} {c r : Nat} {d : MsgSrc} (hf : State.failsOf g c r < 3)
    (hd : (State.member g r).place = some d) : SentOn (s.arrivalFails p g c r) p d (.resend g.tag (State.epochNow g) c r) ∧
      (s.arrivalFails p g c r).store = s.store := by
  unfold State.arrivalFails
  rw [if_neg (Nat.not_le.2 hf), hd]
  exact ⟨sentOn_postMsg _ _ _ _, (postMsg_store _ _ _ _).trans (openChunk_store s p g c)⟩

section

variable {s : State} {p c r elems tag epoch : Nat} {g : Group} {crc : Word32} {data : List Byte} {d : MsgSrc}
  (h : Arrives s (.contribution tag epoch c r elems crc data) tag epoch p g)
  (hl : (State.localRanks g).contains (c % g.m) = true) (hc : c < g.epochChunks) (hr : r < g.m)
  (hd : (State.member g r).place = some d)

include h hl hc hr

/-- What its owner does with a contribution of a chunk and a rank that there are (R251). -/
theorem acceptContribution_eq :
    let z := arrivalTaken s (.contribution tag epoch c r elems crc data)
    s.acceptContribution (.contribution tag epoch c r elems crc data) =
      if ContributionKnown s p g c r then z.reply p (State.member g r).place (.duplicate tag epoch c r)
      else if ContributionUnsound g elems crc data then z.arrivalFails p g c r
      else if State.elemsDiffer g c elems then z.reply p (State.member g r).place (.badElems tag epoch c r)
      else if !s.slotFree p g c then s.fixChunk p g c elems
      else match (z.fixChunk p g c elems).place p [] (State.slotOfRank g c r) data with
        | some bs => (z.fixChunk p g c elems).issue (.contribution p g.g c r) p 0 (g.slotArea.toNat / 2 ^ 56) bs []
        | none => (z.fixChunk p g c elems).arrivalFails p g c r := by
  intro z
  unfold State.acceptContribution
  dsimp only
  rw [onMsg_of_arrives h]
  refine (if_neg ?_).trans ?_
  · rw [hl]
    simp [hc, hr]
  · rfl

include hd

/-- A contribution known already is answered as a duplicate. -/
theorem contribution_duplicate (hk : ContributionKnown s p g c r) :
    let t := s.acceptContribution (.contribution tag epoch c r elems crc data)
    SentOn t p d (.duplicate tag epoch c r) ∧ t.store = s.store ∧
      t.ports.inbox = s.ports.inbox.erase (.contribution tag epoch c r elems crc data) := by
  intro t
  have run := (acceptContribution_eq h hl hc hr).trans (if_pos hk)
  rw [hd] at run
  rw [show t = _ from run]
  exact ⟨sentOn_postMsg _ _ _ _, postMsg_store _ _ _ _, postMsg_inbox _ _ _ _⟩

/-- A damaged one is asked for again. -/
theorem contribution_resent (hk : ¬ContributionKnown s p g c r) (hs : ContributionUnsound g elems crc data)
    (hf : State.failsOf g c r < 3) :
    let t := s.acceptContribution (.contribution tag epoch c r elems crc data)
    SentOn t p d (.resend tag epoch c r) ∧ t.store = s.store := by
  intro t
  have run := (acceptContribution_eq h hl hc hr).trans ((if_neg hk).trans (if_pos hs))
  obtain ⟨-, rfl⟩ := groupByTag_some h.group
  obtain rfl := h.now
  rw [show t = _ from run]
  exact arrivalFails_of_few hf hd

/-- One of another ELEMS is answered so. -/
theorem contribution_badElems (hk : ¬ContributionKnown s p g c r) (hs : ¬ContributionUnsound g elems crc data)
    (he : State.elemsDiffer g c elems = true) :
    let t := s.acceptContribution (.contribution tag epoch c r elems crc data)
    SentOn t p d (.badElems tag epoch c r) ∧ t.store = s.store := by
  intro t
  have run := (acceptContribution_eq h hl hc hr).trans ((if_neg hk).trans ((if_neg hs).trans (if_pos he)))
  rw [hd] at run
  rw [show t = _ from run]
  exact ⟨sentOn_postMsg _ _ _ _, postMsg_store _ _ _ _⟩

omit hd

/-- One whose slot is in use waits in the inbox, and fixes the chunk's ELEMS. -/
theorem contribution_waits (hk : ¬ContributionKnown s p g c r) (hs : ¬ContributionUnsound g elems crc data)
    (he : State.elemsDiffer g c elems = false) (hfree : s.slotFree p g c = false) :
    s.acceptContribution (.contribution tag epoch c r elems crc data) = s.fixChunk p g c elems :=
  (acceptContribution_eq h hl hc hr).trans
    ((if_neg hk).trans ((if_neg hs).trans ((if_neg (by simp [he])).trans (if_pos (by simp [hfree])))))

/-- A sound one is written into its slot. -/
theorem contribution_stored (hk : ¬ContributionKnown s p g c r) (hs : ¬ContributionUnsound g elems crc data)
    (he : State.elemsDiffer g c elems = false) (hfree : s.slotFree p g c = true) {bs : List (Target × Nat × Byte)} :
    let z := (arrivalTaken s (.contribution tag epoch c r elems crc data)).fixChunk p g c elems
    z.place p [] (State.slotOfRank g c r) data = some bs →
    s.acceptContribution (.contribution tag epoch c r elems crc data) =
      z.issue (.contribution p g.g c r) p 0 (g.slotArea.toNat / 2 ^ 56) bs [] := by
  intro z hplace
  refine (acceptContribution_eq h hl hc hr).trans
    ((if_neg hk).trans ((if_neg hs).trans ((if_neg (by simp [he])).trans ((if_neg (by simp [hfree])).trans ?_))))
  rw [hplace]

end

/-! RESEND_REQUEST. -/

theorem resendContribution_of_sent {s : State} {p c r tag epoch : Nat} {g : Group} {j : Job}
    (h : Arrives s (.resend tag epoch c r) tag epoch p g) (hj : s.groupJob 0x05 p g r c = some j) (hs : j.pass.sent = true)
    (he : j.early = none) :
    s.resendContribution (.resend tag epoch c r) = (arrivalTaken s (.resend tag epoch c r)).sendContribution j g true := by
  have hj : (arrivalTaken s (.resend tag epoch c r)).groupJob 0x05 p g r c = some j := hj
  unfold State.resendContribution
  dsimp only
  rw [onMsg_of_arrives h, hj]
  simp [Option.filter, hs, he]

/-- The job of a rank and a chunk is one of the group's partition. -/
theorem groupJob_some {s : State} {op p rank chunk : Nat} {g : Group} {j : Job} (h : s.groupJob op p g rank chunk = some j) :
    j.part = p ∧ Entry.rankOf j.entry = rank ∧ Entry.chunkOf j.entry = chunk := by
  have found := List.find?_some h
  simp only [Bool.and_eq_true, beq_iff_eq, and_assoc] at found
  obtain ⟨hpart, -, -, -, -, -, -, hrank, hchunk, -⟩ := found
  exact ⟨hpart, hrank, hchunk⟩

theorem resendRequest_sends {s : State} {p c r tag epoch : Nat} {g : Group} {j : Job} {d : MsgSrc} {l : List (Nat × List Byte)}
    (h : Arrives s (.resend tag epoch c r) tag epoch p g) (hjob : s.groupJob 0x05 p g r c = some j) (hj : s.job? j.uid = some j)
    (hs : j.pass.sent = true) (he : j.early = none) (hd : (State.member g (c % g.m)).place = some d) :
    let z := arrivalTaken s (.resend tag epoch c r)
    State.runElems (z.packedElem { toJob := j } (Entry.dataAddr j.entry) (State.typeBytes g.inT)) (List.range j.elems) = { done := l } →
    ∃ t k, exec (.resendRequest (.resend tag epoch c r)) s = .next t ∧ t.job? j.uid = some k ∧
      k.pass.resends = j.pass.resends + 1 ∧ t.store = s.store ∧ SentOn t p d (contributionOf z j g l) := by
  intro z hrun
  obtain ⟨rfl, -, rfl⟩ := groupJob_some hjob
  have run := (resendContribution_of_sent h hjob hs he).trans (sendContribution_of_read true hrun)
  rw [hd] at run
  exact ⟨_, hasSent true j, congrArg Host.Outcome.next run, (postMsg_job? _ _ _ _ _).trans (sentNoted_job? (s := z) hj g true), rfl,
    postMsg_store _ _ _ _, sentOn_postMsg _ _ _ _⟩

/-- Settles O34: a CONTRIBUTE runs its threads, then sends; what arrives at the owner falls in one of its cases by what the owner knows,
the seal, the ELEMS and the slot. -/
theorem contributionsAreSentAndAcceptedOnce : Obligations.ContributionsAreSentAndAcceptedOnce := by
  unfold Obligations.ContributionsAreSentAndAcceptedOnce
  refine ⟨fun s j g hready he hinj => ?_, ?_, ?_⟩
  · have runs : GroupRuns s 0x05 j g := groupReady_iff.1 hready
    refine ⟨fun tile s0 w th l ho hidle hthread hrun => ?_, fun ha hs => ⟨contribute_refused runs ha hs he, fun l hc hrun => ?_⟩⟩
    · obtain ⟨hj, -, -⟩ := readyThread_some hthread
      obtain rfl := Option.some.inj (hj.symm.trans runs.job)
      exact contribute_runsTile runs he hinj ho hidle hthread hrun
    · exact ⟨fun h => openTiles_of_untouched h _ _ _, contribute_sends runs ha hs he hc hrun⟩
  · intro s p c r elems tag epoch g crc data d m hin hgroup hlive hnow hl hc hr hd own z known sound
    have arrives : Arrives s m tag epoch p g := ⟨hin, hgroup, hlive, hnow⟩
    have hknown : ContributionKnown s p g c r ↔ known := contributionKnown_iff
    have hsound : ¬ContributionUnsound g elems crc data ↔ sound := not_contributionUnsound_iff
    rw [← hknown, ← hsound, not_not]
    exact ⟨_, rfl, contribution_duplicate arrives hl hc hr hd, contribution_resent arrives hl hc hr hd,
      contribution_badElems arrives hl hc hr hd, contribution_waits arrives hl hc hr,
      fun hk hs he hf bs hbs => contribution_stored arrives hl hc hr hk hs he hf hbs⟩
  · intro s p c r tag epoch g j d l m z hin hgroup hlive hnow hjob hj hs he hd hrun data
    obtain ⟨-, rfl, rfl⟩ := groupJob_some hjob
    exact resendRequest_sends ⟨hin, hgroup, hlive, hnow⟩ hjob hj hs he hd hrun

end Sys2Proof.Proofs

/-! COLLECT, the rewriting of a result, and the wait that passes TIMEOUT (11 R255, R256, R259). -/

namespace Sys2Proof.Proofs

open Sys2Proof Sys2Proof.Machine Sys2Proof.Laws

/-- Two updates of a job, one after the other. -/
theorem modJob_modJob {s : State} {uid : Nat} {f f' : Job → Job} (hf : ∀ x, (f x).uid = x.uid) :
    (s.modJob uid f).modJob uid f' = s.modJob uid fun x => f' (f x) := by
  refine congrArg (fun l => { s with jobs := l }) ?_
  rw [modJob_jobs, List.map_map]
  refine List.map_congr_left fun x _ => ?_
  by_cases e : x.uid = uid <;> simp [e, hf]

/-! The result that a COLLECT finds. -/

/-- A header of the chunk with its payload, all read: the seal holds or fails. -/
theorem resultSeen_of_read {s : State} {w : Work} {g : Group} {h : List Byte} {l : List (List Byte)} :
    let a := State.resultAt g (Entry.chunkOf w.entry) (Entry.rankOf w.entry)
    s.got w a 64 = .ok h → u32 h 0 = g.tag → u32 h 4 = State.epochNow g → u32 h 8 = Entry.chunkOf w.entry →
    Res.all ((List.range (min (u32 h 0x0C) g.chunkElems)).map fun i =>
      (s.got w (a + 64 + State.typeBytes g.outT * i) (State.typeBytes g.outT)).at (min i w.elems) 1) = .ok l →
    s.resultSeen w g = .ok (some (decide (u32 h 0x0C ≤ g.chunkElems) && (crc32c l.flatten).toNat == u32 h 0x10)) := by
  intro a hgot htag hepoch hchunk hall
  have read : (s.got w a 64).at 0 1 = .ok h := by
    rw [hgot]
    rfl
  unfold State.resultSeen
  dsimp only
  rw [read]
  dsimp only [Res.bind]
  rw [if_neg (by simp [htag, hepoch, hchunk]), hall]
  rfl

/-- A COLLECT that waits for its result: it runs, has met no early event, and has no request for its result outstanding. -/
structure Awaits (s : State) (j : Job) (g : Group) : Prop where
  runs    : GroupRuns s 0x07 j g
  checked : j.recheck = false
  early   : j.early = none
  waits   : j.pass.accepted = false
  quiet   : j.pass.retried = false

/-- A COLLECT that looks at its receive area anew. -/
def looksAnew (y : Job) : Job := { y with pass := { y.pass with seen := {} } }

/-- What it does with a result of its chunk turns on the seal (R255, R259). -/
theorem collectStep_of_seen {s : State} {j : Job} {g : Group} {sound : Bool} (h : Awaits s j g)
    (hseen : s.resultSeen (State.passWork j) g = .ok (some sound)) : s.collectStep j.uid =
      if sound then (s.modJob j.uid looksAnew).modJob j.uid fun y => { y with pass := { y.pass with accepted := true } }
      else if 3 ≤ j.pass.resends then s.abortGroup j.part g.g .groupAbort
      else ((s.modJob j.uid looksAnew).modJob j.uid fun y =>
        { y with pass := { y.pass with resends := y.pass.resends + 1, retried := true } }).sendMsg j.part
          (State.member g (Entry.chunkOf j.entry % g.m)).place
          (.reRequest g.tag (State.epochNow g) (Entry.chunkOf j.entry) (Entry.rankOf j.entry)) := by
  unfold State.collectStep
  rw [recheckJob_eq_self h.runs.job h.checked]
  dsimp only
  rw [groupReady_iff.2 h.runs]
  dsimp only
  rw [if_neg (by simp [h.checked]), if_neg (by simp [h.waits]), if_neg (by simp [h.quiet, h.early]), hseen]
  cases sound <;> rfl

theorem collect_accepts {s : State} {j : Job} {g : Group} (h : Awaits s j g)
    (hseen : s.resultSeen (State.passWork j) g = .ok (some true)) :
    exec (.collect j.uid) s = .next (s.modJob j.uid fun y => { y with pass := { y.pass with accepted := true, seen := {} } }) :=
  congrArg Host.Outcome.next ((collectStep_of_seen h hseen).trans (modJob_modJob fun _ => rfl))

theorem collect_rerequests {s : State} {j : Job} {g : Group} {d : MsgSrc} (h : Awaits s j g)
    (hseen : s.resultSeen (State.passWork j) g = .ok (some false)) (hr : j.pass.resends < 3)
    (hd : (State.member g (Entry.chunkOf j.entry % g.m)).place = some d) :
    ∃ t k, exec (.collect j.uid) s = .next t ∧ t.job? j.uid = some k ∧
      k = { j with pass := { j.pass with resends := j.pass.resends + 1, retried := true, seen := {} } } ∧
      SentOn t j.part d (.reRequest g.tag (State.epochNow g) (Entry.chunkOf j.entry) (Entry.rankOf j.entry)) ∧ t.store = s.store := by
  have run := collectStep_of_seen h hseen
  rw [if_neg Bool.false_ne_true, if_neg (Nat.not_le.2 hr), hd] at run
  refine ⟨_, _, congrArg Host.Outcome.next run, ?_, rfl, sentOn_postMsg _ _ _ _, postMsg_store _ _ _ _⟩
  refine (postMsg_job? _ _ _ _ _).trans ?_
  rw [modJob_modJob (f := looksAnew) fun _ => rfl]
  exact job?_modJob_self h.runs.job rfl

/-- After three re-requests the group is aborted. -/
theorem collect_aborts {s : State} {j : Job} {g : Group} (h : Awaits s j g)
    (hseen : s.resultSeen (State.passWork j) g = .ok (some false)) (hr : 3 ≤ j.pass.resends) (hc : g.closing ≠ some g.epoch) :
    ∃ t x, exec (.collect j.uid) s = .next t ∧ t.group? j.part g.g = some x ∧ x.state = .aborted := by
  obtain ⟨x, hx, aborted⟩ := abortGroup_aborted h.runs.group_g hc .groupAbort
  have run := collectStep_of_seen h hseen
  rw [if_neg Bool.false_ne_true, if_pos hr] at run
  exact ⟨_, x, congrArg Host.Outcome.next run, hx, aborted⟩

/-! The payload copied, and the end. -/

/-- With its result accepted, the command runs the threads that have still to run, and ends the job where nothing is left. -/
theorem collectStep_of_accepted {s : State} {j : Job} {g : Group} (h : GroupRuns s 0x07 j g) (hr : j.recheck = false)
    (ha : j.pass.accepted = true) : s.collectStep j.uid =
      ((State.idleTiles j).foldl (fun (s : State) t => s.runThread j.uid t State.collectWork State.collectFinish) s).collectFlow j.uid := by
  unfold State.collectStep
  rw [recheckJob_eq_self h.job hr]
  dsimp only
  rw [groupReady_iff.2 h]
  dsimp only
  rw [if_neg (by simp [hr]), if_pos ha]

/-- A COLLECT with a thread has not come to its end. -/
theorem collectFlow_of_threads {s : State} {uid : Nat} {k : Job} (h : s.job? uid = some k) (ht : k.threads ≠ []) :
    s.collectFlow uid = s := by
  unfold State.collectFlow
  split
  · rfl
  · next hready =>
    obtain rfl := Option.some.inj (h.symm.trans (groupReady_job hready))
    exact if_neg (by simp [allRetired_of_threads ht])

/-- One whose tiles have retired and whose writes are answered ends, and reports its re-requests. -/
theorem collectFlow_of_retired {s : State} {j : Job} {g : Group} (h : GroupRuns s 0x07 j g) (he : j.early = none)
    (ha : j.pass.accepted = true) (hr : State.allRetired j = true) (hw : s.jobWrites j.uid = []) :
    s.collectFlow j.uid = (s.addWhole j.uid 0 j.pass.resends).endJob j.uid 0 0 j.elems := by
  unfold State.collectFlow
  rw [groupReady_iff.2 h]
  exact if_pos (by simp [ha, hr, he, hw])

theorem collect_copiesTile {s s0 s1 : State} {tile : Nat} {w : Work} {th : Thread} {g : Group} {l : List (Nat × List Byte)}
    (h : GroupRuns s 0x07 w.toJob g) (hr : w.recheck = false) (he : w.early = none) (ha : w.pass.accepted = true)
    (hidle : State.idleTiles w.toJob = [tile]) (hready : s.readyThread w.uid tile = some (s0, w, th)) :
    let n := State.typeBytes g.outT
    let a := State.resultAt g (Entry.chunkOf w.entry) (Entry.rankOf w.entry)
    State.runElems (s0.packedElem w (a + 64) n) (State.liveElems w.toJob tile) = { done := l } →
    s0.landCells w.toJob (.job w.uid .thread tile) (Entry.dataAddr w.entry / 2 ^ 56)
      (l.flatMap fun x => cellsAt (((Entry.dataAddr w.entry % 2 ^ 56 : Nat) : Int) + (n * x.1 : Nat)) x.1 x.2)
      (s0.overlap
        (Entry.bytesAt 0 (a + 64 + n * w.tileStart tile) (n * (w.tileStart (tile + 1) - w.tileStart tile)) true false)
        (Entry.bytesAt 0 (Entry.dataAddr w.entry) (n * w.elems) false true)) (fun _ => true) (some th.span) = .done s1 →
    ∃ t, exec (.collect w.uid) s = .next t ∧ t.ports = s1.ports ∧ { t.store with work := [] } = { s1.store with work := [] } ∧
      OthersStand s t w.uid ∧ RanTile s t w.uid tile [] [] := by
  intro n a hrun hland
  obtain ⟨-, rfl, -⟩ := readyThread_some hready
  have group : s0.group? w.part w.groupNo = some g := (group?_of_readyThread hready _ _).trans h.group
  have work : State.collectWork s0 w th = State.runElems (s0.packedElem w (a + 64) n) (State.liveElems w.toJob th.tile) := by
    unfold State.collectWork
    rw [group]
  have landed : State.collectFinish s0 w th l = .done (s1.threadRan w.uid th.tile [] []) := by
    simp only [← Nat.cast_add] at hland
    unfold State.collectFinish
    rw [group]
    dsimp only
    rw [hland]
  obtain ⟨run, others, ran⟩ := runThread_ran hready he work hrun landed (working_landCells hland)
  obtain ⟨k, hk, threads⟩ := threads_of_ranTile ran h.job (threads_of_idleTiles hidle)
  refine ⟨s1.threadRan w.uid th.tile [] [], congrArg Host.Outcome.next ?_, rfl, rfl, others, ran⟩
  rw [collectStep_of_accepted h hr ha, hidle, List.foldl_cons, List.foldl_nil, run]
  exact collectFlow_of_threads hk threads

/-- A job that reports counts as a whole. -/
def withWhole (cnt aux : Nat) (y : Job) : Job := { y with contribs := y.contribs ++ [{ tile := 0, elem := 0, cnt, aux }] }

/-- With nothing else to report, AUX of a job other than a TARIFF is what it reports as a whole. -/
theorem countsBelow_withWhole {j : Job} (hc : j.contribs = []) (hop : Entry.opcode j.entry ≠ 0x0A) {n : Nat} (hn : 0 < n) (aux : Nat) :
    ((withWhole 0 aux j).countsBelow n).2 = min aux 0xFFFFFFFF := by
  unfold Job.countsBelow withWhole
  simp [hc, hop, hn, listSum]

theorem collect_completes {s : State} {j : Job} {g : Group} (h : GroupRuns s 0x07 j g) (hr : j.recheck = false) (he : j.early = none)
    (ha : j.pass.accepted = true) (hret : State.allRetired j = true) (hw : s.jobWrites j.uid = []) (hc : j.contribs = []) :
    ∃ t k, exec (.collect j.uid) s = .next t ∧ t.job? j.uid = some k ∧ k.phase = .ending ∧ k.code = 0 ∧ k.position = j.elems ∧
      (0 < j.elems → k.aux = min j.pass.resends 0xFFFFFFFF) := by
  have reported : (s.addWhole j.uid 0 j.pass.resends).job? j.uid = some (withWhole 0 j.pass.resends j) := job?_modJob_self h.job rfl
  obtain ⟨k, hk, same⟩ := endJob_job (j := withWhole 0 j.pass.resends j) reported 0 0 j.elems
  obtain ⟨phase, code, -, position, -⟩ := outcome_of_bare same
  refine ⟨_, k, congrArg Host.Outcome.next ?_, hk, phase, code, position, fun hpos => ?_⟩
  · rw [collectStep_of_accepted h hr ha, idleTiles_of_allRetired hret, List.foldl_nil, collectFlow_of_retired h he ha hret hw]
    rfl
  · obtain ⟨-, counted⟩ := ended_counts (j := withWhole 0 j.pass.resends j) h.running 0 0 j.elems
    exact (congrArg Job.aux same).trans (counted.trans (countsBelow_withWhole hc (by simp [h.opcode]) hpos _))

/-! The wait that passes TIMEOUT. -/

/-- The job ends with MEMBER_TIMEOUT and the rank that it waited for. -/
theorem memberTimeout_spec {s t : State} {j : Job} {r : Nat} {c : Instr} (hj : s.job? j.uid = some j)
    (hc : exec c s = .next t) (ht : t = s.endJob j.uid 0x82 r 0) :
    ∃ t k, exec c s = .next t ∧ t.job? j.uid = some k ∧ k.phase = .ending ∧ k.code = 0x82 ∧ k.detail = r % 65536 ∧ k.position = 0 := by
  obtain ⟨k, hk, same⟩ := endJob_job hj 0x82 r 0
  obtain ⟨phase, code, detail, position, -⟩ := outcome_of_bare same
  exact ⟨t, k, hc, ht ▸ hk, phase, code, detail, position⟩

/-- The lowest number below a bound that passes a test is the one found. -/
theorem find?_range_of_first {m r : Nat} {f : Nat → Bool} (hr : r < m) (hf : f r = true) (h : ∀ q < r, f q = false) :
    (List.range m).find? f = some r := by
  rw [List.find?_range_eq_some]
  exact ⟨hf, List.mem_range.2 hr, fun q hq => by simp [h q hq]⟩

/-- A COLLECT waits for its owner. -/
theorem groupWait_of_collect {s : State} {j : Job} {g : Group} (h : GroupRuns s 0x07 j g) (he : j.early = none)
    (ha : j.pass.accepted = false) : s.groupWait j.uid = s.endJob j.uid 0x82 (Entry.chunkOf j.entry % g.m) 0 := by
  unfold State.groupWait
  rw [groupReady_of_other h (by decide), groupReady_iff.2 h]
  exact if_neg (by simp [he, ha])

/-- A REDUCE waits for the lowest rank whose contribution it lacks. -/
theorem groupWait_of_reduce {s : State} {j : Job} {g : Group} {x : Chunk} {r : Nat} (h : GroupRuns s 0x06 j g) (he : j.early = none)
    (hx : State.chunk? g (Entry.chunkOf j.entry) = some x) (hr : r < g.m) (hn : r ∉ x.accepted) (hlow : ∀ q < r, q ∈ x.accepted) :
    s.groupWait j.uid = s.endJob j.uid 0x82 r 0 := by
  have lacks : (List.range g.m).find? (fun r => !x.accepted.contains r) = some r :=
    find?_range_of_first hr (by simpa using hn) fun q hq => by simpa using hlow q hq
  unfold State.groupWait
  rw [groupReady_iff.2 h]
  dsimp only
  rw [if_neg (by simp [he]), hx]
  dsimp only [Option.map_some, Option.getD_some]
  rw [lacks]

/-! The owner writes a result again. -/

/-- A write of a result that is written again has not been answered. -/
def RewriteOut (s : State) (p g c r : Nat) : Prop := ∃ q ∈ s.ports.requests, q.late = false ∧ q.owner = .rewrite p g c r

theorem rewriteDone_of_out {s : State} {p g c r : Nat} (h : RewriteOut s p g c r) : s.rewriteDone p g c r = s := by
  obtain ⟨q, hq, late, own⟩ := h
  exact if_pos (List.any_eq_true.2 ⟨q, hq, by simp [late, own]⟩)

theorem rewriteDone_of_answered {s : State} {p g c r : Nat} (h : ∀ q ∈ s.ports.requests, q.late = false → q.owner ≠ .rewrite p g c r) :
    s.rewriteDone p g c r =
      s.rewritten fun j => j.part == p && j.groupNo == g && Entry.chunkOf j.entry == c && Entry.rankOf j.entry == r := by
  refine if_neg fun out => ?_
  obtain ⟨q, hq, e⟩ := List.any_eq_true.1 out
  simp only [Bool.and_eq_true, Bool.not_eq_true', beq_iff_eq] at e
  exact h q hq e.1 e.2

/-- Beside jobs nothing changes. -/
theorem rewriteDone_eq (s : State) (p g c r : Nat) : s.rewriteDone p g c r = { s with jobs := (s.rewriteDone p g c r).jobs } := by
  unfold State.rewriteDone
  split <;> rfl

/-- A COLLECT of a result that stands rewritten waits for it no more. -/
theorem retried_of_rewritten {s : State} {f : Job → Bool} {k : Job} (hk : k ∈ (s.rewritten f).jobs) (hg : k.groupOp = true)
    (hop : Entry.opcode k.entry = 0x07) (hf : ∀ x : Job, k = x → f x = true) : k.pass.retried = false := by
  obtain ⟨j, -, rfl⟩ := List.mem_map.1 hk
  split
  · rfl
  · next ok =>
    rw [if_neg ok] at hg hop hf
    simpa [hg, hop, hf j rfl] using ok

theorem rewriteResult_of_kept {s : State} {p c r tag epoch : Nat} {g : Group} {x : Chunk} {ls : List State.Put8}
    (h : Arrives s (.reRequest tag epoch c r) tag epoch p g) (hx : State.chunk? g c = some x)
    (hl : (State.localRanks g).contains (c % g.m) = true) (he : x.elems ≠ 0) :
    let z := arrivalTaken s (.reRequest tag epoch c r)
    z.memberPlace p (State.rewriteResult.areaXlat z p) (State.member g r) (State.resultAt g c r)
      ((((z.readAt p [] (State.retention g c) 64).getD []) ++ z.retained p g c x.elems).map fun b => (b, 0)) = some ls →
    s.rewriteResult (.reRequest tag epoch c r) =
      (z.issueElems (.rewrite p g.g c r) p (State.memberRoute (State.member g r)) ls [] none).rewriteDone p g.g c r := by
  intro z hplace
  have kept : (State.chunk? g c).filter (fun x => (State.localRanks g).contains (c % g.m) && x.elems != 0) = some x := by
    rw [hx]
    exact Option.filter_eq_some_iff.2 ⟨rfl, by simpa [he] using hl⟩
  unfold State.rewriteResult
  dsimp only
  rw [onMsg_of_arrives h, kept]
  dsimp only
  rw [hplace]

theorem reRequest_rewrites {s : State} {p c r tag epoch : Nat} {g : Group} {x : Chunk} {ls : List State.Put8}
    (h : Arrives s (.reRequest tag epoch c r) tag epoch p g) (hx : State.chunk? g c = some x)
    (hl : (State.localRanks g).contains (c % g.m) = true) (he : x.elems ≠ 0) :
    let z := arrivalTaken s (.reRequest tag epoch c r)
    z.memberPlace p (State.rewriteResult.areaXlat z p) (State.member g r) (State.resultAt g c r)
      ((((z.readAt p [] (State.retention g c) 64).getD []) ++ z.retained p g c x.elems).map fun b => (b, 0)) = some ls →
    let y := z.issueElems (.rewrite p g.g c r) p (State.memberRoute (State.member g r)) ls [] none
    ∃ t, exec (.reRequest (.reRequest tag epoch c r)) s = .next t ∧ t = { y with jobs := t.jobs } ∧
      (RewriteOut y p g.g c r → t = y) ∧
      ((∀ q ∈ y.ports.requests, q.late = false → q.owner ≠ .rewrite p g.g c r) →
        ∀ k ∈ t.jobs, k.part = p → k.groupOp = true → Entry.opcode k.entry = 0x07 → k.groupNo = g.g →
          Entry.chunkOf k.entry = c → Entry.rankOf k.entry = r → k.pass.retried = false) := by
  intro z hplace y
  refine ⟨_, congrArg Host.Outcome.next (rewriteResult_of_kept h hx hl he hplace), rewriteDone_eq y _ _ _ _, rewriteDone_of_out,
    fun answered k hk hp hg hop hn hc hr => ?_⟩
  rw [rewriteDone_of_answered answered] at hk
  refine retried_of_rewritten hk hg hop ?_
  rintro x rfl
  simp [hp, hn, hc, hr]

/-- Settles O37: what a COLLECT finds is a sound or an unsound result; its threads copy a sound one, and then it ends. -/
theorem collectCopiesASoundResult : Obligations.CollectCopiesASoundResult := by
  unfold Obligations.CollectCopiesASoundResult
  refine ⟨?_, ?_, ?_⟩
  · intro s j g hready hr he c a
    have runs : GroupRuns s 0x07 j g := groupReady_iff.1 hready
    refine ⟨?_, ?_, fun ha hret _ hw hc => collect_completes runs hr he ha hret hw hc, fun ha => ?_⟩
    · intro h l ha ht hgot htag hepoch hchunk hall
      have awaits : Awaits s j g := ⟨runs, hr, he, ha, ht⟩
      have seen := resultSeen_of_read (w := State.passWork j) hgot htag hepoch hchunk hall
      have unsound (hcrc : (crc32c l.flatten).toNat ≠ u32 h 0x10) : s.resultSeen (State.passWork j) g = .ok (some false) :=
        seen.trans (by rw [beq_eq_false_iff_ne.2 hcrc, Bool.and_false])
      exact ⟨fun hle hcrc => collect_accepts awaits (seen.trans (by simp [hle, hcrc])),
        fun d hcrc hfew hd => collect_rerequests awaits (unsound hcrc) hfew hd,
        fun hcrc hmany _ hc => collect_aborts awaits (unsound hcrc) hmany hc⟩
    · intro tile s0 w th l s1 ha hidle hthread n hrun hland
      obtain ⟨hj, -, -⟩ := readyThread_some hthread
      obtain rfl := Option.some.inj (hj.symm.trans runs.job)
      exact collect_copiesTile runs hr he ha hidle hthread hrun hland
    · exact memberTimeout_spec runs.job rfl (groupWait_of_collect runs he ha)
  · intro s j g x r hready he hx hr hn hlow
    have runs : GroupRuns s 0x06 j g := groupReady_iff.1 hready
    exact memberTimeout_spec runs.job rfl (groupWait_of_reduce runs he hx hr hn hlow)
  · intro s p c r tag epoch g x ls m z hin hgroup hlive hnow hx hl he hplace
    exact reRequest_rewrites ⟨hin, hgroup, hlive, hnow⟩ hx hl he hplace

end Sys2Proof.Proofs

/-! A message stands at its port while jobs end: only reads are given up (06 R155), and only transfers at the host port are answers
(19 R438). -/

namespace Sys2Proof.Proofs

open Sys2Proof Sys2Proof.Machine Sys2Proof.Laws

/-- The request with which a message is put to a port. -/
def messageRequest (port : Port) (part : Nat) (dst : MsgSrc) (m : Msg) : Request :=
  { port, owner := .message, body := .message dst m, part, granules := State.msgGranules m }

theorem sentOn_of_pends {t : State} {part : Nat} {dst : MsgSrc} {m : Msg}
    (h : ∀ port, t.msgPort dst = some port → Pends (messageRequest port part dst m) t) : SentOn t part dst m := by
  intro port hp
  obtain ⟨r, hr, e⟩ := h port hp
  exact ⟨r, hr, message_of_untransferred e⟩

theorem requests_of_within {l : List Field} {s t : State} (h : Within l s t) (hl : Field.requests ∉ l := by decide) :
    t.ports.requests = s.ports.requests := congrArg Prod.fst ((h.only .requests).resolve_left hl)

theorem pends_of_requests {s t : State} {q : Request} (e : t.ports.requests = s.ports.requests) (h : Pends q s) : Pends q t := by
  obtain ⟨r, hr, same⟩ := h
  exact ⟨r, e ▸ hr, same⟩

/-- A pass over requests that puts each behind the others, those that are no reads as they are, drops none of these. -/
theorem mem_foldl_of_kept {β : Type} {go : List Request × β → Request → List Request × β}
    (hgo : ∀ a r, ∃ q, (go a r).1 = a.1 ++ [q] ∧ (State.fetchOf r = none → q = r)) {r : Request} (hr : State.fetchOf r = none)
    (rs : List Request) (a : List Request × β) (h : r ∈ a.1 ∨ r ∈ rs) : r ∈ (rs.foldl go a).1 := by
  induction rs generalizing a with
  | nil => exact h.resolve_right List.not_mem_nil
  | cons x rs ih =>
    obtain ⟨q, hq, same⟩ := hgo a x
    refine ih _ ?_
    rw [hq]
    rcases h with h | h
    · exact .inl (List.mem_append_left _ h)
    · rcases List.mem_cons.1 h with rfl | h
      · exact .inl (same hr ▸ List.mem_append_right _ List.mem_cons_self)
      · exact .inr h

section

variable {port : Port} {part : Nat} {dst : MsgSrc} {m : Msg}

/-- A request of which all but the transfer is that of a message is no read, and belongs to no job. -/
theorem noRead_of_untransferred {r : Request} (e : untransferred r = untransferred (messageRequest port part dst m)) :
    State.fetchOf r = none ∧ r.owner = .message := by
  have body : r.body = .message dst m := (congrArg Request.body e :)
  refine ⟨?_, (congrArg Request.owner e :)⟩
  unfold State.fetchOf
  rw [body]

theorem pends_giveTags {s : State} (h : Pends (messageRequest port part dst m) s) (n : Nat) :
    Pends (messageRequest port part dst m) (s.giveTags n) := by
  obtain ⟨r, hr, e⟩ := h
  obtain ⟨noRead, -⟩ := noRead_of_untransferred e
  refine ⟨r, mem_foldl_of_kept (fun a x => ?_) noRead _ _ (.inr hr), e⟩
  split
  · next f hf =>
    have read : State.fetchOf x = some f := by rw [State.fetchOf, hf]
    split
    · exact ⟨_, rfl, fun none => nomatch none.symm.trans read⟩
    · exact ⟨_, rfl, fun _ => rfl⟩
  · exact ⟨_, rfl, fun _ => rfl⟩

/-- Only reads are given up. -/
theorem pends_drainReads {s : State} (h : Pends (messageRequest port part dst m) s) (uid : Nat) (f : Nat → Bool) :
    Pends (messageRequest port part dst m) (s.drainReads uid f) := by
  unfold State.drainReads
  extract_lets mine spans rs
  refine List.foldlRecOn (motive := Pends _) _ _ ?_ fun t ht n _ => pends_giveTags ht n
  obtain ⟨r, hr, e⟩ := h
  obtain ⟨noRead, own⟩ := noRead_of_untransferred e
  have notMine : mine r = false := by
    unfold mine
    rw [own]
  refine ⟨r, List.mem_map.2 ⟨r, List.mem_filter.2 ⟨hr, by simp [notMine]⟩, ?_⟩, e⟩
  split
  · exact if_neg (by simp [notMine])
  · rfl

variable (hp : port ≠ .host)

include hp

theorem pends_addRequests_of_pends {s : State} (h : Pends (messageRequest port part dst m) s) (rs : List Request) :
    Pends (messageRequest port part dst m) (s.addRequests rs) := by
  obtain ⟨r, hr, e⟩ := h
  unfold State.addRequests
  exact List.foldlRecOn (motive := Pends _) _ _ ⟨r, List.mem_append_left _ hr, e⟩ fun t ht p _ => pends_pumpGo rfl hp p _ t [] ht

theorem pends_postMsg_of_pends {s : State} (h : Pends (messageRequest port part dst m) s) (part' : Nat) (dst' : MsgSrc) (m' : Msg) :
    Pends (messageRequest port part dst m) (s.postMsg part' dst' m') := by
  unfold State.postMsg
  split
  · exact pends_addRequests_of_pends hp h _
  · exact h

theorem pends_issueElems {s : State} (h : Pends (messageRequest port part dst m) s) (own : Owner) (part' route : Nat)
    (bs : List State.Put8) (poison : List Nat) (span : Option Nat) :
    Pends (messageRequest port part dst m) (s.issueElems own part' route bs poison span) := by
  unfold State.issueElems
  extract_lets here s1 reqs
  refine pends_addRequests_of_pends hp ?_ reqs
  unfold s1
  split
  · exact h
  · exact pends_landBytes rfl h _ _ _

theorem pends_flushDue {s : State} (h : Pends (messageRequest port part dst m) s) (q : QId) :
    Pends (messageRequest port part dst m) (s.flushDue q) := by
  unfold State.flushDue
  split
  · exact h
  · split
    · exact h
    · split
      · exact pends_issueElems hp (s := s.modQueue q _) h _ _ _ _ _ _
      · exact h

theorem pends_writeStatus {s : State} (h : Pends (messageRequest port part dst m) s) (q : QId) :
    Pends (messageRequest port part dst m) (s.writeStatus q) := by
  unfold State.writeStatus
  split
  · exact h
  · split
    · exact h
    · exact pends_flushDue hp (s := s.modQueue q _) h q

theorem pends_endRaw {s : State} (h : Pends (messageRequest port part dst m) s) (uid code detail pos : Nat) :
    Pends (messageRequest port part dst m) (s.endRaw uid code detail pos) := by
  cases hj : s.job? uid with
  | none => exact (endRaw_of_no_job hj code detail pos).symm ▸ h
  | some j =>
    obtain rfl := uid_of_job? hj
    have given : Pends (messageRequest port part dst m) (outcomeGiven s j code detail pos) :=
      pends_of_requests (s := s.adminEffect j) rfl (pends_of_requests (requests_of_within (within_adminEffect s j)) h)
    have gone : Pends (messageRequest port part dst m) (threadsGone (outcomeGiven s j code detail pos) j) := by
      obtain ⟨l, hl⟩ := threadsGone_eq (outcomeGiven s j code detail pos) j
      exact pends_of_requests (congrArg (·.ports.requests) hl) (pends_drainReads given _ _)
    rw [endRaw_eq hj]
    unfold State.noteHalts
    split
    · split
      · exact pends_writeStatus hp gone _
      · exact gone
    · exact gone

end

/-- One message to each of a list of engines. -/
def postTo (part : Nat) (m : Msg) (ds : List MsgSrc) (s : State) : State := ds.foldl (fun s d => s.postMsg part d m) s

theorem within_postTo (part : Nat) (m : Msg) (ds : List MsgSrc) (s : State) : Within pumpGoParts s (postTo part m ds s) :=
  foldl_within (fun _ _ h => h.step (within_postMsg _ _ _ _)) (within_refl s)

theorem postTo_jobs (part : Nat) (m : Msg) (ds : List MsgSrc) (s : State) : (postTo part m ds s).jobs = s.jobs :=
  foldl_same State.jobs _ ds s fun t d => (postMsg_jobs_store t part d m).1

theorem pends_postMsg {s : State} {port : Port} {part : Nat} {dst : MsgSrc} (hp : s.msgPort dst = some port) (m : Msg) :
    Pends (messageRequest port part dst m) (s.postMsg part dst m) := by
  unfold State.postMsg
  rw [hp]
  exact pends_addRequests rfl (msgPort_ne_host hp) List.mem_cons_self

theorem pends_postTo {part : Nat} {m : Msg} {ds : List MsgSrc} {d : MsgSrc} (hd : d ∈ ds) {s : State} {port : Port}
    (hp : s.msgPort d = some port) : Pends (messageRequest port part d m) (postTo part m ds s) := by
  induction ds generalizing s with
  | nil => cases hd
  | cons x r ih =>
    rcases List.mem_cons.1 hd with rfl | hd
    · exact List.foldlRecOn (motive := Pends _) r _ (pends_postMsg hp m) fun t ht y _ =>
        pends_postMsg_of_pends (msgPort_ne_host hp) ht _ _ _
    · exact ih hd ((msgPort_of_within (within_postMsg s part x m) d).trans hp)

theorem sentOn_postTo {part : Nat} {m : Msg} {ds : List MsgSrc} {d : MsgSrc} (hd : d ∈ ds) (s : State) :
    SentOn (postTo part m ds s) part d m :=
  sentOn_of_pends fun _ hp => pends_postTo hd ((msgPort_of_within (within_postTo part m ds s) d).symm.trans hp)

end Sys2Proof.Proofs

/-! The letters of an epoch (11 R262 to R267): READY reports, close letters and abort letters. -/

namespace Sys2Proof.Proofs

open Sys2Proof Sys2Proof.Machine Sys2Proof.Laws

/-! What jobs are while others of them end. -/

/-- What says which entry a job is, and of which group. -/
def identity (j : Job) : Nat × QId × Nat × List Byte × Bool := (j.uid, j.queue, j.part, j.entry, j.read)

/-- From s to t jobs may have ended; each is in every other way the job it was. -/
def JobsWane (s t : State) : Prop := ∀ a ∈ t.jobs, ∃ b ∈ s.jobs, identity a = identity b ∧ (a.phase = .ending ∨ a.phase = b.phase)

theorem jobsWane_refl (s : State) : JobsWane s s := fun a ha => ⟨a, ha, rfl, .inr rfl⟩

theorem JobsWane.trans {s t u : State} (h : JobsWane s t) (k : JobsWane t u) : JobsWane s u := by
  intro a ha
  obtain ⟨b, hb, same, phase⟩ := k a ha
  obtain ⟨c, hc, same', phase'⟩ := h b hb
  refine ⟨c, hc, same.trans same', ?_⟩
  rcases phase with e | e
  · exact .inl e
  · exact phase'.imp e.trans e.trans

theorem jobsWane_foldl {α : Type} {f : State → α → State} (hf : ∀ t x, JobsWane t (f t x)) (xs : List α) (s : State) :
    JobsWane s (xs.foldl f s) :=
  List.foldlRecOn (motive := JobsWane s) xs f (jobsWane_refl s) fun t ht x _ => ht.trans (hf t x)

theorem JobsStand.wane {s t : State} (h : JobsStand s t) : JobsWane s t := by
  intro a ha
  obtain ⟨b, hb, e⟩ := List.mem_map.1 (h ▸ List.mem_map_of_mem ha : bare a ∈ s.jobs.map bare)
  exact ⟨b, hb, (congrArg identity e :).symm, .inr (congrArg Job.phase e :).symm⟩

theorem jobsWane_modJob (s : State) (uid : Nat) {f : Job → Job} (hf : ∀ x, identity (f x) = identity x ∧ (f x).phase = .ending) :
    JobsWane s (s.modJob uid f) := by
  intro a ha
  obtain ⟨b, hb, rfl⟩ := List.mem_map.1 ha
  refine ⟨b, hb, ?_⟩
  split
  · exact ⟨(hf b).1, .inl (hf b).2⟩
  · exact ⟨rfl, .inr rfl⟩

theorem jobsWane_endRaw (s : State) (uid code detail pos : Nat) : JobsWane s (s.endRaw uid code detail pos) := by
  cases hj : s.job? uid with
  | none => exact (endRaw_of_no_job hj code detail pos).symm ▸ jobsWane_refl s
  | some j =>
    obtain rfl := uid_of_job? hj
    have given : JobsWane s (outcomeGiven s j code detail pos) :=
      (jobsStand_of_within (within_adminEffect s j)).wane.trans (jobsWane_modJob _ _ fun _ => ⟨rfl, rfl⟩)
    rw [endRaw_eq hj]
    exact given.trans ((jobsStand_of_within (within_threadsGone _ j)).trans (jobsStand_noteHalts _ _)).wane

theorem AllEnding.of_jobsWane {s t : State} {uid : Nat} (h : AllEnding s uid) (k : JobsWane s t) : AllEnding t uid := by
  intro a ha hu
  obtain ⟨b, hb, same, phase⟩ := k a ha
  exact phase.elim id fun e => e.trans (h b hb ((congrArg Prod.fst same).symm.trans hu))

/-- A job that is given an outcome has ended, and so has every job of its number. -/
theorem allEnding_of_endRaw (s : State) (uid code detail pos : Nat) : AllEnding (s.endRaw uid code detail pos) uid := by
  cases hj : s.job? uid with
  | none =>
    rw [endRaw_of_no_job hj]
    intro a ha hu
    exact absurd (beq_iff_eq.2 hu) (List.find?_eq_none.1 hj a ha)
  | some j =>
    obtain rfl := uid_of_job? hj
    exact allEnding_endRaw hj code detail pos

/-- After a list of jobs has been given outcomes, each of them has ended. -/
theorem allEnding_foldl_endRaw {xs : List Job} {k : Job} (hk : k ∈ xs) (code detail : Nat) (pos : Job → Nat) (s : State) :
    AllEnding (xs.foldl (fun s j => s.endRaw j.uid code detail (pos j)) s) k.uid := by
  induction xs generalizing s with
  | nil => cases hk
  | cons x r ih =>
    rcases List.mem_cons.1 hk with rfl | hk
    · exact (allEnding_of_endRaw s k.uid code detail (pos k)).of_jobsWane (jobsWane_foldl (fun t y => jobsWane_endRaw t _ _ _ _) r _)
    · exact ih hk _

/-- The abort of a group leaves none of its jobs pending (11 R267). -/
theorem notPending_of_endGroupJobs {s : State} {p g : Nat} {cause : AbortCause} {k : Job} (hk : k ∈ (s.endGroupJobs p g cause).jobs)
    (hp : k.part = p) (hg : k.groupOp = true) (hn : k.groupNo = g) : k.phase ≠ .running ∧ k.phase ≠ .halted := by
  rw [← not_or]
  intro pending
  unfold State.endGroupJobs at hk
  extract_lets code at hk
  obtain ⟨b, hb, same, phase⟩ := jobsWane_foldl (fun t (y : Job) => jobsWane_endRaw t y.uid code g y.stopPosition) _ s k hk
  obtain ⟨huid, hqueue, hpart, hentry, hread⟩ : k.uid = b.uid ∧ k.queue = b.queue ∧ k.part = b.part ∧ k.entry = b.entry ∧
      k.read = b.read := by simpa [identity] using same
  have notEnding : k.phase ≠ .ending := by rcases pending with e | e <;> simp [e]
  have samePhase := phase.resolve_left notEnding
  have groupOp : b.groupOp = true := by
    unfold Job.groupOp at hg ⊢
    rwa [← hqueue, ← hentry, ← hread]
  have groupNo : b.groupNo = g := by
    unfold Job.groupNo at hn ⊢
    rwa [← hentry]
  have listed : b ∈ s.jobs.filter fun j =>
      j.part == p && j.groupOp && j.groupNo == g && (j.phase == .running || j.phase == .halted) :=
    List.mem_filter.2 ⟨hb, by simp [← hpart, hp, groupOp, groupNo, ← samePhase, pending]⟩
  exact notEnding (allEnding_foldl_endRaw listed code g Job.stopPosition s k hk huid)

/-- A job has ended with OK. -/
def EndedOk (s : State) (uid : Nat) : Prop := ∃ x, s.job? uid = some x ∧ x.phase = .ending ∧ x.code = 0

theorem endedOk_endRaw {s : State} {uid : Nat} {j : Job} (h : s.job? uid = some j) (pos : Nat) : EndedOk (s.endRaw uid 0 0 pos) uid := by
  obtain ⟨⟨k, hk, same⟩, -⟩ := endRaw_job h 0 0 pos
  exact ⟨k, hk, (congrArg Job.phase same :), (congrArg Job.code same :)⟩

/-- It stays so while others, and itself, are given OK. -/
theorem EndedOk.endRaw {s : State} {uid : Nat} (h : EndedOk s uid) (v pos : Nat) : EndedOk (s.endRaw v 0 0 pos) uid := by
  obtain ⟨x, hx, phase, code⟩ := h
  by_cases e : uid = v
  · subst e
    exact endedOk_endRaw hx pos
  · have stands := othersStand_endRaw s v 0 0 pos uid e
    rw [hx] at stands
    obtain ⟨y, hy, same⟩ := Option.map_eq_some_iff.1 stands
    exact ⟨y, hy, (congrArg Job.phase same :).trans phase, (congrArg Job.code same :).trans code⟩

/-- Jobs are not lost while one is given an outcome. -/
theorem job?_endRaw_isSome (s : State) (v code detail pos uid : Nat) :
    ((s.endRaw v code detail pos).job? uid).isSome = (s.job? uid).isSome := by
  by_cases e : uid = v
  · subst e
    cases hj : s.job? uid with
    | none => rw [endRaw_of_no_job hj, hj]
    | some j =>
      obtain ⟨⟨k, hk, -⟩, -⟩ := endRaw_job hj code detail pos
      rw [hk]
      rfl
  · simpa using congrArg Option.isSome (othersStand_endRaw s v code detail pos uid e)

/-- The barriers of an epoch that closes all end with OK. -/
theorem endedOk_foldl {xs : List Job} {k : Job} (hk : k ∈ xs) {s : State} (h : (s.job? k.uid).isSome) :
    EndedOk (xs.foldl (fun s j => s.endRaw j.uid 0 0 0) s) k.uid := by
  induction xs generalizing s with
  | nil => cases hk
  | cons x r ih =>
    rcases List.mem_cons.1 hk with rfl | hk
    · obtain ⟨j, hj⟩ := Option.isSome_iff_exists.1 h
      exact List.foldlRecOn (motive := (EndedOk · k.uid)) r _ (endedOk_endRaw hj 0) fun t ht y _ => ht.endRaw y.uid 0
    · exact ih hk ((job?_endRaw_isSome s x.uid 0 0 0 k.uid).trans h)

/-- An entry that ends with OK has no consequence for its group (11 R261). -/
theorem endJob_ok (s : State) (uid detail pos : Nat) : s.endJob uid 0 detail pos = s.endRaw uid 0 detail pos := by
  unfold State.endJob
  split
  · next h => exact (endRaw_of_no_job h 0 detail pos).symm
  · exact if_pos (by simp)

/-! GROUP_BARRIER and READY. -/

theorem groupBarrier_reports {s : State} {j : Job} {g : Group} {o : Nat} {d : MsgSrc} (h : GroupRuns s 0x0C j g)
    (ho : s.barrierOrder j.part g = some o) (hopen : g.state = .open_) (hclean : g.dirty = false)
    (hd : (State.member g 0).place = some d)
    (hfirst : ∀ k ∈ s.jobs, k.part = j.part → k.groupOp = true → k.groupNo = g.g → k.order < o → k.order ≠ 0 →
      k.epoch = State.epochNow g → Entry.opcode k.entry = 0x0C) :
    s.groupBarrierStep j.uid = (s.modGroup j.part g.g fun y => { y with state := .ready }).postMsg j.part d
      (.ready g.tag (State.epochNow g) (State.localRanks g)) := by
  have noneEarlier : (s.jobs.any fun k => k.part == j.part && k.groupOp && k.groupNo == g.g && k.order != 0 && decide (k.order < o) &&
      Entry.opcode k.entry != 0x0C && k.epoch == State.epochNow g) = false := by
    refine List.any_eq_false.2 fun k hk => ?_
    have first := hfirst k hk
    simp only [Bool.and_eq_true, beq_iff_eq, bne_iff_ne, decide_eq_true_eq, not_and, and_imp]
    intro hp hg hn hne hlt hop he
    exact hop (first hp hg hn hlt hne he)
  unfold State.groupBarrierStep
  rw [groupReady_iff.2 h]
  dsimp only
  rw [ho]
  dsimp only
  rw [noneEarlier, if_neg (by simp [hopen, hclean]), hd]
  rfl

/-- Ranks of a group that have reported READY, with those of a report. -/
def readyWith (g : Group) (ranks : List Nat) : List Nat := (g.readyRanks ++ ranks).eraseDups

/-- The coordinator closes the epoch once every rank has reported (R262). -/
theorem readyArrives_eq {s : State} {p tag epoch : Nat} {g : Group} {ranks : List Nat}
    (h : Arrives s (.ready tag epoch ranks) tag epoch p g) (hl : (State.localRanks g).contains 0 = true)
    (hc : g.closing ≠ some g.epoch) :
    let z := arrivalTaken s (.ready tag epoch ranks)
    let rs := readyWith g ranks
    s.readyArrives (.ready tag epoch ranks) =
      if (List.range g.m).all rs.contains then
        (z.modGroup p g.g fun y => { y with readyRanks := rs, closing := some g.epoch, acked := [] }).sendClose p g g.epoch
          (none :: (State.groupEngines g).map some)
      else z.modGroup p g.g fun y => { y with readyRanks := rs } := by
  intro z rs
  unfold State.readyArrives
  dsimp only
  rw [onMsg_of_arrives h, if_neg (by rw [hl]; simp [hc])]
  rfl

/-- A close letter goes to the engines listed. -/
theorem sendClose_of_some {p e : Nat} {g : Group} {ds : List (Option MsgSrc)} (h : ∀ d ∈ ds, d ≠ none) (s : State) :
    s.sendClose p g e ds = postTo p (.close g.tag (e % 2 ^ 32)) (ds.filterMap id) s := by
  unfold State.sendClose
  induction ds generalizing s with
  | nil => rfl
  | cons d r ih =>
    obtain ⟨hd, hr⟩ := List.forall_mem_cons.1 h
    obtain ⟨x, rfl⟩ := Option.ne_none_iff_exists'.1 hd
    exact ih hr _

theorem ready_closes {s : State} {p tag epoch : Nat} {g : Group} {ranks : List Nat}
    (h : Arrives s (.ready tag epoch ranks) tag epoch p g) (hl : (State.localRanks g).contains 0 = true)
    (hc : g.closing ≠ some g.epoch) (hall : ∀ r < g.m, r ∈ readyWith g ranks) :
    ∃ t, exec (.ready (.ready tag epoch ranks)) s = .next t ∧
      t.ports.inbox = s.ports.inbox.erase (.ready tag epoch ranks) ++ [Msg.close g.tag (g.epoch % 2 ^ 32)] ∧
      ∀ d ∈ State.groupEngines g, SentOn t p d (.close g.tag (g.epoch % 2 ^ 32)) := by
  let z := (arrivalTaken s (.ready tag epoch ranks)).modGroup p g.g fun y =>
    { y with readyRanks := readyWith g ranks, closing := some g.epoch, acked := [] }
  let own := z.sendMsg p none (.close g.tag (g.epoch % 2 ^ 32))
  have sent : z.sendClose p g g.epoch (none :: (State.groupEngines g).map some) =
      postTo p (.close g.tag (g.epoch % 2 ^ 32)) (State.groupEngines g) own := by
    have rest := sendClose_of_some (p := p) (e := g.epoch) (g := g) (ds := (State.groupEngines g).map some) (by simp) own
    rwa [List.filterMap_map, Function.id_comp, List.filterMap_some] at rest
  refine ⟨_, congrArg Host.Outcome.next ((readyArrives_eq h hl hc).trans (if_pos ?_)), ?_, fun d hd => ?_⟩
  · exact List.all_eq_true.2 fun r hr => List.contains_iff_mem.2 (hall r (List.mem_range.1 hr))
  · exact sent ▸ inbox_of_within (within_postTo p _ _ own)
  · exact sent ▸ sentOn_postTo hd own

theorem ready_noted {s : State} {p tag epoch : Nat} {g : Group} {ranks : List Nat}
    (h : Arrives s (.ready tag epoch ranks) tag epoch p g) (hl : (State.localRanks g).contains 0 = true)
    (hc : g.closing ≠ some g.epoch) (hmiss : ∃ r < g.m, r ∉ readyWith g ranks) :
    exec (.ready (.ready tag epoch ranks)) s = .next ((arrivalTaken s (.ready tag epoch ranks)).modGroup p g.g fun y =>
      { y with readyRanks := readyWith g ranks }) := by
  obtain ⟨r, hr, missing⟩ := hmiss
  refine congrArg Host.Outcome.next ((readyArrives_eq h hl hc).trans (if_neg fun all => missing ?_))
  exact List.contains_iff_mem.1 (List.all_eq_true.1 all r (List.mem_range.2 hr))

/-! The close letter. -/

/-- A group whose epoch has closed. -/
def nextEpoch (y : Group) : Group :=
  { y with epoch := y.epoch + 1, state := .open_, chunks := [], contributed := [], dirty := false, readyRanks := [] }

/-- The barriers of a group's epoch end with OK. -/
def barriersDone (s : State) (p : Nat) (g : Group) : State := (s.epochBarriers p g).foldl (fun s j => s.endRaw j.uid 0 0 0) s

theorem closeArrives_of_ready {s : State} {p tag epoch : Nat} {g : Group} (h : Arrives s (.close tag epoch) tag epoch p g)
    (hr : g.state = .ready) : s.closeArrives (.close tag epoch) =
      ((barriersDone (arrivalTaken s (.close tag epoch)) p g).modGroup p g.g nextEpoch).reply p (State.member g 0).place
        (.closeAck tag epoch (State.localRanks g)) := by
  unfold State.closeArrives
  dsimp only
  rw [if_neg (by rw [h.inbox]; exact Bool.false_ne_true), h.group]
  dsimp only
  rw [if_neg h.live, if_pos ⟨h.now, hr⟩]
  simp only [endJob_ok]
  rfl

theorem within_barriersDone (s : State) (p : Nat) (g : Group) : Within endRawParts s (barriersDone s p g) :=
  foldl_within (fun _ _ h => h.step (within_endRaw _ _ _ _ _)) (within_refl s)

theorem barriersDone_group? (s : State) (p : Nat) (g : Group) (q n : Nat) : (barriersDone s p g).group? q n = s.group? q n :=
  foldl_same (fun t : State => t.group? q n) _ _ s fun t _ => group?_endRaw t _ _ _ _ q n

theorem endedOk_barriersDone {s : State} {p : Nat} {g : Group} {k : Job} (hk : k ∈ s.epochBarriers p g) :
    EndedOk (barriersDone s p g) k.uid := by
  refine endedOk_foldl hk ?_
  exact List.find?_isSome.2 ⟨k, (List.mem_filter.1 hk).1, beq_self_eq_true _⟩

theorem closeLetter_opens {s : State} {p tag epoch : Nat} {g : Group} {d : MsgSrc} (h : Arrives s (.close tag epoch) tag epoch p g)
    (hr : g.state = .ready) (hd : (State.member g 0).place = some d) (hg : s.group? p g.g = some g) :
    ∃ t x, exec (.closeLetter (.close tag epoch)) s = .next t ∧ t.ports.inbox = s.ports.inbox.erase (.close tag epoch) ∧
      SentOn t p d (.closeAck tag epoch (State.localRanks g)) ∧ t.group? p g.g = some x ∧ x = nextEpoch g ∧
      ∀ k ∈ s.epochBarriers p g, EndedOk t k.uid := by
  let z := arrivalTaken s (.close tag epoch)
  have opened : ((barriersDone z p g).modGroup p g.g nextEpoch).group? p g.g = some (nextEpoch g) :=
    group?_modGroup ((barriersDone_group? z p g p g.g).trans hg) rfl
  have run := closeArrives_of_ready h hr
  rw [hd] at run
  refine ⟨_, _, congrArg Host.Outcome.next run, ?_, sentOn_postMsg _ _ _ _, (postMsg_group? _ _ _ _ _ _).trans opened, rfl, ?_⟩
  · exact (postMsg_inbox _ _ _ _).trans (inbox_of_within (within_barriersDone z p g))
  · intro k hk
    obtain ⟨x, hx, ended⟩ := endedOk_barriersDone (s := z) hk
    exact ⟨x, (postMsg_job? _ _ _ _ _).trans hx, ended⟩

/-- The coordinator's letter goes again to the engines of the ranks that have not acknowledged it (R262). -/
theorem repeatClose_eq {s : State} {p n e : Nat} {g : Group} (hg : s.group? p n = some g) (hc : g.closing = some e)
    (hplace : ∀ r < g.m, r ∉ g.acked → (State.member g r).place ≠ none) :
    s.repeatClose p n = postTo p (.close g.tag (e % 2 ^ 32))
      (((((List.range g.m).filter fun r => !g.acked.contains r).map fun r => (State.member g r).place).eraseDups).filterMap id) s := by
  unfold State.repeatClose
  rw [hg]
  dsimp only
  rw [hc]
  refine sendClose_of_some (fun d hd => ?_) s
  obtain ⟨r, hr, rfl⟩ := List.mem_map.1 (List.mem_eraseDups.1 hd)
  obtain ⟨hlt, late⟩ := List.mem_filter.1 hr
  exact hplace r (List.mem_range.1 hlt) (by simpa using late)

/-- The coordinator's barrier waits for the lowest rank that has not reported (R264). -/
theorem epochTimesOut_eq {s : State} {p n r : Nat} {g : Group} {j : Job} (hg : s.group? p n = some g) (hlive : g.state ≠ .aborted)
    (hc : g.closing ≠ some g.epoch) (hj : (s.epochBarriers p g).find? (fun k => Entry.rankOf k.entry == 0) = some j) (hr : r < g.m)
    (hn : r ∉ g.readyRanks) (hlow : ∀ q < r, q ∈ g.readyRanks) : s.epochTimesOut p n = s.endJob j.uid 0x82 r 0 := by
  have missing : (List.range g.m).find? (fun r => !g.readyRanks.contains r) = some r :=
    find?_range_of_first hr (by simpa using hn) fun q hq => by simpa using hlow q hq
  unfold State.epochTimesOut
  rw [hg]
  dsimp only
  rw [if_neg (by simp [hlive, hc]), hj, missing]

/-! The abort letter. -/

/-- The coordinator passes an abort letter on to every engine (R265). -/
def relayed (p : Nat) (g : Group) (m : Msg) (s : State) : State :=
  if (State.localRanks g).contains 0 then postTo p m (State.groupEngines g) s else s

theorem within_relayed (p : Nat) (g : Group) (m : Msg) (s : State) : Within pumpGoParts s (relayed p g m s) :=
  ite_within (within_postTo p m _ s) (within_refl s)

theorem abortArrives_eq {s : State} {p tag epoch : Nat} {g : Group} {cause : AbortCause}
    (h : Arrives s (.abort tag epoch cause) tag epoch p g) :
    let z := arrivalTaken s (.abort tag epoch cause)
    s.abortArrives (.abort tag epoch cause) = if g.closing = some g.epoch then z
      else ((relayed p g (.abort tag epoch cause) z).modGroup p g.g fun y => { y with state := .aborted, cause }).endGroupJobs p g.g
        cause := by
  intro z
  unfold State.abortArrives
  dsimp only
  rw [if_neg (by rw [h.inbox]; exact Bool.false_ne_true), h.group]
  dsimp only
  rw [if_neg h.live, if_neg (h.now ▸ epochNow_ne_epochNext g), if_pos h.now]
  rfl

/-- The group that carries a tag, or another of its number, is found by the number. -/
theorem group?_of_groupByTag {s : State} {tag p : Nat} {g : Group} (h : s.groupByTag tag = some (p, g)) :
    ∃ x, s.group? p g.g = some x :=
  Option.isSome_iff_exists.1 (List.find?_isSome.2 ⟨g, (groupByTag_some h).1, beq_self_eq_true _⟩)

theorem abortLetter_aborts {s : State} {p tag epoch : Nat} {g : Group} {cause : AbortCause}
    (h : Arrives s (.abort tag epoch cause) tag epoch p g) (hc : g.closing ≠ some g.epoch) :
    ∃ t x, exec (.abortLetter (.abort tag epoch cause)) s = .next t ∧
      t.ports.inbox = s.ports.inbox.erase (.abort tag epoch cause) ∧ t.group? p g.g = some x ∧ x.state = .aborted ∧ x.cause = cause ∧
      (0 ∈ State.localRanks g → ∀ d ∈ State.groupEngines g, SentOn t p d (.abort tag epoch cause)) ∧
      ∀ k ∈ t.jobs, k.part = p → k.groupOp = true → k.groupNo = g.g → k.phase ≠ .running ∧ k.phase ≠ .halted := by
  let z := arrivalTaken s (.abort tag epoch cause)
  let y := (relayed p g (.abort tag epoch cause) z).modGroup p g.g fun y => { y with state := .aborted, cause }
  have told := within_relayed p g (.abort tag epoch cause) z
  have ends := within_endGroupJobs y p g.g cause
  obtain ⟨x, hx⟩ := group?_of_groupByTag h.group
  have found : y.group? p g.g = some { x with state := .aborted, cause } :=
    group?_modGroup ((group?_of_within told p g.g).trans hx) rfl
  have kept : (y.endGroupJobs p g.g cause).group? p g.g = y.group? p g.g :=
    foldl_same (fun t : State => t.group? p g.g) _ _ y fun t _ => group?_endRaw t _ _ _ _ p g.g
  refine ⟨_, _, congrArg Host.Outcome.next ((abortArrives_eq h).trans (if_neg hc)), ?_, kept.trans found, rfl, rfl, fun hl d hd => ?_,
    fun k hk => notPending_of_endGroupJobs hk⟩
  · exact (inbox_of_within ends).trans (inbox_of_within told)
  · have relay : relayed p g (.abort tag epoch cause) z = postTo p (.abort tag epoch cause) (State.groupEngines g) z :=
      if_pos (List.contains_iff_mem.2 hl)
    refine sentOn_of_pends fun port hp => ?_
    have way : z.msgPort d = some port := ((msgPort_of_within ends d).trans (msgPort_of_within told d)).symm.trans hp
    have stands : Pends (messageRequest port p d (.abort tag epoch cause)) y :=
      pends_of_requests (s := relayed p g _ z) rfl (by rw [relay]; exact pends_postTo hd way)
    exact List.foldlRecOn (motive := Pends _) _ _ stands fun t ht _ _ => pends_endRaw (msgPort_ne_host way) ht _ _ _ _

/-- Settles O38: each letter finds its group open, ready or closing; the ends of barriers and of an aborted group's jobs leave the messages
sent at their ports. -/
theorem epochsCloseByLetters : Obligations.EpochsCloseByLetters := by
  unfold Obligations.EpochsCloseByLetters
  refine ⟨?_, ?_, ?_, ?_, ?_, ?_⟩
  · intro s j g o d hready ho hopen hclean hd hfirst
    exact congrArg Host.Outcome.next (groupBarrier_reports (groupReady_iff.1 hready) ho hopen hclean hd hfirst)
  · intro s p tag epoch g ranks m hin hgroup hlive hnow hl hc rs
    have arrives : Arrives s m tag epoch p g := ⟨hin, hgroup, hlive, hnow⟩
    exact ⟨ready_noted arrives hl hc, ready_closes arrives hl hc⟩
  · intro s p tag epoch g d m hin hgroup hr hnow hd hg
    obtain ⟨t, x, run, inbox, sent, hx, rfl, ended⟩ :=
      closeLetter_opens ⟨hin, hgroup, by rw [hr]; decide, hnow⟩ hr hd hg
    refine ⟨t, _, run, inbox, sent, hx, rfl, rfl, rfl, rfl, rfl, rfl, fun k hk => ?_⟩
    obtain ⟨x, hx, ok⟩ := ended k hk
    exact ⟨x, hx, fun _ => ok⟩
  · intro s p n e g hg hc hplace late
    exact congrArg Host.Outcome.next (repeatClose_eq hg hc hplace)
  · intro s p n r g j hg hlive hc hfind hj hr hn hlow
    obtain ⟨t, k, run, hk, phase, code, detail, -⟩ :=
      memberTimeout_spec (c := .epochTimeout p n) hj rfl (epochTimesOut_eq hg hlive hc hfind hr hn hlow)
    exact ⟨t, k, run, hk, phase, code, detail⟩
  · intro s p tag epoch g cause m hin hgroup hlive hnow
    have arrives : Arrives s m tag epoch p g := ⟨hin, hgroup, hlive, hnow⟩
    exact ⟨fun hc => congrArg Host.Outcome.next ((abortArrives_eq arrives).trans (if_pos hc)), abortLetter_aborts arrives⟩

end Sys2Proof.Proofs

/-! DISPATCH and COMBINE: the index pass, the rows, the headers, and the gated sums (11 R269 to R273). -/

namespace Sys2Proof.Proofs

open Sys2Proof Sys2Proof.Machine Sys2Proof.Laws

/-! The index pass. -/

theorem exchangePass_of_read {s : State} {j : Job} {book : List Byte} (h : s.readRoutes (State.passWork j) = .ok book) :
    s.exchangePass j = (s, some book) := by
  unfold State.exchangePass
  rw [h]

/-- A job whose index pass has read its routes. -/
def indexedBy (book : List Byte) (y : Job) : Job := { y with pass := { y.pass with indexed := true, book, seen := {} } }

/-- Positions of a job's routes, as its index pass places them (R270). -/
def positions (j : Job) : List State.RoutePos := State.assignRows (Entry.xC j.entry) (State.routesOf j) []

/-- The rows of every slot that no route fills, as zeroes. -/
def zeroRows (j : Job) (g : Group) : List (Nat × Nat × List (Byte × Nat)) :=
  (State.slotsOf j.entry g).map fun y =>
    let n := State.slotCount j (State.routesOf j) (positions j) y.1 y.2
    let row := Entry.xH j.entry * Entry.xW j.entry
    (y.1, State.slotAt j.entry (State.member g y.1) y.2 + 64 + n * row, List.replicate ((Entry.xC j.entry - n) * row) ((0 : Byte), 0))

theorem dispatchIndex_of_read {s s1 : State} {j : Job} {g : Group} {book : List Byte}
    (hread : s.readRoutes (State.passWork j) = .ok book) (hlost : s.lostMember j g = none)
    (hissue : s.issueParts (.job j.uid .other 0) j g (zeroRows { j with pass := { j.pass with book } } g) id none = some s1) :
    s.dispatchIndex j g = s1.modJob j.uid (indexedBy book) := by
  unfold zeroRows positions at hissue
  unfold State.dispatchIndex
  rw [exchangePass_of_read hread]
  dsimp only at hissue ⊢
  rw [hlost]
  dsimp only
  rw [hissue]
  rfl

/-- Until its routes have been read, a DISPATCH is its index pass. -/
theorem dispatchStep_of_unindexed {s : State} {j : Job} {g : Group} (h : GroupRuns s 0x08 j g) (hr : j.recheck = false)
    (he : j.early = none) (hi : j.pass.indexed = false) : s.dispatchStep j.uid = s.dispatchIndex j g := by
  unfold State.dispatchStep
  rw [recheckJob_eq_self h.job hr]
  dsimp only
  rw [groupReady_iff.2 h]
  dsimp only
  rw [if_neg (by simp [hr]), if_pos (by simp [hi]), if_neg (by simp [he])]

/-- Then it runs the threads that have still to run, and goes on to its headers. -/
theorem dispatchStep_of_indexed {s : State} {j : Job} {g : Group} (h : GroupRuns s 0x08 j g) (hr : j.recheck = false)
    (hi : j.pass.indexed = true) : s.dispatchStep j.uid =
      ((State.idleTiles j).foldl (fun (s : State) t => s.runThread j.uid t State.dispatchWork State.dispatchFinish) s).dispatchFlow
        j.uid := by
  unfold State.dispatchStep
  rw [recheckJob_eq_self h.job hr]
  dsimp only
  rw [groupReady_iff.2 h]
  dsimp only
  rw [if_neg (by simp [hr]), if_neg (by simp [hi])]

/-! The rows of a tile. -/

theorem jobsStand_issueParts {s t : State} {own : Owner} {j : Job} {g : Group} {parts : List (Nat × Nat × List (Byte × Nat))}
    {f : State.Put8 → State.Put8} {span : Option Nat} (h : s.issueParts own j g parts f span = some t) : JobsStand s t := by
  unfold State.issueParts at h
  split at h
  · cases h
  · obtain rfl := Option.some.inj h
    refine jobsStand_foldl (fun z m => ?_) _ s
    split
    · split
      · exact Eq.refl _
      · exact jobsStand_issueElems _ _ _ _ _ _ _
    · exact Eq.refl _

/-- What elements of token rows bring to the rows of their kept routes (R271). -/
def keptRows (j : Job) (g : Group) (l : List (Nat × List Byte)) : List (Nat × Nat × List (Byte × Nat)) :=
  let e := j.entry
  let h := max 1 (Entry.xH e)
  l.flatMap fun x => (List.range (Entry.xKR e)).filterMap fun k =>
    match (positions j).getD (x.1 / h * Entry.xKR e + k) .none_ with
    | .row p =>
      let y := State.routeTo j ((State.routesOf j).getD (x.1 / h * Entry.xKR e + k) 0)
      some (y.1, State.slotAt e (State.member g y.1) y.2 + 64 + p * (Entry.xH e * Entry.xW e) + x.1 % h * Entry.xW e,
        x.2.map fun b => (b, x.1))
    | _ => none

/-- A byte that the spec leaves open in every tile that reads what its job or another party writes (01 R39). -/
def openWhere (s : State) (open_ : Bool) (x : State.Put8) : State.Put8 :=
  if open_ then { x with val := (Config.freeByte s.block.free (locKey x.target x.addr)).toNat } else x

/-- The tile of a DISPATCH reads what its job or another party writes. -/
def dispatchMeets (s : State) (j : Job) (g : Group) (tile : Nat) : Bool :=
  s.rangesMeet j (State.dispatchRanges j g tile).1 (State.dispatchRanges j g tile).2

/-- A token's kept routes count in COUNT and its dropped ones in AUX, at its first element (R271). -/
def routeCounts (j : Job) (tile : Nat) (l : List (Nat × List Byte)) : List Contrib :=
  let h := max 1 (Entry.xH j.entry)
  let kr := Entry.xKR j.entry
  l.filterMap fun x =>
    if x.1 % h ≠ 0 then none else
    let mine := (List.range kr).map fun k => (positions j).getD (x.1 / h * kr + k) .none_
    some { tile, elem := x.1, cnt := (mine.filter fun q => match q with | .row _ => true | _ => false).length,
           aux := (mine.filter (· == .drop)).length }

/-- What a tile's elements come to: a member whose way is lost, rows without a place yet, or rows that are written. -/
theorem dispatchFinish_eq {s : State} {w : Work} {g : Group} (hg : s.group? w.part w.groupNo = some g) (th : Thread)
    (l : List (Nat × List Byte)) :
    s.dispatchFinish w th l =
      match (keptRows w.toJob g l).find? fun x => s.memberLost w.part (State.member g x.1) with
      | some x => .lost ((x.2.2.map (·.2)).headD 0) (State.memberRoute (State.member g x.1))
      | none => match s.issueParts (.job w.uid .thread th.tile) w.toJob g (keptRows w.toJob g l)
          (openWhere s (dispatchMeets s w.toJob g th.tile)) (some th.span) with
        | none => .wait (s.partPages w.toJob g (keptRows w.toJob g l))
        | some s1 => .done ((s1.useFree.correctStaging (State.ctxOf w.toJob (w.tileStart th.tile))
            ((State.dispatchRanges w.toJob g th.tile).1.flatMap (s.rangeKeys w.toJob))).threadRan w.uid th.tile
              (routeCounts w.toJob th.tile l) []) := by
  unfold State.dispatchFinish
  rw [hg]
  rfl

theorem dispatchFinish_of_issued {s s1 : State} {w : Work} {th : Thread} {g : Group} {l : List (Nat × List Byte)}
    (hg : s.group? w.part w.groupNo = some g) (hway : ∀ x ∈ keptRows w.toJob g l, s.memberLost w.part (State.member g x.1) = false)
    (hissue : s.issueParts (.job w.uid .thread th.tile) w.toJob g (keptRows w.toJob g l)
      (openWhere s (dispatchMeets s w.toJob g th.tile)) (some th.span) = some s1)
    (hinj : ∀ x ∈ s1.store.inj, 0x28 ≤ x.1) :
    s.dispatchFinish w th l = .done (s1.useFree.threadRan w.uid th.tile (routeCounts w.toJob th.tile l) []) := by
  have noneLost : (keptRows w.toJob g l).find? (fun x => s.memberLost w.part (State.member g x.1)) = none :=
    List.find?_eq_none.2 fun x hx => by simp [hway x hx]
  rw [dispatchFinish_eq hg, noneLost, hissue]
  dsimp only
  rw [correctStaging_eq_self (s := s1.useFree) hinj]

/-- A DISPATCH with a thread has still rows to write. -/
theorem dispatchFlow_of_threads {s : State} {uid : Nat} {k : Job} (h : s.job? uid = some k) (ht : k.threads ≠ []) :
    s.dispatchFlow uid = s := by
  unfold State.dispatchFlow
  split
  · rfl
  · next hready =>
    obtain rfl := Option.some.inj (h.symm.trans (groupReady_job hready))
    exact if_pos (by simp [allRetired_of_threads ht])

theorem dispatch_copiesTile {s s0 s1 : State} {tile : Nat} {w : Work} {th : Thread} {g : Group} {l : List (Nat × List Byte)}
    (h : GroupRuns s 0x08 w.toJob g) (hr : w.recheck = false) (he : w.early = none) (hi : w.pass.indexed = true)
    (hidle : State.idleTiles w.toJob = [tile]) (hready : s.readyThread w.uid tile = some (s0, w, th))
    (hrun : State.runElems (fun n => (s0.gotOff w (Entry.xRows w.entry / 2 ^ 56) (State.rowOff w.entry n) (Entry.xW w.entry)).at n 1)
      (State.liveElems w.toJob tile) = { done := l })
    (hway : ∀ x ∈ keptRows w.toJob g l, s0.memberLost w.part (State.member g x.1) = false)
    (hissue : s0.issueParts (.job w.uid .thread tile) w.toJob g (keptRows w.toJob g l)
      (openWhere s0 (dispatchMeets s0 w.toJob g tile)) (some th.span) = some s1)
    (hinj : ∀ x ∈ s1.store.inj, 0x28 ≤ x.1) :
    ∃ t k, exec (.dispatch w.uid) s = .next t ∧ t.ports = s1.ports ∧ t.job? w.uid = some k ∧ k.retired = w.retired ∧
      k.threads.map Thread.tile = w.threads.map Thread.tile ∧ (∀ x ∈ k.threads, x.tile = tile → x.ran = true) ∧
      OthersStand s t w.uid := by
  obtain ⟨-, rfl, -⟩ := readyThread_some hready
  have landed := dispatchFinish_of_issued ((group?_of_readyThread hready _ _).trans h.group) hway hissue hinj
  have working : Working s0 s1.useFree w.uid := ((jobsStand_issueParts hissue).working _).trans (working_useFree s1 _)
  obtain ⟨run, others, ran⟩ := runThread_ran hready he (work := State.dispatchWork) rfl hrun landed working
  obtain ⟨k, hk, threads⟩ := threads_of_ranTile ran h.job (threads_of_idleTiles hidle)
  obtain ⟨i, k', hi', hk', -, retired, tiles, hran, -⟩ := ran
  obtain rfl := Option.some.inj (hi'.symm.trans h.job)
  refine ⟨s1.useFree.threadRan w.uid th.tile (routeCounts w.toJob th.tile l) [], k', congrArg Host.Outcome.next ?_, rfl, hk', retired,
    tiles, hran, others⟩
  rw [dispatchStep_of_indexed h hr hi, hidle, List.foldl_cons, List.foldl_nil, run]
  exact dispatchFlow_of_threads hk threads

/-! Headers, drop map, end. -/

/-- The headers of every slot, over its rows as they stand (R271). -/
def slotHeaders (s : State) (j : Job) (g : Group) : List (Nat × Nat × List (Byte × Nat)) :=
  (State.slotsOf j.entry g).map fun y =>
    let a := State.slotAt j.entry (State.member g y.1) y.2
    let rows := (s.memberGot { toJob := j } (State.member g y.1) (a + 64)
      (Entry.xC j.entry * Entry.xH j.entry * Entry.xW j.entry)).val?.getD []
    (y.1, a, (State.slotHeader j.entry (State.slotCount j (State.routesOf j) (positions j) y.1 y.2) y.2 rows).map fun b => (b, 0))

/-- A DISPATCH whose rows are all written and answered. -/
structure RowsStand (s : State) (j : Job) (g : Group) : Prop where
  runs     : GroupRuns s 0x08 j g
  checked  : j.recheck = false
  early    : j.early = none
  indexed  : j.pass.indexed = true
  retired  : State.allRetired j = true
  answered : s.jobWrites j.uid = []

theorem dispatchStep_of_rowsStand {s : State} {j : Job} {g : Group} (h : RowsStand s j g) : s.dispatchStep j.uid = s.dispatchFlow j.uid := by
  rw [dispatchStep_of_indexed h.runs h.checked h.indexed, idleTiles_of_allRetired h.retired]
  rfl

theorem dispatchFlow_of_sent {s : State} {j : Job} {g : Group} (h : RowsStand s j g) (hs : j.pass.sent = true) :
    s.dispatchFlow j.uid = s.endJob j.uid 0 0 j.elems := by
  unfold State.dispatchFlow
  rw [groupReady_iff.2 h.runs]
  dsimp only
  rw [if_neg (by simp [h.indexed, h.retired, h.early, h.answered]), if_pos hs]

theorem dispatchFlow_of_unsent {s s1 : State} {j : Job} {g : Group} {ds : List State.Put8} (h : RowsStand s j g)
    (hs : j.pass.sent = false) (hlost : s.lostMember j g = none)
    (hissue : s.issueParts (.job j.uid .header 0) j g (slotHeaders s j g) id none = some s1)
    (hdrop : s.elemPlace j (Entry.xDrop j.entry) ((State.dropMap (positions j)).map fun b => (b, 0)) = some ds) :
    s.dispatchFlow j.uid = (s1.issueElems (.job j.uid .other 0) j.part (Entry.xDrop j.entry / 2 ^ 56) ds [] none).modJob j.uid
      fun y => { y with pass := { y.pass with sent := true } } := by
  unfold slotHeaders positions at hissue
  unfold positions at hdrop
  dsimp only at hissue
  unfold State.dispatchFlow
  rw [groupReady_iff.2 h.runs]
  dsimp only
  rw [if_neg (by simp [h.indexed, h.retired, h.early, h.answered]), if_neg (by simp [hs]), hlost]
  dsimp only
  rw [hissue, hdrop]

theorem dispatch_completes {s : State} {j : Job} {g : Group} (h : RowsStand s j g) (hs : j.pass.sent = true) :
    ∃ t k, exec (.dispatch j.uid) s = .next t ∧ t.job? j.uid = some k ∧ k.phase = .ending ∧ k.code = 0 ∧ k.position = j.elems := by
  obtain ⟨k, hk, same⟩ := endJob_job h.runs.job 0 0 j.elems
  obtain ⟨phase, code, -, position, -⟩ := outcome_of_bare same
  exact ⟨_, k, congrArg Host.Outcome.next ((dispatchStep_of_rowsStand h).trans (dispatchFlow_of_sent h hs)), hk, phase, code, position⟩

/-! COMBINE. -/

/-- Until its routes have been read, a COMBINE is its index pass. -/
theorem combineStep_of_read {s : State} {j : Job} {g : Group} {book : List Byte} (h : GroupRuns s 0x09 j g) (hr : j.recheck = false)
    (he : j.early = none) (hi : j.pass.indexed = false) (hread : s.readRoutes (State.passWork j) = .ok book) (tile : Nat) :
    s.combineStep j.uid tile = s.modJob j.uid (indexedBy book) := by
  unfold State.combineStep
  rw [recheckJob_eq_self h.job hr]
  dsimp only
  rw [groupReady_iff.2 h]
  dsimp only
  rw [if_neg (by simp [hr]), if_neg (by simp [hi]), if_neg (by simp [he]), exchangePass_of_read hread]
  rfl

theorem combineStep_of_indexed {s : State} {j : Job} {g : Group} (h : GroupRuns s 0x09 j g) (hr : j.recheck = false)
    (hi : j.pass.indexed = true) (tile : Nat) :
    s.combineStep j.uid tile = s.runThread j.uid tile State.combineWork State.combineFinish := by
  unfold State.combineStep
  rw [recheckJob_eq_self h.job hr]
  dsimp only
  rw [groupReady_iff.2 h]
  dsimp only
  rw [if_neg (by simp [hr]), if_pos hi]

theorem combineFinish_of_landed {s s1 : State} {w : Work} {th : Thread} {g : Group} {l : List (Nat × State.Put)}
    (hg : s.group? w.part w.groupNo = some g) (hinj : ∀ x ∈ s1.store.inj, 0x28 ≤ x.1) :
    let r := State.combineRanges w.toJob g (State.tileElems w.toJob th.tile)
    s.landCells w.toJob (.job w.uid .thread th.tile) (Entry.xRows w.entry / 2 ^ 56) (cellsOfAll l) (s.rangesMeet w.toJob r.1 r.2)
      (fun n => w.tileOf n == th.tile) (some th.span) = .done s1 →
    s.combineFinish w th l = .done (s1.threadRan w.uid th.tile (l.flatMap fun x => State.contribsOf w.entry th.tile x.1 x.2)
      (State.marksOf th.tile l)) := by
  intro r hland
  unfold State.combineFinish State.tileFinish
  dsimp only
  rw [hg]
  dsimp only
  rw [hland]
  dsimp only
  rw [correctStaging_eq_self hinj]

theorem combine_gathersTile {s s0 s1 : State} {tile : Nat} {w : Work} {th : Thread} {g : Group} {l : List (Nat × State.Put)}
    (h : GroupRuns s 0x09 w.toJob g) (hr : w.recheck = false) (he : w.early = none) (hi : w.pass.indexed = true)
    (hready : s.readyThread w.uid tile = some (s0, w, th))
    (hrun : State.runElems (s0.combinePut w g (State.routesOf w.toJob) (positions w.toJob)) (State.liveElems w.toJob tile) =
      { done := l }) :
    let r := State.combineRanges w.toJob g (State.tileElems w.toJob tile)
    s0.landCells w.toJob (.job w.uid .thread tile) (Entry.xRows w.entry / 2 ^ 56) (cellsOfAll l) (s0.rangesMeet w.toJob r.1 r.2)
      (fun n => w.tileOf n == tile) (some th.span) = .done s1 → (∀ x ∈ s1.store.inj, 0x28 ≤ x.1) →
    ∃ t, exec (.combine w.uid tile) s = .next t ∧ t.ports = s1.ports ∧ { t.store with work := [] } = { s1.store with work := [] } ∧
      OthersStand s t w.uid ∧
      RanTile s t w.uid tile (l.flatMap fun x => State.contribsOf w.entry tile x.1 x.2) (State.marksOf tile l) := by
  intro r hland hinj
  obtain ⟨-, rfl, -⟩ := readyThread_some hready
  have group : s0.group? w.part w.groupNo = some g := (group?_of_readyThread hready _ _).trans h.group
  have work : State.combineWork s0 w th =
      State.runElems (s0.combinePut w g (State.routesOf w.toJob) (positions w.toJob)) (State.liveElems w.toJob th.tile) := by
    unfold State.combineWork
    rw [group]
    rfl
  obtain ⟨run, others, ran⟩ :=
    runThread_ran hready he work hrun (combineFinish_of_landed group hinj hland) (working_landCells hland)
  exact ⟨_, congrArg Host.Outcome.next ((combineStep_of_indexed h hr hi _).trans run), rfl, rfl, others, ran⟩

/-- Settles O39: both read their routes first, and place them alike; a DISPATCH then copies, writes headers and drop map, and ends, and a
COMBINE lands the sums of its tiles. -/
theorem dispatchAndCombineFollowTheRoutes : Obligations.DispatchAndCombineFollowTheRoutes := by
  unfold Obligations.DispatchAndCombineFollowTheRoutes
  refine ⟨?_, ?_⟩
  · intro s j g hready hr he e row
    have runs : GroupRuns s 0x08 j g := groupReady_iff.1 hready
    refine ⟨?_, ?_, ?_⟩
    · intro s1 book hi hread hlost k pos hissue
      exact congrArg Host.Outcome.next
        ((dispatchStep_of_unindexed runs hr he hi).trans (dispatchIndex_of_read hread hlost hissue))
    · intro tile s0 w th l s1 hi hidle hthread n h routes pos src hrun parts meets hway hissue hinj
      obtain ⟨hj, -, -⟩ := readyThread_some hthread
      obtain rfl := Option.some.inj (hj.symm.trans runs.job)
      exact dispatch_copiesTile runs hr he hi hidle hthread hrun hway hissue hinj
    · intro hi hret hw routes pos
      have stand : RowsStand s j g := ⟨runs, hr, he, hi, hret, hw⟩
      refine ⟨dispatch_completes stand, fun s1 ds hs hlost hissue hdrop => congrArg Host.Outcome.next ?_⟩
      exact (dispatchStep_of_rowsStand stand).trans (dispatchFlow_of_unsent stand hs hlost hissue hdrop)
  · intro s j g tile hready hr he
    have runs : GroupRuns s 0x09 j g := groupReady_iff.1 hready
    refine ⟨fun book hi hread => congrArg Host.Outcome.next (combineStep_of_read runs hr he hi hread tile), ?_⟩
    intro s0 w th l s1 hi hthread routes r hrun hland hinj
    obtain ⟨hj, -, -⟩ := readyThread_some hthread
    obtain rfl := Option.some.inj (hj.symm.trans runs.job)
    exact combine_gathersTile runs hr he hi hthread hrun hland hinj

end Sys2Proof.Proofs

/-! The step and the invariant (00 R9, log entry 1): what a step does, what it keeps, the state at reset, and the frames of the
commands. -/

namespace Sys2Proof.Proofs

open Sys2Proof Sys2Proof.Machine Sys2Proof.Laws

-- One theorem at a time: many at once, in one text, hold more threads than the memory limit allows.
set_option Elab.async false

/-- Taking a command off the queue touches nothing that the invariant speaks of. -/
theorem inv_withPending {s : State} (h : Inv s) (l : List Instr) : Inv { s with pending := l } :=
  ⟨h.mem, h.image, h.captured, h.parts, h.spans, h.chans, h.pacers, h.units, h.quads, h.ring⟩

/-- Settles O5: a step is the meaning of the front command, or a keeper tick, and each of them keeps the invariant. -/
theorem everyStepKeepsTheInvariant : Obligations.EveryStepKeepsTheInvariant := by
  unfold Obligations.EveryStepKeepsTheInvariant
  intro s t hs ht
  unfold step at ht
  split at ht
  · exact Host.Outcome.next.inj ht ▸ (within_keeperTick s).keeps.inv hs
  next c rest _ =>
    obtain ⟨u, hu, hkeeps⟩ := exec_answers_keeps c { s with pending := rest }
    obtain rfl := Host.Outcome.next.inj (hu.symm.trans ht)
    exact hkeeps.inv (inv_withPending hs rest)

/-- Settles O1: the queue's front decides which of the two the step is. -/
theorem stepRunsTheFrontCommand : Obligations.StepRunsTheFrontCommand := by
  unfold Obligations.StepRunsTheFrontCommand
  intro s c rest h
  simp [step, h]

/-- Settles O2: on an empty queue the step is the keeper's tick, which counts the timer down unless it stands at 0. -/
theorem emptyQueueStepCountsTheWakeTimer : Obligations.EmptyQueueStepCountsTheWakeTimer := by
  unfold Obligations.EmptyQueueStepCountsTheWakeTimer
  intro s h
  exact ⟨keeperTick s, by simp [step, h], rfl, fun h0 => if_pos h0, fun h0 => if_neg h0⟩

/-- At reset each unit of the 96 is as FAULT_IRQ_EN's reset value makes it (17 R401). -/
theorem unit_reset {u : Nat} (h : u < 96) : State.reset.unit u = FUnit.resetOf u := by
  simp [State.reset, State.unit, h]

/-- The interrupt enables at reset hold the sources present, but for bit 0. -/
theorem irqEn_resetOf (u : Nat) {b : Nat} (hb : b < 32) :
    (FUnit.resetOf u).irqEn.getLsbD b = (bitOf (presentMask u) b && decide (b ≠ 0)) := by
  have hbit : (FUnit.resetOf u).irqEn.getLsbD b = (presentMask u / 2 * 2).testBit b :=
    (BitVec.getLsbD_ofNat 32 _ b).trans (by simp [hb])
  rw [hbit]
  cases b with
  | zero => simp
  | succ b => simp [bitOf, Nat.testBit_succ, Nat.testBit_eq_decide_div_mod_eq, Nat.pow_succ', Nat.div_div_eq_div_mul]

/-- Settles O3: every list at reset repeats one record, whose fields are the spec's; the units each have their own. -/
theorem resetGivesTheSpecsRegisterValues : Obligations.ResetGivesTheSpecsRegisterValues := by
  unfold Obligations.ResetGivesTheSpecsRegisterValues
  refine ⟨fun n hn => ?_, ⟨rfl, rfl, rfl, rfl, rfl, rfl⟩, fun p hp => ?_, fun u hu b hb => ?_, rfl, fun p hp => ?_, rfl, rfl, rfl,
    fun c hc => ?_, rfl, rfl⟩
  · rw [show State.reset.span n = {} from List.getD_replicate _ hn]
    exact ⟨rfl, rfl, rfl, rfl, rfl, rfl⟩
  · rw [show State.reset.pacer p = {} from List.getD_replicate _ hp]
    exact ⟨rfl, rfl⟩
  · rw [unit_reset hu, irqEn_resetOf u (by omega)]
  · rw [show State.reset.part p = {} from List.getD_replicate _ hp]
    exact ⟨rfl, rfl, rfl⟩
  · rw [show State.reset.chan c = {} from List.getD_replicate _ hc]

/-- Settles O4: no memory holds a byte, no doorbell stands captured, and each list has its count. -/
theorem resetMeetsTheInvariant : Obligations.ResetMeetsTheInvariant :=
  ⟨⟨rfl, rfl, .nil⟩, rfl, Nat.zero_le _, rfl, rfl, rfl, rfl, by simp [State.reset], rfl, rfl⟩

/-! A swap of a span completes and the next one begins (18 R419, R420): the threads that it moves read again, so their reads that wait
at a port go, and with them the requests. -/

/-- A span whose swap of core 0 drains, and in which a swap of core 1 waits for it. -/
def twoSwapsSpan : Span := { swap := some (.core, 0), swapsDue := [(.core, 1)] }

/-- A job with one thread on core 1 of that span, which waits for a read. -/
def movedJob : Job :=
  { uid := 0, queue := .io 0, idx := 0, part := 1, entry := [], phase := .running, threads := [{ tile := 0, span := 0, core := 1 }] }

/-- The read that the thread waits for, not yet transferred. -/
def movedRead : Request := { port := .host, owner := .fetch 0 0, body := .fetch { left := [0] }, span := some 0 }

/-- A block in which the first of two swaps of span 0 is about to complete. -/
def twoSwaps : State :=
  { State.reset with
    spans := twoSwapsSpan :: List.replicate 39 {}
    jobs := [movedJob]
    ports := { requests := [movedRead] } }

/-- The swap of core 1 begins, and the read that waited is gone. -/
theorem swapComplete_twoSwaps : ∃ t, exec (.swapComplete 0) twoSwaps = .next t ∧ t.ports.requests = [] :=
  ⟨_, rfl, by decide +kernel⟩

/-- Refutes O7: `touched` lists no requests for SWAP_COMPLETE, yet in `twoSwaps` the next swap that it begins drains the reads of the
threads that it moves (18 R419). -/
theorem not_commandsChangeOnlyWhatTheyTouch : ¬ Obligations.CommandsChangeOnlyWhatTheyTouch := by
  unfold Obligations.CommandsChangeOnlyWhatTheyTouch
  intro h
  obtain ⟨t, run, gone⟩ := swapComplete_twoSwaps
  rcases h (.swapComplete 0) twoSwaps t run .requests with listed | same
  · exact absurd listed (by decide)
  · have kept : t.ports.requests = [movedRead] := (Prod.ext_iff.1 same).1
    exact List.cons_ne_nil _ _ (kept.symm.trans gone)

end Sys2Proof.Proofs

/-! Administrative commands (13 R293, R294): the checks that stop a command before its own part. -/

namespace Sys2Proof.Proofs

open Sys2Proof Sys2Proof.Machine Sys2Proof.Laws

-- One theorem at a time: many at once, in one text, hold more threads than the memory limit allows.
set_option Elab.async false

/-! The lowest offset of a breach. -/

/-- The least of a list that holds its bound is the bound. -/
theorem foldl_min_of_mem {a x : Nat} {l : List Nat} (hmem : a ∈ x :: l) (hle : ∀ y ∈ x :: l, a ≤ y) : l.foldl min x = a := by
  induction l generalizing x with
  | nil => exact (List.mem_singleton.1 hmem).symm
  | cons y r ih =>
    refine ih ?_ fun z hz => ?_
    · rcases List.mem_cons.1 hmem with rfl | hr
      · simp [hle y (by simp)]
      · rcases List.mem_cons.1 hr with rfl | hr
        · simp [hle x (by simp)]
        · exact List.mem_cons_of_mem _ hr
    · rcases List.mem_cons.1 hz with rfl | hr
      · exact le_min (hle x (by simp)) (hle y (by simp))
      · exact hle z (by simp [hr])

/-- A byte of an entry. -/
theorem u8_lt_256 (e : List Byte) (off : Nat) : u8 e off < 256 := by
  unfold u8 field
  cases e.drop off with
  | nil => decide
  | cons b r => simpa [leNat] using b.isLt

/-- A reserved bit of the flags is the lowest breach that an entry can have: byte 0 is assigned whole (R293, R294). -/
theorem reservedFail_flags {e : List Byte} {fs : List State.FieldSpec} (h : 2 ≤ u8 e 1) (hfs : ∀ f ∈ fs, 1 ≤ f.off) :
    State.reservedFail e 0 (State.adminHeader ++ [⟨0x18, 8, 2 ^ 64 - 1⟩] ++ fs) = some 1 := by
  have hflags : (field e 1 1 != Nat.land (field e 1 1) 1) = true := by
    have : Nat.land (field e 1 1) 1 < 2 := Nat.and_lt_two_pow (n := 1) _ (by decide)
    exact bne_iff_ne.2 fun heq => absurd (show 2 ≤ field e 1 1 from h) (by omega)
  have hopcode : (field e 0 1 != Nat.land (field e 0 1) 255) = false := by
    have hland : Nat.land (field e 0 1) 255 = u8 e 0 % 256 := Nat.and_two_pow_sub_one_eq_mod _ 8
    rw [hland, Nat.mod_eq_of_lt (u8_lt_256 e 0)]
    exact bne_self_eq_false _
  unfold State.reservedFail
  extract_lets named rest
  have hmem : 1 ∈ named ++ rest :=
    List.mem_append_left _ (List.mem_map.2 ⟨⟨1, 1, 1⟩, List.mem_filter.2 ⟨by simp [State.adminHeader], hflags⟩, rfl⟩)
  have hle : ∀ y ∈ named ++ rest, 1 ≤ y := by
    intro y hy
    rcases List.mem_append.1 hy with hnamed | hrest
    · obtain ⟨f, hf, rfl⟩ := List.mem_map.1 hnamed
      obtain ⟨hin, hbad⟩ := List.mem_filter.1 hf
      simp only [State.adminHeader, List.cons_append, List.nil_append, List.mem_cons] at hin
      rcases hin with rfl | rfl | rfl | rfl | rfl | hin
      · exact absurd (hopcode.symm.trans hbad) Bool.false_ne_true
      · decide
      · decide
      · decide
      · decide
      · exact hfs f hin
    · exact Nat.one_le_iff_ne_zero.2 fun h0 => by simp [rest, h0, State.adminHeader] at hrest
  cases hl : named ++ rest with
  | nil => simp [hl] at hmem
  | cons x r => exact congrArg some (foldl_min_of_mem (hl ▸ hmem) (hl ▸ hle))

/-! The checks in their order. -/

section

variable {s : State} {aq op : Nat} {j : Job} {qs : State.CmdQueues} (sc : State.CmdScope) (fs : List State.FieldSpec)
  (limits : State → Nat → List Byte → List (Bool × Nat)) (act : State → Job → Nat → State) (detail : Nat → Nat)

/-- Another command stands at the front, or another queue has its turn. -/
theorem runAdmin_idle (hj : s.canStart aq = some j) (h : u8 j.entry 0 ≠ op ∨ s.turnOf aq = false) :
    s.runAdmin aq op qs sc fs limits act detail = s := by
  unfold State.runAdmin
  simp only [hj]
  exact if_pos (h.imp_right fun ht => by simp [ht])

/-- The queue does not accept the opcode. -/
theorem runAdmin_wrongQueue (hj : s.canStart aq = some j) (hop : u8 j.entry 0 = op) (ht : s.turnOf aq = true)
    (hq : aq = 0 ∧ qs = .partition ∨ aq ≠ 0 ∧ qs = .owner) :
    s.runAdmin aq op qs sc fs limits act detail = (s.taken aq j).endAdmin j.uid 0x01 op 0 0 := by
  unfold State.runAdmin
  simp only [hj, hop, ht]
  rw [if_neg (by simp), if_pos hq]
  rfl

/-- A byte that the engine writes has been written. -/
theorem runAdmin_written (hj : s.canStart aq = some j) (hop : u8 j.entry 0 = op) (ht : s.turnOf aq = true)
    (hq : ¬(aq = 0 ∧ qs = .partition ∨ aq ≠ 0 ∧ qs = .owner)) (hw : field j.entry 0x18 8 ≠ 0) :
    s.runAdmin aq op qs sc fs limits act detail = (s.taken aq j).endAdmin j.uid 0x02 0x18 0 0 := by
  unfold State.runAdmin
  simp only [hj, hop, ht]
  rw [if_neg (by simp), if_neg hq, if_pos hw]
  rfl

/-- A reserved bit is set. -/
theorem runAdmin_reserved {d : Nat} (hj : s.canStart aq = some j) (hop : u8 j.entry 0 = op) (ht : s.turnOf aq = true)
    (hq : ¬(aq = 0 ∧ qs = .partition ∨ aq ≠ 0 ∧ qs = .owner)) (hw : field j.entry 0x18 8 = 0)
    (hd : State.reservedFail j.entry 0 (State.adminHeader ++ [⟨0x18, 8, 2 ^ 64 - 1⟩] ++ fs) = some d) :
    s.runAdmin aq op qs sc fs limits act detail = (s.taken aq j).endAdmin j.uid 0x02 (detail d) 0 0 := by
  unfold State.runAdmin
  simp only [hj, hop, ht, hd]
  rw [if_neg (by simp), if_neg hq, if_neg (by simp [hw])]
  rfl

end

/-- Every administrative command is run by the one service, with its own fields, limits and part: its fields lie behind the flags, and
an offset there is its own DETAIL. -/
theorem exec_eq_runAdmin {c : Instr} {aq op : Nat} {qs : State.CmdQueues} (h : adminRow c = some (aq, op, qs)) (s : State) :
    ∃ sc fs limits act detail, exec c s = .next (s.runAdmin aq op qs sc fs limits act detail) ∧
      (∀ f ∈ fs, 1 ≤ State.FieldSpec.off f) ∧ detail 1 = 1 := by
  unfold adminRow at h
  split at h <;> cases h <;> exact ⟨_, _, _, _, _, rfl, by decide, rfl⟩

/-- Taking an entry leaves its job as it was. -/
theorem job?_taken (s : State) (aq : Nat) (j : Job) (uid : Nat) : (s.taken aq j).job? uid = s.job? uid := rfl

/-- Settles O47: every command goes through the one service, whose checks come one after another. -/
theorem administrativeChecksComeInOrder : Obligations.AdministrativeChecksComeInOrder := by
  unfold Obligations.AdministrativeChecksComeInOrder
  intro c aq op qs hrow s j hj
  obtain ⟨sc, fs, limits, act, detail, hexec, hfs, hdetail⟩ := exec_eq_runAdmin hrow s
  rw [hexec]
  refine ⟨fun h => congrArg _ (runAdmin_idle _ _ _ _ _ hj h), fun hop ht =>
    ⟨fun hq => congrArg _ (runAdmin_wrongQueue _ _ _ _ _ hj hop ht hq), fun hq =>
      ⟨fun hw => congrArg _ (runAdmin_written _ _ _ _ _ hj hop ht hq hw), fun hw hflags => ?_⟩⟩,
    fun hjob code detail count aux => job?_modJob_self (hjob.symm ▸ job?_taken s aq j j.uid) rfl⟩
  rw [runAdmin_reserved _ _ _ _ _ hj hop ht hq hw (reservedFail_flags hflags hfs), hdetail]

end Sys2Proof.Proofs

/-! Queue, region and window commands (13 R300 to R304, 03 R100, 06 R153, R155, 04 R114, 02 R59, R65, R66). -/

namespace Sys2Proof.Proofs

open Sys2Proof Sys2Proof.Machine Sys2Proof.Laws

-- One theorem at a time: many at once, in one text, hold more threads than the memory limit allows.
set_option Elab.async false

/-- A command that both kinds of queue accept acts once it is served and its fields are within their limits. -/
theorem runAdmin_of_both {s : State} {aq op p : Nat} {j : Job} {sc : State.CmdScope} {fs : List State.FieldSpec}
    (h : s.Served aq op p j sc fs) {limits : State → Nat → List Byte → List (Bool × Nat)} (act : State → Job → Nat → State)
    (hl : ∀ x ∈ limits (s.taken aq j) p j.entry, x.1 = false) :
    s.runAdmin aq op .both sc fs limits act = act (s.taken aq j) j p :=
  runAdmin_served h .both limits act (by simp) hl

/-! Queues. -/

section

variable {s : State} {aq p : Nat} {j : Job}

theorem createQueue_acts (h : s.Served aq 0x80 p j .part
      [⟨0x20, 2, 0xFFFF⟩, ⟨0x22, 1, 0xFF⟩, ⟨0x23, 1, 1⟩, ⟨0x24, 1, 0x3F⟩, ⟨0x28, 8, 2 ^ 64 - 1⟩, ⟨0x30, 8, 2 ^ 64 - 1⟩])
    (hrun : (s.taken aq j).inRun p (u16 j.entry 0x20) = true) (hlow : 4 ≤ u8 j.entry 0x22) (hhigh : u8 j.entry 0x22 ≤ 16)
    (hrec : bitOf (u8 j.entry 0x23) 0 = true → bitOf (s.taken aq j).features 0 = true)
    (hring : State.ringBad (u64 j.entry 0x28) = false) (hstatus : State.statusBad (u64 j.entry 0x30) = false) :
    exec (.createQueue aq) s = .next ((s.taken aq j).actCreateQueue j p) := by
  refine congrArg _ (runAdmin_of_both h State.actCreateQueue ?_)
  have hlog : ¬(u8 j.entry 0x22 < 4 ∨ 16 < u8 j.entry 0x22) := by omega
  have hfeature : (bitOf (u8 j.entry 0x23) 0 && !bitOf (s.taken aq j).features 0) = false := by
    cases hb : bitOf (u8 j.entry 0x23) 0 with
    | false => rfl
    | true => rw [hrec hb]; rfl
  simp [hrun, hlog, hfeature, hring, hstatus]

/-- A queue of the partition's run that is live in a state with a row passes the check of its field (13 R301, 03 R100). -/
theorem queueField_passes {rows : List QState} {t : State} {e : List Byte} {x : Queue} (hrun : t.inRun p (u16 e 0x20) = true)
    (hx : t.live? (.io (u16 e 0x20)) = some x) (hrow : x.state ∈ rows) : ∀ y ∈ State.queueField rows t p e, y.1 = false := by
  simp [State.queueField, hrun, hx, hrow]

/-- A live queue is in one of the five states. -/
theorem state_of_live? {t : State} {q : QId} {x : Queue} (hx : t.live? q = some x) :
    x.state ∈ [QState.active, .halted, .stopped, .error, .reset] := by
  have hlive := (live?_some.1 hx).2
  cases hs : x.state with
  | destroyed => exact absurd hs hlive
  | _ => decide

section

variable {x : Queue} (hrun : (s.taken aq j).inRun p (u16 j.entry 0x20) = true)
  (hx : (s.taken aq j).live? (.io (u16 j.entry 0x20)) = some x)

include hrun hx

theorem destroyQueue_acts (h : s.Served aq 0x81 p j .part [⟨0x20, 2, 0xFFFF⟩]) :
    exec (.destroyQueue aq) s = .next ((s.taken aq j).actDestroyQueue j p) :=
  congrArg _ (runAdmin_of_both h State.actDestroyQueue (queueField_passes hrun hx (state_of_live? hx)))

theorem cancelQueue_acts (h : s.Served aq 0x82 p j .part [⟨0x20, 2, 0xFFFF⟩]) (hrow : x.state = .active ∨ x.state = .halted) :
    exec (.cancelQueue aq) s = .next ((s.taken aq j).actCancelQueue j p) :=
  congrArg _ (runAdmin_of_both h State.actCancelQueue (queueField_passes hrun hx (by simpa using hrow)))

theorem resumeQueue_acts (h : s.Served aq 0x83 p j .part [⟨0x20, 2, 0xFFFF⟩])
    (hrow : x.state = .halted ∨ x.state = .reset ∨ x.state = .stopped) :
    exec (.resumeQueue aq) s = .next ((s.taken aq j).actResumeQueue j p) :=
  congrArg _ (runAdmin_of_both h State.actResumeQueue (queueField_passes hrun hx (by simpa using hrow)))

theorem resetQueue_acts (h : s.Served aq 0x84 p j .part [⟨0x20, 2, 0xFFFF⟩])
    (hrow : x.state = .active ∨ x.state = .halted ∨ x.state = .error ∨ x.state = .stopped) :
    exec (.resetQueue aq) s = .next ((s.taken aq j).actResetQueue j p) :=
  congrArg _ (runAdmin_of_both h State.actResetQueue (queueField_passes hrun hx (by simpa using hrow)))

theorem setShaper_acts
    (h : s.Served aq 0x85 p j .part [⟨0x20, 2, 0xFFFF⟩, ⟨0x24, 4, 2 ^ 32 - 1⟩, ⟨0x28, 4, 2 ^ 32 - 1⟩, ⟨0x2C, 4, 2 ^ 32 - 1⟩])
    (hq : 1 ≤ u32 j.entry 0x24) (hq' : u32 j.entry 0x24 ≤ 4096) (hr : u32 j.entry 0x28 ≤ 625000) (hb : 1 ≤ u32 j.entry 0x2C)
    (hb' : u32 j.entry 0x2C ≤ 16384) : exec (.setShaper aq) s = .next ((s.taken aq j).actSetShaper j p) := by
  refine congrArg _ (runAdmin_of_both h State.actSetShaper fun y hy => ?_)
  rcases List.mem_append.1 hy with hqueue | hshaper
  · exact queueField_passes hrun hx (state_of_live? hx) y hqueue
  · have hquantum : ¬(u32 j.entry 0x24 = 0 ∨ 4096 < u32 j.entry 0x24) := by omega
    have hrate : ¬625000 < u32 j.entry 0x28 := by omega
    have hburst : ¬(u32 j.entry 0x2C = 0 ∨ 16384 < u32 j.entry 0x2C) := by omega
    simp only [hquantum, hrate, hburst, decide_false, List.mem_cons, List.not_mem_nil, or_false] at hshaper
    rcases hshaper with rfl | rfl | rfl <;> rfl

end

/-! Regions and windows. -/

theorem createRegion_acts (h : s.Served aq 0x88 p j .part [⟨0x20, 8, 2 ^ 64 - 1⟩, ⟨0x28, 8, 2 ^ 64 - 1⟩, ⟨0x30, 1, 0x3F⟩, ⟨0x31, 1, 7⟩])
    (hl : ∀ x ∈ (s.taken aq j).regionLimits p j.entry 0x20, x.1 = false) :
    exec (.createRegion aq) s = .next ((s.taken aq j).actCreateRegion j p) :=
  congrArg _ (runAdmin_of_both h State.actCreateRegion hl)

theorem destroyRegion_acts (h : s.Served aq 0x89 p j .part [⟨0x20, 2, 0xFFFF⟩])
    (hid : ∃ x ∈ ((s.taken aq j).part p).regions, x.id = u16 j.entry 0x20) :
    exec (.destroyRegion aq) s = .next ((s.taken aq j).actDestroyRegion j p) :=
  congrArg _ (runAdmin_of_both h State.actDestroyRegion (by simpa using hid))

theorem openWindow_acts
    (h : s.Served aq 0x8A p j .part [⟨0x20, 1, 0xFF⟩, ⟨0x24, 4, 2 ^ 32 - 1⟩, ⟨0x28, 8, 2 ^ 64 - 1⟩, ⟨0x30, 8, 2 ^ 64 - 1⟩])
    (hw : u8 j.entry 0x20 ≤ 127)
    (hconn : ∃ c ∈ (s.taken aq j).ports.conns, c.conn = u32 j.entry 0x24 ∧ c.part = p ∧ c.isOpen = true)
    (hbase : u64 j.entry 0x28 % 4096 = 0) (hlen : u64 j.entry 0x30 ≠ 0) (hlen' : u64 j.entry 0x30 % 4096 = 0)
    (hlen'' : u64 j.entry 0x30 ≤ 2 ^ 56) : exec (.openWindow aq) s = .next ((s.taken aq j).actOpenWindow j p) := by
  refine congrArg _ (runAdmin_of_both h State.actOpenWindow ?_)
  have hany : ((s.taken aq j).ports.conns.any fun c => c.conn == u32 j.entry 0x24 && c.part == p && c.isOpen) = true := by
    obtain ⟨c, hc, hconn, hpart, hopen⟩ := hconn
    exact List.any_eq_true.2 ⟨c, hc, by simp [hconn, hpart, hopen]⟩
  have hnum : ¬127 < u8 j.entry 0x20 := by omega
  simp only [hnum, hany, hbase, hlen', not_lt.2 hlen'', beq_eq_false_iff_ne.2 hlen, List.forall_mem_cons]
  simp

theorem closeWindow_acts {w : Window} (h : s.Served aq 0x8B p j .part [⟨0x20, 1, 0xFF⟩])
    (hw : (s.taken aq j).window? p (u8 j.entry 0x20) = some w) :
    exec (.closeWindow aq) s = .next ((s.taken aq j).actCloseWindow j p) :=
  congrArg _ (runAdmin_of_both h State.actCloseWindow (by simp [hw]))

end

/-! What each of them does. -/

section

variable {t : State} {j : Job} {p : Nat}

theorem actCreateQueue_of_live (hranges : t.rangesFail p (u8 j.entry 0x24)
      (State.queueRanges (u64 j.entry 0x28) (u8 j.entry 0x22) (u64 j.entry 0x30)) = none)
    (hlive : t.live? (.io (u16 j.entry 0x20)) ≠ none) : t.actCreateQueue j p = t.endAdmin j.uid 0xC2 0 0 0 := by
  simp only [State.actCreateQueue, hranges]
  exact if_pos (Option.isSome_iff_ne_none.2 hlive)

theorem actCreateQueue_of_free (hranges : t.rangesFail p (u8 j.entry 0x24)
      (State.queueRanges (u64 j.entry 0x28) (u8 j.entry 0x22) (u64 j.entry 0x30)) = none)
    (hfree : t.live? (.io (u16 j.entry 0x20)) = none) : t.actCreateQueue j p = ((t.putQueue
      { qid := .io (u16 j.entry 0x20), part := p, ring := BitVec.ofNat 64 (u64 j.entry 0x28), log2 := u8 j.entry 0x22,
        status := BitVec.ofNat 64 (u64 j.entry 0x30), recovery := bitOf (u8 j.entry 0x23) 0, pd := u8 j.entry 0x24 }).writeStatus
          (.io (u16 j.entry 0x20))).endAdmin j.uid 0 0 0 0 := by
  simp only [State.actCreateQueue, hranges]
  exact if_neg (by simp [hfree])

theorem actDestroyQueue_eq {x : Queue} (hx : t.live? (.io (u16 j.entry 0x20)) = some x) : t.actDestroyQueue j p =
    if x.open_ = [] then (t.setQState (.io (u16 j.entry 0x20)) .destroyed).endAdmin j.uid 0 0 0 0 else t.endAdmin j.uid 0xC2 0 0 0 := by
  simp only [State.actDestroyQueue, hx, List.isEmpty_iff]

theorem actCancelQueue_of_active {x : Queue} (hx : t.live? (.io (u16 j.entry 0x20)) = some x) (hs : x.state = .active) :
    t.actCancelQueue j p = (t.endQueue (.io (u16 j.entry 0x20)) 0xA0 0).waitAdmin j.uid
      (.cancel (((t.endQueue (.io (u16 j.entry 0x20)) 0xA0 0).jobs.filter (·.queue == .io (u16 j.entry 0x20))).map (·.uid))) 0 0 := by
  simp [State.actCancelQueue, hx, hs]

theorem actCancelQueue_of_halted {x : Queue} (hx : t.live? (.io (u16 j.entry 0x20)) = some x) (hs : x.state = .halted) :
    t.actCancelQueue j p =
      let q := QId.io (u16 j.entry 0x20)
      let r := (t.modQueue q fun y => { y with state := .active }).endQueue q 0xA0 0
      (r.modQueue q fun y => { y with after := y.after ++ (t.jobs.filter (·.queue == q)).map (·.uid) }).waitAdmin j.uid
        (.cancel ((r.jobs.filter (·.queue == q)).map (·.uid))) 0 0 := by
  simp [State.actCancelQueue, hx, hs]

theorem actDestroyRegion_eq : t.actDestroyRegion j p =
    let r := t.modPart p fun x => { x with regions := x.regions.filter (·.id != u16 j.entry 0x20) }
    if r.protectedOk p = false then t.endAdmin j.uid 0xC2 0 0 0 else r.waitAdmin j.uid (.jobs (t.admitted p)) 0 0 := by
  simp [State.actDestroyRegion]

theorem windowNamed_iff (w : Nat) : ((t.part p).windows.any (·.w == w)) = true ↔ ∃ x ∈ (t.part p).windows, x.w = w := by
  simp

theorem actCloseWindow_of_unused {w : Window} (hw : t.window? p (u8 j.entry 0x20) = some w)
    (hu : t.windowUsed p (u8 j.entry 0x20) = false) : t.actCloseWindow j p =
      let onIt := fun (x : Region) => x.base.toNat / 2 ^ 56 == 0x40 + u8 j.entry 0x20
      ((t.modPart p fun x =>
        { x with regions := x.regions.filter fun r => !onIt r
                 windows := x.windows.map fun y => if y.w == u8 j.entry 0x20 then { y with closing := true, ready := false } else y }).emit
        (.winClosed w.conn (u8 j.entry 0x20))).waitAdmin j.uid (.jobs (t.admitted p)) ((t.part p).regions.filter onIt).length 0 := by
  simp only [State.actCloseWindow, hw, hu, Bool.false_eq_true, if_false]
  rfl

end

/-- Settles O48: each command, once served within its limits, does its own part, whose branches are the cases of the statement. -/
theorem queueRegionAndWindowCommandsAct : Obligations.QueueRegionAndWindowCommandsAct := by
  unfold Obligations.QueueRegionAndWindowCommandsAct
  refine ⟨fun s aq p j => ?_, fun s aq p j => ?_⟩
  · intro t e q
    refine ⟨fun h hrun hlow hhigh hrec hring hstatus hranges => ?_, fun x hrun hx => ⟨fun h => ?_, fun h => ?_, fun h hrow => ?_,
      fun h hrow => resetQueue_acts hrun hx h hrow, fun h hq hq' hr hb hb' => setShaper_acts hrun hx h hq hq' hr hb hb'⟩⟩
    · rw [createQueue_acts h hrun hlow hhigh hrec hring hstatus]
      exact ⟨fun hlive => congrArg _ (actCreateQueue_of_live hranges hlive), fun hfree => congrArg _ (actCreateQueue_of_free hranges hfree)⟩
    · rw [destroyQueue_acts hrun hx h, actDestroyQueue_eq hx]
      exact ⟨fun hnone => congrArg _ (if_pos hnone), fun hsome => congrArg _ (if_neg hsome)⟩
    · exact ⟨fun hs => (cancelQueue_acts hrun hx h (.inl hs)).trans (congrArg _ (actCancelQueue_of_active hx hs)),
        fun hs => (cancelQueue_acts hrun hx h (.inr hs)).trans (congrArg _ (actCancelQueue_of_halted hx hs))⟩
    · exact resumeQueue_acts hrun hx h hrow
  · intro t e
    refine ⟨fun h hlimits => ?_, fun h hid => ?_, fun h hw hconn hbase hlen hlen' hlen'' => ?_, fun w h hw => ?_⟩
    · rw [createRegion_acts h hlimits]
      exact ⟨fun hfull => congrArg _ (if_pos (by simpa using hfull)), fun hroom => congrArg _ (if_neg (by simpa using hroom))⟩
    · rw [destroyRegion_acts h hid, actDestroyRegion_eq]
      exact ⟨fun hbare => congrArg _ (if_pos hbare), fun hok => congrArg _ (if_neg (hok.trans_ne (by decide)))⟩
    · rw [openWindow_acts h hw hconn hbase hlen hlen' hlen'']
      exact ⟨fun hopen => congrArg _ (if_pos ((windowNamed_iff _).2 hopen)),
        fun hnew => congrArg _ (if_neg fun hopen => let ⟨x, hx, hxw⟩ := (windowNamed_iff _).1 hopen; hnew x hx hxw)⟩
    · rw [closeWindow_acts h hw]
      exact ⟨fun hused => congrArg _ (if_pos hused), fun hunused => congrArg _ (actCloseWindow_of_unused hw hunused)⟩

end Sys2Proof.Proofs

/-! Group, key and codebook-set commands (11 R244, R245, R268, 13 R305 to R307, 14 R323). -/

namespace Sys2Proof.Proofs

open Sys2Proof Sys2Proof.Machine Sys2Proof.Laws

-- One theorem at a time: many at once, in one text, hold more threads than the memory limit allows.
set_option Elab.async false

section

variable {s : State} {aq p : Nat} {j : Job}

/-! Commands within their limits. -/

/-- The limits of a group's record (13 R305). -/
structure GroupLimits (e : List Byte) : Prop where
  inT       : u8 e 0x21 % 16 ≤ 2
  outT      : u8 e 0x21 / 16 ≤ 2
  members   : 2 ≤ u16 e 0x22 ∧ u16 e 0x22 ≤ 4096
  chunk     : 32 ≤ u32 e 0x28 ∧ u32 e 0x28 ≤ 262144
  chunk32   : u32 e 0x28 % 32 = 0
  chunks    : 1 ≤ u16 e 0x2C ∧ u16 e 0x2C ≤ 4096
  depth     : 1 ≤ u8 e 0x2E ∧ u8 e 0x2E ≤ 16
  timeout   : 1 ≤ u16 e 0x30 ∧ u16 e 0x30 ≤ 10000
  route     : 0x20 ≤ u64 e 0x38 / 2 ^ 56 ∧ u64 e 0x38 / 2 ^ 56 ≤ 0x28
  aligned   : u64 e 0x38 % 64 = 0

theorem createGroup_acts (h : s.Served aq 0x8C p j .part
      [⟨0x20, 1, 0xFF⟩, ⟨0x21, 1, 0xFF⟩, ⟨0x22, 2, 0xFFFF⟩, ⟨0x24, 4, 2 ^ 32 - 1⟩, ⟨0x28, 4, 2 ^ 32 - 1⟩, ⟨0x2C, 2, 0xFFFF⟩,
       ⟨0x2E, 1, 0xFF⟩, ⟨0x30, 2, 0xFFFF⟩, ⟨0x32, 1, 0x3F⟩, ⟨0x38, 8, 2 ^ 64 - 1⟩, ⟨0x40, 8, 2 ^ 64 - 1⟩]) (hl : GroupLimits j.entry) :
    exec (.createGroup aq) s = .next ((s.taken aq j).actCreateGroup j p) := by
  refine congrArg _ (runAdmin_of_both h State.actCreateGroup ?_)
  obtain ⟨hin, hout, hm, hc, hc32, hn, hd, ht, hr, ha⟩ := hl
  have htypes : ¬(2 < u8 j.entry 0x21 % 16 ∨ 2 < u8 j.entry 0x21 / 16) := by omega
  have hmembers : ¬(u16 j.entry 0x22 < 2 ∨ 4096 < u16 j.entry 0x22) := by omega
  have hchunk : ¬(u32 j.entry 0x28 < 32 ∨ 262144 < u32 j.entry 0x28) := by omega
  have hchunks : ¬(u16 j.entry 0x2C = 0 ∨ 4096 < u16 j.entry 0x2C) := by omega
  have hdepth : ¬(u8 j.entry 0x2E = 0 ∨ 16 < u8 j.entry 0x2E) := by omega
  have htimeout : ¬(u16 j.entry 0x30 = 0 ∨ 10000 < u16 j.entry 0x30) := by omega
  simp only [htypes, hmembers, hchunk, hc32, hchunks, hdepth, htimeout, hr, ha, List.forall_mem_cons]
  simp

theorem destroyGroup_acts (h : s.Served aq 0x8D p j .part [⟨0x20, 1, 0xFF⟩]) (hg : (s.taken aq j).group? p (u8 j.entry 0x20) ≠ none) :
    exec (.destroyGroup aq) s = .next ((s.taken aq j).actDestroyGroup j p) :=
  congrArg _ (runAdmin_of_both h State.actDestroyGroup (by simpa using Option.isSome_iff_ne_none.2 hg))

/-- A command of a partition's own queue acts once it is served and its fields are within their limits. -/
theorem runAdmin_of_partition {op : Nat} {sc : State.CmdScope} {fs : List State.FieldSpec} (h : s.Served aq op p j sc fs) (haq : aq ≠ 0)
    {limits : State → Nat → List Byte → List (Bool × Nat)} (act : State → Job → Nat → State)
    (hl : ∀ x ∈ limits (s.taken aq j) p j.entry, x.1 = false) :
    s.runAdmin aq op .partition sc fs limits act = act (s.taken aq j) j p :=
  runAdmin_served h .partition limits act (by simp [haq]) hl

theorem bindKey_acts (h : s.Served aq 0x90 p j .part [⟨0x20, 2, 0xFFFF⟩, ⟨0x22, 1, 0x3F⟩, ⟨0x24, 1, 0xFF⟩, ⟨0x25, 1, 0xFF⟩])
    (haq : aq ≠ 0) (hslot : (s.taken aq j).slotPart (u16 j.entry 0x20) = p) (hle : u8 j.entry 0x24 ≤ u8 j.entry 0x25)
    (hroutes : ∀ r, u8 j.entry 0x24 ≤ r → r ≤ u8 j.entry 0x25 → State.routeDefined r = true) :
    exec (.bindKey aq) s = .next ((s.taken aq j).actBindKey j p) := by
  refine congrArg _ (runAdmin_of_partition h haq State.actBindKey ?_)
  have hdefined : ((List.range 256).any fun r => decide (u8 j.entry 0x24 ≤ r ∧ r ≤ u8 j.entry 0x25) && !State.routeDefined r) = false :=
    List.any_eq_false.2 fun r _ hr => by
      obtain ⟨hin, hundefined⟩ := Bool.and_eq_true_iff.1 hr
      obtain ⟨hlow, hhigh⟩ := of_decide_eq_true hin
      simp [hroutes r hlow hhigh] at hundefined
  simp only [hslot, hdefined, not_lt.2 hle, List.forall_mem_cons]
  simp

theorem unbindKey_acts (h : s.Served aq 0x91 p j .part [⟨0x20, 2, 0xFFFF⟩]) (haq : aq ≠ 0)
    (hslot : (s.taken aq j).slotPart (u16 j.entry 0x20) = p) :
    exec (.unbindKey aq) s = .next ((s.taken aq j).actUnbindKey j p) :=
  congrArg _ (runAdmin_of_partition h haq State.actUnbindKey (by simp [hslot]))

theorem claimCbset_acts (h : s.Served aq 0x92 p j .part [⟨0x20, 1, 0xFF⟩]) (hn : u8 j.entry 0x20 ≤ 7) :
    exec (.claimCbset aq) s = .next ((s.taken aq j).actClaim j p) :=
  congrArg _ (runAdmin_of_both h State.actClaim (by simpa using hn))

theorem releaseCbset_acts (h : s.Served aq 0x93 p j .part [⟨0x20, 1, 0xFF⟩]) (hn : u8 j.entry 0x20 ≤ 7) :
    exec (.releaseCbset aq) s = .next ((s.taken aq j).actRelease j p) :=
  congrArg _ (runAdmin_of_both h State.actRelease (by simpa using hn))

end

/-! What each of them does. -/

section

variable {t : State} {j : Job} {p : Nat}

/-- The group that a CREATE_GROUP entry describes, without its members. -/
def groupOf (e : List Byte) : Group :=
  { g := u8 e 0x20, tag := u32 e 0x24, m := u16 e 0x22, inT := u8 e 0x21 % 16, outT := u8 e 0x21 / 16, chunkElems := u32 e 0x28,
    epochChunks := u16 e 0x2C, slotDepth := u8 e 0x2E, timeout := u16 e 0x30, pd := u8 e 0x32,
    slotArea := BitVec.ofNat 64 (u64 e 0x38), members := [] }

/-- A readable table of legal members, one of them LOCAL, whose areas the partition may use. -/
structure TableOk (t : State) (p : Nat) (j : Job) (ks : List Nat) (ms : List Member) : Prop where
  table    : t.rangesFail p (u8 j.entry 0x32) [(u64 j.entry 0x40, 16 * u16 j.entry 0x22, true, false)] = none
  placed   : t.keys p j.xlat (u64 j.entry 0x40) (16 * u16 j.entry 0x22) = some ks
  sound    : ∀ k ∈ granulesOf ks, k ∉ t.store.poison
  members  : (List.range (u16 j.entry 0x22)).mapM (fun i => t.memberOf p (((ks.map t.store.get).drop (16 * i)).take 16)
    (u16 j.entry 0x2C * State.resultBytes (groupOf j.entry))) = some ms
  hasLocal : (ms.filter fun m => m.place.isNone) ≠ []
  areas    : t.rangesFail p (u8 j.entry 0x32) (((groupOf j.entry).slotArea.toNat,
    (ms.filter fun m => m.place.isNone).length * State.slotPartBytes (groupOf j.entry), true, true) ::
      (ms.filter fun m => m.place.isNone).map fun m => (m.recv.toNat, m.recvLen, true, true)) = none

/-- Its table being sound, a group is created unless the partition is full or has one of that number. -/
theorem actCreateGroup_eq {ks : List Nat} {ms : List Member} (h : TableOk t p j ks ms) : t.actCreateGroup j p =
    if 256 ≤ (t.part p).groups.length then t.endAdmin j.uid 0xC0 0 0 0
    else if (t.part p).groups.any (·.g == u8 j.entry 0x20) then t.endAdmin j.uid 0xC2 0 0 0
    else (t.modPart p fun x => { x with groups := x.groups ++ [{ groupOf j.entry with members := ms }] }).endAdmin j.uid 0 0 0 0 := by
  obtain ⟨htable, hplaced, hsound, hmembers, hlocal, hareas⟩ := h
  have hpoison : ((granulesOf ks).any t.store.poison.contains) = false :=
    List.any_eq_false.2 fun k hk hc => hsound k hk (List.contains_iff_mem.1 hc)
  replace hlocal : (ms.filter fun m => m.place.isNone).isEmpty = false := by simpa using hlocal
  unfold groupOf at hmembers hareas
  simp only [State.actCreateGroup, htable, hplaced, hpoison, Bool.false_eq_true, if_false, hmembers, hlocal, hareas]
  rfl

theorem groupJob_any_iff (l : List Job) (n : Nat) :
    (l.any fun k => k.part == p && k.groupOp && k.groupNo == n) = true ↔ ∃ k ∈ l, k.part = p ∧ k.groupOp = true ∧ k.groupNo = n := by
  simp [and_assoc]

theorem actBindKey_eq {k : Key} (hk : t.keyOf (u16 j.entry 0x20) = some k) : t.actBindKey j p =
    if k.bound.isSome then t.endAdmin j.uid 0xC2 0 0 0
    else (t.putKey k.slot (some { k with bound := some (u8 j.entry 0x22, u8 j.entry 0x24, u8 j.entry 0x25) })).endAdmin j.uid 0 0 0 0 := by
  simp only [State.actBindKey, hk]

theorem actBindKey_of_empty (hk : t.keyOf (u16 j.entry 0x20) = none) :
    t.actBindKey j p = t.endAdmin j.uid 0xC1 (u16 j.entry 0x20) 0 0 := by
  simp only [State.actBindKey, hk]

theorem actUnbindKey_of_bound {k : Key} (hk : t.keyOf (u16 j.entry 0x20) = some k) (hb : k.bound ≠ none) : t.actUnbindKey j p =
    (t.putKey (u16 j.entry 0x20) (some { k with bound := none })).waitAdmin j.uid (.jobs (t.slotJobs (u16 j.entry 0x20))) 0 0 := by
  simp only [State.actUnbindKey, hk]
  exact if_neg (by simpa using hb)

end

/-- Settles O49: each command, once served within its limits, does its own part, whose branches are the cases of the statement. -/
theorem groupKeyAndSetCommandsAct : Obligations.GroupKeyAndSetCommandsAct := by
  unfold Obligations.GroupKeyAndSetCommandsAct
  intro s aq p j t e
  refine ⟨fun ks ms h hin hout hm hm' hc hc' hc32 hn hn' hd hd' ht ht' hr hr' ha htable hplaced hsound hmembers hlocal hareas => ?_,
    fun h hg => ?_, fun haq hslot => ⟨fun h hle hroutes => ⟨fun hk => ?_, fun k hk hb => ?_, fun k hk hb => ?_⟩, fun k h hk hb => ?_⟩,
    fun hn => ⟨fun h => ?_, fun h => ?_⟩⟩
  · rw [createGroup_acts h ⟨hin, hout, ⟨hm, hm'⟩, ⟨hc, hc'⟩, hc32, ⟨hn, hn'⟩, ⟨hd, hd'⟩, ⟨ht, ht'⟩, ⟨hr, hr'⟩, ha⟩,
      actCreateGroup_eq ⟨htable, hplaced, hsound, hmembers, hlocal, hareas⟩]
    refine ⟨fun hfull => congrArg _ (if_pos hfull), fun hroom => ?_⟩
    rw [if_neg (Nat.not_le.2 hroom)]
    exact ⟨fun hsame => congrArg _ (if_pos (by simpa using hsame)), fun hnew => congrArg _ (if_neg (by simpa using hnew))⟩
  · rw [destroyGroup_acts h hg]
    exact ⟨fun hbusy => congrArg _ (if_pos ((groupJob_any_iff _ _).2 hbusy)),
      fun hidle => congrArg _ (if_neg fun hany => let ⟨k, hk, hgroup⟩ := (groupJob_any_iff _ _).1 hany; hidle k hk hgroup)⟩
  · rw [bindKey_acts h haq hslot hle hroutes, actBindKey_of_empty hk]
  · rw [bindKey_acts h haq hslot hle hroutes, actBindKey_eq hk, if_pos (Option.isSome_iff_ne_none.2 hb)]
  · rw [bindKey_acts h haq hslot hle hroutes, actBindKey_eq hk, if_neg (by simp [hb])]
  · rw [unbindKey_acts h haq hslot, actUnbindKey_of_bound hk hb]
  · rw [claimCbset_acts h hn]
    exact ⟨fun h0 hp => congrArg _ (if_pos ⟨h0, hp⟩), fun hfree => congrArg _ (if_neg fun hother => hfree.elim hother.1 hother.2)⟩
  · rw [releaseCbset_acts h hn]
    refine ⟨fun h0 => congrArg _ (if_pos h0), fun h0 hheld => ?_, fun h0 hp hidle => ?_⟩
    · exact congrArg _ ((if_neg h0).trans (if_pos hheld))
    · exact congrArg _ ((if_neg h0).trans (if_neg fun hheld => hheld.elim (fun h => h hp) fun h => Bool.false_ne_true (hidle.symm.trans h)))

end Sys2Proof.Proofs

/-! Channel commands (12 R276, R290, 13 R308) and REARM_PACER (12 R289, 13 R309). -/

namespace Sys2Proof.Proofs

open Sys2Proof Sys2Proof.Machine Sys2Proof.Laws

-- One theorem at a time: many at once, in one text, hold more threads than the memory limit allows.
set_option Elab.async false

section

variable {s : State} {aq p : Nat} {j : Job}

/-! Commands within their limits. -/

/-- An entry without a reserved bit set never asks where its fields count from. -/
theorem runAdmin_detail {op : Nat} {sc : State.CmdScope} {fs : List State.FieldSpec} (h : s.Served aq op p j sc fs) (qs : State.CmdQueues)
    (limits : State → Nat → List Byte → List (Bool × Nat)) (act : State → Job → Nat → State) (detail : Nat → Nat) :
    s.runAdmin aq op qs sc fs limits act detail = s.runAdmin aq op qs sc fs limits act := by
  simp only [State.runAdmin, h.start, h.reserved]

theorem setupChannel_acts (h : s.Served aq 0x94 p j .part State.setupFields) (hch : u8 j.entry 0x20 ≤ 63) :
    exec (.setupChannel aq) s = .next ((s.taken aq j).actSetupChannel j p) :=
  congrArg Host.Outcome.next ((runAdmin_detail h _ _ _ _).trans (runAdmin_of_both h State.actSetupChannel (by simpa using hch)))

theorem armChannel_acts (h : s.Served aq 0x95 p j .part [⟨0x20, 1, 0xFF⟩]) (hch : u8 j.entry 0x20 ≤ 63) :
    exec (.armChannel aq) s = .next ((s.taken aq j).actArm j p) :=
  congrArg Host.Outcome.next (runAdmin_of_both h State.actArm (by simpa using hch))

theorem disarmChannel_acts (h : s.Served aq 0x96 p j .part [⟨0x20, 1, 0xFF⟩]) (hch : u8 j.entry 0x20 ≤ 63) :
    exec (.disarmChannel aq) s = .next ((s.taken aq j).actDisarm j p) :=
  congrArg Host.Outcome.next (runAdmin_of_both h State.actDisarm (by simpa using hch))

theorem releaseChannel_acts (h : s.Served aq 0x97 p j .part [⟨0x20, 1, 0xFF⟩]) (hch : u8 j.entry 0x20 ≤ 63) :
    exec (.releaseChannel aq) s = .next ((s.taken aq j).actReleaseChannel j p) :=
  congrArg Host.Outcome.next (runAdmin_of_both h State.actReleaseChannel (by simpa using hch))

/-- A command of the owner's queue acts once it is served and its fields are within their limits. -/
theorem runAdmin_of_owner {op : Nat} {sc : State.CmdScope} {fs : List State.FieldSpec} (h : s.Served 0 op p j sc fs)
    {limits : State → Nat → List Byte → List (Bool × Nat)} (act : State → Job → Nat → State)
    (hl : ∀ x ∈ limits (s.taken 0 j) p j.entry, x.1 = false) :
    s.runAdmin 0 op .owner sc fs limits act = act (s.taken 0 j) j p :=
  runAdmin_served h .owner limits act (by simp) hl

theorem rearmPacer_acts (h : s.Served 0 0x98 p j .block [⟨0x20, 1, 0xFF⟩]) (hn : u8 j.entry 0x20 ≤ 7)
    (hstopped : ((s.taken 0 j).pacer (u8 j.entry 0x20)).stopped = true) :
    exec (.rearmPacer 0) s = .next ((s.taken 0 j).actRearm j p) :=
  congrArg Host.Outcome.next (runAdmin_of_owner h State.actRearm (by simpa [hstopped] using hn))

theorem rearmPacer_refused (h : s.Served 0 0x98 p j .block [⟨0x20, 1, 0xFF⟩])
    (hn : 7 < u8 j.entry 0x20 ∨ ((s.taken 0 j).pacer (u8 j.entry 0x20)).stopped = false) :
    exec (.rearmPacer 0) s = .next ((s.taken 0 j).endAdmin j.uid 0x02 0x20 0 0) := by
  have hbad : (decide (7 < u8 j.entry 0x20) || !((s.taken 0 j).pacer (u8 j.entry 0x20)).stopped) = true := by simpa using hn
  refine congrArg Host.Outcome.next (runAdmin_limits (d := 0x20) h .owner _ State.actRearm (by simp) ?_)
  rw [hbad]
  rfl

end

/-! What each of them does. -/

section

variable {t : State} {j : Job} {p : Nat}

/-- A channel's record within its limits. -/
structure ConfigOk (t : State) (p ch : Nat) (c : ChanCfg) : Prop where
  limits   : ∀ y ∈ State.cfgLimits c ch, y.1 = false
  types    : c.shufOp = 3 ∨ c.shufOp = 4 → typeBits c.shufType = 4 ∨ typeBits c.shufType = 8
  dst      : c.dst.toNat % 64 = 0
  cons     : c.cons.toNat % 16 = 0
  ranges   : t.rangesFail p c.pd (State.chanRanges c) = none

theorem chanArmed_eq_false {x : Chan} (h : x.state = .free ∨ x.state = .configured) : State.chanArmed x = false := by
  rcases h with h | h <;> simp [State.chanArmed, h]

/-- Its record being within its limits, a channel is configured unless another partition or an arming holds it. -/
theorem actSetupChannel_eq (h : ConfigOk t p (u8 j.entry 0x20) (State.cfgOf j.entry)) : t.actSetupChannel j p =
    let x := t.chan (u8 j.entry 0x20)
    if (x.state ≠ .free ∧ x.owner ≠ p) ∨ State.chanArmed x then t.endAdmin j.uid 0xC2 0 0 0
    else (t.modChan (u8 j.entry 0x20) fun y => { y with state := .configured, owner := p, cfg := State.cfgOf j.entry }).endAdmin
      j.uid 0 0 0 0 := by
  obtain ⟨hlimits, htypes, hdst, hcons, hranges⟩ := h
  have htypes' : ¬(((State.cfgOf j.entry).shufOp = 3 ∨ (State.cfgOf j.entry).shufOp = 4) ∧
      typeBits (State.cfgOf j.entry).shufType ≠ 4 ∧ typeBits (State.cfgOf j.entry).shufType ≠ 8) :=
    fun ⟨hop, h4, h8⟩ => (htypes hop).elim h4 h8
  simp only [State.actSetupChannel, lowestBad_none hlimits, if_neg htypes', hdst, hcons, hranges, ne_eq, not_true_eq_false, if_false]

variable {rows : List ChState} {f : State → Nat → State}

/-- A channel of the partition in a state with a row passes. -/
theorem chanCheck_passes (hown : (t.chan (u8 j.entry 0x20)).owner = p) (hrow : (t.chan (u8 j.entry 0x20)).state ∈ rows) :
    t.chanCheck j p rows f = f t (u8 j.entry 0x20) :=
  (if_neg fun h => h.2 hown).trans (if_neg (by simpa using hrow))

/-- A channel of another partition. -/
theorem chanCheck_held (hlive : (t.chan (u8 j.entry 0x20)).state ≠ .free) (hother : (t.chan (u8 j.entry 0x20)).owner ≠ p) :
    t.chanCheck j p rows f = t.endAdmin j.uid 0xC2 0 0 0 :=
  if_pos ⟨hlive, hother⟩

/-- A channel in a state without a row. -/
theorem chanCheck_refused (hown : (t.chan (u8 j.entry 0x20)).state = .free ∨ (t.chan (u8 j.entry 0x20)).owner = p)
    (hrow : (t.chan (u8 j.entry 0x20)).state ∉ rows) : t.chanCheck j p rows f = t.endAdmin j.uid 0x02 0x20 0 0 :=
  (if_neg fun h => hown.elim h.1 h.2).trans (if_pos (by simpa using hrow))

/-! A pacer serves again, and its HELD channels with it. -/

/-- A channel ARMED again. -/
def armed (x : Chan) : Chan := { x with state := .armed }

/-- A HELD channel is ARMED. -/
def armHeld (t : State) (c : Nat) : State := if (t.chan c).state = .held then t.modChan c armed else t

theorem armHeld_eq (t : State) (c : Nat) : ∃ l, armHeld t c = { t with chans := l } := by
  unfold armHeld
  split <;> exact ⟨_, rfl⟩

theorem chan_armHeld (t : State) (c d : Nat) :
    (armHeld t c).chan d = if d = c ∧ (t.chan d).state = .held then armed (t.chan d) else t.chan d := by
  unfold armHeld
  by_cases hheld : (t.chan c).state = .held
  · rw [if_pos hheld]
    by_cases hd : d = c
    · subst hd
      have hlt : d < t.chans.length := by
        by_contra hge
        rw [State.chan, List.getD_eq_default _ _ (Nat.not_lt.1 hge)] at hheld
        cases hheld
      rw [if_pos ⟨rfl, hheld⟩]
      exact getD_modAt_same _ _ _ _ hlt
    · rw [if_neg fun h => hd h.1]
      exact getD_modAt_other _ _ _ _ _ hd
  · rw [if_neg hheld, if_neg fun ⟨hd, h⟩ => hheld (hd ▸ h)]

theorem foldl_armHeld_eq (cs : List Nat) (t : State) : ∃ l, cs.foldl armHeld t = { t with chans := l } := by
  induction cs generalizing t with
  | nil => exact ⟨_, rfl⟩
  | cons c cs ih =>
    obtain ⟨l, hl⟩ := armHeld_eq t c
    obtain ⟨m, hm⟩ := ih (armHeld t c)
    exact ⟨m, by rw [List.foldl_cons, hm, hl]⟩

theorem chan_foldl_armHeld (l : List Nat) (t : State) (d : Nat) :
    (l.foldl armHeld t).chan d = if d ∈ l ∧ (t.chan d).state = .held then armed (t.chan d) else t.chan d := by
  induction l generalizing t with
  | nil => simp
  | cons c l ih =>
    rw [List.foldl_cons, ih, chan_armHeld]
    by_cases hnow : d = c ∧ (t.chan d).state = .held
    · rw [if_pos hnow, if_neg (by simp [armed]), if_pos ⟨by simp [hnow.1], hnow.2⟩]
    · rw [if_neg hnow]
      exact if_congr ⟨fun h => ⟨List.mem_cons_of_mem _ h.1, h.2⟩,
        fun h => ⟨(List.mem_cons.1 h.1).resolve_left fun hd => hnow ⟨hd, h.2⟩, h.2⟩⟩ rfl rfl

/-- The channels of a pacer. -/
theorem mem_pacerChans (n c : Nat) : c ∈ (List.range 8).map (8 * n + ·) ↔ c / 8 = n := by
  simp only [List.mem_map, List.mem_range]
  exact ⟨fun ⟨i, hi, hc⟩ => by omega, fun h => ⟨c % 8, by omega, by omega⟩⟩

/-- A pacer serves again, and its HELD channels with it. -/
def rearmed (t : State) (n : Nat) : State :=
  ((List.range 8).map (8 * n + ·)).foldl armHeld (t.modPacer n fun x => { x with stopped := false, cause := 0 })

theorem actRearm_eq : t.actRearm j p = (rearmed t (u8 j.entry 0x20)).endAdmin j.uid 0 0 0 0 := by
  rw [rearmed, List.foldl_map]
  rfl

theorem rearmed_eq (t : State) (n : Nat) : ∃ l, rearmed t n =
    { t.modPacer n (fun x => { x with stopped := false, cause := 0 }) with chans := l } := foldl_armHeld_eq _ _

theorem chan_rearmed (t : State) (n c : Nat) :
    (rearmed t n).chan c = if c / 8 = n ∧ (t.chan c).state = .held then armed (t.chan c) else t.chan c :=
  (chan_foldl_armHeld _ _ c).trans (if_congr (and_congr_left' (mem_pacerChans n c)) rfl rfl)

theorem pacer_rearmed {n : Nat} (hn : n < t.pacers.length) (m : Nat) :
    (rearmed t n).pacer m = if m = n then { t.pacer n with stopped := false, cause := 0 } else t.pacer m := by
  obtain ⟨l, hl⟩ := rearmed_eq t n
  rw [hl]
  by_cases hm : m = n
  · rw [if_pos hm, hm]
    exact getD_modAt_same _ _ _ _ hn
  · rw [if_neg hm]
    exact getD_modAt_other _ _ _ _ _ hm

end

/-- Settles O50: each command, once served within its limits, does its own part, whose branches are the cases of the statement. -/
theorem channelCommandsAct : Obligations.ChannelCommandsAct := by
  unfold Obligations.ChannelCommandsAct
  refine ⟨fun s aq p j => ?_, fun s j h => ?_⟩
  · intro t e ch x hch
    refine ⟨fun h hlimits htypes hdst hcons hranges => ?_, fun h hs hown => ?_, fun h hown => ⟨fun hs => ?_, fun hs => ?_⟩,
      fun h => ⟨fun hs hown => ?_, fun hlive hother => ?_, fun hs hown => ?_⟩⟩
    · rw [setupChannel_acts h hch, actSetupChannel_eq ⟨hlimits, htypes, hdst, hcons, hranges⟩]
      refine ⟨fun hheld => congrArg Host.Outcome.next (if_pos hheld), fun hfree => congrArg _ (if_neg fun hheld => ?_)⟩
      rcases hfree with hs | ⟨hs, hown⟩
      · exact hheld.elim (fun hother => hother.1 hs) (ne_true_of_eq_false (chanArmed_eq_false (.inl hs)))
      · exact hheld.elim (fun hother => hother.2 hown) (ne_true_of_eq_false (chanArmed_eq_false (.inr hs)))
    · rw [armChannel_acts h hch]
      exact congrArg Host.Outcome.next (chanCheck_passes hown (List.mem_singleton.2 hs))
    · rw [disarmChannel_acts h hch]
      exact congrArg Host.Outcome.next ((chanCheck_passes hown (by rw [hs]; decide)).trans (if_pos hs))
    · rw [disarmChannel_acts h hch]
      have hrow : x.state ∈ [ChState.armed, .running, .held] ∧ x.state ≠ .running := by
        rcases hs with hs | hs <;> rw [hs] <;> decide
      exact congrArg Host.Outcome.next ((chanCheck_passes hown hrow.1).trans (if_neg hrow.2))
    · rw [releaseChannel_acts h hch]
      exact congrArg Host.Outcome.next (chanCheck_passes hown (List.mem_singleton.2 hs))
    · rw [releaseChannel_acts h hch]
      exact congrArg Host.Outcome.next (chanCheck_held hlive hother)
    · rw [releaseChannel_acts h hch]
      exact congrArg Host.Outcome.next (chanCheck_refused hown (by simpa using hs))
  · intro t n
    refine ⟨fun hn => rearmPacer_refused h hn, fun hn hstopped hinv => ?_⟩
    rw [rearmPacer_acts h hn hstopped, actRearm_eq]
    refine ⟨_, rfl, ?_, pacer_rearmed (by rw [show t.pacers = s.pacers from rfl, hinv.pacers]; exact Nat.lt_succ_of_le hn),
      chan_rearmed t n⟩
    obtain ⟨l, hl⟩ := rearmed_eq t n
    rw [hl]
    rfl

end Sys2Proof.Proofs

/-! VOTE, READ_HEALTH, FENCE and SWAP_SPARE (13 R310 to R313, 16 R366, 18 R419, R420). -/

namespace Sys2Proof.Proofs

open Sys2Proof Sys2Proof.Machine Sys2Proof.Laws

-- One theorem at a time: many at once, in one text, hold more threads than the memory limit allows.
set_option Elab.async false

section

variable {s : State} {aq p : Nat} {j : Job}

/-! Commands within their limits. -/

/-- The limits of a vote (13 R310): a withdraw names neither floor nor spans, a hold a floor and spans of the partition. -/
structure VoteLimits (t : State) (p : Nat) (e : List Byte) : Prop where
  holder : u8 e 0x20 ≤ 15
  kind   : u8 e 0x21 = 0 ∧ u8 e 0x22 = 0 ∧ u64 e 0x28 = 0 ∨
    u8 e 0x21 = 1 ∧ u8 e 0x22 ≤ 2 ∧ u64 e 0x28 ≠ 0 ∧ ∀ n ∈ maskList 40 (u64 e 0x28), t.spanOwner n = p

theorem vote_acts (h : s.Served aq 0xA0 p j .part [⟨0x20, 1, 0xFF⟩, ⟨0x21, 1, 0xFF⟩, ⟨0x22, 1, 0xFF⟩, ⟨0x28, 8, 2 ^ 40 - 1⟩])
    (haq : aq ≠ 0) (hl : VoteLimits (s.taken aq j) p j.entry) : exec (.vote aq) s = .next ((s.taken aq j).actVote j p) := by
  refine congrArg Host.Outcome.next (runAdmin_of_partition h haq State.actVote ?_)
  obtain ⟨hholder, ⟨hkind, hfloor, hmask⟩ | ⟨hkind, hfloor, hmask, hown⟩⟩ := hl
  · simp [hholder, hkind, hfloor, hmask]
  · simpa [hholder, hkind, hfloor, hmask] using hown

/-- The limits of a health request (13 R311): the owner reads any unit into host memory, a partition one of its spans. -/
structure HealthLimits (t : State) (aq p : Nat) (e : List Byte) : Prop where
  aligned   : u64 e 0x28 % 32 = 0
  owner     : aq = 0 → (u8 e 0x20 < 40 ∨ u8 e 0x20 = 0x30 ∨ u8 e 0x20 = 0x32) ∧ u8 e 0x21 = 0 ∧ u64 e 0x28 < 2 ^ 56
  partition : aq ≠ 0 → u8 e 0x20 < 40 ∧ t.spanOwner (u8 e 0x20) = p

theorem readHealth_acts (h : s.Served aq 0xA1 p j .block [⟨0x20, 1, 0xFF⟩, ⟨0x21, 1, 0x3F⟩, ⟨0x28, 8, 2 ^ 64 - 1⟩])
    (hl : HealthLimits (s.taken aq j) aq p j.entry) : exec (.readHealth aq) s = .next ((s.taken aq j).actReadHealth j p) := by
  refine congrArg Host.Outcome.next (runAdmin_of_both h State.actReadHealth ?_)
  obtain ⟨haligned, howner, hpart⟩ := hl
  by_cases haq : aq = 0
  · obtain ⟨hunit, hpd, hroute⟩ := howner haq
    have hunit' : (decide (u8 j.entry 0x20 < 40) || u8 j.entry 0x20 == 0x30 || u8 j.entry 0x20 == 0x32) = true := by
      simpa [or_assoc] using hunit
    simp only [if_pos haq, hunit', hpd, haligned, Nat.div_eq_of_lt hroute, List.forall_mem_cons]
    simp
  · simpa [haq, haligned] using hpart haq

/-- The limits of a fence (13 R312): a span, and one of its cores or all of it. -/
def FenceLimits (e : List Byte) : Prop := u8 e 0x20 ≤ 39 ∧ (u8 e 0x21 = 0xFF ∨ u8 e 0x21 ≤ 31)

theorem fence_acts (h : s.Served 0 0xA2 p j .block [⟨0x20, 1, 0xFF⟩, ⟨0x21, 1, 0xFF⟩, ⟨0x22, 1, 0xFF⟩]) (hl : FenceLimits j.entry)
    (hkind : u8 j.entry 0x22 ≤ 1) : exec (.fence 0) s = .next ((s.taken 0 j).actFence j p) := by
  refine congrArg Host.Outcome.next (runAdmin_of_owner h State.actFence ?_)
  obtain ⟨hspan, hcore⟩ := hl
  have hcore' : (decide (31 < u8 j.entry 0x21) && u8 j.entry 0x21 != 0xFF) = false := by
    rcases hcore with hall | hone
    · simp [hall]
    · simp [hone]
  simp [hspan, hcore', hkind]

theorem fence_fences (h : s.Served 0 0xA2 p j .block [⟨0x20, 1, 0xFF⟩, ⟨0x21, 1, 0xFF⟩, ⟨0x22, 1, 0xFF⟩]) (hl : FenceLimits j.entry)
    (hkind : u8 j.entry 0x22 = 0) :
    exec (.fence 0) s = .next ((s.taken 0 j).actFenceOn j (u8 j.entry 0x20) (u8 j.entry 0x21)) :=
  (fence_acts h hl (hkind.trans_le zero_le_one)).trans (congrArg Host.Outcome.next (if_pos hkind))

theorem fence_unfences (h : s.Served 0 0xA2 p j .block [⟨0x20, 1, 0xFF⟩, ⟨0x21, 1, 0xFF⟩, ⟨0x22, 1, 0xFF⟩]) (hl : FenceLimits j.entry)
    (hkind : u8 j.entry 0x22 = 1) :
    exec (.fence 0) s = .next ((s.taken 0 j).actUnfence j (u8 j.entry 0x20) (u8 j.entry 0x21)) :=
  (fence_acts h hl hkind.le).trans (congrArg Host.Outcome.next (if_neg (hkind.trans_ne one_ne_zero)))

/-- The limits of a swap (13 R313): the kind, a unit that has it, an active element. -/
structure SwapLimits (t : State) (e : List Byte) : Prop where
  kind    : u8 e 0x21 ≤ 3
  span    : u8 e 0x21 ≤ 1 → u8 e 0x20 ≤ 39
  lane    : u8 e 0x21 = 2 → u8 e 0x20 = 0x32
  sorting : u8 e 0x21 = 3 → u8 e 0x20 = 0x30 ∧ u8 e 0x22 = 0
  active  : t.elemActive (u8 e 0x20) (State.kindOf (u8 e 0x21)) (u8 e 0x22) = true

theorem swapSpare_acts (h : s.Served 0 0xA3 p j .block [⟨0x20, 1, 0xFF⟩, ⟨0x21, 1, 0xFF⟩, ⟨0x22, 1, 0xFF⟩])
    (hl : SwapLimits (s.taken 0 j) j.entry) : exec (.swapSpare 0) s = .next ((s.taken 0 j).actSwap j p) := by
  refine congrArg Host.Outcome.next (runAdmin_of_owner h State.actSwap ?_)
  obtain ⟨hkind, hspan, hlane, hsorting, hactive⟩ := hl
  generalize u8 j.entry 0x21 = k at hkind hspan hlane hsorting hactive ⊢
  obtain rfl | rfl | rfl | rfl : k = 0 ∨ k = 1 ∨ k = 2 ∨ k = 3 := by omega
  · simp [hspan (by decide), hactive]
  · simp [hspan (by decide), hactive]
  · rw [hlane rfl] at hactive ⊢
    simp [hactive]
  · obtain ⟨hunit, helem⟩ := hsorting rfl
    rw [hunit, helem] at hactive ⊢
    simp [hactive]

end

/-! What each of them does. -/

section

variable {t : State} {j : Job} {p : Nat}

theorem actReadHealth_of_placed {aq : Nat} {bs : List (Target × Nat × Byte)} (haq : j.part = aq)
    (hranges : aq ≠ 0 → t.rangesFail aq (u8 j.entry 0x21) [(u64 j.entry 0x28, 32, false, true)] = none)
    (hplaced : t.place aq j.xlat (u64 j.entry 0x28) (t.healthBytes (u8 j.entry 0x20)) = some bs) : t.actReadHealth j p =
      ((t.issue (.admin aq) aq 0 (u64 j.entry 0x28 / 2 ^ 56) bs []).useFree).waitAdmin j.uid .writes 0 0 := by
  have hnone : (if aq = 0 then none else t.rangesFail aq (u8 j.entry 0x21) [(u64 j.entry 0x28, 32, false, true)]) = none := by
    split
    · rfl
    next h => exact hranges h
  simp only [State.actReadHealth, haq, hnone, hplaced]

theorem spanFenced_eq_false {n : Nat} (h : (t.span n).fence = .none) : t.spanFenced n = false := by
  simp [State.spanFenced, h]

/-- What a fence waits for. -/
theorem fenceDone_span (hc : u8 j.entry 0x21 = 0xFF) (n : Nat) (ks : List (Nat × Nat)) : t.fenceDone j n ks =
    (t.modIncident n fun x => { x with reacted := true, killed := x.killed ++ ks }).waitAdmin j.uid (.fence n none) 0 0 := by
  rw [State.fenceDone, if_pos hc]

theorem fenceDone_core (hc : u8 j.entry 0x21 ≤ 31) (n : Nat) (ks : List (Nat × Nat)) : t.fenceDone j n ks =
    (t.modIncident n fun x => { x with reacted := true, killed := x.killed ++ ks }).waitAdmin j.uid
      (.fence n (some (u8 j.entry 0x21))) 0 0 := by
  rw [State.fenceDone, if_neg (by omega)]

/-- A whole span taken out of service. -/
theorem actFenceOn_span {n : Nat} (h : (t.span n).fence = .none) : t.actFenceOn j n 0xFF =
    if t.lastSpan n then t.endAdmin j.uid 0xC2 0 0 0
    else ((t.cmdIncident n 1 (t.spanOwner n)).fenceSpan n .byOwner).1.fenceDone j n
      ((t.cmdIncident n 1 (t.spanOwner n)).fenceSpan n .byOwner).2 := by
  simp [State.actFenceOn, spanFenced_eq_false h]

/-- A core taken out of service. -/
theorem actFenceOn_core {n c : Nat} (hc : c ≤ 31)
    (hcore : (t.span n).cores.getD c .spare = .active ∨ (t.span n).cores.getD c .spare = .spare) (h : (t.span n).fence = .none) :
    t.actFenceOn j n c =
      if t.fenceLeavesNone n c then t.endAdmin j.uid 0xC2 0 0 0
      else ((t.cmdIncident n 1 (t.spanOwner n)).fenceCore n c false).1.fenceDone j n
        ((t.cmdIncident n 1 (t.spanOwner n)).fenceCore n c false).2 := by
  have hall : c ≠ 0xFF := by omega
  rcases hcore with hcore | hcore <;> simp [State.actFenceOn, hall, hcore, spanFenced_eq_false h, -List.getD_eq_getElem?_getD]

/-- A span fenced by hand or by the keeper needs nothing. -/
theorem actFenceOn_fenced {n : Nat} (h : (t.span n).fence = .byOwner ∨ (t.span n).fence = .byKeeper) :
    t.actFenceOn j n 0xFF = t.endAdmin j.uid 0 0 0 0 := by
  rcases h with h | h <;> simp [State.actFenceOn, State.spanFenced, h]

/-- A span that fell below 8 cores stays fenced by the owner's word. -/
theorem actFenceOn_byCount {n : Nat} (h : (t.span n).fence = .byCount) :
    t.actFenceOn j n 0xFF = (t.modSpan n fun x => { x with fence := .byOwner }).endAdmin j.uid 0 0 0 0 := by
  simp [State.actFenceOn, State.spanFenced, h]

/-- A fenced core needs nothing. -/
theorem actFenceOn_fencedCore {n c : Nat} (hc : c ≤ 31)
    (h : (t.span n).cores.getD c .spare = .fenced ∨ (t.span n).cores.getD c .spare = .keeperFenced) :
    t.actFenceOn j n c = t.endAdmin j.uid 0 0 0 0 :=
  (if_neg (by omega)).trans (if_pos h)

/-- A whole span back in service. -/
theorem actUnfence_span (n : Nat) : t.actUnfence j n 0xFF = match (t.span n).fence with
    | .none => t.endAdmin j.uid 0 0 0 0
    | .byKeeper => t.endAdmin j.uid 0xC2 0 0 0
    | _ => t.joinSpan j n := rfl

/-- A span of a partition that joins service waits for its floor. -/
theorem joinSpan_of_owned {n : Nat} (h : t.spanOwner n ≠ 0) : t.joinSpan j n =
    ((t.modSpan n fun x => { x with fence := .none, power := .deep, trans := none, wakeAfter := false }).raiseSpan n).waitAdmin j.uid
      (.floor (BitVec.ofNat 64 (2 ^ n)) 1) 0 0 := if_neg h

/-- A core back in service, in a span that its count has not fenced. -/
theorem actUnfence_core {n c : Nat} (hc : c ≤ 31) (hcore : (t.span n).cores.getD c .spare = .fenced) (h : (t.span n).fence ≠ .byCount) :
    t.actUnfence j n c = (t.modSpan n fun x =>
      { x with cores := modAt x.cores c fun _ => if t.coresActive n < 30 then .active else .spare }).endAdmin j.uid 0 0 0 0 := by
  let f := fun x : Span => { x with cores := modAt x.cores c fun _ => if t.coresActive n < 30 then Elem.active else .spare }
  have hstays : ((t.modSpan n f).span n).fence ≠ .byCount := by
    by_cases hn : n < t.spans.length
    · rwa [span_modSpan_self hn]
    · rw [State.span, List.getD_eq_default _ _ (by simpa [State.modSpan] using hn)]
      decide
  unfold State.actUnfence
  rw [if_neg (by omega : c ≠ 0xFF), hcore]
  exact if_neg fun hcount => hstays hcount.1

/-- The other cores need nothing, or are the keeper's. -/
theorem actUnfence_other {n c : Nat} (hc : c ≤ 31) :
    ((t.span n).cores.getD c .spare = .keeperFenced → t.actUnfence j n c = t.endAdmin j.uid 0xC2 0 0 0) ∧
    ((t.span n).cores.getD c .spare = .active ∨ (t.span n).cores.getD c .spare = .spare →
      t.actUnfence j n c = t.endAdmin j.uid 0 0 0 0) := by
  unfold State.actUnfence
  rw [if_neg (by omega : c ≠ 0xFF)]
  exact ⟨fun h => by rw [h], fun h => by rcases h with h | h <;> rw [h]⟩

/-- SWAP_SPARE with no spare left, and by the unit's kind. -/
theorem actSwap_none (h : t.spareOf (u8 j.entry 0x20) (State.kindOf (u8 j.entry 0x21)) = none) :
    t.actSwap j p = t.endAdmin j.uid 0xC2 0 0 0 := if_pos (by simp [h])

theorem actSwap_span {x : Nat} (h : t.spareOf (u8 j.entry 0x20) (State.kindOf (u8 j.entry 0x21)) = some x) (hn : u8 j.entry 0x20 ≤ 39)
    (hs : (t.span (u8 j.entry 0x20)).swap = none) : t.actSwap j p =
      (t.beginSwap (u8 j.entry 0x20) (State.kindOf (u8 j.entry 0x21)) (u8 j.entry 0x22)).waitAdmin j.uid
        (.swap (u8 j.entry 0x20) (State.kindOf (u8 j.entry 0x21)) (u8 j.entry 0x22)) 0 0 :=
  (if_neg (by simp [h])).trans ((if_pos (by omega)).trans (if_neg (by simp [hs])))

theorem actSwap_unit {x : Nat} (h : t.spareOf (u8 j.entry 0x20) (State.kindOf (u8 j.entry 0x21)) = some x) (hn : 40 ≤ u8 j.entry 0x20) :
    t.actSwap j p =
      (t.beginSwap (u8 j.entry 0x20) (State.kindOf (u8 j.entry 0x21)) (u8 j.entry 0x22)).endAdmin j.uid 0 0 0 0 :=
  (if_neg (by simp [h])).trans (if_neg (by omega))

theorem beginSwap_lane {n m x : Nat} (h : t.spareOf n .lane = some x) : t.beginSwap n .lane m = { t with lanes := { t.lanes with
    lanes := modAt (modAt t.lanes.lanes m fun _ => .spare) x fun _ => .active
    logical := t.lanes.logical.map fun l => if l == some m then some x else l } } := by
  simp only [State.beginSwap, h]

theorem beginSwap_sorting {n m x : Nat} (h : t.spareOf n .sorting = some x) :
    t.beginSwap n .sorting m = { t with lanes := { t.lanes with sorting := false } } := by
  simp only [State.beginSwap, h]

end

/-- Settles O51: each command, once served within its limits, does its own part, whose branches are the cases of the statement. -/
theorem voteHealthFenceAndSwapCommandsAct : Obligations.VoteHealthFenceAndSwapCommandsAct := by
  unfold Obligations.VoteHealthFenceAndSwapCommandsAct
  refine ⟨fun s aq p j => ?_, fun s j => ?_⟩
  · intro t e drop mask old
    refine ⟨fun haq h hholder => ⟨fun hkind hfloor hmask => ?_, fun hkind hfloor hmask hown => ?_⟩,
      fun bs h haligned howner hpart haq hplaced => ?_⟩
    · rw [vote_acts h haq ⟨hholder, .inl ⟨hkind, hfloor, hmask⟩⟩]
      exact congrArg Host.Outcome.next (if_pos hkind)
    · rw [vote_acts h haq ⟨hholder, .inr ⟨hkind, hfloor, hmask, hown⟩⟩]
      exact congrArg Host.Outcome.next (if_neg (hkind.trans_ne one_ne_zero))
    · rw [readHealth_acts h ⟨haligned, howner, fun h0 => ⟨(hpart h0).1, (hpart h0).2.1⟩⟩,
        actReadHealth_of_placed haq (fun h0 => (hpart h0).2.2) hplaced]
  · intro t e n c done held
    refine ⟨fun h hn => ⟨fun hc hon hfence => ?_, fun hc hon hfence => ?_, fun hc hon hfence => ?_, fun hc hon => ⟨fun hcore => ?_,
      fun hcore hfence => ?_⟩, fun hc hoff => ?_, fun hc hoff => ?_⟩, fun h hkind hspan hlane hsorting hactive => ?_⟩
    · rw [fence_fences h ⟨hn, .inl hc⟩ hon, show u8 j.entry 0x21 = 0xFF from hc, actFenceOn_span hfence, fenceDone_span hc]
      exact ⟨fun hlast => congrArg Host.Outcome.next (if_pos hlast),
        fun hlast => congrArg Host.Outcome.next (if_neg (ne_true_of_eq_false hlast))⟩
    · rw [fence_fences h ⟨hn, .inl hc⟩ hon, show u8 j.entry 0x21 = 0xFF from hc, actFenceOn_fenced hfence]
    · rw [fence_fences h ⟨hn, .inl hc⟩ hon, show u8 j.entry 0x21 = 0xFF from hc, actFenceOn_byCount hfence]
    · rw [fence_fences h ⟨hn, .inr hc⟩ hon, actFenceOn_fencedCore hc hcore]
    · rw [fence_fences h ⟨hn, .inr hc⟩ hon, actFenceOn_core hc hcore hfence, fenceDone_core hc]
      exact ⟨fun hnone => congrArg Host.Outcome.next (if_pos hnone),
        fun hsome => congrArg Host.Outcome.next (if_neg (ne_true_of_eq_false hsome))⟩
    · rw [fence_unfences h ⟨hn, .inl hc⟩ hoff, show u8 j.entry 0x21 = 0xFF from hc, actUnfence_span]
      refine ⟨fun hfence => ?_, fun hfence => ?_, fun hfence hown => ?_⟩
      · rw [show ((s.taken 0 j).span _).fence = _ from hfence]
      · rw [show ((s.taken 0 j).span _).fence = _ from hfence]
      · rw [← joinSpan_of_owned hown]
        rcases hfence with hfence | hfence <;> rw [show ((s.taken 0 j).span _).fence = _ from hfence]
    · rw [fence_unfences h ⟨hn, .inr hc⟩ hoff]
      exact ⟨fun hcore => congrArg Host.Outcome.next ((actUnfence_other hc).1 hcore),
        fun hcore => congrArg Host.Outcome.next ((actUnfence_other hc).2 hcore),
        fun hcore hfence => congrArg Host.Outcome.next (actUnfence_core hc hcore hfence)⟩
    · rw [swapSpare_acts h ⟨hkind, hspan, hlane, hsorting, hactive⟩]
      refine ⟨fun hnone => congrArg Host.Outcome.next (actSwap_none hnone), fun x hspare => ⟨fun hk hswap =>
        congrArg Host.Outcome.next (actSwap_span hspare (hspan hk) hswap), fun hk => ?_, fun hk => ?_⟩⟩
      · have hkindOf : State.kindOf (u8 j.entry 0x21) = .lane := congrArg State.kindOf hk
        rw [actSwap_unit hspare ((show 40 ≤ 50 by decide).trans_eq (hlane hk).symm), hkindOf, beginSwap_lane (hkindOf ▸ hspare)]
      · have hkindOf : State.kindOf (u8 j.entry 0x21) = .sorting := congrArg State.kindOf hk
        rw [actSwap_unit hspare ((show 40 ≤ 48 by decide).trans_eq (hsorting hk).1.symm), hkindOf, beginSwap_sorting (hkindOf ▸ hspare)]

end Sys2Proof.Proofs

/-! RESET, SCRUB_PARTITION, SWITCH_PROFILE and COMMAND_COMPLETES (13 R297, R315 to R318). -/

namespace Sys2Proof.Proofs

open Sys2Proof Sys2Proof.Machine Sys2Proof.Laws

-- One theorem at a time: many at once, in one text, hold more threads than the memory limit allows.
set_option Elab.async false

section

variable {s : State} {p : Nat} {j : Job}

/-- The limits of a reset (13 R315): a span, a partition or the block, each with the operands it needs and no other. -/
def ResetLimits (t : State) (p : Nat) (e : List Byte) : Prop :=
  u8 e 0x20 = 1 ∧ p = 0 ∧ u8 e 0x21 ≤ 39 ∨ u8 e 0x20 = 2 ∧ t.defined p = true ∧ u8 e 0x21 = 0 ∨ u8 e 0x20 = 3 ∧ p = 0 ∧ u8 e 0x21 = 0

theorem reset_acts (h : s.Served 0 0xA4 p j .free_ [⟨0x20, 1, 0xFF⟩, ⟨0x21, 1, 0xFF⟩]) (hl : ResetLimits (s.taken 0 j) p j.entry) :
    exec (.reset 0) s = .next ((s.taken 0 j).actReset j p) := by
  refine congrArg Host.Outcome.next (runAdmin_of_owner h State.actReset ?_)
  have hp : u8 j.entry 2 = p := h.acts.symm
  rcases hl with ⟨hlevel, hpart, hunit⟩ | ⟨hlevel, hpart, hunit⟩ | ⟨hlevel, hpart, hunit⟩ <;> simp [hp, hlevel, hpart, hunit]

theorem scrubPartition_acts (h : s.Served 0 0xA5 p j .part [⟨0x20, 1, 1⟩]) :
    exec (.scrubPartition 0) s = .next ((s.taken 0 j).actScrub j p) :=
  congrArg Host.Outcome.next (runAdmin_of_owner h State.actScrub (by simp))

theorem switchProfile_acts (h : s.Served 0 0xA6 p j .block [⟨0x20, 1, 0xFF⟩]) (hn : u8 j.entry 0x20 ≤ 3) :
    exec (.switchProfile 0) s = .next ((s.taken 0 j).actSwitch j p) :=
  congrArg Host.Outcome.next (runAdmin_of_owner h State.actSwitch (by simpa using hn))

end

/-! What a scrub and a switch do. -/

section

variable {t : State} {p : Nat} {j : Job}

/-- A partition still holds objects that a scrub would take away (13 R317). -/
def holdsObjects (t : State) (p : Nat) : Bool :=
  (t.queues.any fun x => x.state != .destroyed && x.part == p && (match x.qid with | .io _ => true | .adm _ => false)) ||
    !(t.part p).groups.isEmpty || !(t.part p).windows.isEmpty || (t.chans.any fun c => c.state != .free && c.owner == p)

theorem actScrub_of_held (h : holdsObjects t p = true) : t.actScrub j p = t.endAdmin j.uid 0xC2 0 0 0 := if_pos h

theorem actScrub_of_empty (h : holdsObjects t p = false) : t.actScrub j p =
    ((t.scrubPart p (bitOf (u8 j.entry 0x20) 0)).1.modPart p fun x => { x with scrubbing := true }).waitAdmin j.uid .writes
      (t.scrubPart p (bitOf (u8 j.entry 0x20) 0)).2.1 (t.scrubPart p (bitOf (u8 j.entry 0x20) 0)).2.2 := by
  have h' : ¬holdsObjects t p = true := by simp [h]
  unfold State.actScrub
  exact if_neg h'

/-- The block still holds objects that a switch would take away (13 R318). -/
def blockHoldsObjects (t : State) : Bool :=
  (t.queues.any fun x => x.state != .destroyed && (match x.qid with | .io _ => true | .adm k => k != 0 && !x.open_.isEmpty)) ||
    (t.parts.any fun x => !x.groups.isEmpty) || (t.chans.any fun c => c.state != .free)

/-- Every partition scrubbed, and A1 to A8 destroyed. -/
def emptied (t : State) : State :=
  ((List.range 9).foldl (fun (z : State) p => if z.defined p then (z.scrubPart p false).1 else z) t).destroyQueues State.notA0

/-- A profile selected, whose load is due (15 R351, R353). -/
def switchedTo (n : Nat) (z : State) : State :=
  { z with prof := { z.prof with
      selected := BitVec.ofNat 2 n, committed := false, loaded := false, loadDue := true, switching := true,
      failedA := false, failedB := false } }

theorem actSwitch_eq : t.actSwitch j p = if blockHoldsObjects t then t.endAdmin j.uid 0xC2 0 0 0
    else (switchedTo (u8 j.entry 0x20) (emptied t)).waitAdmin j.uid .profile 0 0 := by
  unfold State.actSwitch
  extract_lets -underBinder -merge held s1 s2
  have hs : s2 = emptied t := rfl
  clear_value s2
  rw [← hs]
  rfl

end

/-! A command that waits. -/

section

variable {s : State} {aq : Nat} {k : Job}

theorem queue_of_adminFront (h : s.adminFront aq = some k) : k.queue = .adm aq := by
  obtain ⟨i, -, hfind⟩ := Option.bind_eq_some_iff.1 h
  simpa using (List.mem_filter.1 (List.mem_of_find?_eq_some hfind)).2

/-- A command whose condition holds waits for something. -/
theorem wait_of_waitMet (h : s.waitMet aq k = true) : k.wait ≠ .none := fun hw => by simp [State.waitMet, hw] at h

theorem completeAdmin_of_waiting (hk : s.adminFront aq = some k) (h : s.waitMet aq k = false) : s.completeAdmin aq = s := by
  simp [State.completeAdmin, hk, h]

theorem completeAdmin_of_met (hk : s.adminFront aq = some k) (hp : k.phase = .running) (h : s.waitMet aq k = true) :
    s.completeAdmin aq = (s.adminEffect k).endAdmin k.uid 0 0 k.count
      (if u8 k.entry 0 = 0xA6 then s.prof.outcome else if u8 k.entry 0 = 0xA5 then k.aux else 0) := by
  simp [State.completeAdmin, hk, hp, h]

/-- What the end of a command of an administrative queue that waited leaves behind (13 R304, R317). -/
theorem adminEffect_of_adm (hq : k.queue = .adm aq) (hw : k.wait ≠ .none) :
    (u8 k.entry 0 = 0x8B → s.adminEffect k = s.modPart (if aq = 0 then u8 k.entry 2 else aq) fun x =>
      { x with windows := x.windows.filter fun w => !(w.closing && w.w == u8 k.entry 0x20) }) ∧
    (u8 k.entry 0 = 0xA5 → s.adminEffect k = s.modPart (if aq = 0 then u8 k.entry 2 else aq) fun x => { x with scrubbing := false }) ∧
    (u8 k.entry 0 ≠ 0x8B → u8 k.entry 0 ≠ 0xA5 → s.adminEffect k = s) := by
  simp only [State.adminEffect, hq, if_neg hw]
  refine ⟨fun h => by rw [h]; rfl, fun h => by rw [h]; rfl, fun h8B hA5 => ?_⟩
  split
  next h => exact absurd h h8B
  next h => exact absurd h hA5
  · rfl

end

/-- Settles O52: the three commands, once served within their limits, do their own part; a command that waits completes by its
condition. -/
theorem resetScrubAndSwitchAct : Obligations.ResetScrubAndSwitchAct := by
  unfold Obligations.ResetScrubAndSwitchAct
  intro s j t e held
  refine ⟨fun p u part sc h hscope => ?_, fun p h => ?_, fun h hn => ?_, fun aq k hk hrun => ⟨fun hwait => ?_, fun hmet h8B hA5 => ?_,
    fun hmet => ⟨fun h8B => ?_, fun hA5 => ?_⟩⟩⟩
  · rcases hscope with ⟨hlevel, hp, hunit, rfl, rfl, rfl⟩ | ⟨hlevel, hp, hunit, rfl, rfl, rfl⟩ | ⟨hlevel, hp, hunit, rfl, rfl, rfl⟩
    · rw [reset_acts h (.inl ⟨hlevel, hp, hunit⟩), State.actReset, show u8 j.entry 0x20 = 1 from hlevel]
      rfl
    · rw [reset_acts h (.inr (.inl ⟨hlevel, hp, hunit⟩)), State.actReset, show u8 j.entry 0x20 = 2 from hlevel]
      rfl
    · rw [reset_acts h (.inr (.inr ⟨hlevel, hp, hunit⟩)), State.actReset, show u8 j.entry 0x20 = 3 from hlevel]
      rfl
  · rw [scrubPartition_acts h]
    exact ⟨fun hobj => congrArg Host.Outcome.next (actScrub_of_held (t := t) hobj), fun hnone => congrArg Host.Outcome.next (actScrub_of_empty (t := t) hnone)⟩
  · rw [switchProfile_acts h hn]
    refine ⟨fun hobj => congrArg Host.Outcome.next (actSwitch_eq.trans (if_pos hobj)), fun hnone => ?_⟩
    intro u
    have hu : emptied (s.taken 0 j) = u := rfl
    have hempty : blockHoldsObjects (s.taken 0 j) = false := hnone
    rw [actSwitch_eq, hempty, if_neg Bool.false_ne_true, hu]
    clear_value u
    rfl
  · exact congrArg Host.Outcome.next (completeAdmin_of_waiting hk hwait)
  · refine congrArg Host.Outcome.next ((completeAdmin_of_met hk hrun hmet).trans ?_)
    rw [(adminEffect_of_adm (queue_of_adminFront hk) (wait_of_waitMet hmet)).2.2 h8B hA5, if_neg hA5]
  · refine congrArg Host.Outcome.next ((completeAdmin_of_met hk hrun hmet).trans ?_)
    rw [(adminEffect_of_adm (queue_of_adminFront hk) (wait_of_waitMet hmet)).1 h8B, if_neg (h8B.trans_ne (by decide)),
      if_neg (h8B.trans_ne (by decide))]
  · refine congrArg Host.Outcome.next ((completeAdmin_of_met hk hrun hmet).trans ?_)
    rw [(adminEffect_of_adm (queue_of_adminFront hk) (wait_of_waitMet hmet)).2.1 hA5, if_neg (hA5.trans_ne (by decide)), if_pos hA5]

end Sys2Proof.Proofs

/-! Paced channels: the producer and flush registers, and a run from its start to its pulse (12 R279 to R291). -/

namespace Sys2Proof.Proofs

open Sys2Proof Sys2Proof.Machine Sys2Proof.Laws

-- One theorem at a time: many at once, in one text, hold more threads than the memory limit allows.
set_option Elab.async false

/-! The two registers. -/

/-- A register write takes effect at once while the registers answer and the central domain is awake (16 R374). -/
theorem regWrite_awake {s : State} (ho : s.regsOpen = true) (ha : s.centralAsleep = false) (off : Nat) (v : Word32) (f : State → State) :
    s.regWrite off v f = f s := by
  simp [State.regWrite, ho, ha]

theorem producerWrite_moves {s : State} {ch : Nat} {v : Word32} (ha : State.chanArmed (s.chan ch) = true)
    (hv : (v - (s.chan ch).c).toNat ≤ 2 ^ (s.chan ch).cfg.log2) : s.producerWrite ch v = s.modChan ch fun y => { y with p := v } :=
  if_pos ⟨ha, hv⟩

theorem producerWrite_refused {s : State} {ch : Nat} {v : Word32}
    (h : State.chanArmed (s.chan ch) = false ∨ 2 ^ (s.chan ch).cfg.log2 < (v - (s.chan ch).c).toNat) : s.producerWrite ch v =
      (s.modChan ch fun y => { y with refusedP := y.refusedP + 1 }).countEvent (0x58 + ch / 8) 13 {} :=
  if_neg fun ⟨ha, hv⟩ => h.elim (ne_false_of_eq_true ha) (Nat.not_lt.2 hv)

/-! The channels of a state. -/

theorem chan_modChan_self {s : State} {ch : Nat} (h : ch < s.chans.length) (f : Chan → Chan) : (s.modChan ch f).chan ch = f (s.chan ch) :=
  getD_modAt_same _ _ _ _ h

theorem chan_modChan_ne {s : State} {ch i : Nat} (h : i ≠ ch) (f : Chan → Chan) : (s.modChan ch f).chan i = s.chan i :=
  getD_modAt_other _ _ _ _ _ h

/-- What does not touch the channels leaves them as they are. -/
theorem chans_of_within {l : List Field} {s t : State} (h : Within l s t) (hl : Field.chans ∉ l := by decide) : t.chans = s.chans :=
  (h.only .chans).resolve_left hl

theorem chan_of_within {l : List Field} {s t : State} (h : Within l s t) (ch : Nat) (hl : Field.chans ∉ l := by decide) :
    t.chan ch = s.chan ch := by
  rw [State.chan, chans_of_within h hl]
  rfl

/-! A run starts. -/

/-- Numbers of the channels of a pacer. -/
theorem pacerChan_div {p i : Nat} (hi : i < 8) : (8 * p + i) / 8 = p := by omega

theorem runningChan_eq_none {s : State} {p : Nat} (hp : p < 8) (h : ∀ i, i < 64 → i / 8 = p → (s.chan i).state ≠ .running) :
    s.runningChan p = none := by
  simp only [State.runningChan, List.find?_eq_none, List.mem_map, List.mem_range]
  rintro _ ⟨i, hi, rfl⟩
  simpa using h (8 * p + i) (by omega) (pacerChan_div hi)

/-- The eligible channel that follows the one served last is the first one found (R282). -/
theorem nextChan_eq_some {s : State} {p ch : Nat} (hp : p < 8) (hch : ch / 8 = p) (he : (s.chan ch).eligible = true)
    (hfirst : ∀ i, i < 64 → i / 8 = p → (s.chan i).eligible = true →
      (ch % 8 + 7 - (s.pacer p).last % 8) % 8 ≤ (i % 8 + 7 - (s.pacer p).last % 8) % 8) : s.nextChan p = some ch := by
  have hat : 8 * p + ((s.pacer p).last + 1 + (ch % 8 + 7 - (s.pacer p).last % 8) % 8) % 8 = ch := by omega
  unfold State.nextChan
  rw [List.find?_map, find?_range_of_first (r := (ch % 8 + 7 - (s.pacer p).last % 8) % 8) (by omega)]
  · exact congrArg some hat
  · exact (congrArg (fun c => (s.chan c).eligible) hat).trans he
  · intro q hq
    have hd : (8 * p + ((s.pacer p).last + 1 + q) % 8) / 8 = p := pacerChan_div (Nat.mod_lt _ (by omega))
    have hm : (8 * p + ((s.pacer p).last + 1 + q) % 8) % 8 = ((s.pacer p).last + 1 + q) % 8 := by omega
    refine Bool.eq_false_iff.2 fun he' => ?_
    have hle := hfirst (8 * p + ((s.pacer p).last + 1 + q) % 8) (by omega) hd he'
    omega

theorem startRun_of_next {s : State} {p ch : Nat} (hs : s.pacerServes p = true) (hr : s.runningChan p = none) (hn : s.nextChan p = some ch)
    (hb : s.spanFenced (s.chan ch).buffer = false) : s.startRun p =
      ((s.modChan ch fun x => { x with state := .running, flushRun := x.flush, drained := 0, phase := .draining,
                                       buffer := (s.chan ch).buffer, xlat := [] }).modPacer p fun y => { y with last := ch % 8 }).raiseSpan
        (s.chan ch).buffer := by
  simp only [State.startRun, hs, hr, hn, hb]
  rfl

/-- What the start of a run leaves: the channel runs, the pacer notes it, and only channels, pacers and spans change. -/
theorem startRun_started {s : State} {p ch : Nat} (hi : Inv s) (hp : p < 8) (hch : ch < 64) (hs : s.pacerServes p = true)
    (hr : s.runningChan p = none) (hn : s.nextChan p = some ch) (hb : s.spanFenced (s.chan ch).buffer = false) :
    let t := s.startRun p
    t.chan ch = { s.chan ch with state := .running, flushRun := (s.chan ch).flush, drained := 0, phase := .draining, xlat := [] } ∧
      (∀ i, i ≠ ch → t.chan i = s.chan i) ∧ (t.pacer p).last = ch % 8 ∧
      t = { s with chans := t.chans, pacers := t.pacers, spans := t.spans } := by
  intro t
  have hc : ch < s.chans.length := by rw [hi.chans]; exact hch
  have hq : p < s.pacers.length := by rw [hi.pacers]; exact hp
  have ht : t = _ := startRun_of_next hs hr hn hb
  obtain ⟨l, hl⟩ := raiseSpan_eq ((s.modChan ch fun x =>
    { x with state := .running, flushRun := x.flush, drained := 0, phase := .draining,
             buffer := (s.chan ch).buffer, xlat := [] }).modPacer p fun y => { y with last := ch % 8 }) (s.chan ch).buffer
  rw [hl] at ht
  rw [ht]
  refine ⟨?_, ?_, ?_, rfl⟩
  · exact chan_modChan_self hc _
  · exact fun i h => chan_modChan_ne h _
  · exact congrArg Pacer.last (getD_modAt_same _ _ _ _ hq)

/-! A record of a run is drained. -/

/-- A record that is readable, unpoisoned and has a place is issued, and counted in its channel. -/
theorem drainRecord_issues {s : State} {p ch : Nat} {ks : List Nat} {bs : List (Target × Nat × Byte)} (hr : s.runningChan p = some ch)
    (hs : s.pacerServes p = true) (hph : (s.chan ch).phase = .draining)
    (h1 : s.routeLost (s.chan ch).owner ((s.chan ch).cfg.src.toNat / 2 ^ 56) = false)
    (h2 : s.routeLost (s.chan ch).owner ((s.chan ch).cfg.dst.toNat / 2 ^ 56) = false)
    (hk : s.keys (s.chan ch).owner (s.chan ch).xlat
      ((s.chan ch).cfg.src.toNat + (s.chan ch).c.toNat % 2 ^ (s.chan ch).cfg.log2 * ((s.chan ch).cfg.recKib * 1024))
      ((s.chan ch).cfg.recKib * 1024) = some ks)
    (hpo : ∀ g ∈ granulesOf ks, g ∉ s.store.poison)
    (hpl : s.place (s.chan ch).owner (s.chan ch).xlat
      ((s.chan ch).cfg.dst.toNat + (s.chan ch).c.toNat % 2 ^ (s.chan ch).cfg.log2 * ((s.chan ch).cfg.recKib * 1024))
      (reshuffle (s.chan ch).cfg (ks.map s.store.get)) = some bs) :
    s.drainRecord p = (s.issue (.chanData ch) (s.chan ch).owner 0 ((s.chan ch).cfg.dst.toNat / 2 ^ 56) bs []).modChan ch fun y =>
      if Chan.runOver { y with c := y.c + 1, drained := y.drained + 1, records := y.records + 1 } then
        { y with c := y.c + 1, drained := y.drained + 1, records := y.records + 1, phase := .ended,
                 flush := y.flush && Chan.fill { y with c := y.c + 1, drained := y.drained + 1, records := y.records + 1 } != 0,
                 cleared := y.flush && Chan.fill { y with c := y.c + 1, drained := y.drained + 1, records := y.records + 1 } == 0 }
      else { y with c := y.c + 1, drained := y.drained + 1, records := y.records + 1 } := by
  have hbad : (granulesOf ks).any s.store.poison.contains = false := by simpa using hpo
  simp only [State.drainRecord, hr, hs, hph, List.find?, h1, h2, hk, hpl, hbad]
  rfl

/-- When a run ends, by its limit, its flush or its low mark (R283). -/
theorem runOver_iff (y : Chan) : y.runOver = true ↔
    y.drained = y.cfg.runLimit ∨ (y.flushRun = true ∧ y.fill = 0) ∨ (y.flushRun = false ∧ y.fill ≤ y.cfg.low) := by
  cases hf : y.flushRun <;> simp [Chan.runOver, hf]

/-! The end of a run, and its pulse. -/

theorem endRun_writes {s : State} {p ch : Nat} {bs : List (Target × Nat × Byte)} (hr : s.runningChan p = some ch)
    (hs : s.pacerServes p = true) (hph : (s.chan ch).phase = .ended) (hw : s.chanWrites ch = [])
    (hpl : s.place (s.chan ch).owner (s.chan ch).xlat (s.chan ch).cfg.cons.toNat (leBytes 4 (s.chan ch).c.toNat) = some bs) :
    s.endRun p = (s.issue (.chanCons ch) (s.chan ch).owner 0 ((s.chan ch).cfg.cons.toNat / 2 ^ 56) bs []).modChan ch fun y =>
      { y with phase := .consumer } := by
  simp only [State.endRun, hr, hs, hph, hw, hpl]
  rfl

/-- The channel that pulses is ARMED again, with one more run. -/
def pulsed (s : State) (ch : Nat) : State :=
  (s.modChan ch fun y =>
    { y with state := .armed, drained := 0, phase := .draining, flushRun := false, cleared := false, runs := y.runs + 1,
             xlat := [] }).emit (.evt ch)

theorem pulseRun_pulses {s : State} {p ch : Nat} (hr : s.runningChan p = some ch) (hph : (s.chan ch).phase = .consumer)
    (hw : s.chanWrites ch = []) :
    s.pulseRun p = if (s.chan ch).disarm then (pulsed s ch).dropChannel ch .configured else pulsed s ch := by
  simp only [State.pulseRun, hr, hph, hw]
  rfl

/-- A channel in service that is dropped to CONFIGURED keeps its counters and its indices. -/
theorem chan_dropChannel_configured {s : State} {ch : Nat} (h : ch < s.chans.length) : (s.dropChannel ch .configured).chan ch =
    { s.chan ch with state := .configured, flush := false, flushRun := false, cleared := false, drained := 0, phase := .draining,
                     disarm := false, xlat := [] } :=
  chan_modChan_self h _

theorem chan_pulsed {s : State} {ch : Nat} (h : ch < s.chans.length) : (pulsed s ch).chan ch =
    { s.chan ch with state := .armed, drained := 0, phase := .draining, flushRun := false, cleared := false,
                     runs := (s.chan ch).runs + 1, xlat := [] } :=
  chan_modChan_self h _

theorem chan_pulsed_ne {s : State} {ch i : Nat} (h : i ≠ ch) : (pulsed s ch).chan i = s.chan i :=
  chan_modChan_ne h _

/-! The obligation's clauses. -/

theorem exec_producer {s : State} (ho : s.regsOpen = true) (ha : s.centralAsleep = false) (ch : Nat) (v : Word32) :
    exec (.producer ch v) s = .next (s.producerWrite ch v) :=
  congrArg Host.Outcome.next (regWrite_awake ho ha _ v fun s => s.producerWrite ch v)

theorem exec_flushSet {s : State} (ho : s.regsOpen = true) (ha : s.centralAsleep = false) (ch : Nat) (v : Word32) :
    exec (.flushSet ch v) s = .next (s.flushWrite ch v) :=
  congrArg Host.Outcome.next (regWrite_awake ho ha _ v fun s => s.flushWrite ch v)

theorem pacerServes_of {s : State} {p : Nat} (hr : s.running = true) (ha : s.centralAsleep = false) (hp : (s.pacer p).stopped = false) :
    s.pacerServes p = true := by
  simp [State.pacerServes, hr, ha, hp]

/-- Settles O53, from the registers' rules and one lemma for each step of a run. -/
theorem pacedChannelsRun : Obligations.PacedChannelsRun := by
  unfold Obligations.PacedChannelsRun
  refine ⟨fun s ho ha => ⟨fun ch v _ => ⟨fun harm hv => ?_, fun href => ?_, exec_flushSet ho ha ch v⟩, ?_⟩,
    fun s p ch hrun hserve => ⟨?_, ?_, ?_⟩⟩
  · exact (exec_producer ho ha ch v).trans (congrArg Host.Outcome.next (producerWrite_moves harm hv))
  · exact (exec_producer ho ha ch v).trans (congrArg Host.Outcome.next (producerWrite_refused href))
  · intro p ch hi hp hch hd hrun hst hidle he hfirst hb
    exact ⟨_, rfl, startRun_started hi hp hch (pacerServes_of hrun ha hst) (runningChan_eq_none hp hidle)
      (nextChan_eq_some hp hd he hfirst) hb⟩
  · intro ks bs hph h1 h2 hk hpo hpl y ends hlen
    have ht := drainRecord_issues hrun hserve hph h1 h2 hk hpo hpl
    have hi := within_issue s (.chanData ch) (s.chan ch).owner 0 ((s.chan ch).cfg.dst.toNat / 2 ^ 56) bs [] none
    have hlen' : ch < (s.issue (.chanData ch) (s.chan ch).owner 0 ((s.chan ch).cfg.dst.toNat / 2 ^ 56) bs []).chans.length := by
      rw [chans_of_within hi]; exact hlen
    refine ⟨_, congrArg Host.Outcome.next ht, rfl, fun i h => (chan_modChan_ne h _).trans (chan_of_within hi i), fun h => ?_, fun h => ?_⟩
    · rw [chan_modChan_self hlen', chan_of_within hi]
      exact if_pos ((runOver_iff y).2 h)
    · rw [chan_modChan_self hlen', chan_of_within hi]
      exact if_neg fun h' => h ((runOver_iff y).1 h')
  · intro bs hph hw hpl
    exact congrArg Host.Outcome.next (endRun_writes hrun hserve hph hw hpl)
  · intro hph hw hlen
    have ht := pulseRun_pulses hrun hph hw
    have hlen' : ch < (pulsed s ch).chans.length := by simpa [pulsed, State.modChan] using hlen
    by_cases hd : (s.chan ch).disarm = true
    · rw [if_pos hd] at ht
      refine ⟨_, congrArg Host.Outcome.next ht, rfl, fun i h => (chan_modChan_ne h _).trans (chan_pulsed_ne h),
        fun h => (ne_true_of_eq_false h hd).elim, fun _ => ?_⟩
      rw [chan_dropChannel_configured hlen', chan_pulsed hlen]
      exact ⟨rfl, rfl, rfl, rfl, rfl, rfl⟩
    · rw [if_neg hd] at ht
      exact ⟨_, congrArg Host.Outcome.next ht, rfl, fun i h => chan_pulsed_ne h, fun _ => chan_pulsed hlen, fun h => (hd h).elim⟩

end Sys2Proof.Proofs

/-! The sleeping block: doorbells captured while the central domain sleeps, and their evaluation (16 R374, R375). -/

namespace Sys2Proof.Proofs

open Sys2Proof Sys2Proof.Machine Sys2Proof.Laws

-- One theorem at a time: many at once, in one text, hold more threads than the memory limit allows.
set_option Elab.async false

/-- A wake of the central domain keeps the captured doorbells and the recorded causes. -/
theorem wakeCentral_captured (s : State) : s.wakeCentral.central.captured = s.central.captured := by
  unfold State.wakeCentral
  dsimp only
  split
  · rfl
  · rfl
  · split <;> rfl

theorem wakeCentral_wakeCause (s : State) : s.wakeCentral.central.wakeCause = s.central.wakeCause := by
  unfold State.wakeCentral
  dsimp only
  split
  · rfl
  · rfl
  · split <;> rfl

/-- A central domain asleep in no transition begins its exit. -/
theorem wakeCentral_of_deep {s : State} (ht : s.central.trans = none) (hp : s.central.power = .deep) :
    s.wakeCentral = { s with central := { s.central with trans := some .exitDeep } } := by
  simp only [State.wakeCentral, ht, hp, if_true]

theorem trans_wakeCentral_of_deep {s : State} (ht : s.central.trans = none) (hp : s.central.power = .deep) :
    s.wakeCentral.central.trans = some .exitDeep := by
  rw [wakeCentral_of_deep ht hp]

theorem power_of_asleep {s : State} (ha : s.centralAsleep = true) (ht : s.central.trans = none) : s.central.power = .deep := by
  simpa [State.centralAsleep, ht] using ha

/-- A doorbell captured: behind the others, with its cause and the wake of the central domain. -/
theorem captureBell_room {s : State} {q : QId} {v : Word32} (h : s.central.captured.length < 64) : s.captureBell q v =
    (({ s with central := { s.central with captured := s.central.captured ++ [⟨q, v⟩] } } : State).wakeBit 0).wakeCentral :=
  if_pos h

theorem captureBell_full {s : State} {q : QId} {v : Word32} (h : 64 ≤ s.central.captured.length) : s.captureBell q v = s.emit .withheld :=
  if_neg (Nat.not_lt.2 h)

theorem captureBell_captures {s : State} {q : QId} {v : Word32} (ha : s.centralAsleep = true) (h : s.central.captured.length < 64) :
    let t := s.captureBell q v
    t.central.captured = s.central.captured ++ [⟨q, v⟩] ∧ t.central.wakeCause = s.central.wakeCause ||| 1 ∧
      (s.central.trans = none → t.central.trans = some .exitDeep) ∧ t = { s with central := t.central } := by
  intro t
  have ht : t = _ := captureBell_room h
  refine ⟨?_, ?_, fun hn => ?_, ?_⟩
  · rw [ht, wakeCentral_captured]
    rfl
  · rw [ht, wakeCentral_wakeCause]
    rfl
  · rw [ht]
    exact trans_wakeCentral_of_deep hn (power_of_asleep ha hn)
  · obtain ⟨c, hc⟩ := wakeCentral_eq
      (({ s with central := { s.central with captured := s.central.captured ++ [⟨q, v⟩] } } : State).wakeBit 0)
    rw [ht, hc]
    rfl

/-- A doorbell and its capture come to the same while the central domain sleeps. -/
theorem exec_doorbell_asleep {s : State} {off : Nat} {x : Queue} (v : Word32) (hb : s.bellWrite off 4 = some x) (ha : s.centralAsleep = true) :
    exec (.doorbell off 4 v) s = .next (s.captureBell x.qid v) ∧ exec (.doorbellCapture off 4 v) s = .next (s.captureBell x.qid v) := by
  have h1 : exec (.doorbell off 4 v) s = execDoorbell off 4 v s := rfl
  have h2 : exec (.doorbellCapture off 4 v) s = execDoorbellCapture off 4 v s := rfl
  rw [h1, h2, execDoorbell, execDoorbellCapture, hb]
  simp [ha]

/-- The central domain reaches RUN with nothing lost and no block level: what was captured is evaluated, then what waited runs. -/
theorem centralExited_runs {s : State} (ht : s.central.trans = some .exitDeep) (he : s.central.exitReset = false)
    (hl : ∀ l ∈ s.levels, l.scope ≠ .block) : s.centralExited =
      ({ s with central := { s.central with power := .run, trans := none } } : State).runCaptured.runDeferred := by
  have hany : (s.levels.any fun l => l.scope == .block) = false := by simpa using hl
  rw [State.centralExited, if_pos ht, if_neg (by rw [he]; exact Bool.false_ne_true), hany]
  rfl

/-- Settles O12, by the two cases of a capture and the exit of the central domain. -/
theorem sleepingBlockCapturesDoorbells : Obligations.SleepingBlockCapturesDoorbells := by
  unfold Obligations.SleepingBlockCapturesDoorbells
  refine ⟨fun s hr ht he hl => ?_, fun s off v x hb ha => ?_⟩
  · refine Eq.trans (congrArg Host.Outcome.next (if_pos hr)) (congrArg Host.Outcome.next ?_)
    exact centralExited_runs ht he hl
  · have ⟨h1, h2⟩ := exec_doorbell_asleep v hb ha
    exact ⟨_, h2, h1, captureBell_captures ha, captureBell_full⟩

end Sys2Proof.Proofs

/-! What faults and incidents leave: the ready signals of start-up, and the elements and fences of the spans (17, 18). -/

namespace Sys2Proof.Proofs

open Sys2Proof Sys2Proof.Machine Sys2Proof.Laws

-- One theorem at a time: many at once, in one text, hold more threads than the memory limit allows.
set_option Elab.async false

section
variable {l : List Field} {s t : State}

/-! Parts of the state that an operation does not touch. -/

theorem keeper_of_within (h : Within l s t) (hl : Field.keeper ∉ l := by decide) : t.keeper = s.keeper := (h.only .keeper).resolve_left hl

theorem central_of_within (h : Within l s t) (hl : Field.central ∉ l := by decide) : t.central = s.central :=
  (h.only .central).resolve_left hl

theorem ready_of_within (h : Within l s t) (hl : Field.keeper ∉ l := by decide) : t.keeper.ready = s.keeper.ready :=
  congrArg Keeper.ready (keeper_of_within h hl)

theorem prof_of_within (h : Within l s t) (hl : Field.prof ∉ l := by decide) : t.prof = s.prof := (h.only .prof).resolve_left hl

theorem tables_of_within (h : Within l s t) (hl : Field.tables ∉ l := by decide) : t.tables = s.tables := (h.only .tables).resolve_left hl

theorem spans_of_within (h : Within l s t) (hl : Field.spans ∉ l := by decide) : t.spans = s.spans := (h.only .spans).resolve_left hl

theorem quads_of_within (h : Within l s t) (hl : Field.quads ∉ l := by decide) : t.quads = s.quads := (h.only .quads).resolve_left hl

/-- The units are two parts of the state: their FAULT_INJECT registers, and the rest. -/
theorem units_of_within (h : Within l s t) (hu : Field.units ∉ l := by decide) (hj : Field.inject ∉ l := by decide) : t.units = s.units := by
  have h1 : (t.units.map fun x => { x with inject := 0 }) = s.units.map fun x => { x with inject := 0 } :=
    (h.only .units).resolve_left hu
  have h2 : t.units.map FUnit.inject = s.units.map FUnit.inject := (h.only .inject).resolve_left hj
  have hlen : t.units.length = s.units.length := by simpa using congrArg List.length h2
  refine List.ext_getElem hlen fun i hi hi' => ?_
  have h1i := congrArg (fun l => l[i]?) h1
  have h2i := congrArg (fun l => l[i]?) h2
  simp only [List.getElem?_map, List.getElem?_eq_getElem hi, List.getElem?_eq_getElem hi', Option.map_some, Option.some.injEq] at h1i h2i
  cases hx : t.units[i]
  cases hy : s.units[i]
  rw [hx, hy] at h1i h2i
  simp_all

theorem lanes_of_within (h : Within l s t) (hl : Field.lanes ∉ l := by decide) : t.lanes = s.lanes := (h.only .lanes).resolve_left hl

theorem refClk_of_within (h : Within l s t) (hl : Field.life ∉ l := by decide) : t.block.refClk = s.block.refClk := by
  have hb : Field.life.same s t := (h.only .life).resolve_left hl
  exact congrArg Block.refClk (a₁ := ({ t.block with free := 0, out := [] } : Block))
    (a₂ := ({ s.block with free := 0, out := [] } : Block)) hb

theorem phase_of_within (h : Within l s t) (hl : Field.life ∉ l := by decide) : t.block.phase = s.block.phase := by
  have hb : Field.life.same s t := (h.only .life).resolve_left hl
  exact congrArg Block.phase (a₁ := ({ t.block with free := 0, out := [] } : Block))
    (a₂ := ({ s.block with free := 0, out := [] } : Block)) hb

end

/-! What stands whatever fault, incident or level comes: the ready signals and the oscillator in use, the causes and losses that
the central domain has recorded, and the queues with their states. -/

/-- ID and state of a queue, and whether its context is lost. -/
def queueMark (x : Queue) : QId × QState × Bool := (x.qid, x.state, x.lost)

/-- From s to t the ready signals, the oscillator in use, what the central domain has recorded, and every queue's state stand. -/
structure Stands (s t : State) : Prop where
  ready     : t.keeper.ready = s.keeper.ready
  oscRc     : t.keeper.oscRc = s.keeper.oscRc
  retCut    : t.central.retCut = s.central.retCut
  exitReset : t.central.exitReset = s.central.exitReset
  wakeCause : t.central.wakeCause = s.central.wakeCause
  queues    : t.queues.map queueMark = s.queues.map queueMark

theorem stands_refl (s : State) : Stands s s := ⟨rfl, rfl, rfl, rfl, rfl, rfl⟩

theorem Stands.trans {s t u : State} (h : Stands s t) (k : Stands t u) : Stands s u :=
  ⟨k.ready.trans h.ready, k.oscRc.trans h.oscRc, k.retCut.trans h.retCut, k.exitReset.trans h.exitReset, k.wakeCause.trans h.wakeCause,
    k.queues.trans h.queues⟩

/-- What touches neither the keeper, nor the central domain, nor a queue leaves all of it. -/
theorem stands_of_within {l : List Field} {s t : State} (h : Within l s t) (hk : Field.keeper ∉ l := by decide)
    (hc : Field.central ∉ l := by decide) (hq : Field.queues ∉ l := by decide) : Stands s t := by
  have h1 : t.keeper = s.keeper := (h.only .keeper).resolve_left hk
  have h2 : t.central = s.central := (h.only .central).resolve_left hc
  have h3 : t.queues = s.queues := (h.only .queues).resolve_left hq
  exact ⟨congrArg Keeper.ready h1, congrArg Keeper.oscRc h1, congrArg Central.retCut h2, congrArg Central.exitReset h2, congrArg Central.wakeCause h2,
    congrArg (List.map queueMark) h3⟩

theorem foldl_stands {α : Type} {f : State → α → State} (h : ∀ z a, Stands z (f z a)) (l : List α) (s : State) : Stands s (l.foldl f s) := by
  induction l generalizing s with
  | nil => exact stands_refl s
  | cons a r ih => exact (h s a).trans (ih (f s a))

theorem ite_stands {s t u : State} {c : Prop} [Decidable c] (h : Stands s t) (k : Stands s u) : Stands s (if c then t else u) := by
  split
  · exact h
  · exact k

/-- An update of a queue that leaves its ID, its state and its loss. -/
theorem stands_modQueue (s : State) (q : QId) {f : Queue → Queue} (h : ∀ x, queueMark (f x) = queueMark x := by intro x; rfl) :
    Stands s (s.modQueue q f) := by
  refine ⟨rfl, rfl, rfl, rfl, rfl, ?_⟩
  rw [State.modQueue, List.map_map]
  refine List.map_congr_left fun x _ => ?_
  rw [Function.comp]
  split
  · exact h x
  · rfl

theorem stands_flushDue (s : State) (q : QId) : Stands s (s.flushDue q) := by
  unfold State.flushDue
  split
  · exact stands_refl s
  · refine ite_stands (stands_refl s) ?_
    split
    · exact (stands_modQueue s q).trans (stands_of_within (within_issue _ _ _ _ _ _ _ _))
    · exact (stands_of_within (within_askRange _ _ _ _ _ _ _))

theorem stands_writeStatus (s : State) (q : QId) : Stands s (s.writeStatus q) := by
  unfold State.writeStatus
  split
  · exact stands_refl s
  · exact ite_stands (stands_refl s) ((stands_modQueue s q).trans (stands_flushDue _ q))

theorem stands_noteHalts (s : State) (q : QId) : Stands s (s.noteHalts q) := by
  unfold State.noteHalts
  split
  · exact ite_stands (stands_writeStatus s q) (stands_refl s)
  · exact stands_refl s

/-! The end of jobs. -/

theorem stands_afterKill (s : State) (uid : Nat) (q : QId) (spans : List Nat) (f : Nat → Bool) : Stands s (s.afterKill uid q spans f) :=
  ((stands_of_within (within_drainReads s uid f)).trans (foldl_stands (fun z n => (stands_of_within (within_settleRun z n))) _ _)).trans (stands_noteHalts _ q)

theorem stands_endRaw (s : State) (uid code detail pos : Nat) : Stands s (s.endRaw uid code detail pos) := by
  unfold State.endRaw
  split
  · exact stands_refl s
  · exact (((stands_of_within (within_adminEffect s _)).trans (stands_of_within (within_modJob _ _ _))).trans (stands_modQueue _ _)).trans
      (stands_afterKill _ _ _ _ _)

theorem stands_abortGroup (s : State) (p g : Nat) (cause : AbortCause) : Stands s (s.abortGroup p g cause) := by
  unfold State.abortGroup State.endGroupJobs
  split
  · exact stands_refl s
  · refine ite_stands (stands_refl s) ?_
    exact ((stands_of_within (within_modGroup s _ _ _)).trans (foldl_stands (fun z d => (stands_of_within (within_postMsg z _ _ _))) _ _)).trans
      (foldl_stands (fun z j => stands_endRaw z _ _ _ _) _ _)

theorem stands_endJob (s : State) (uid code detail pos : Nat) : Stands s (s.endJob uid code detail pos) := by
  unfold State.endJob
  split
  · exact stands_refl s
  · next j _ =>
    have h : Stands s (s.endRaw uid code detail pos) := stands_endRaw s uid code detail pos
    exact ite_stands h (ite_stands (ite_stands h (h.trans (stands_of_within (within_modGroup _ _ _ _)))) (h.trans (stands_abortGroup _ _ _ _)))

theorem stands_endQueue (s : State) (q : QId) (code detail : Nat) : Stands s (s.endQueue q code detail) := by
  unfold State.endQueue
  split
  · exact stands_refl s
  · refine ite_stands (stands_refl s) (Stands.trans (foldl_stands (fun z idx => ?_) _ s) (stands_modQueue _ q))
    split
    · exact (stands_of_within (within_addUnread z _ idx code detail))
    · exact ite_stands (ite_stands (stands_of_within (within_modJob z _ _)) (stands_refl z)) (ite_stands ((ite_stands
        (stands_endRaw z _ _ _ _) (stands_endJob z _ _ _ _)).trans (stands_of_within (within_modJob _ _ _))) (stands_refl z))

/-! Incidents. -/

theorem stands_wakeCentral (s : State) : Stands s s.wakeCentral := by
  unfold State.wakeCentral
  dsimp only
  split
  · exact ⟨rfl, rfl, rfl, rfl, rfl, rfl⟩
  · exact stands_refl s
  · exact ite_stands ⟨rfl, rfl, rfl, rfl, rfl, rfl⟩ (stands_refl s)

theorem stands_voteCommitted (s : State) (floor : Nat) (l : List Nat) : Stands s (s.voteCommitted floor l) :=
  (stands_wakeCentral s).trans
    (foldl_stands (fun z n => ite_stands (stands_of_within (within_raiseSpan z n)) (stands_of_within (within_settleRun z n))) l _)

theorem stands_slotWrite (s : State) (p : Nat) (bs : List Byte) : Stands s (s.slotWrite p bs) := by
  have hdue : Stands s { s with keeper := { s.keeper with slotDue := s.keeper.slotDue ++ [(p, bs)] } } := ⟨rfl, rfl, rfl, rfl, rfl, rfl⟩
  exact (ite_stands (stands_refl s) (hdue.trans (stands_of_within (within_askXlat _ _ _ _ _)))).trans (stands_of_within (within_emit _ _))

theorem stands_writeRecord (s : State) (u : Nat) (closed : Bool) : Stands s (s.writeRecord u closed) := by
  unfold State.writeRecord
  split
  · exact stands_refl s
  · next x _ =>
    have hring (k : Keeper) (hk : k.ready = s.keeper.ready) (ho : k.oscRc = s.keeper.oscRc) : Stands s { s with keeper := k } :=
      ⟨hk, ho, rfl, rfl, rfl, rfl⟩
    have howner := (hring { s.keeper with
      ring := modAt s.keeper.ring (x.seq.toNat % 16) fun _ => BitVec.ofNat 128 (leNat (State.incidentBytes u x closed))
      lastSeq := if (x.seq - s.keeper.lastSeq).toNat < 2 ^ 15 then x.seq else s.keeper.lastSeq, anyInc := true } rfl rfl).trans
        (stands_slotWrite _ 0 (State.incidentBytes u x closed))
    exact ite_stands howner (howner.trans (stands_slotWrite _ _ _))

theorem stands_rewrite (s : State) (u : Nat) : Stands s (s.rewrite u) := by
  unfold State.rewrite
  split
  · exact ite_stands (stands_writeRecord s u false) (stands_refl s)
  · exact stands_refl s

theorem stands_tryClose (s : State) (u : Nat) : Stands s (s.tryClose u) := by
  unfold State.tryClose
  split
  · exact stands_refl s
  · exact ite_stands (((stands_writeRecord s u true).trans (stands_of_within (within_modUnit _ _ _))).trans (stands_of_within (within_settleRun _ _))) (stands_refl s)

theorem stands_openIncident (s : State) (u : Nat) (x : Incident) : Stands s (s.openIncident u x) := by
  have hopen (y : Incident) : Stands s (let z := s.modUnit u fun z => { z with incident := some y }
      { z with keeper := { z.keeper with nextSeq := z.keeper.nextSeq + 1 } }) := ⟨rfl, rfl, rfl, rfl, rfl, rfl⟩
  exact ite_stands ((hopen _).trans (stands_voteCommitted _ 0 [u])) (hopen _)

theorem stands_cause (s : State) (u : Nat) (x : Incident) : Stands s (s.cause u x) := by
  unfold State.cause
  split
  · exact ite_stands ((stands_of_within (within_modIncident s u _)).trans (stands_rewrite _ u)) (stands_refl s)
  · exact stands_openIncident s u x

/-! Levels and reactions. -/

/-- A level ends jobs and leaves the queues' states; the block's and a power cycle hold ALIVE, and the block's takes the central domain
through DEEP_SLEEP. -/
theorem stands_levelBegin (s : State) (sc : Scope) : Stands s (s.levelBegin sc) := by
  unfold State.levelBegin
  split
  · exact stands_endQueue s _ _ _
  · exact (((foldl_stands (fun z j => (stands_endJob z _ _ _ _).trans (stands_of_within (within_modJob _ _ _))) _ s).trans
      (foldl_stands (fun z u => (stands_of_within (within_modJob z u _))) _ _)).trans (stands_of_within (within_dropPassReads _ _))).trans
        (stands_of_within (within_raiseSpan _ _))
  · exact ((foldl_stands (fun z q => stands_endQueue z q 0xA3 0) _ s).trans
      (foldl_stands (fun z c => ite_stands (stands_of_within (within_dropChannel z c _)) (stands_refl z)) _ _)).trans (stands_of_within (within_cycleSpans _ _))
  · have hset (z : State) : Stands z { z with
        central := { z.central with trans := some .toDeep, wakeAfter := true }
        keeper := { z.keeper with frozen := true }
        prof := { z.prof with loadDue := true, switching := false, loaded := false, failedA := false, failedB := false }
        pacers := List.replicate 8 {}
        block := if z.block.phase = .stopped then z.block else { z.block with phase := .starting, step := 4 } } := ⟨rfl, rfl, rfl, rfl, rfl, rfl⟩
    exact (((foldl_stands (fun z q => stands_endQueue z q 0xA4 0) _ s).trans
      (foldl_stands (fun z c => stands_of_within (within_dropChannel z c .free)) _ _)).trans
        (stands_of_within (within_cycleSpans _ _))).trans (hset _)
  · exact ⟨rfl, rfl, rfl, rfl, rfl, rfl⟩

theorem stands_startLevel (s : State) (sc : Scope) (units : List Nat) (origin : Option QId) :
    Stands s (s.startLevel sc units origin).1 := by
  unfold State.startLevel
  split
  · exact ⟨rfl, rfl, rfl, rfl, rfl, rfl⟩
  · next h =>
    have hput (ls : List Level) (n : Nat) : Stands s { s with levelNext := n, levels := ls } := ⟨rfl, rfl, rfl, rfl, rfl, rfl⟩
    exact ((hput _ _).trans (stands_of_within (within_suspendSwaps _ sc))).trans (stands_levelBegin _ sc)

theorem stands_react (s : State) (u lvl : Nat) (c : FaultCtx) : Stands s (s.react u lvl c) := by
  unfold State.react
  split
  · exact (stands_of_within (within_modIncident s u _))
  · exact (stands_of_within (within_fenceCore s u (c.core.getD 0) true)).trans (stands_of_within (within_modIncident _ _ _))
  · split
    · exact stands_startLevel _ _ _ _
    · exact stands_refl s
  all_goals exact stands_startLevel _ _ _ _

theorem stands_severe (s : State) (u src : Nat) (c : FaultCtx) : Stands s (s.severe u src c) := by
  have hswap : Stands s (match c.element with
      | some (k, n) => if (src = 0 ∨ src = 11) ∧ s.elemActive u k n then s.beginSwap u k n else s
      | none => s) := by
    split
    · exact ite_stands (stands_of_within (within_beginSwap s u _ _)) (stands_refl s)
    · exact stands_refl s
  unfold State.severe
  extract_lets -underBinder -merge _ _ t
  have h : Stands s t := hswap
  clear_value t
  split
  · exact ite_stands (((h.trans (stands_of_within (within_modIncident _ _ _))).trans (stands_rewrite _ _)).trans (stands_react _ _ _ _)) h
  · exact (h.trans (stands_openIncident _ _ _)).trans (stands_react _ _ _ _)

theorem stands_countEvent (s : State) (u src : Nat) (c : FaultCtx) : Stands s (s.countEvent u src c) := by
  have hcount (g : FUnit) : Stands s (s.modUnit u fun _ => g) := (stands_of_within (within_modUnit s u _))
  exact ite_stands (stands_refl s) (ite_stands ((hcount _).trans (stands_severe _ u src c)) (hcount _))

/-! The elements of the spans and their fences: no incident changes them. -/

/-- Cores, pipes and fence of each span. -/
def hardware (s : State) : List (List Elem × List Elem × SpanFence) := s.spans.map fun x => (x.cores, x.pipes, x.fence)

theorem hardware_congr {s t : State} (h : t.spans = s.spans) : hardware t = hardware s := congrArg (List.map _) h

theorem hardware_of_within {l : List Field} {s t : State} (h : Within l s t) (hl : Field.spans ∉ l := by decide) :
    hardware t = hardware s :=
  hardware_congr (spans_of_within h hl)

theorem map_modAt_comm {α β : Type} (g : α → β) (f : α → α) (f' : β → β) (h : ∀ x, g (f x) = f' (g x)) (l : List α) (i : Nat) :
    (modAt l i f).map g = modAt (l.map g) i f' := by
  induction l generalizing i with
  | nil => rfl
  | cons x r ih => cases i with
    | zero => simp [modAt, h]
    | succ i => simp [modAt, ih]

theorem hardware_modSpan {s : State} {n : Nat} {f : Span → Span} (h : ∀ x, ((f x).cores, (f x).pipes, (f x).fence) = (x.cores, x.pipes, x.fence)) :
    hardware (s.modSpan n f) = hardware s :=
  map_modAt _ _ _ _ h

theorem hardware_settleRun (s : State) (n : Nat) : hardware (s.settleRun n) = hardware s := by
  unfold State.settleRun
  dsimp only
  split
  · exact hardware_modSpan fun _ => rfl
  · rfl

theorem hardware_raiseSpan (s : State) (n : Nat) : hardware (s.raiseSpan n) = hardware s := by
  unfold State.raiseSpan
  split
  · rfl
  · refine (hardware_settleRun _ _).trans (hardware_modSpan fun x => ?_)
    split
    · rfl
    · rfl
    · rfl
    · split <;> rfl

theorem hardware_voteCommitted (s : State) (floor : Nat) (l : List Nat) : hardware (s.voteCommitted floor l) = hardware s := by
  unfold State.voteCommitted
  have run (l : List Nat) (z : State) :
      hardware (l.foldl (fun s n => if s.deeperThan floor n then s.raiseSpan n else s.settleRun n) z) = hardware z := by
    induction l generalizing z with
    | nil => rfl
    | cons n r ih =>
      rw [List.foldl_cons, ih]
      split
      · exact hardware_raiseSpan _ _
      · exact hardware_settleRun _ _
  exact (run l _).trans (hardware_of_within (within_wakeCentral s))

theorem hardware_tryClose (s : State) (u : Nat) : hardware (s.tryClose u) = hardware s := by
  unfold State.tryClose
  split
  · rfl
  · split
    · exact (hardware_settleRun _ _).trans ((hardware_of_within (within_modUnit _ _ _)).trans (hardware_of_within (within_writeRecord s u true)))
    · rfl

theorem hardware_openIncident (s : State) (u : Nat) (x : Incident) : hardware (s.openIncident u x) = hardware s := by
  unfold State.openIncident
  dsimp only
  split
  · exact hardware_voteCommitted _ _ _
  · rfl

theorem hardware_cause (s : State) (u : Nat) (x : Incident) : hardware (s.cause u x) = hardware s := by
  unfold State.cause
  split
  · split
    · exact (hardware_of_within (within_rewrite _ _)).trans (hardware_of_within (within_modIncident _ _ _))
    · rfl
  · exact hardware_openIncident _ _ _

/-- What a span's cores, pipes and fence are is read from the list. -/
theorem hardware_getD (s : State) (n : Nat) :
    (hardware s).getD n (({} : Span).cores, ({} : Span).pipes, ({} : Span).fence) =
      ((s.span n).cores, (s.span n).pipes, (s.span n).fence) :=
  List.getD_map (n := n) s.spans ({} : Span) fun x => (x.cores, x.pipes, x.fence)

end Sys2Proof.Proofs

/-! Start-up and profiles: reset and its release, the self-test's outcome, the load and the commit (15, 19 R453, 21 R478). -/

namespace Sys2Proof.Proofs

open Sys2Proof Sys2Proof.Machine Sys2Proof.Laws

-- One theorem at a time: many at once, in one text, hold more threads than the memory limit allows.
set_option Elab.async false

/-! Reset (19 R453). -/

/-- Erasing the staging buffers leaves every other byte. -/
theorem assertReset_get {s : State} (hw : Memory.wf s.store) {k : Nat}
    (hk : ¬(locKey (.staging 0) 0 ≤ k ∧ k < locKey (.staging 40) 0)) : s.assertReset.store.get k = s.store.get k := by
  have hend : locKey (.staging 0) 0 + 40 * 2 ^ 64 = locKey (.staging 40) 0 := by decide
  have herase : s.assertReset.store.mem = memErase s.store.mem (locKey (.staging 0) 0) (40 * 2 ^ 64) := by
    rw [memErase, hend]
    rfl
  show memGet s.assertReset.store.mem k (unlisted s.store.undef k) = _
  rw [herase]
  refine memGet_memErase_other _ _ _ _ _ ((cellsOk_iff _ _).1 hw.1).1 ?_
  rw [hend]
  omega

/-! A start-up that stops (15 R356). -/

/-- What a stopped start-up is, whatever incident it opens or raises. -/
theorem stopStartup_stopped (s : State) (step : Nat) (sticky : Bool) :
    let t := s.stopStartup step sticky
    t.block.phase = .stopped ∧ t.block.pwrcyc = true ∧ t.keeper.alive = false ∧ t.keeper.ready = s.keeper.ready := by
  refine ⟨rfl, rfl, rfl, ?_⟩
  unfold State.stopStartup
  cases sticky
  · exact (stands_cause _ _ _).ready
  · exact (stands_countEvent (s.cause 0x31 { seq := 0, source := 0xF, cause := 3, step, level := 6 }) 0x31 8 {}).ready.trans (stands_cause _ _ _).ready

theorem hardware_stopStartup (s : State) (step : Nat) : hardware (s.stopStartup step false) = hardware s :=
  hardware_cause _ _ _

theorem lanes_stopStartup (s : State) (step : Nat) : (s.stopStartup step false).lanes = s.lanes :=
  (lanes_of_within (within_cause s 0x31 { seq := 0, source := 0xF, cause := 3, step, level := 6 }) : (s.cause 0x31 _).lanes = _)

/-! The self-test's outcome (15 R358, R359). -/

theorem hardware_selfTestIncident (s : State) (u part lvl : Nat) : hardware (s.selfTestIncident u part lvl) = hardware s := by
  unfold State.selfTestIncident
  split
  · rfl
  · exact (hardware_tryClose _ _).trans (hardware_openIncident _ _ _)

theorem ready_selfTestIncident (s : State) (u part lvl : Nat) : (s.selfTestIncident u part lvl).keeper.ready = s.keeper.ready := by
  unfold State.selfTestIncident
  split
  · rfl
  · exact (stands_tryClose _ _).ready.trans (stands_openIncident _ _ _).ready

/-- Cores, pipes and fence of a span after its self-test. -/
def tested (o : SelfTest) (n : Nat) (x : List Elem × List Elem × SpanFence) : List Elem × List Elem × SpanFence :=
  let cores := State.retest x.1 (badCores o n) 30
  let pipes := State.retest x.2.1 (badPipes o n) 4
  let gone := State.activeOf cores < 8 || State.activeOf pipes == 0
  (cores, pipes, if x.2.2 = .byOwner then .byOwner else if !gone then .none else if x.2.2 = .byCount then .byCount else .byKeeper)

/-- An update that sets cores, pipes and fence of a span. -/
theorem hardware_modSpan_const {s : State} {n : Nat} {f : Span → Span} {c : List Elem × List Elem × SpanFence}
    (h : ∀ x, ((f x).cores, (f x).pipes, (f x).fence) = c) : hardware (s.modSpan n f) = modAt (hardware s) n fun _ => c :=
  map_modAt_comm _ _ (fun _ => c) h _ _

theorem hardware_retestSpan (s : State) (n : Nat) (o : SelfTest) : hardware (s.retestSpan n o) = modAt (hardware s) n fun _ =>
    tested o n ((s.span n).cores, (s.span n).pipes, (s.span n).fence) := by
  unfold State.retestSpan
  dsimp only
  refine (foldl_same hardware _ _ _ (fun z l => hardware_selfTestIncident z n _ l)).trans ?_
  exact hardware_modSpan_const fun _ => rfl

/-- The spans of a list tested in turn. -/
def retestSpans (s : State) (o : SelfTest) (l : List Nat) : State := l.foldl (fun s n => s.retestSpan n o) s

theorem retestAll_eq (s : State) (o : SelfTest) : s.retestAll o = (retestSpans s o (List.range 40)).retestLanes o := rfl

/-- Each span of a list is tested once, and the others stand. -/
theorem span_retestSpans (o : SelfTest) (l : List Nat) (hl : l.Nodup) (s : State) (hs : ∀ m ∈ l, m < s.spans.length) (n : Nat) :
    let t := retestSpans s o l
    ((t.span n).cores, (t.span n).pipes, (t.span n).fence) =
      if n ∈ l then tested o n ((s.span n).cores, (s.span n).pipes, (s.span n).fence)
      else ((s.span n).cores, (s.span n).pipes, (s.span n).fence) := by
  induction l generalizing s with
  | nil => rfl
  | cons m r ih =>
    obtain ⟨hm, hr⟩ := List.nodup_cons.1 hl
    have hlen : (s.retestSpan m o).spans.length = s.spans.length := by
      have := congrArg List.length (hardware_retestSpan s m o)
      simpa [hardware] using this
    have hstep : ((((s.retestSpan m o).span n).cores, ((s.retestSpan m o).span n).pipes, ((s.retestSpan m o).span n).fence)) =
        if n = m then tested o n ((s.span n).cores, (s.span n).pipes, (s.span n).fence)
        else ((s.span n).cores, (s.span n).pipes, (s.span n).fence) := by
      rw [← hardware_getD, ← hardware_getD s n, hardware_retestSpan]
      split
      · next h =>
        subst h
        rw [getD_modAt_same _ _ _ _ (by simpa [hardware] using hs n (List.mem_cons_self ..)), hardware_getD]
      · next h => exact getD_modAt_other _ _ _ _ _ h
    have hind := ih hr (s.retestSpan m o) fun k hk => hlen ▸ hs k (List.mem_cons_of_mem _ hk)
    refine hind.trans ?_
    rw [hstep]
    by_cases h : n = m
    · subst h
      simp [hm]
    · simp [h]

theorem span_of_hardware {s t : State} (h : hardware t = hardware s) (n : Nat) :
    (t.span n).cores = (s.span n).cores ∧ (t.span n).pipes = (s.span n).pipes ∧ (t.span n).fence = (s.span n).fence := by
  have hn : ((t.span n).cores, (t.span n).pipes, (t.span n).fence) = ((s.span n).cores, (s.span n).pipes, (s.span n).fence) := by
    rw [← hardware_getD, ← hardware_getD, h]
  exact ⟨(Prod.mk.inj hn).1, (Prod.mk.inj (Prod.mk.inj hn).2).1, (Prod.mk.inj (Prod.mk.inj hn).2).2⟩

theorem spanFenced_of_hardware {s t : State} {n : Nat} (h : hardware t = hardware s) : t.spanFenced n = s.spanFenced n := by
  rw [State.spanFenced, State.spanFenced, (span_of_hardware h n).2.2]

/-- What zeroing the spans' memories leaves. -/
theorem within_zeroSpans (s : State) (l : List Nat) : Within [.jobs, .mem, .books, .rams] s (l.foldl State.zeroSpan s) :=
  foldl_within (fun _ _ h => h.step (within_zeroSpan _ _)) (within_refl _)

/-- The test of a span leaves the ready signals, the lanes and the phase. -/
theorem ready_retestSpan (s : State) (n : Nat) (o : SelfTest) : (s.retestSpan n o).keeper.ready = s.keeper.ready := by
  unfold State.retestSpan
  dsimp only
  exact (foldl_same (fun z : State => z.keeper.ready) _ _ _ (fun z l => ready_selfTestIncident z n _ l)).trans rfl

theorem ready_retestSpans (s : State) (o : SelfTest) (l : List Nat) : (retestSpans s o l).keeper.ready = s.keeper.ready :=
  foldl_same (fun z : State => z.keeper.ready) _ l s (fun z n => ready_retestSpan z n o)

theorem lanes_retestSpans (s : State) (o : SelfTest) (l : List Nat) : (retestSpans s o l).lanes = s.lanes :=
  foldl_same State.lanes _ l s (fun z n => lanes_of_within (within_retestSpan z n o))

theorem ready_retestLanes (s : State) (o : SelfTest) : (s.retestLanes o).keeper.ready = s.keeper.ready :=
  foldl_same (fun z : State => z.keeper.ready) _ (State.failLevels s.lanes.lanes (badLanes o)) s (fun z l => ready_selfTestIncident z 0x32 0 l)

theorem hardware_retestLanes (s : State) (o : SelfTest) : hardware (s.retestLanes o) = hardware s :=
  foldl_same hardware _ (State.failLevels s.lanes.lanes (badLanes o)) s (fun z l => hardware_selfTestIncident z 0x32 0 l)

theorem lanes_retestLanes (s : State) (o : SelfTest) : (s.retestLanes o).lanes.lanes = State.retest s.lanes.lanes (badLanes o) 16 := rfl

theorem phase_retestAll (s : State) (o : SelfTest) : (s.retestAll o).block.phase = s.block.phase :=
  phase_of_within (within_retestAll s o)

/-- The state once the spans and lanes are tested, at step 5, before the spans left are counted. -/
def atStep5 (t0 : State) : State :=
  let t := t0.readyBelow 5
  { t with
    lanes := { t.lanes with sorting := true }
    units := t.units.map fun f => { f with corrected := 0, uncorrected := 0 }
    central := { t.central with power := .run, trans := none, wakeAfter := false, retCut := false, exitReset := false }
    keeper := { t.keeper with oscTrimmed := t.keeper.oscTrimmed || t.block.refClk }
    block := { t.block with step := 5 } }

theorem hardware_atStep5 (t : State) : hardware (atStep5 t) = hardware t := rfl

theorem ready_atStep5 (t : State) : (atStep5 t).keeper.ready = t.keeper.ready ||| 7 := rfl

theorem lanes_atStep5 (t : State) : (atStep5 t).lanes.lanes = t.lanes.lanes := rfl

theorem phase_atStep5 (t : State) : (atStep5 t).block.phase = t.block.phase := rfl

theorem step_atStep5 (t : State) : (atStep5 t).block.step = 5 := rfl

/-- The state after a self-test. -/
def afterTest (s : State) (o : SelfTest) : State := atStep5 (s.retestAll o)

/-- Every memory of the spans zero, the state that the self-test starts from. -/
def zeroed (s : State) : State := (List.range 40).foldl State.zeroSpan s

theorem within_zeroed (s : State) : Within [.jobs, .mem, .books, .rams] s (zeroed s) := within_zeroSpans s _

theorem runSelfTest_eq (s : State) (o : SelfTest) : s.runSelfTest o =
    if (List.range 40).all (afterTest (zeroed s) o).spanFenced then (afterTest (zeroed s) o).stopStartup 5 false
    else afterTest (zeroed s) o := by
  unfold State.runSelfTest afterTest
  rw [show (List.range 40).foldl State.zeroSpan s = zeroed s from rfl]
  generalize (zeroed s).retestAll o = t
  rfl

theorem hardware_afterTest (s : State) (o : SelfTest) : hardware (afterTest s o) = hardware (retestSpans s o (List.range 40)) := by
  rw [afterTest, hardware_atStep5, retestAll_eq, hardware_retestLanes]

theorem ready_afterTest (s : State) (o : SelfTest) : (afterTest s o).keeper.ready = s.keeper.ready ||| 7 := by
  rw [afterTest, ready_atStep5, retestAll_eq, ready_retestLanes, ready_retestSpans]

theorem lanes_afterTest (s : State) (o : SelfTest) : (afterTest s o).lanes.lanes = State.retest s.lanes.lanes (badLanes o) 16 := by
  rw [afterTest, lanes_atStep5, retestAll_eq, lanes_retestLanes, lanes_retestSpans]

theorem phase_afterTest (s : State) (o : SelfTest) : (afterTest s o).block.phase = s.block.phase := by
  rw [afterTest, phase_atStep5, phase_retestAll]

theorem step_afterTest (s : State) (o : SelfTest) : (afterTest s o).block.step = 5 := step_atStep5 _

/-- Each of the 40 spans has its tested cores and pipes. -/
theorem span_afterTest {s : State} (o : SelfTest) (hlen : s.spans.length = 40) {n : Nat} (hn : n < 40) :
    ((afterTest s o).span n).cores = State.retest (s.span n).cores (badCores o n) 30 ∧
      ((afterTest s o).span n).pipes = State.retest (s.span n).pipes (badPipes o n) 4 := by
  have h := span_retestSpans o (List.range 40) List.nodup_range s (fun m hm => hlen ▸ List.mem_range.1 hm) n
  rw [if_pos (List.mem_range.2 hn)] at h
  have ha := hardware_getD (afterTest s o) n
  rw [hardware_afterTest, hardware_getD] at ha
  have hs := ha.symm.trans h
  exact ⟨(Prod.mk.inj hs).1, (Prod.mk.inj (Prod.mk.inj hs).2).1⟩

end Sys2Proof.Proofs

/-! Start-up and profiles, continued: the load of a profile, its commit, and the table of start-up (15 R351 to R359). -/

namespace Sys2Proof.Proofs

open Sys2Proof Sys2Proof.Machine Sys2Proof.Laws

-- One theorem at a time: many at once, in one text, hold more threads than the memory limit allows.
set_option Elab.async false

/-! The self-test as a command. -/

theorem exec_selfTest {s : State} (o : SelfTest) (hp : s.block.phase = .starting) (h0 : 0 < s.block.step) (h5 : s.block.step < 5)
    (hd : s.resetDrained = true) : exec (.selfTest o) s = .next (s.runSelfTest o) :=
  congrArg Host.Outcome.next (if_pos ⟨hp, h5, h0, hd⟩)

theorem all_spanFenced_iff (s : State) : ((List.range 40).all s.spanFenced) = true ↔ ∀ n < 40, s.spanFenced n = true := by
  simp

/-- With a span left the self-test reaches step 5, with none it stops start-up. -/
theorem runSelfTest_outcome {s : State} (o : SelfTest) (hp : s.block.phase = .starting) (hlen : s.spans.length = 40) :
    let t := s.runSelfTest o
    (∀ n < 40, (t.span n).cores = State.retest (s.span n).cores (badCores o n) 30 ∧
      (t.span n).pipes = State.retest (s.span n).pipes (badPipes o n) 4) ∧
    t.lanes.lanes = State.retest s.lanes.lanes (badLanes o) 16 ∧
    ((∃ n < 40, t.spanFenced n = false) → t.block.phase = .starting ∧ t.block.step = 5 ∧ t.keeper.ready = s.keeper.ready ||| 7) ∧
    ((∀ n < 40, t.spanFenced n = true) → t.block.phase = .stopped ∧ t.block.pwrcyc = true ∧ t.keeper.alive = false) := by
  intro t
  have hz := within_zeroed s
  have hspans := spans_of_within hz
  have hspan (n : Nat) : (zeroed s).span n = s.span n := congrArg (fun l => l.getD n {}) hspans
  have hcores {n : Nat} (hn : n < 40) := span_afterTest (s := zeroed s) o (by rw [hspans, hlen]) hn
  have hlanes : (afterTest (zeroed s) o).lanes.lanes = State.retest s.lanes.lanes (badLanes o) 16 := by
    rw [lanes_afterTest, lanes_of_within hz]
  have ht : t = _ := runSelfTest_eq s o
  by_cases hall : (List.range 40).all (afterTest (zeroed s) o).spanFenced = true
  · rw [if_pos hall] at ht
    have hhw : hardware t = hardware (afterTest (zeroed s) o) := ht ▸ hardware_stopStartup _ _
    have hstop := stopStartup_stopped (afterTest (zeroed s) o) 5 false
    refine ⟨fun n hn => ?_, ?_, fun ⟨n, hn, hf⟩ => ?_, fun _ => ?_⟩
    · have hx := hcores hn
      obtain ⟨hc, hp, -⟩ := span_of_hardware hhw n
      rw [hc, hp, ← hspan]
      exact hx
    · rw [ht, lanes_stopStartup, hlanes]
    · rw [spanFenced_of_hardware hhw, (all_spanFenced_iff _).1 hall n hn] at hf
      exact (Bool.noConfusion hf)
    · rw [ht]
      exact ⟨hstop.1, hstop.2.1, hstop.2.2.1⟩
  · rw [if_neg hall] at ht
    refine ⟨fun n hn => ?_, ht ▸ hlanes, fun _ => ?_, fun h => ?_⟩
    · rw [ht, ← hspan]
      exact hcores hn
    · rw [ht, phase_afterTest, ready_afterTest, phase_of_within hz, ready_of_within hz]
      exact ⟨hp, step_afterTest _ _, rfl⟩
    · exact (hall ((all_spanFenced_iff _).2 (ht ▸ h))).elim

/-! The load (15 R351 to R354). -/

theorem copyUnread_of_some (s : State) (r : Bool) (b : List Byte) : s.copyUnread r (some b) = s := rfl

/-- The end of a load or a commit: policies, spans and clocks follow the image. -/
def settled (s : State) : State := s.loadPolicies.placeSpans.lowerClocks

theorem within_settled (s : State) : Within [.units, .inject, .jobs, .mem, .books, .rams, .spans, .quads] s (settled s) :=
  (((within_refl s).step (within_loadPolicies s)).step (within_placeSpans _)).step (within_lowerClocks _)

theorem tables_settled (d old : State) : (d.scrubMoved old).loadPolicies.placeSpans.lowerClocks.tables = d.tables :=
  (tables_of_within (within_settled (d.scrubMoved old))).trans (tables_of_within (within_scrubMoved d old))

theorem prof_settled (d old : State) : (d.scrubMoved old).loadPolicies.placeSpans.lowerClocks.prof = d.prof :=
  (prof_of_within (within_settled (d.scrubMoved old))).trans (prof_of_within (within_scrubMoved d old))

/-- The state as a load samples the stacks that report ready. -/
def atLoad (s : State) : State := { s with prof := { s.prof with loadCaps := s.readyStacks } }

/-- Which case of the two-copy rule holds (15 R351): both copies good and equal, one good, both good and different, none. -/
def loadCase (a b : List Byte) (fa fb : Nat) : Nat :=
  if fa = 0 ∧ fb = 0 then (if some a = some b then 0 else 2) else if fa = 0 ∨ fb = 0 then 1 else 3

/-- The profile that the two-copy rule gives from two copies and their faults. -/
def loadedProf (z : State) (a b : List Byte) (attach : BitVec 8) (fa fb : Nat) : Prof :=
  let case := loadCase a b fa fb
  let safe := case == 2 || case == 3
  let img := if safe then z.safeImage attach else if fa = 0 then a else b
  { z.prof with
    activeS := safe, committed := false
    oneCopy := z.prof.oneCopy || case == 1, disagree := z.prof.disagree || case == 2, bad := z.prof.bad || case == 3
    failA := BitVec.ofNat 3 fa, failB := BitVec.ofNat 3 fb, image := imageCells img
    crc := if safe then 0 else BitVec.ofNat 32 (u32 img 0x7FC)
    loaded := true, loadDue := false, failedA := false, failedB := false, outcome := case }

/-- What a load from two copies that were read leaves: no key, and the profile that the two-copy rule gives. -/
theorem loadProfile_eq {s : State} {a b : List Byte} (attach : BitVec 8) (hA : s.prof.failedA = false) (hB : s.prof.failedB = false) :
    (s.loadProfile (some a) (some b) attach).tables.keys = [] ∧ (s.loadProfile (some a) (some b) attach).prof =
      loadedProf (atLoad s) a b attach ((atLoad s).copyFail (some a)) ((atLoad s).copyFail (some b)) := by
  unfold State.loadProfile
  rw [hA, hB]
  simp only [Bool.false_eq_true, if_false, copyUnread_of_some]
  rw [tables_settled, prof_settled]
  exact ⟨rfl, rfl⟩

section
variable {z : State} {a b : List Byte} {attach : BitVec 8} {fa fb : Nat}

theorem loadedProf_equal (ha : fa = 0) (hb : fb = 0) (hab : a = b) : let p := loadedProf z a b attach fa fb
    p.activeS = false ∧ p.image = imageCells a ∧ p.outcome = 0 ∧ p.oneCopy = z.prof.oneCopy ∧ p.disagree = z.prof.disagree ∧
      p.bad = z.prof.bad := by
  simp [loadedProf, loadCase, ha, hb, hab]

theorem loadedProf_first (ha : fa = 0) (hb : fb ≠ 0) : let p := loadedProf z a b attach fa fb
    p.activeS = false ∧ p.image = imageCells a ∧ p.outcome = 1 ∧ p.oneCopy = true := by
  simp [loadedProf, loadCase, ha, hb]

theorem loadedProf_second (ha : fa ≠ 0) (hb : fb = 0) : let p := loadedProf z a b attach fa fb
    p.activeS = false ∧ p.image = imageCells b ∧ p.outcome = 1 ∧ p.oneCopy = true := by
  simp [loadedProf, loadCase, ha, hb]

theorem loadedProf_differ (ha : fa = 0) (hb : fb = 0) (hab : a ≠ b) : let p := loadedProf z a b attach fa fb
    p.activeS = true ∧ p.image = imageCells (z.safeImage attach) ∧ p.outcome = 2 ∧ p.disagree = true := by
  simp [loadedProf, loadCase, ha, hb, hab]

theorem loadedProf_none (ha : fa ≠ 0) (hb : fb ≠ 0) : let p := loadedProf z a b attach fa fb
    p.activeS = true ∧ p.image = imageCells (z.safeImage attach) ∧ p.outcome = 3 ∧ p.bad = true := by
  simp [loadedProf, loadCase, ha, hb]

end

/-! The end of a load (15 R353, R355 step 7). -/

theorem ready_ite_countEvent (z : State) (c : Bool) (u src : Nat) (x : FaultCtx) :
    (if c then z.countEvent u src x else z).keeper.ready = z.keeper.ready := by
  cases c
  · rfl
  · exact (stands_countEvent _ _ _ _).ready

theorem ready_memoryTimeouts (s : State) : s.memoryTimeouts.keeper.ready = s.keeper.ready :=
  foldl_same (fun z : State => z.keeper.ready) _ (List.range 8) s (fun z n => ready_ite_countEvent z _ (0x40 + n) 8 {})

theorem loadFinished_switching {s : State} (h : s.prof.switching = true) (logic : Bool) : s.loadFinished logic =
    { s with prof := { s.prof with committed := true, once := true, switching := false } } :=
  if_pos h

theorem loadFinished_waits {s : State} (h : s.prof.switching = false) : (s.loadFinished false).block.step = 6 := by
  rw [State.loadFinished, if_neg (by simp [h]), if_pos (by simp)]

theorem loadFinished_serves {s : State} (h : s.prof.switching = false) : (s.loadFinished true).block.phase = .running ∧
    (s.loadFinished true).block.step = 7 ∧ (s.loadFinished true).keeper.ready = s.keeper.ready ||| 8 := by
  rw [State.loadFinished, if_neg (by simp [h]), if_neg (by simp)]
  exact ⟨rfl, rfl, congrArg (· ||| 8) (ready_memoryTimeouts s)⟩

/-! COMMIT (15 R353). -/

theorem exec_commit {s : State} {v : Word32} (hr : s.running = true) (ha : s.centralAsleep = false) :
    exec (.commit v) s = .next (s.commitWrite v) := by
  have ho : s.regsOpen = true := by
    have hp : s.block.phase = .running := by simpa [State.running] using hr
    simp [State.regsOpen, hp]
  exact congrArg Host.Outcome.next (regWrite_awake ho ha _ v fun s => s.commitWrite v)

theorem commitWrite_refused {s : State} {v : Word32} (hr : s.running = true) (hv : v.getLsbD 0 = true) (hc : s.prof.committed = false)
    (hl : s.prof.loaded = true) (ho : s.commitOk = false) : s.commitWrite v = { s with prof := { s.prof with commitFault := true } } := by
  rw [State.commitWrite, if_neg (by rw [hv, hc, hl, hr]; decide), if_neg (by simp [ho])]

/-- The state of an accepted commit, before policies, spans and clocks follow it. -/
def committed (s : State) : State := { s with prof := { s.prof with committed := true, once := true } }

theorem commitWrite_accepted {s : State} {v : Word32} (hr : s.running = true) (hv : v.getLsbD 0 = true) (hc : s.prof.committed = false)
    (hl : s.prof.loaded = true) (ho : s.commitOk = true) : s.commitWrite v = settled (committed s) := by
  rw [State.commitWrite, if_neg (by rw [hv, hc, hl, hr]; decide), if_pos ho]
  rfl

/-- The units' policies are those of the image. -/
theorem policy_settled (s : State) {u : Nat} (hu : u < 96) :
    ((settled s).unit u).policy = BitVec.ofNat 32 (s.img (0x300 + 4 * u) 4) := by
  have hunits : (settled s).units = s.loadPolicies.units :=
    (units_of_within (within_lowerClocks s.loadPolicies.placeSpans)).trans (units_of_within (within_placeSpans s.loadPolicies))
  rw [State.unit, hunits, State.loadPolicies]
  simp [hu]

/-- No quadrant is left above its ceiling. -/
theorem clockCeil_settled {s : State} {q : Nat} (hq : q < 4) (hl : q < s.quads.length) :
    s.clockCeil q ≤ ((settled s).quads.getD q {}).point := by
  have hquads : s.loadPolicies.placeSpans.quads = s.quads :=
    (quads_of_within (within_placeSpans s.loadPolicies)).trans (quads_of_within (within_loadPolicies s))
  have hprof : s.loadPolicies.placeSpans.prof = s.prof :=
    (prof_of_within (within_placeSpans s.loadPolicies)).trans (prof_of_within (within_loadPolicies s))
  have hceil : s.loadPolicies.placeSpans.clockCeil q = s.clockCeil q := by
    rw [State.clockCeil, State.clockCeil, State.img, State.img, hprof]
  have hlen : q < ((List.range 4).zip s.quads).length := by simp [hq, hl]
  rw [settled, State.lowerClocks]
  simp only [hquads]
  rw [List.getD_eq_getElem _ _ (by simpa using hlen)]
  simp [hceil]

/-! The table of start-up. -/

theorem exec_profileLoad {s : State} (c : Option (List Byte) × Option (List Byte)) (r : LoadReady) (hd : s.prof.loadDue = true)
    (h : s.prof.switching = true ∨ s.block.phase = .starting ∧ s.block.step = 5) :
    exec (.profileLoad c r) s = .next ((s.loadProfile c.1 c.2 r.attach).loadFinished r.logic) :=
  congrArg Host.Outcome.next (if_pos ⟨hd, h⟩)

theorem exec_profileCopyReadFailure {s : State} {copyB : Bool} (hd : s.prof.loadDue = true)
    (hf : (if copyB then s.prof.failedB else s.prof.failedA) = false) :
    let z := s.countEvent 0x31 7 {}
    exec (.profileCopyReadFailure copyB) s = .next { z with
      prof := if copyB then { z.prof with failedB := true } else { z.prof with failedA := true } } := by
  intro z
  have hc : s.prof.loadDue = true ∧ (if copyB then !s.prof.failedB else !s.prof.failedA) = true := by
    cases copyB <;> simp_all
  refine (congrArg Host.Outcome.next (if_pos hc)).trans (congrArg Host.Outcome.next ?_)
  cases copyB <;> simp [z]

/-- VIN_LOW is an assertion of RST_N under a low VIN. -/
def vinLost (s : State) : State := { s with block := { s.block with vinLow := true } }

theorem exec_vinLow (s : State) : exec .vinLow s = .next (vinLost s).assertReset := rfl

/-- What an assertion of RST_N keeps: the input pins, the fuse, the test port, the model's counters and memory. -/
theorem assertReset_eq (s : State) : s.assertReset = { State.reset with
    block := { State.reset.block with
      testLock := s.block.testLock, debugArmed := s.block.debugArmed, vinLow := s.block.vinLow, refClk := s.block.refClk,
      ticks := s.block.ticks, free := s.block.free, out := s.block.out }
    store := s.assertReset.store, tap := s.tap, uidNext := s.uidNext, pending := s.pending } := rfl

/-- Settles O57, clause by clause: reset, release, a missed step, the self-test, the load and the commit. -/
theorem startUpAndProfilesFollowTheirTable : Obligations.StartUpAndProfilesFollowTheirTable := by
  unfold Obligations.StartUpAndProfilesFollowTheirTable
  refine fun s => ⟨fun c low h => ?_, fun psel deckId fuse => ?_, fun step hp hs => ?_, fun o hp h0 h5 hd hi => ?_, fun copyB hd hf => ?_,
    fun a b attach logic hd hsw hA hB => ?_, fun logic => ⟨fun h => loadFinished_switching h logic, fun h => ?_⟩,
    fun v hr ha hv hc hl => ⟨fun ho => ?_, fun ho => ?_⟩⟩
  · rcases h with ⟨rfl, rfl⟩ | ⟨rfl, rfl⟩
    · exact ⟨_, rfl, assertReset_eq s, fun hw k hk => assertReset_get hw hk⟩
    · exact ⟨_, exec_vinLow s, assertReset_eq (vinLost s), fun hw k hk => assertReset_get (s := vinLost s) hw hk⟩
  · exact ⟨fun hp hv => congrArg Host.Outcome.next (if_pos ⟨hp, by rw [hv]; rfl⟩),
      fun hp hv => congrArg Host.Outcome.next (if_pos ⟨hp, hv⟩)⟩
  · exact ⟨_, congrArg Host.Outcome.next (if_pos ⟨hp, hs⟩), stopStartup_stopped (s.readyBelow step) step true⟩
  · exact ⟨_, exec_selfTest o hp h0 h5 hd, runSelfTest_outcome o hp hi.spans⟩
  · exact exec_profileCopyReadFailure hd hf
  · obtain ⟨hk, hp⟩ := loadProfile_eq (a := a) (b := b) attach hA hB
    refine ⟨s.loadProfile (some a) (some b) attach, exec_profileLoad (some a, some b) ⟨attach, logic⟩ hd hsw, hk, ?_⟩
    rw [hp]
    exact ⟨rfl, rfl, rfl, rfl, rfl, rfl, loadedProf_equal, loadedProf_first, loadedProf_second, loadedProf_differ, loadedProf_none⟩
  · exact ⟨loadFinished_waits h, loadFinished_serves h⟩
  · exact (exec_commit hr ha).trans (congrArg Host.Outcome.next (commitWrite_refused hr hv hc hl ho))
  · exact ⟨_, (exec_commit hr ha).trans (congrArg Host.Outcome.next (commitWrite_accepted hr hv hc hl ho)),
      prof_of_within (within_settled (committed s)), fun u hu => policy_settled (committed s) hu,
      fun q hq hl => clockCeil_settled (s := committed s) hq hl⟩

end Sys2Proof.Proofs

/-! Power domains: descent, refusal and abort, entries and exits, and a missed step (16 R363 to R376). -/

namespace Sys2Proof.Proofs

open Sys2Proof Sys2Proof.Machine Sys2Proof.Laws

-- One theorem at a time: many at once, in one text, hold more threads than the memory limit allows.
set_option Elab.async false

section
variable {s : State} {n : Nat}

/-! What the floors and the load of a span do not depend on. -/

/-- The votes are those of partitions, queues, channels and units, not of spans or the central domain. -/
theorem floorOn_modSpan (f : Span → Span) (m : Nat) : (s.modSpan m f).floorOn n = s.floorOn n := rfl

theorem floorOn_setTemp (t : Int) : (s.setTemp t).floorOn n = s.floorOn n := rfl

theorem spanBusy_modSpan (f : Span → Span) (m : Nat) : (s.modSpan m f).spanBusy n = s.spanBusy n := rfl

theorem deepUnits_setTemp (t : Int) : (s.setTemp t).deepUnits (some n) false = s.deepUnits (some n) false := rfl

/-! The dwells (16 R369 to R373). -/

theorem sleepEntry_unbarred (hd : s.canDescend n .idle = true) (hw : (s.span n).sleepDwell ≠ 0) (hf : s.floorOn n = none) :
    s.sleepEntry n = s.modSpan n fun x => { x with trans := some .toSleep } := by
  simp only [State.sleepEntry, hd, hf, Bool.not_true, Bool.false_eq_true, false_or, if_neg hw]

theorem sleepEntry_floor {f h : Nat} (hd : s.canDescend n .idle = true) (hw : (s.span n).sleepDwell ≠ 0) (hf : s.floorOn n = some (f, h)) :
    s.sleepEntry n = if f ≤ 1 then s.refuseSpan n h else s.modSpan n fun x => { x with trans := some .toSleep } := by
  simp only [State.sleepEntry, hd, hf, Bool.not_true, Bool.false_eq_true, false_or, if_neg hw]

/-- The span may go on from SLEEP: it can descend, and its dwell and its deep state are enabled. -/
def deepAllowed (s : State) (n : Nat) : Prop :=
  s.canDescend n .sleep = true ∧ (s.span n).deepDwell ≠ 0 ∧ (s.span n).deepEnable = true

theorem deepAllowed_guard (h : deepAllowed s n) : ¬(!s.canDescend n .sleep ∨ (s.span n).deepDwell = 0 ∨ !(s.span n).deepEnable) := by
  obtain ⟨hd, hw, he⟩ := h
  exact not_or.2 ⟨by simp [hd], not_or.2 ⟨hw, by simp [he]⟩⟩

theorem deepEntry_floor {c : Int} {ma f h : Nat} (ha : deepAllowed s n) (hf : s.floorOn n = some (f, h)) :
    s.deepEntry n c ma = (s.setTemp c).refuseSpan n h := by
  rw [State.deepEntry, if_neg (deepAllowed_guard ha)]
  dsimp only
  rw [floorOn_setTemp, hf]

theorem deepEntry_unbarred {c : Int} {ma : Nat} (ha : deepAllowed s n) (hf : s.floorOn n = none) : s.deepEntry n c ma =
    if 480000 < State.estUa (s.deepUnits (some n) false) c then (s.setTemp c).refuseSpan n 0x14
    else if 480 < ma then (s.setTemp c).modSpan n fun x => { x with aborted := satAdd 32 x.aborted 1 }
    else (s.setTemp c).modSpan n fun x => { x with trans := some .toDeep } := by
  rw [State.deepEntry, if_neg (deepAllowed_guard ha)]
  dsimp only
  rw [floorOn_setTemp, deepUnits_setTemp, hf]

/-- The central domain serves, in RUN, with its deep state and its dwell enabled. -/
def centralAllowed (s : State) : Prop :=
  s.running = true ∧ s.central.power = .run ∧ s.central.trans = none ∧ s.central.deepEnable = true ∧ s.central.dwell ≠ 0

theorem centralAllowed_guard (h : centralAllowed s) :
    ¬(!s.running ∨ s.central.power ≠ .run ∨ s.central.trans.isSome ∨ !s.central.deepEnable ∨ s.central.dwell = 0) := by
  obtain ⟨hr, hp, ht, he, hw⟩ := h
  exact not_or.2 ⟨by simp [hr], not_or.2 ⟨by simp [hp], not_or.2 ⟨by simp [ht], not_or.2 ⟨by simp [he], hw⟩⟩⟩⟩

theorem centralEntry_barred {c : Int} {ma k : Nat} (ha : centralAllowed s) (hb : (s.setTemp c).centralBar c = some k) :
    s.centralEntry c ma = (s.setTemp c).refuseCentral k := by
  rw [State.centralEntry, if_neg (centralAllowed_guard ha)]
  dsimp only
  rw [hb]

theorem centralEntry_unbarred {c : Int} {ma : Nat} (ha : centralAllowed s) (hb : (s.setTemp c).centralBar c = none) :
    s.centralEntry c ma =
      if 480 < ma then { s.setTemp c with central := { (s.setTemp c).central with aborted := satAdd 32 (s.setTemp c).central.aborted 1 } }
      else { s.setTemp c with central := { (s.setTemp c).central with trans := some .toDeep } } := by
  rw [State.centralEntry, if_neg (centralAllowed_guard ha)]
  dsimp only
  rw [hb]

/-! Entries and exits (16 R363, R364, R376). -/

theorem spanEntered_sleep (ht : (s.span n).trans = some .toSleep) : s.spanEntered n =
    let z := s.modSpan n fun y => { y with power := .sleep, trans := none, wakeAfter := false }
    if (s.span n).wakeAfter then z.raiseSpan n else z := by
  rw [State.spanEntered, ht]

theorem spanEntered_deep (ht : (s.span n).trans = some .toDeep) : s.spanEntered n =
    let z := (s.dropUnretained n).modSpan n fun y => { y with power := .deep, trans := none, wakeAfter := false }
    if (s.span n).wakeAfter then z.raiseSpan n else z := by
  rw [State.spanEntered, ht]

/-- The central domain in DEEP_SLEEP, in no transition. -/
def centralDeep (s : State) : State :=
  { s.dropCentral with central := { s.dropCentral.central with power := .deep, trans := none, wakeAfter := false } }

theorem centralEntered_eq (ht : s.central.trans = some .toDeep) : s.centralEntered =
    if s.central.wakeAfter then { centralDeep s with central := { (centralDeep s).central with trans := some .exitDeep } }
    else centralDeep s := by
  rw [State.centralEntered, if_pos ht, ← wakeCentral_of_deep (s := centralDeep s) rfl rfl]
  rfl

/-- A span in no transition that neither sleeps is settled by its work and its floor. -/
theorem settleRun_of_awake (ht : (s.span n).trans = none) (hp : (s.span n).power = .run ∨ (s.span n).power = .idle) : s.settleRun n =
    s.modSpan n fun y => { y with power := if s.spanBusy n || (s.floorOn n).map (·.1) == some 0 then .run else .idle } := by
  rw [State.settleRun, if_pos ⟨by rw [ht]; rfl, hp⟩]

/-- An exit that completes leaves the span in IDLE, or in RUN where work or a floor asks for it. -/
def exited (s : State) (n : Nat) : State := s.modSpan n fun y => { y with power := .idle, trans := none }

theorem spanExited_eq (ht : (s.span n).trans = some .exitSleep ∨ (s.span n).trans = some .exitDeep) :
    s.spanExited n = (exited s n).settleRun n := by
  rcases ht with ht | ht <;> rw [State.spanExited, ht] <;> rfl

theorem spanExited_exits (hn : n < s.spans.length) (ht : (s.span n).trans = some .exitSleep ∨ (s.span n).trans = some .exitDeep) :
    let t := s.spanExited n
    (∀ m, m ≠ n → t.span m = s.span m) ∧ t = { s with spans := t.spans } ∧
      t.span n = { s.span n with
        power := if s.spanBusy n || (s.floorOn n).map (·.1) == some 0 then .run else .idle, trans := none } := by
  intro t
  have hx : (exited s n).span n = { s.span n with power := .idle, trans := none } := span_modSpan_self hn
  have hn' : n < (exited s n).spans.length := by
    rw [exited, State.modSpan, length_modAt]
    exact hn
  have hset : t = (exited s n).modSpan n _ :=
    (spanExited_eq ht).trans (settleRun_of_awake (by rw [hx]) (.inr (by rw [hx])))
  rw [exited, floorOn_modSpan, spanBusy_modSpan, ← exited] at hset
  rw [hset]
  refine ⟨fun m hm => (span_modSpan_ne hm).trans (span_modSpan_ne hm), rfl, ?_⟩
  rw [span_modSpan_self hn', hx]

/-! A missed step (16 R365). -/

theorem exec_powerStepTimeout_span {step : Nat} (hs : step ∈ State.spanSteps (s.span n)) (hf : s.spanFenced n = false) :
    exec (.powerStepTimeout (.span n) step) s = .next (s.spanMissed n step) :=
  congrArg Host.Outcome.next (if_pos (by simp [hs, hf]))

end

/-- Settles O58, by the cases of each dwell, entry, exit and missed step. -/
theorem domainsDescendAndRise : Obligations.DomainsDescendAndRise := by
  unfold Obligations.DomainsDescendAndRise
  refine fun s n hn => ⟨fun hd hw => ⟨fun hf => ?_, fun f h hf h2 => ?_, fun f h hf h1 => ?_⟩, fun c ma => ?_, fun c ma => ?_, fun ht => ?_,
    fun ht => ?_, fun ht => ?_, fun hr ht => ?_, fun hr d => ?_, fun step hs hf => ⟨fun hm => ?_, fun hm hlast => ?_⟩⟩
  · exact congrArg Host.Outcome.next (sleepEntry_unbarred hd hw hf)
  · exact congrArg Host.Outcome.next ((sleepEntry_floor hd hw hf).trans (if_neg (by omega)))
  · exact congrArg Host.Outcome.next ((sleepEntry_floor hd hw hf).trans (if_pos h1))
  · intro z hd hw he
    have ha : deepAllowed s n := ⟨hd, hw, he⟩
    refine ⟨fun f h hf => congrArg Host.Outcome.next (deepEntry_floor ha hf),
      fun hf hu => congrArg Host.Outcome.next ((deepEntry_unbarred ha hf).trans (if_pos hu)), fun hf hu => ⟨fun hl => ?_, fun hl => ?_⟩⟩
    · exact congrArg Host.Outcome.next ((deepEntry_unbarred ha hf).trans ((if_neg (Nat.not_lt.2 hu)).trans (if_pos hl)))
    · exact congrArg Host.Outcome.next ((deepEntry_unbarred ha hf).trans
        ((if_neg (Nat.not_lt.2 hu)).trans (if_neg (Nat.not_lt.2 hl))))
  · intro z hr hp ht he hw
    have ha : centralAllowed s := ⟨hr, hp, ht, he, hw⟩
    refine ⟨fun k hk => congrArg Host.Outcome.next (centralEntry_barred ha hk), fun hb => ⟨fun hl => ?_, fun hl => ?_⟩⟩
    · exact congrArg Host.Outcome.next ((centralEntry_unbarred ha hb).trans (if_pos hl))
    · exact congrArg Host.Outcome.next ((centralEntry_unbarred ha hb).trans (if_neg (Nat.not_lt.2 hl)))
  · exact congrArg Host.Outcome.next (spanEntered_sleep ht)
  · exact congrArg Host.Outcome.next (spanEntered_deep ht)
  · exact congrArg Host.Outcome.next (centralEntered_eq ht)
  · exact ⟨_, congrArg Host.Outcome.next (if_pos hr), spanExited_exits hn ht⟩
  · exact congrArg Host.Outcome.next (if_neg (ne_true_of_eq_false hr))
  · exact (exec_powerStepTimeout_span hs hf).trans (congrArg Host.Outcome.next (if_neg (ne_true_of_eq_false hm)))
  · refine (exec_powerStepTimeout_span hs hf).trans (congrArg Host.Outcome.next ((if_pos hm).trans (if_neg ?_)))
    rintro ⟨h1, h2⟩
    exact hlast.elim h1 (ne_false_of_eq_true h2)

end Sys2Proof.Proofs

/-! Wakes, OFF, supply, operating points and clocks (16 R374, R377, R382, R383, 21 R481 to R485). -/

namespace Sys2Proof.Proofs

open Sys2Proof Sys2Proof.Machine Sys2Proof.Laws

-- One theorem at a time: many at once, in one text, hold more threads than the memory limit allows.
set_option Elab.async false

/-! Wakes (16 R374, R377, R383). -/

theorem phase_ne_off_of_inService {s : State} (h : s.inService = true) : s.block.phase ≠ .off := by
  intro hp
  simp [State.inService, hp] at h

theorem exec_timerWake {s : State} (hi : s.inService = true) (ht : s.central.timerFired = true ∨ s.central.wakeTimer ≠ 0) :
    exec .timerWake s = .next (({ s with central := { s.central with wakeTimer := 0, timerFired := false } } : State).wakeBy 3
      s.central.timerSpans) :=
  congrArg Host.Outcome.next (if_pos ⟨hi, ht⟩)

theorem exec_wakeN {s : State} (psel : BitVec 2) (d : BitVec 3) (f : Bool) (hi : s.inService = true) :
    exec (.wakeN psel d f) s = .next (s.wakeBy 2 s.central.wakeSpans) :=
  congrArg Host.Outcome.next ((if_neg (phase_ne_off_of_inService hi)).trans (if_pos hi))

theorem exec_wakeN_off {s : State} (psel : BitVec 2) (d : BitVec 3) (f : Bool) (ho : s.block.phase = .off) :
    exec (.wakeN psel d f) s = .next (s.coldStart psel d f) :=
  congrArg Host.Outcome.next (if_pos ho)

theorem exec_linkEnergy {s : State} (mv : Nat) (hi : s.inService = true) : exec (.linkEnergy mv) s = .next (s.comparator mv) :=
  congrArg Host.Outcome.next (if_pos hi)

section
variable {s : State} {mv : Nat}

/-- The comparator's input is at neither level that its arm asks for. -/
theorem comparator_stands (h : s.central.leArmed = true ∧ ¬25 * s.leThresh ≤ 2 * mv ∨
    s.central.leArmed = false ∧ ¬2 * mv ≤ 25 * s.leThresh - 50) : s.comparator mv = s := by
  refine if_pos (.inr ?_)
  rcases h with ⟨ha, hv⟩ | ⟨ha, hv⟩
  · exact .inl ⟨ha, Nat.not_le.1 hv⟩
  · exact .inr ⟨by rw [ha]; rfl, Nat.not_le.1 hv⟩

/-- The input has come to the level that the arm asks for. -/
theorem comparator_acts (ht : s.leThresh ≠ 0) (h : s.central.leArmed = true ∧ 25 * s.leThresh ≤ 2 * mv ∨
    s.central.leArmed = false ∧ 2 * mv ≤ 25 * s.leThresh - 50) :
    ¬(s.leThresh = 0 ∨ (s.central.leArmed ∧ 2 * mv < 25 * s.leThresh) ∨ (!s.central.leArmed ∧ 25 * s.leThresh - 50 < 2 * mv)) := by
  rcases h with ⟨ha, hv⟩ | ⟨ha, hv⟩ <;> simp [ha, ht] <;> omega

/-- The comparator with its arm set. -/
def leSet (s : State) (b : Bool) : State := { s with central := { s.central with leArmed := b } }

theorem comparator_rises (ht : s.leThresh ≠ 0) (ha : s.central.leArmed = true) (hv : 25 * s.leThresh ≤ 2 * mv) : s.comparator mv =
    if s.leOwner then ({ leSet s false with ports := { s.ports with leRise := s.ports.leRise + 1 } } : State).countEvent 0x50 14 {}
    else (leSet s false).wakeBy 1 s.central.wakeSpans := by
  refine (if_neg (comparator_acts ht (.inl ⟨ha, hv⟩))).trans ?_
  rw [ha]
  rfl

theorem comparator_falls (ht : s.leThresh ≠ 0) (ha : s.central.leArmed = false) (hv : 2 * mv ≤ 25 * s.leThresh - 50) : s.comparator mv =
    if s.leOwner then ({ leSet s true with ports := { s.ports with leFall := s.ports.leFall + 1 } } : State).countEvent 0x50 14 {}
    else leSet s true := by
  refine (if_neg (comparator_acts ht (.inr ⟨ha, hv⟩))).trans ?_
  rw [ha]
  rfl

end

/-! Brown-outs (16 R382). -/

/-- Every bank of a span in DEEP_SLEEP is lost. -/
def banksCut (s : State) : State :=
  (List.range 40).foldl (fun s n => if (s.span n).power = .deep then s.clearSpan n (List.range 4) (List.range 8) else s) s

theorem within_banksCut (s : State) : Within clearSpanParts s (banksCut s) :=
  foldl_within (fun _ _ h => ite_within (h.step (within_clearSpan _ _ _ _)) h) (within_refl _)

/-- A queue whose context is lost; A0 keeps its own, and a destroyed queue has none (03 R92). -/
def queueCut (x : Queue) : Queue := if x.state == .destroyed || x.qid == .adm 0 then x else { x with lost := true }

/-- What a retention brown-out loses, before it is counted: the banks, the queues' contexts, and with them the central domain's RUN. -/
def retentionCut (s : State) : State :=
  let t := if s.central.power == .deep && bitOf s.retCentral 0 then { banksCut s with queues := (banksCut s).queues.map queueCut }
    else banksCut s
  { t with central := { t.central with retCut := true,
                                       exitReset := t.central.exitReset || (s.central.power == .deep && s.retCentral != 0) } }

theorem retentionLost_eq (s : State) : s.retentionLost =
    let t := ((retentionCut s).wakeBit 8).countEvent 0x31 10 {}
    if (t.unit 0x31).incident.isSome then t
    else (t.openIncident 0x31 { seq := 0, source := 10, cause := 0, step := 0, level := 0 }).react 0x31 0 {} := rfl

theorem stands_retentionLost (s : State) : Stands ((retentionCut s).wakeBit 8) s.retentionLost := by
  rw [retentionLost_eq]
  have hc := stands_countEvent ((retentionCut s).wakeBit 8) 0x31 10 {}
  exact ite_stands hc (hc.trans ((stands_openIncident _ _ _).trans (stands_react _ _ _ _)))

theorem central_banksCut (s : State) : (banksCut s).central = s.central := central_of_within (within_banksCut s)

theorem wakeCause_retentionCut (s : State) : (retentionCut s).central.wakeCause = s.central.wakeCause := by
  rw [← central_banksCut s, retentionCut]
  generalize banksCut s = z
  dsimp only
  split <;> rfl

theorem queues_retentionCut {s : State} (hp : s.central.power = .deep) (hb : bitOf s.retCentral 0 = true) :
    (retentionCut s).queues = (banksCut s).queues.map queueCut := by
  have hc : (s.central.power == .deep && bitOf s.retCentral 0) = true := by rw [hp, hb]; rfl
  rw [retentionCut]
  dsimp only
  rw [if_pos hc]

theorem exitReset_retentionCut {s : State} (hp : s.central.power = .deep) (hr : s.retCentral ≠ 0) :
    (retentionCut s).central.exitReset = true := by
  have hc : (s.central.power == .deep && s.retCentral != 0) = true := by simp [hp, hr]
  rw [retentionCut]
  dsimp only
  rw [hc, Bool.or_true]

theorem queueCut_lost (x : Queue) : (queueCut x).state = .destroyed ∨ (queueCut x).qid = .adm 0 ∨ (queueCut x).lost = true := by
  unfold queueCut
  split
  · next h =>
    have h' : x.state = .destroyed ∨ x.qid = .adm 0 := by simpa using h
    exact h'.imp id .inl
  · exact .inr (.inr rfl)

/-- After a brown-out with queue context retained every live queue but A0 has lost its own. -/
theorem retentionLost_queues {s : State} (hp : s.central.power = .deep) (hb : bitOf s.retCentral 0 = true) :
    ∀ x ∈ s.retentionLost.queues, x.state = .destroyed ∨ x.qid = .adm 0 ∨ x.lost = true := by
  intro x hx
  have hmark : queueMark x ∈ ((retentionCut s).wakeBit 8).queues.map queueMark :=
    (stands_retentionLost s).queues ▸ List.mem_map_of_mem hx
  obtain ⟨y, hy, he⟩ := List.mem_map.1 hmark
  rw [show ((retentionCut s).wakeBit 8).queues = (retentionCut s).queues from rfl, queues_retentionCut hp hb] at hy
  obtain ⟨z, -, rfl⟩ := List.mem_map.1 hy
  obtain ⟨hq, hs⟩ := Prod.mk.inj he
  obtain ⟨hs, hl⟩ := Prod.mk.inj hs
  have h := queueCut_lost z
  rwa [hs, hq, hl] at h

/-! The power cap and the operating points (21 R482, R483). -/

section
variable {s : State}

theorem powerCheck_guard (hr : s.running = true) (hc : ∀ x ∈ s.quads, x.change = none) : ¬(!s.running ∨ s.quads.any (·.change.isSome)) := by
  have hany : s.quads.any (·.change.isSome) = false := by simpa using hc
  simp [hr, hany]

theorem powerCheck_lowers {mean q : Nat} (below : Bool) (hr : s.running = true) (hc : ∀ x ∈ s.quads, x.change = none)
    (hm : s.powerCap * 1000 < mean) (hq : s.lowerable = some q) :
    s.powerCheck mean below = s.setQuad q fun x => { x with change := some (x.point + 1) } := by
  rw [State.powerCheck, if_neg (powerCheck_guard hr hc), if_pos hm, hq]

theorem powerCheck_raises {mean q : Nat} (hr : s.running = true) (hc : ∀ x ∈ s.quads, x.change = none)
    (hm : mean < s.powerCap * 900) (hq : s.raisable = some q) :
    s.powerCheck mean true = s.setQuad q fun x => { x with change := some (x.point - 1) } := by
  rw [State.powerCheck, if_neg (powerCheck_guard hr hc), if_neg (by omega), if_pos ⟨rfl, hm⟩, hq]

theorem powerCheck_stands {mean : Nat} {below : Bool} (hr : s.running = true) (hc : ∀ x ∈ s.quads, x.change = none)
    (hm : mean ≤ s.powerCap * 1000) (hb : below = false ∨ s.powerCap * 900 ≤ mean) : s.powerCheck mean below = s := by
  rw [State.powerCheck, if_neg (powerCheck_guard hr hc), if_neg (Nat.not_lt.2 hm), if_neg]
  rintro ⟨h1, h2⟩
  rcases hb with hb | hb
  · exact ne_true_of_eq_false hb h1
  · omega

/-- A quadrant at a point, with a span that does not sleep. -/
def quadAt (s : State) (pt q : Nat) : Bool := !s.quadAsleep q && s.quadPoint q == pt

theorem quadAt_iff {pt q : Nat} : quadAt s pt q = true ↔ s.quadAsleep q = false ∧ s.quadPoint q = pt := by
  simp [quadAt]

/-- Of the quadrants at a point the highest number is found. -/
theorem highest_quad {f : Nat → Bool} {q : Nat} (h : [3, 2, 1, 0].find? f = some q) : f q = true ∧ ∀ r < 4, f r = true → r ≤ q := by
  refine ⟨List.find?_some h, fun r hr hf => ?_⟩
  obtain ⟨-, as, bs, hl, hnot⟩ := List.find?_eq_some_iff_append.1 h
  by_contra hlt
  have hmem : r ∈ as := by
    have hsorted : ([3, 2, 1, 0] : List Nat).Pairwise (· > ·) := by decide
    have hr4 : r ∈ as ++ q :: bs := hl ▸ (by interval_cases r <;> simp)
    rw [hl] at hsorted
    have hcut := (List.pairwise_append.1 hsorted).2.1
    rcases List.mem_append.1 hr4 with h1 | h1
    · exact h1
    · rcases List.mem_cons.1 h1 with h1 | h1
      · omega
      · exact absurd ((List.pairwise_cons.1 hcut).1 r h1) (by omega)
  simpa [hf] using hnot r hmem

theorem no_quad {f : Nat → Bool} (h : [3, 2, 1, 0].find? f = none) : ∀ r < 4, f r = false := by
  intro r hr
  have := List.find?_eq_none.1 h r (by interval_cases r <;> simp)
  simpa using this

/-- The quadrant that the power cap lowers: awake, above the lowest point, the fastest, the highest number among equals. -/
theorem lowerable_fastest {q : Nat} (h : s.lowerable = some q) : s.quadAsleep q = false ∧ s.quadPoint q < 2 ∧
    ∀ r < 4, s.quadAsleep r = false → s.quadPoint q < s.quadPoint r ∨ (s.quadPoint q = s.quadPoint r ∧ r ≤ q) := by
  have h' : ([0, 1].findSome? fun pt => [3, 2, 1, 0].find? (quadAt s pt)) = some q := h
  rw [List.findSome?_cons] at h'
  cases h0 : [3, 2, 1, 0].find? (quadAt s 0) with
  | some p =>
    rw [h0] at h'
    obtain rfl : p = q := Option.some.inj h'
    obtain ⟨hq, hmax⟩ := highest_quad h0
    obtain ⟨ha, hp⟩ := quadAt_iff.1 hq
    refine ⟨ha, by omega, fun r hr hs => ?_⟩
    by_cases hz : s.quadPoint r = 0
    · exact .inr ⟨by omega, hmax r hr (quadAt_iff.2 ⟨hs, hz⟩)⟩
    · exact .inl (by omega)
  | none =>
    rw [h0] at h'
    have h1 : [3, 2, 1, 0].find? (quadAt s 1) = some q := by
      cases h1 : [3, 2, 1, 0].find? (quadAt s 1) <;> simp_all
    obtain ⟨hq, hmax⟩ := highest_quad h1
    obtain ⟨ha, hp⟩ := quadAt_iff.1 hq
    refine ⟨ha, by omega, fun r hr hs => ?_⟩
    have hz : s.quadPoint r ≠ 0 := fun hz => Bool.false_ne_true ((no_quad h0 r hr).symm.trans (quadAt_iff.2 ⟨hs, hz⟩))
    by_cases ho : s.quadPoint r = 1
    · exact .inr ⟨by omega, hmax r hr (quadAt_iff.2 ⟨hs, ho⟩)⟩
    · exact .inl (by omega)

/-- A change of operating point completes in its quadrant alone. -/
theorem operatingPoint_done {q p : Nat} (h : (s.quads.getD q {}).change = some p) : ∃ t : State,
    exec (.operatingPointDone q) s = .next t ∧ t = { s with quads := t.quads } ∧ t.quads.getD q {} = { point := p, change := none } ∧
      ∀ r, r ≠ q → t.quads.getD r {} = s.quads.getD r {} := by
  have hq : q < s.quads.length := by
    by_contra hlen
    rw [List.getD_eq_default _ _ (Nat.not_lt.1 hlen)] at h
    exact nomatch h
  refine ⟨_, rfl, rfl, ?_, fun r hr => getD_modAt_other _ _ _ _ _ hr⟩
  rw [State.setQuad, getD_modAt_same _ _ _ _ hq, h]

end

/-! The clocks (21 R485). -/

/-- The state in which a loss of REF_CLK outside DEEP_SLEEP is reported. -/
def clockLost (s : State) : State := { s with block := { s.block with refClk := false }, keeper := { s.keeper with oscRc := true } }

/-- The incident of a lost clock. -/
def clockIncident : Incident := { seq := 0, source := 8, cause := 2, step := 2, level := 5 }

theorem exec_refClkLoss {s : State} (hr : s.block.refClk = true) (hi : s.inService = true) (hp : s.central.power ≠ .deep) :
    exec .refClkLoss s = .next { (clockLost s).cause 0x31 clockIncident with
      keeper := { ((clockLost s).cause 0x31 clockIncident).keeper with frozen := true }
      block := { ((clockLost s).cause 0x31 clockIncident).block with refLoss := true } } := by
  exact congrArg Host.Outcome.next ((if_neg (by simp [hr])).trans ((if_neg (by simp [hi])).trans (if_neg hp)))

/-- A cause at a unit opens an incident of its level, or raises the open one to it. -/
theorem incident_cause {s : State} {u : Nat} (x : Incident) (h40 : 40 ≤ u) (hu : u < s.units.length) :
    ∃ y, ((s.cause u x).unit u).incident = some y ∧ x.level ≤ y.level ∧
      ((s.unit u).incident = none → y = { x with seq := s.keeper.nextSeq }) := by
  rw [State.cause]
  cases hinc : (s.unit u).incident with
  | none =>
    refine ⟨{ x with seq := s.keeper.nextSeq }, ?_, le_refl _, fun _ => rfl⟩
    rw [State.openIncident]
    dsimp only
    rw [if_neg (by omega)]
    exact congrArg FUnit.incident (getD_modAt_same _ _ _ _ hu)
  | some y =>
    dsimp only
    split
    · have hun : ((s.modIncident u fun z => { z with level := x.level, reacted := false }).rewrite u).units =
          (s.modIncident u fun z => { z with level := x.level, reacted := false }).units := units_of_within (within_rewrite _ _)
      refine ⟨{ y with level := x.level, reacted := false }, ?_, le_refl _, nofun⟩
      rw [State.unit, hun]
      refine (congrArg FUnit.incident (getD_modAt_same _ _ _ _ hu)).trans ?_
      rw [show s.units.getD u {} = s.unit u from rfl, hinc]
      rfl
    · next hle => exact ⟨y, hinc, Nat.not_lt.1 hle, nofun⟩

/-- Settles O59, by the rules of each wake, brown-out, operating point and clock. -/
theorem wakesSupplyAndClocksAct : Obligations.WakesSupplyAndClocksAct := by
  unfold Obligations.WakesSupplyAndClocksAct
  refine fun s => ⟨exec_timerWake, fun psel d f => exec_wakeN psel d f, fun psel d f ho => ?_, fun mv hi ht => ?_, fun h => ?_,
    fun hi hd => ?_, fun ho => ?_, fun mean below hr hc => ⟨fun q hm hq => ?_, fun q hm hb hq => ?_, fun hm hb => ?_⟩,
    fun q => lowerable_fastest, fun q p => operatingPoint_done, fun hr hi => ⟨?_, fun hp => ?_, fun hp => ?_⟩,
    fun hr => ⟨fun hl => ?_, fun hl => ⟨?_, ?_⟩⟩⟩
  · exact ⟨_, exec_wakeN_off psel d f ho, rfl, rfl, rfl, rfl, rfl, rfl, rfl⟩
  · have hx := exec_linkEnergy mv hi
    refine ⟨fun h => ?_, fun ha hv ho => ?_, fun ha hv ho => ?_, fun ha hv ho => ?_, fun ha hv ho => ?_⟩
    · exact hx.trans (congrArg Host.Outcome.next (comparator_stands h))
    · exact hx.trans (congrArg Host.Outcome.next ((comparator_rises ht ha hv).trans (if_neg (ne_true_of_eq_false ho))))
    · exact hx.trans (congrArg Host.Outcome.next ((comparator_falls ht ha hv).trans (if_neg (ne_true_of_eq_false ho))))
    · exact hx.trans (congrArg Host.Outcome.next ((comparator_rises ht ha hv).trans (if_pos ho)))
    · exact hx.trans (congrArg Host.Outcome.next ((comparator_falls ht ha hv).trans (if_pos ho)))
  · exact congrArg Host.Outcome.next (if_pos h)
  · have hst := stands_retentionLost s
    refine ⟨_, congrArg Host.Outcome.next ((if_neg Bool.false_ne_true).trans (if_pos ⟨hd, hi⟩)), hst.retCut, ?_, fun hp hr => ?_, fun hp hb => retentionLost_queues hp hb⟩
    · exact hst.wakeCause.trans (congrArg (· ||| 0x100) (wakeCause_retentionCut s))
    · exact hst.exitReset.trans (exitReset_retentionCut hp hr)
  · exact ⟨_, congrArg Host.Outcome.next (if_pos ho), rfl, rfl, rfl, rfl, rfl⟩
  · exact congrArg Host.Outcome.next (powerCheck_lowers below hr hc hm hq)
  · exact congrArg Host.Outcome.next (hb ▸ powerCheck_raises hr hc hm hq)
  · exact congrArg Host.Outcome.next (powerCheck_stands hr hc hm hb)
  · exact congrArg Host.Outcome.next (if_pos ⟨hr, hi⟩)
  · exact congrArg Host.Outcome.next ((if_neg (by simp [hr])).trans ((if_neg (by simp [hi])).trans (if_pos hp)))
  · refine ⟨_, exec_refClkLoss hr hi hp, (stands_cause (clockLost s) 0x31 clockIncident).oscRc, rfl,
      refClk_of_within (within_cause (clockLost s) 0x31 clockIncident), rfl, fun hu => ?_⟩
    obtain ⟨x, hx, hlvl, hopen⟩ := incident_cause (s := clockLost s) clockIncident (by decide) hu
    refine ⟨x, hx, hlvl, fun hn => ?_⟩
    rw [hopen hn]
    exact ⟨rfl, rfl, rfl, rfl⟩
  · exact congrArg Host.Outcome.next ((if_neg (ne_true_of_eq_false hr)).trans (if_neg (ne_true_of_eq_false hl)))
  · exact congrArg Host.Outcome.next ((if_neg (ne_true_of_eq_false hr)).trans (if_pos hl))
  · exact congrArg Host.Outcome.next (if_pos ⟨hl, by rw [hr]; rfl⟩)

end Sys2Proof.Proofs

/-! Fault status and the reset ladder: the interrupt lines, the counting of events, clears and policies (17), records, levels and swaps
(18). -/

namespace Sys2Proof.Proofs

open Sys2Proof Sys2Proof.Machine Sys2Proof.Laws

-- One theorem at a time: many at once, in one text, hold more threads than the memory limit allows.
set_option Elab.async false

/-! A mask of listed bits. -/

theorem listMask_range_succ (f : Nat → Bool) (n : Nat) : listMask ((List.range (n + 1)).filter f) =
    listMask ((List.range n).filter f) + if f n then 2 ^ n else 0 := by
  rw [List.range_succ, List.filter_append]
  cases h : f n <;> simp [listMask, listSum, h]

theorem listMask_range_lt (f : Nat → Bool) (n : Nat) : listMask ((List.range n).filter f) < 2 ^ n := by
  induction n with
  | zero => simp [listMask, listSum]
  | succ n ih =>
    rw [listMask_range_succ, Nat.pow_succ]
    split <;> omega

/-- Bit i of the mask says whether i is listed. -/
theorem testBit_listMask (f : Nat → Bool) (n i : Nat) : (listMask ((List.range n).filter f)).testBit i = (decide (i < n) && f i) := by
  induction n with
  | zero => simp [listMask, listSum]
  | succ n ih =>
    have hlt := listMask_range_lt f n
    rw [listMask_range_succ]
    rcases Nat.lt_trichotomy i n with hi | rfl | hi
    · have hi' : i < n + 1 := by omega
      split
      · rw [Nat.add_comm, Nat.testBit_two_pow_add_gt hi, ih]
        simp [hi, hi']
      · rw [Nat.add_zero, ih]
        simp [hi, hi']
    · split
      · next h => rw [Nat.add_comm, Nat.testBit_two_pow_add_eq, ih]; simp [h]
      · next h => rw [Nat.add_zero, ih]; simp [h]
    · have hs := listMask_range_lt f (n + 1)
      rw [listMask_range_succ] at hs
      rw [Nat.testBit_lt_two_pow (hs.trans_le (Nat.pow_le_pow_right (by decide) hi))]
      simp [Nat.not_lt.2 hi]

theorem ne_zero_iff_testBit {n : Nat} : n ≠ 0 ↔ ∃ i, n.testBit i = true := by
  refine ⟨fun h => ?_, fun ⟨i, hi⟩ h => by simp [h] at hi⟩
  by_contra hno
  exact h (Nat.zero_of_testBit_eq_false fun i => by simpa using not_exists.1 hno i)

/-! The interrupt lines (17 R398). -/

/-- IRQ of a unit under a keeper that runs: a sticky bit that is enabled, or a severe one. -/
theorem irq_iff {s : State} {u : Nat} (hk : s.keeperRuns = true) : s.irq u = true ↔
    (∃ i < 16, ((s.unit u).sources.getD i {}).sticky = true ∧ (s.unit u).irqEn.getLsbD i = true) ∨
      ∃ i < 16, ((s.unit u).sources.getD i {}).severe = true := by
  have hst : (Nat.land (State.statusReg (s.unit u)) (s.unit u).irqEn.toNat ≠ 0) ↔
      ∃ i < 16, ((s.unit u).sources.getD i {}).sticky = true ∧ (s.unit u).irqEn.getLsbD i = true := by
    rw [ne_zero_iff_testBit]
    refine exists_congr fun i => ?_
    rw [show Nat.land (State.statusReg (s.unit u)) (s.unit u).irqEn.toNat = State.statusReg (s.unit u) &&& (s.unit u).irqEn.toNat from rfl,
      Nat.testBit_and, State.statusReg, testBit_listMask, BitVec.testBit_toNat]
    simp [and_assoc]
  have hsv : (State.severeReg (s.unit u) ≠ 0) ↔ ∃ i < 16, ((s.unit u).sources.getD i {}).severe = true := by
    rw [ne_zero_iff_testBit]
    refine exists_congr fun i => ?_
    rw [State.severeReg, testBit_listMask]
    simp
  rw [← hst, ← hsv, State.irq, hk]
  simp

/-! Counting (17 R390, R391). -/

theorem unit_modUnit_self {s : State} {u : Nat} (h : u < s.units.length) (f : FUnit → FUnit) : (s.modUnit u f).unit u = f (s.unit u) :=
  getD_modAt_same _ _ _ _ h

theorem unit_modUnit_ne {s : State} {u v : Nat} (h : v ≠ u) (f : FUnit → FUnit) : (s.modUnit u f).unit v = s.unit v :=
  getD_modAt_other _ _ _ _ _ h

/-- Updates that agree on the element changed agree. -/
theorem modAt_congr {α : Type} {l : List α} {i : Nat} {f g : α → α} (d : α) (h : f (l.getD i d) = g (l.getD i d)) :
    modAt l i f = modAt l i g := by
  induction l generalizing i with
  | nil => rfl
  | cons x r ih => cases i with
    | zero => exact congrArg (· :: r) h
    | succ i => exact congrArg (x :: ·) (ih h)

/-- An event without a queue, a job or a bank only counts, except a mismatch of the keeper. -/
theorem faultEvent_counts {s : State} {u src : Nat} (hk : s.keeperRuns = true) (hp : bitOf (presentMask u) src = true)
    (hm : u = 0x31 → src ≠ 9) : s.faultEvent u src {} = s.countEvent u src {} := by
  have hif (z : State) : z.internalFault u src {} = z := by
    unfold State.internalFault
    split <;> rfl
  unfold State.faultEvent
  rw [if_pos ⟨hk, hp⟩, if_neg fun h => hm h.1 h.2]
  exact hif _

/-- The unit counted in place. -/
theorem countEvent_eq {s : State} {u src : Nat} {c : FaultCtx} (hp : bitOf (presentMask u) src = true) :
    s.countEvent u src c = if State.turnedSevere (s.unit u) (State.countSource (s.unit u) src) src then
      (s.modUnit u fun f => State.countSource f src).severe u src c else s.modUnit u fun f => State.countSource f src := by
  have hmod : (s.modUnit u fun _ => State.countSource (s.unit u) src) = s.modUnit u fun f => State.countSource f src :=
    congrArg (fun l => ({ s with units := l } : State)) (modAt_congr (l := s.units) (i := u) ({} : FUnit)
      (f := fun _ => State.countSource (s.unit u) src) (g := fun f => State.countSource f src) rfl)
  rw [State.countEvent, if_neg (by simp [hp])]
  dsimp only
  rw [hmod]

/-- The window that an event of a source falls in, under the policy for a window that opens. -/
def windowOf (p : WinPol) (x : Source) : Option WinPol := if x.window = none ∧ x.count = 0 then some p else x.window

/-- A source after one event. -/
def countOne (p : WinPol) (x : Source) : Source :=
  let n := satAdd 8 x.count 1
  match windowOf p x with
  | some w =>
    if !x.latched ∧ w.thr ≠ 0 ∧ w.thr ≤ n.toNat then
      { x with sticky := true, count := n, severe := true, latched := true, window := none }
    else { x with sticky := true, count := n, window := some w }
  | none => { x with sticky := true, count := n }

/-- Counting an event changes one source by `countOne`. -/
theorem countSource_sources (f : FUnit) (src : Nat) :
    (State.countSource f src).sources = modAt f.sources src (countOne (State.policyFor f src)) := by
  have h (x : Source) : (match x.window with | some w => some w | none => if x.count = 0 then some (State.policyFor f src) else none) =
      windowOf (State.policyFor f src) x := by
    unfold windowOf
    cases x.window <;> simp
  unfold State.countSource countOne
  simp only [← h] <;> rfl

section
variable {p : WinPol} {x : Source}

/-- Below the threshold an event sets the sticky bit and counts. -/
theorem countOne_counts (h : ∀ y, windowOf p x = some y → x.latched = true ∨ y.thr = 0 ∨ (satAdd 8 x.count 1).toNat < y.thr) :
    countOne p x = { x with sticky := true, count := satAdd 8 x.count 1, window := windowOf p x } := by
  unfold countOne
  cases hw : windowOf p x with
  | some w =>
    refine if_neg ?_
    rintro ⟨h1, h2, h3⟩
    rcases h w hw with hx | hx | hx
    · simp [hx] at h1
    · exact h2 hx
    · omega
  | none =>
    have hn : x.window = none := by
      by_contra hne
      simp [windowOf, hne] at hw
    simp [hn]

/-- At the threshold the source turns SEVERE and its window closes. -/
theorem countOne_severe {y : WinPol} (hw : windowOf p x = some y) (hl : x.latched = false) (h0 : y.thr ≠ 0)
    (hn : y.thr ≤ (satAdd 8 x.count 1).toNat) :
    countOne p x = { x with sticky := true, count := satAdd 8 x.count 1, severe := true, latched := true, window := none } := by
  unfold countOne
  rw [hw]
  exact if_pos ⟨by rw [hl]; rfl, h0, hn⟩

end

section
variable {f : FUnit} {src : Nat}

theorem source_countSource (hs : src < f.sources.length) :
    (State.countSource f src).sources.getD src {} = countOne (State.policyFor f src) (f.sources.getD src {}) := by
  rw [countSource_sources, getD_modAt_same _ _ _ _ hs]

theorem source_countSource_ne {i : Nat} (h : i ≠ src) : (State.countSource f src).sources.getD i {} = f.sources.getD i {} := by
  rw [countSource_sources, getD_modAt_other _ _ _ _ _ h]

theorem turnedSevere_of_counts (hs : src < f.sources.length)
    (h : (countOne (State.policyFor f src) (f.sources.getD src {})).latched = (f.sources.getD src {}).latched) :
    State.turnedSevere f (State.countSource f src) src = false := by
  rw [State.turnedSevere, source_countSource hs, h]
  cases (f.sources.getD src {}).latched <;> rfl

theorem turnedSevere_of_severe (hs : src < f.sources.length) (hl : (f.sources.getD src {}).latched = false)
    (h : (countOne (State.policyFor f src) (f.sources.getD src {})).latched = true) :
    State.turnedSevere f (State.countSource f src) src = true := by
  rw [State.turnedSevere, source_countSource hs, h, hl]
  rfl

end

/-- An event below the threshold changes its own source alone. -/
theorem faultEvent_below {s : State} {u src : Nat} (hu : u < s.units.length) (hk : s.keeperRuns = true)
    (hp : bitOf (presentMask u) src = true) (hs : src < (s.unit u).sources.length) (hm : u = 0x31 → src ≠ 9)
    (h : ∀ y, windowOf (State.policyFor (s.unit u) src) ((s.unit u).sources.getD src {}) = some y →
      ((s.unit u).sources.getD src {}).latched = true ∨ y.thr = 0 ∨ (satAdd 8 ((s.unit u).sources.getD src {}).count 1).toNat < y.thr) :
    ∃ t : State, exec (.faultEvent u src {}) s = .next t ∧ t = { s with units := t.units } ∧ (∀ v, v ≠ u → t.unit v = s.unit v) ∧
      (t.unit u).sources.getD src {} = { (s.unit u).sources.getD src {} with
        sticky := true, count := satAdd 8 ((s.unit u).sources.getD src {}).count 1,
        window := windowOf (State.policyFor (s.unit u) src) ((s.unit u).sources.getD src {}) } ∧
      ∀ i, i ≠ src → (t.unit u).sources.getD i {} = (s.unit u).sources.getD i {} := by
  have hone := countOne_counts h
  have hev : s.faultEvent u src {} = s.modUnit u fun f => State.countSource f src := by
    rw [faultEvent_counts hk hp hm, countEvent_eq hp, turnedSevere_of_counts hs (by rw [hone])]
    rfl
  refine ⟨_, congrArg Host.Outcome.next hev, rfl, fun v hv => unit_modUnit_ne hv _, ?_, fun i hi => ?_⟩
  · rw [unit_modUnit_self hu, source_countSource hs, hone]
  · rw [unit_modUnit_self hu, source_countSource_ne hi]

end Sys2Proof.Proofs

/-! Fault status and the reset ladder, continued: window expiry, clears, policies, levels and swaps (17 R390 to R405, 18). -/

namespace Sys2Proof.Proofs

open Sys2Proof Sys2Proof.Machine Sys2Proof.Laws

-- One theorem at a time: many at once, in one text, hold more threads than the memory limit allows.
set_option Elab.async false

/-! Windows and clears (17 R390, R399). -/

/-- A source after its window has expired: an open window of a length closes, and the counter starts again. -/
theorem faultWindowExpiry_source {s : State} {u src : Nat} (hu : u < s.units.length) (hs : src < (s.unit u).sources.length) :
    ∃ t : State, exec (.faultWindowExpiry u src) s = .next t ∧ t = { s with units := t.units } ∧
      let x := (s.unit u).sources.getD src {}
      (∀ w, x.window = some w → w.log2 ≠ 0 → (t.unit u).sources.getD src {} = { x with window := none, count := 0 }) ∧
      ((x.window = none ∨ ∃ w, x.window = some w ∧ w.log2 = 0) → (t.unit u).sources.getD src {} = x) ∧
      ∀ i, i ≠ src → (t.unit u).sources.getD i {} = (s.unit u).sources.getD i {} := by
  refine ⟨_, rfl, rfl, fun w hw h0 => ?_, fun h => ?_, fun i hi => ?_⟩
  · rw [unit_modUnit_self hu, getD_modAt_same _ _ _ _ hs, hw]
    exact if_neg h0
  · rw [unit_modUnit_self hu, getD_modAt_same _ _ _ _ hs]
    rcases h with h | ⟨w, h, h0⟩
    · rw [h]
    · rw [h]
      exact if_pos h0
  · rw [unit_modUnit_self hu, getD_modAt_other _ _ _ _ _ hi]

/-- A numbered update of sixteen sources, read at one of them. -/
theorem getD_zip_map {l : List Source} (hl : l.length = 16) {i : Nat} (hi : i < 16) (f : Nat → Source → Source) :
    ((((List.range 16).zip l).map fun x => f x.1 x.2)).getD i {} = f i (l.getD i {}) := by
  have hz : i < ((List.range 16).zip l).length := by simp [hl, hi]
  rw [List.getD_eq_getElem _ _ (by simpa using hz), List.getD_eq_getElem _ _ (hl ▸ hi)]
  simp

/-- A source whose bit a write to FAULT_STATUS holds at 1. -/
def cleared (x : Source) : Source := { x with sticky := false, count := 0, window := none, latched := false }

theorem source_statusClear {s : State} {u i : Nat} (hu : u < s.units.length) (hl : (s.unit u).sources.length = 16) (hi : i < 16) (v : Word32) :
    ((s.statusClear u v).unit u).sources.getD i {} =
      if v.getLsbD i then cleared ((s.unit u).sources.getD i {}) else (s.unit u).sources.getD i {} := by
  rw [State.statusClear, unit_modUnit_self hu]
  exact getD_zip_map hl hi fun i x => if v.getLsbD i then cleared x else x

theorem source_severeClear {s : State} {u i : Nat} (hu : u < s.units.length) (hl : (s.unit u).sources.length = 16) (hi : i < 16) (v : Word32) :
    ((s.severeClear u v).unit u).sources.getD i {} = if v.getLsbD i ∧ (s.unit u).incident = none then
      { (s.unit u).sources.getD i {} with severe := false } else (s.unit u).sources.getD i {} := by
  rw [State.severeClear, unit_modUnit_self hu]
  cases hn : (s.unit u).incident with
  | some y => simp
  | none =>
    simp only [Option.isSome_none, Bool.false_eq_true, if_false, and_true]
    exact getD_zip_map hl hi fun i x => if v.getLsbD i then { x with severe := false } else x

theorem hwEvent_none (s : State) : s.hwEvent none = s := by
  unfold State.hwEvent
  split <;> rfl

theorem hwEvent_fault {s : State} (hk : s.keeperRuns = true) (u src : Nat) (c : FaultCtx) :
    s.hwEvent (some (.fault u src c)) = s.faultEvent u src c := by
  rw [State.hwEvent, if_neg (by simp [hk])]

section
variable {s : State} {u : Nat}

theorem exec_faultStatusClear (ho : s.regsOpen = true) (ha : s.centralAsleep = false) (v : RegData 32) :
    exec (.faultStatusClear u v) s = .next ((s.statusClear u v.bits).hwEvent v.also) :=
  congrArg Host.Outcome.next (congrArg (fun z : State => z.hwEvent v.also) (regWrite_awake ho ha _ _ fun s => s.statusClear u v.bits))

theorem exec_faultSevereClear (ho : s.regsOpen = true) (ha : s.centralAsleep = false) (v : RegData 32) :
    exec (.faultSevereClear u v) s = .next ((s.severeClear u v.bits).hwEvent v.also) :=
  congrArg Host.Outcome.next (congrArg (fun z : State => z.hwEvent v.also) (regWrite_awake ho ha _ _ fun s => s.severeClear u v.bits))

/-- An event in the clock of the write that clears its bit stays, counted once (00 R12). -/
theorem statusClear_event {src : Nat} (ho : s.regsOpen = true) (ha : s.centralAsleep = false) (hu : u < s.units.length)
    (hl : (s.unit u).sources.length = 16) (v : Word32) (hs : src < 16) (hv : v.getLsbD src = true)
    (hp : bitOf (presentMask u) src = true) (hm : u = 0x31 → src ≠ 9) (ht : (State.policyFor (s.unit u) src).thr ≠ 1) :
    ∃ t : State, exec (.faultStatusClear u ⟨v, some (.fault u src {})⟩) s = .next t ∧
      ((t.unit u).sources.getD src {}).sticky = true ∧ ((t.unit u).sources.getD src {}).count = 1 := by
  have hk : (s.statusClear u v).keeperRuns = true := ho
  have hun : (s.statusClear u v).unit u = _ := unit_modUnit_self hu _
  have hx : ((s.statusClear u v).unit u).sources.getD src {} = cleared ((s.unit u).sources.getD src {}) := by
    rw [source_statusClear hu hl hs, if_pos hv]
  have hpol : State.policyFor ((s.statusClear u v).unit u) src = State.policyFor (s.unit u) src := by rw [hun]; rfl
  have hlen : src < ((s.statusClear u v).unit u).sources.length := by rw [hun]; simp [hl, hs]
  have hu' : u < (s.statusClear u v).units.length := by simpa [State.statusClear] using hu
  have hn : satAdd 8 (cleared ((s.unit u).sources.getD src {})).count 1 = 1 := rfl
  obtain ⟨t, he, -, -, hsrc, -⟩ := faultEvent_below hu' hk hp hlen hm (by
    rw [hpol, hx]
    intro y hy
    obtain rfl : State.policyFor (s.unit u) src = y := by simpa [windowOf, cleared] using hy
    rw [hn]
    have : (1 : Byte).toNat = 1 := rfl
    omega)
  have hev : (s.statusClear u v).faultEvent u src {} = t := Host.Outcome.next.inj he
  refine ⟨t, ?_, ?_, ?_⟩
  · rw [exec_faultStatusClear ho ha, hwEvent_fault hk, hev]
  · rw [hsrc]
  · rw [hsrc, hx]
    exact hn

/-! Policies and injection (17 R392, R402). -/

theorem policyWrite_eq (v : Word32) {w : Nat} (hw : w = v.toNat % 2 ^ 21 + bitsOf v.toNat 26 24 * 2 ^ 24) :
    s.policyWrite u v = if presentMask u ≠ 0 ∧ policyLegal w = true then s.modUnit u fun f => { f with policy := BitVec.ofNat 32 w } else s := by
  rw [hw]
  rfl

theorem exec_faultPolicyWrite (ho : s.regsOpen = true) (ha : s.centralAsleep = false) (v : Word32) :
    exec (.faultPolicyWrite u v) s = .next (s.policyWrite u v) :=
  congrArg Host.Outcome.next (regWrite_awake ho ha _ _ fun s => s.policyWrite u v)

theorem exec_faultInject (ho : s.regsOpen = true) (ha : s.centralAsleep = false) (v : Word32) :
    exec (.faultInject u v) s = .next (s.injectWrite u v) :=
  congrArg Host.Outcome.next (regWrite_awake ho ha _ _ fun s => s.injectWrite u v)

theorem injectWrite_legal {v w : Word32} (h : State.injectValue u v = some w) :
    s.injectWrite u v = s.modUnit u fun f => { f with inject := w } := by
  rw [State.injectWrite, h]

theorem injectWrite_illegal {v : Word32} (h : State.injectValue u v = none) : s.injectWrite u v = s := by
  rw [State.injectWrite, h]

/-! Records and levels (18). -/

theorem exec_contextCollection {x : Incident} (hx : (s.unit u).incident = some x) (hw : x.written = false) (answered : Bool) :
    exec (.contextCollection u answered) s = .next (((s.modIncident u fun y =>
      if answered then { y with written := true }
      else { y with written := true, noAnswer := true, named := false,
                    part := if u < 40 ∨ y.cause ≠ 0 then y.part else 0 }).writeRecord u false).tryClose u) := by
  have h : exec (.contextCollection u answered) s = execContextCollection u answered s := rfl
  rw [h, execContextCollection, hx]
  exact congrArg Host.Outcome.next (if_neg (ne_true_of_eq_false hw))

theorem exec_resetLevelFinish {id : Nat} {l : Level} (hl : s.levels.find? (·.id == id) = some l) :
    exec (.resetLevelFinish id) s = .next (if s.levelDone l then s.finishLevel l else s) := by
  have h : exec (.resetLevelFinish id) s = execResetLevelFinish id s := rfl
  rw [h, execResetLevelFinish, hl]

theorem exec_resetLevelTimeout {id : Nat} {l : Level} (hl : s.levels.find? (·.id == id) = some l) :
    exec (.resetLevelTimeout id) s = .next (s.escalate l) := by
  have h : exec (.resetLevelTimeout id) s = execResetLevelTimeout id s := rfl
  rw [h, execResetLevelTimeout, hl]

theorem escalation_span {l : Level} {n : Nat} (hl : l.scope = .span n) (h : s.spanOwner n ≠ 0) :
    s.escalation l = [.part (s.spanOwner n)] := by
  rw [State.escalation, hl]
  exact if_neg h

theorem escalation_part {l : Level} {p : Nat} (hl : l.scope = .part p) : s.escalation l = [.block] := by
  rw [State.escalation, hl]

theorem escalation_block {l : Level} (hl : l.scope = .block) : s.escalation l = [.power] := by
  rw [State.escalation, hl]

end

/-! Swaps (18 R419, R420). -/

section
variable {s : State} {n : Nat}

theorem exec_swapStepTimeout (hs : (s.span n).swap ≠ none) (hp : (s.span n).suspended = false) :
    exec (.swapStepTimeout n) s = .next ((((s.countEvent n 8 {}).modSpan n fun x => { x with suspended := true }).startLevel
      (.span n) [] none).1) :=
  congrArg Host.Outcome.next (if_pos ⟨Option.isSome_iff_ne_none.2 hs, by rw [hp]; rfl⟩)

/-- A swap that may complete: not suspended, and the killed threads' writes are answered. -/
theorem exec_swapComplete {k : SpareKind} {e m : Nat} (hp : (s.span n).suspended = false)
    (hq : s.killedQuiet ((s.spanThreads n).map fun t => (t.1, t.2.tile)) = true) (hs : (s.span n).swap = some (k, e))
    (hm : s.spareOf n k = some m) : exec (.swapComplete n) s = .next ((if k = .core then
      (s.modSpan n fun x => { x with cores := swapElems x.cores e m, swap := none }).rebuildBanks n (· == e)
      else s.modSpan n fun x => { x with pipes := swapElems x.pipes e m, swap := none }).nextSwap n) := by
  have h : exec (.swapComplete n) s = execSwapComplete n s := rfl
  rw [h, execSwapComplete, hs]
  dsimp only
  rw [hm, if_neg (by simp [hp, hq])]

theorem nextSwap_nil (h : (s.span n).swapsDue = []) : s.nextSwap n = s.modSpan n fun x => { x with swapsDue := [] } := by
  rw [State.nextSwap, h]
  rfl

theorem nextSwap_one {k : SpareKind} {e : Nat} (h : (s.span n).swapsDue = [(k, e)]) (ha : s.elemActive n k e = true)
    (hs : s.spareOf n k ≠ none) : s.nextSwap n = (s.modSpan n fun x => { x with swapsDue := [] }).beginSwap n k e := by
  have hf : ((s.span n).swapsDue.filter fun x => s.elemActive n x.1 x.2 && (s.spareOf n x.1).isSome) = [(k, e)] := by
    rw [h]
    simp [ha, Option.isSome_iff_ne_none.2 hs]
  rw [State.nextSwap, hf]

end

/-- The spare serves, and the element it replaces is a spare unless it serves no more. -/
theorem swapElems_getD (l : List Elem) {e m : Nat} (h : e ≠ m) : (m < l.length → (swapElems l e m).getD m .fenced = .active) ∧
    (swapElems l e m).getD e .spare = if l.getD e .spare = .active then .spare else l.getD e .spare := by
  refine ⟨fun hm => getD_modAt_same _ _ _ _ (by simpa using hm), ?_⟩
  rw [swapElems, getD_modAt_other _ _ _ _ _ h]
  by_cases he : e < l.length
  · exact getD_modAt_same _ _ _ _ he
  · have hle : l.length ≤ e := Nat.not_lt.1 he
    rw [List.getD_eq_default _ _ (by simpa using hle), List.getD_eq_default _ _ hle]
    rfl

/-- Settles O60, by the rules of IRQ, counting, clears, records, levels and swaps. -/
theorem faultsAndResetsAct : Obligations.FaultsAndResetsAct := by
  unfold Obligations.FaultsAndResetsAct
  intro s u hi hu96
  have hu : u < s.units.length := by rw [hi.units]; exact hu96
  refine ⟨irq_iff, fun src hk hp hs hm => ⟨fun h => ?_, fun y hw hl h0 hn => ?_⟩, fun hk _ => ?_, fun src hs => faultWindowExpiry_source hu hs,
    fun v ho ha hl => ⟨?_, ?_, fun src hs hv hp hm ht => statusClear_event ho ha hu hl v hs hv hp hm ht, fun w hw => ⟨fun hp hw' => ?_, fun h => ?_⟩,
      fun w hw => ?_, fun hw => ?_⟩, fun hr => ⟨fun hf hp => ?_, fun h => ?_⟩, fun x hx hw => ⟨?_, ?_⟩,
    fun id l hl => ⟨fun hd => ?_, fun hd => ?_, fun n hsc => escalation_span hsc, fun p hsc => escalation_part hsc, escalation_block,
      exec_resetLevelTimeout hl⟩, fun h => ?_, fun n hs hp => exec_swapStepTimeout hs hp,
    fun n e m hp hq => ⟨fun hs hm => ?_, fun hs hm => ?_⟩, fun n => nextSwap_nil, fun n k e => nextSwap_one, fun l e m => swapElems_getD l⟩
  · exact faultEvent_below hu hk hp hs hm h
  · have hone := countOne_severe hw hl h0 hn
    refine ⟨congrArg Host.Outcome.next ?_, (source_countSource hs).trans hone⟩
    rw [faultEvent_counts hk hp hm, countEvent_eq hp, turnedSevere_of_severe hs hl (by rw [hone])]
    rfl
  · exact congrArg Host.Outcome.next (if_pos hk)
  · refine ⟨_, (exec_faultStatusClear ho ha ⟨v, none⟩).trans (congrArg Host.Outcome.next (hwEvent_none _)), rfl, fun i h16 => ?_⟩
    exact source_statusClear hu hl h16 v
  · refine ⟨_, (exec_faultSevereClear ho ha ⟨v, none⟩).trans (congrArg Host.Outcome.next (hwEvent_none _)), rfl, fun i h16 => ?_⟩
    exact source_severeClear hu hl h16 v
  · exact (exec_faultPolicyWrite ho ha v).trans (congrArg Host.Outcome.next ((policyWrite_eq v hw).trans (if_pos ⟨hp, hw'⟩)))
  · refine (exec_faultPolicyWrite ho ha v).trans (congrArg Host.Outcome.next ((policyWrite_eq v hw).trans (if_neg ?_)))
    rintro ⟨h1, h2⟩
    exact h.elim h1 (ne_false_of_eq_true h2)
  · exact (exec_faultInject ho ha v).trans (congrArg Host.Outcome.next (injectWrite_legal hw))
  · exact (exec_faultInject ho ha v).trans (congrArg Host.Outcome.next (injectWrite_illegal hw))
  · exact congrArg Host.Outcome.next (if_pos ⟨hr, by rw [hf]; rfl, by rw [hp]; rfl⟩)
  · exact congrArg Host.Outcome.next (if_neg (by rcases h with h | h <;> simp [h]))
  · exact exec_contextCollection hx hw true
  · exact exec_contextCollection hx hw false
  · exact (exec_resetLevelFinish hl).trans (congrArg Host.Outcome.next (if_pos hd))
  · exact (exec_resetLevelFinish hl).trans (congrArg Host.Outcome.next (if_neg (ne_true_of_eq_false hd)))
  · exact congrArg Host.Outcome.next (if_pos (by simpa using h))
  · exact (exec_swapComplete hp hq hs hm).trans
      (congrArg Host.Outcome.next (congrArg (fun z : State => z.nextSwap n) (if_pos rfl)))
  · exact (exec_swapComplete hp hq hs hm).trans
      (congrArg Host.Outcome.next (congrArg (fun z : State => z.nextSwap n) (if_neg nofun)))

end Sys2Proof.Proofs

/-! The key port and the test access port (14 R327, R329, R341, R342, 19 R458). -/

namespace Sys2Proof.Proofs

open Sys2Proof Sys2Proof.Machine Sys2Proof.Laws

-- One theorem at a time: many at once, in one text, hold more threads than the memory limit allows.
set_option Elab.async false

/-! The key port. -/

/-- The key slot is bound. -/
def slotBound (s : State) (slot : Nat) : Prop := ∃ k, s.keyOf slot = some k ∧ k.bound ≠ none

theorem bound_isSome_iff (s : State) (slot : Nat) : ((s.keyOf slot).bind (·.bound)).isSome = true ↔ slotBound s slot := by
  cases h : s.keyOf slot <;> simp [slotBound, h, Option.isSome_iff_ne_none]

section
variable {s : State} {slot : Nat} {check : Word32} {key : List Byte} {gcm : Bool}

/-- A load that is refused is answered, and changes nothing. -/
theorem loadKey_refused {r : Nat} (he : s.tables.erasing = []) (hr : s.loadResponse slot check key gcm = r) (h0 : r ≠ 0) :
    s.loadKey slot check key gcm = s.emit (.keyResp r) := by
  rw [State.loadKey, if_neg (by simp [he]), hr]
  exact congrArg (fun z : State => z.emit (.keyResp r)) (if_neg h0)

theorem loadKey_accepted (he : s.tables.erasing = []) (hr : s.loadResponse slot check key gcm = 0) : s.loadKey slot check key gcm =
    (({ s with tables := { s.tables with
      keys := s.tables.keys.filter (·.slot != slot) ++ [{ slot, gcm, bytes := key }] } } : State).emit (.keyResp 0)) := by
  rw [State.loadKey, if_neg (by simp [he]), hr]
  rfl

theorem loadResponse_armed (h : s.block.debugArmed = true) : s.loadResponse slot check key gcm = 5 := if_pos h

theorem loadResponse_gcm (h : s.block.debugArmed = false) (hk : ∃ b ∈ key.drop 32, b ≠ 0) : s.loadResponse slot check key true = 4 := by
  have hz : ((key.drop 32).all (· == 0)) = false := by
    obtain ⟨b, hb, hne⟩ := hk
    exact List.all_eq_false.2 ⟨b, hb, by simpa using hne⟩
  rw [State.loadResponse, if_neg (ne_true_of_eq_false h), if_pos ⟨rfl, by rw [hz]; rfl⟩]

/-- The key material fits the mode: the lower half alone under GCM. -/
def keyFits (gcm : Bool) (key : List Byte) : Prop := gcm = true → ∀ b ∈ key.drop 32, b = 0

theorem loadResponse_fits (h : s.block.debugArmed = false) (hk : keyFits gcm key) : s.loadResponse slot check key gcm =
    if s.slotPart slot = 0 then 2 else if crc32c key != check then 3 else if ((s.keyOf slot).bind (·.bound)).isSome then 1 else 0 := by
  rw [State.loadResponse, if_neg (ne_true_of_eq_false h), if_neg]
  rintro ⟨hg, hz⟩
  have hall : ((key.drop 32).all (· == 0)) = true := by simpa using hk hg
  rw [hall] at hz
  exact Bool.noConfusion hz

theorem loadResponse_noPart (h : s.block.debugArmed = false) (hk : keyFits gcm key) (hp : s.slotPart slot = 0) :
    s.loadResponse slot check key gcm = 2 :=
  (loadResponse_fits h hk).trans (if_pos hp)

theorem loadResponse_check (h : s.block.debugArmed = false) (hk : keyFits gcm key) (hp : s.slotPart slot ≠ 0) (hc : crc32c key ≠ check) :
    s.loadResponse slot check key gcm = 3 :=
  (loadResponse_fits h hk).trans ((if_neg hp).trans (if_pos (by simpa using hc)))

theorem loadResponse_checked (h : s.block.debugArmed = false) (hk : keyFits gcm key) (hp : s.slotPart slot ≠ 0) (hc : crc32c key = check) :
    s.loadResponse slot check key gcm = if ((s.keyOf slot).bind (·.bound)).isSome then 1 else 0 :=
  (loadResponse_fits h hk).trans ((if_neg hp).trans (if_neg (by simpa using hc)))

/-- The state after the slot has emptied. -/
def slotEmpty (s : State) (slot : Nat) : State := { s with tables := { s.tables with keys := s.tables.keys.filter (·.slot != slot) } }

theorem putKey_none (s : State) (slot : Nat) : s.putKey slot none = slotEmpty s slot := by
  rw [State.putKey, Option.toList_none, List.append_nil]
  rfl

/-- ERASE of a slot of some partition that no job holds: it is empty, and the answer comes at once. -/
theorem eraseKey_answered (he : s.tables.erasing = []) (hp : s.slotPart slot ≠ 0) (h : ¬slotBound s slot ∨ s.slotJobs slot = []) :
    s.eraseKey 3 slot = (slotEmpty s slot).emit (.keyResp 0) := by
  rw [State.eraseKey, if_neg (by simp [he]), if_neg (by simp), if_neg hp]
  dsimp only
  rw [putKey_none]
  refine if_neg ?_
  rintro ⟨hb, hj⟩
  exact h.elim (fun hn => hn ((bound_isSome_iff s slot).1 hb)) fun hn => by simp [hn] at hj

/-- Of a bound slot the answer waits for the jobs that name it. -/
theorem eraseKey_waits (he : s.tables.erasing = []) (hp : s.slotPart slot ≠ 0) (hb : slotBound s slot) (hj : s.slotJobs slot ≠ []) :
    s.eraseKey 3 slot = { slotEmpty s slot with tables := { (slotEmpty s slot).tables with
      erasing := [{ slot, jobs := s.slotJobs slot }] } } := by
  rw [State.eraseKey, if_neg (by simp [he]), if_neg (by simp), if_neg hp]
  dsimp only
  rw [putKey_none, if_pos ⟨(bound_isSome_iff s slot).2 hb, by simpa using hj⟩, show (slotEmpty s slot).tables.erasing = [] from he]
  rfl

theorem eraseKey_badOp {op : BitVec 8} (he : s.tables.erasing = []) (ho : op ≠ 3) : s.eraseKey op slot = s.emit (.keyResp 4) :=
  (if_neg (by simp [he])).trans (if_pos ho)

theorem eraseKey_noPart (he : s.tables.erasing = []) (hp : s.slotPart slot = 0) : s.eraseKey 3 slot = s.emit (.keyResp 2) :=
  (if_neg (by simp [he])).trans ((if_neg (by simp)).trans (if_pos hp))

end

/-! The test access port. -/

theorem debugOpen_eq_false {s : State} (h : s.block.testLock = true ∨ s.block.debugArmed = false) : s.debugOpen = false := by
  rcases h with h | h <;> simp [State.debugOpen, h]

theorem debugOpen_eq_true {s : State} (h1 : s.block.testLock = false) (h2 : s.block.debugArmed = true) : s.debugOpen = true := by
  simp [State.debugOpen, h1, h2]

/-- The identity value of a manufacturer and a version. It stands apart from `State.idValue` because the kernel does not unfold that
one beside its opaque fields. -/
def idOf (m : BitVec 11) (v : BitVec 4) : Nat := 1 + m.toNat * 2 + 0x5CEB * 2 ^ 12 + v.toNat * 2 ^ 28

theorem idValue_eq_idOf : State.idValue = idOf Config.manufacturer Config.version := rfl

theorem idOf_eq (m : BitVec 11) (v : BitVec 4) : idOf m v = 1 + 2 * m.toNat + 2 ^ 12 * 0x5CEB + 2 ^ 28 * v.toNat := by
  rw [idOf]
  ring

theorem idValue_eq : State.idValue =
    1 + 2 * Config.manufacturer.toNat + 2 ^ 12 * 0x5CEB + 2 ^ 28 * Config.version.toNat :=
  idValue_eq_idOf.trans (idOf_eq Config.manufacturer Config.version)

/-- A bit of a number, as the model reads it. -/
theorem bitOf_eq_testBit (v i : Nat) : bitOf v i = v.testBit i := by
  rw [bitOf, Nat.testBit_eq_decide_div_mod_eq]

theorem statusReg_bits (f : FUnit) : ((List.range 16).map fun i => bitOf (State.statusReg f) i) =
    (List.range 16).map fun i => (f.sources.getD i {}).sticky := by
  refine List.map_congr_left fun i hi => ?_
  rw [bitOf_eq_testBit, State.statusReg, testBit_listMask, decide_eq_true (List.mem_range.1 hi), Bool.true_and]

theorem severeReg_bits (f : FUnit) : ((List.range 16).map fun i => bitOf (State.severeReg f) i) =
    (List.range 16).map fun i => (f.sources.getD i {}).severe := by
  refine List.map_congr_left fun i hi => ?_
  rw [bitOf_eq_testBit, State.severeReg, testBit_listMask, decide_eq_true (List.mem_range.1 hi), Bool.true_and]

theorem exec_idcode (s : State) : exec .idcode s =
    .next ((s.setIr 0x02).emit (.tdo ((List.range 32).map fun i => bitOf State.idValue i))) := rfl

theorem exec_statusRead (s : State) (u : Nat) : exec (.statusRead u) s = .next ((s.setIr 0x25).emit (.tdo
    (((List.range 16).map fun i => bitOf (State.statusReg (s.unit u)) i) ++
     ((List.range 16).map fun i => bitOf (State.severeReg (s.unit u)) i) ++
     s.keeper.ring.flatMap fun r => (List.range 128).map fun i => r.getLsbD i))) := rfl

/-- Settles O56, by the answers of a load and of an erasure, and the decoding of the test port's instructions. -/
theorem keyPortAndTestPortAct : Obligations.KeyPortAndTestPortAct := by
  unfold Obligations.KeyPortAndTestPortAct
  refine ⟨fun s slot check key he => ?_, fun s => ?_⟩
  · have hxts : keyFits false key := nofun
    refine ⟨fun ha => ⟨?_, ?_⟩, fun ha => ⟨fun hp => ?_, fun hp hc => ?_, fun hk => ?_, fun hp hc => ⟨fun hb => ?_, fun hb => ⟨?_, fun hk => ?_⟩⟩⟩,
      fun op ho => ?_, fun hp => ?_, fun hp => ⟨fun h => ?_, fun hb hj => ?_⟩⟩
    · exact congrArg Host.Outcome.next (loadKey_refused he (loadResponse_armed ha) (by decide))
    · exact congrArg Host.Outcome.next (loadKey_refused he (loadResponse_armed ha) (by decide))
    · exact congrArg Host.Outcome.next (loadKey_refused he (loadResponse_noPart ha hxts hp) (by decide))
    · exact congrArg Host.Outcome.next (loadKey_refused he (loadResponse_check ha hxts hp hc) (by decide))
    · exact congrArg Host.Outcome.next (loadKey_refused he (loadResponse_gcm ha hk) (by decide))
    · exact congrArg Host.Outcome.next (loadKey_refused he
        ((loadResponse_checked ha hxts hp hc).trans (if_pos ((bound_isSome_iff s slot).2 hb))) (by decide))
    · exact congrArg Host.Outcome.next (loadKey_accepted he
        ((loadResponse_checked ha hxts hp hc).trans (if_neg (fun h => hb ((bound_isSome_iff s slot).1 h)))))
    · exact congrArg Host.Outcome.next (loadKey_accepted he
        ((loadResponse_checked ha (fun _ => hk) hp hc).trans (if_neg (fun h => hb ((bound_isSome_iff s slot).1 h)))))
    · exact congrArg Host.Outcome.next (eraseKey_badOp he ho)
    · exact congrArg Host.Outcome.next (eraseKey_noPart he hp)
    · exact congrArg Host.Outcome.next (eraseKey_answered he hp h)
    · exact congrArg Host.Outcome.next (eraseKey_waits he hp hb hj)
  · intro ir byp
    refine ⟨fun bits => ⟨rfl, rfl⟩, ?_, fun c => rfl, rfl, fun hl => ?_, fun hl => ?_, fun h => ?_, fun hl ha => ?_,
      fun o => ⟨fun hr => ?_, fun hr ho => ?_, fun hr ho => ?_⟩, fun u => ?_⟩
    · rw [exec_idcode, idValue_eq]
      rfl
    · exact congrArg Host.Outcome.next (if_neg (ne_true_of_eq_false hl))
    · exact congrArg Host.Outcome.next (if_pos hl)
    · have hd := ne_true_of_eq_false (debugOpen_eq_false h)
      exact ⟨congrArg Host.Outcome.next (if_neg hd), fun n off => congrArg Host.Outcome.next (if_neg hd),
        fun g k w d => congrArg Host.Outcome.next (if_neg hd)⟩
    · have hd := debugOpen_eq_true hl ha
      exact ⟨congrArg Host.Outcome.next (if_pos hd), fun n off => congrArg Host.Outcome.next (if_pos hd),
        fun k w d => ⟨congrArg Host.Outcome.next (if_pos hd), congrArg Host.Outcome.next (if_pos hd)⟩⟩
    · exact congrArg Host.Outcome.next (if_neg (ne_true_of_eq_false hr))
    · exact congrArg Host.Outcome.next ((if_pos hr).trans (if_pos ho))
    · exact congrArg Host.Outcome.next ((if_pos hr).trans (if_neg (ne_true_of_eq_false ho)))
    · rw [exec_statusRead, statusReg_bits, severeReg_bits]
      rfl

end Sys2Proof.Proofs

/-! The administrative queue registers: CREATE, CONTEXT_RESET, RESUME and DESTROY (20 R466 to R468). -/

namespace Sys2Proof.Proofs

open Sys2Proof Sys2Proof.Machine Sys2Proof.Laws

-- One theorem at a time: many at once, in one text, hold more threads than the memory limit allows.
set_option Elab.async false

section
variable {s : State} {p : Nat}

/-- A command of the block is ignored while it is BUSY. -/
theorem aqCommand_busy (h : (s.part p).aq.busy = true) (cmd : Nat) : s.aqCommand p cmd = s := if_pos (.inl h)

/-- The block takes a command: it is not BUSY, and its partition exists. -/
def takesCommand (s : State) (p : Nat) : Prop := (s.part p).aq.busy = false ∧ (p = 0 ∨ s.defined p = true)

theorem takesCommand_guard (h : takesCommand s p) : ¬((s.part p).aq.busy ∨ (p ≠ 0 ∧ !s.defined p)) := by
  obtain ⟨hb, hp⟩ := h
  rintro (hx | ⟨h0, hd⟩)
  · exact ne_true_of_eq_false hb hx
  · rcases hp with hp | hp
    · exact h0 hp
    · simp [hp] at hd

/-! CREATE. -/

/-- The registers of the block describe a legal queue. -/
def legalAq (s : State) (p : Nat) : Prop :=
  4 ≤ (s.part p).aq.log2.toNat ∧ (s.part p).aq.log2.toNat ≤ 16 ∧ State.ringBad (s.part p).aq.ring.toNat = false ∧
    State.statusBad (s.part p).aq.status.toNat = false ∧ (p = 0 → (s.part p).aq.ring.toNat / 2 ^ 56 = 0)

theorem aqCreateCode_illegal (h : (s.part p).aq.log2.toNat < 4 ∨ 16 < (s.part p).aq.log2.toNat ∨
    State.ringBad (s.part p).aq.ring.toNat = true ∨ State.statusBad (s.part p).aq.status.toNat = true) : s.aqCreateCode p = 0x02 := by
  refine if_pos ?_
  rcases h with h | h | h | h
  · exact .inl h
  · exact .inr (.inl h)
  · exact .inr (.inr (.inl h))
  · exact .inr (.inr (.inr (.inr h)))

theorem legalAq_guard (h : legalAq s p) : ¬((s.part p).aq.log2.toNat < 4 ∨ 16 < (s.part p).aq.log2.toNat ∨
    State.ringBad (s.part p).aq.ring.toNat = true ∨ (p = 0 ∧ (s.part p).aq.ring.toNat / 2 ^ 56 ≠ 0) ∨
    State.statusBad (s.part p).aq.status.toNat = true) := by
  obtain ⟨h4, h16, hr, hs, h0⟩ := h
  rintro (h | h | h | ⟨hp, h⟩ | h)
  · omega
  · omega
  · exact ne_true_of_eq_false hr h
  · exact h (h0 hp)
  · exact ne_true_of_eq_false hs h

theorem aqCreateCode_uncommitted (h : legalAq s p) (hp : p ≠ 0) (hc : s.prof.committed = false) : s.aqCreateCode p = 0xC2 :=
  (if_neg (legalAq_guard h)).trans (if_pos ⟨hp, by rw [hc]; rfl⟩)

/-- Past every check the queue must not exist. -/
theorem aqCreateCode_checked (h : legalAq s p) (hc : p ≠ 0 → s.prof.committed = true ∧ s.rangesFail p (s.part p).aq.pd.toNat
      (State.queueRanges (s.part p).aq.ring.toNat (s.part p).aq.log2.toNat (s.part p).aq.status.toNat) = none) :
    s.aqCreateCode p = if (s.live? (.adm p)).isSome then 0xC2 else 0 := by
  refine (if_neg (legalAq_guard h)).trans ((if_neg ?_).trans ?_)
  · rintro ⟨h0, hn⟩
    simp [(hc h0).1] at hn
  · by_cases h0 : p = 0
    · rw [if_pos h0]
    · rw [if_neg h0, (hc h0).2]

theorem aqCreate_fails {c : Nat} (h : s.aqCreateCode p = c) (h0 : c ≠ 0) : s.aqCreate p = s.aqDone p 1 c := by
  rw [State.aqCreate, h, if_pos h0]

theorem aqCreate_makes (h : s.aqCreateCode p = 0) : s.aqCreate p =
    (s.createQueue_ { qid := .adm p, part := p, ring := (s.part p).aq.ring, log2 := (s.part p).aq.log2.toNat,
                      status := (s.part p).aq.status, pd := if p = 0 then 0 else (s.part p).aq.pd.toNat }).aqDone p 1 0 := by
  rw [State.aqCreate, h, if_neg (by simp)]

/-! The commands of a live queue. -/

theorem aqReset_starts {x : Queue} (hx : s.live? (.adm p) = some x) (hs : x.state ≠ .reset) : s.aqReset p =
    (s.startLevel (.context (.adm p)) [] none).1.modPart p fun y =>
      { y with aq := { y.aq with cmd := 2, busy := true, level := some (s.startLevel (.context (.adm p)) [] none).2 } } := by
  rw [State.aqReset, hx]
  exact if_neg hs

theorem aqReset_refused {x : Queue} (hx : s.live? (.adm p) = some x) (hs : x.state = .reset) : s.aqReset p = s.aqDone p 2 0x02 := by
  rw [State.aqReset, hx]
  exact if_pos hs

theorem aqResume_resumes {x : Queue} (hx : s.live? (.adm p) = some x) (hs : x.state = .reset ∨ x.state = .stopped) :
    s.aqResume p = (s.setQState (.adm p) .active).aqDone p 3 0 := by
  rw [State.aqResume, hx]
  exact if_pos hs

theorem aqResume_refused {x : Queue} (hx : s.live? (.adm p) = some x) (hs : x.state = .active ∨ x.state = .error ∨ x.state = .halted) :
    s.aqResume p = s.aqDone p 3 0x02 := by
  rw [State.aqResume, hx]
  refine if_neg ?_
  rcases hs with hs | hs | hs <;> simp [hs]

theorem aqDestroy_destroys {x : Queue} (hx : s.live? (.adm p) = some x) (ho : x.open_ = [])
    (h0 : p = 0 → ∀ y ∈ s.queues, y.state = .destroyed ∨ State.notA0 y = false) :
    s.aqDestroy p = (s.setQState (.adm p) .destroyed).aqDone p 4 0 := by
  rw [State.aqDestroy, hx]
  refine if_neg ?_
  rintro (h | ⟨hp, h⟩)
  · simp [ho] at h
  · obtain ⟨y, hy, hn⟩ := List.any_eq_true.1 h
    rcases h0 hp y hy with h1 | h1 <;> simp [h1] at hn

theorem aqDestroy_held {x : Queue} (hx : s.live? (.adm p) = some x)
    (h : x.open_ ≠ [] ∨ (p = 0 ∧ ∃ y ∈ s.queues, y.state ≠ .destroyed ∧ State.notA0 y = true)) : s.aqDestroy p = s.aqDone p 4 0xC2 := by
  rw [State.aqDestroy, hx]
  refine if_pos (h.imp (fun ho => by simpa using ho) fun ⟨hp, y, hy, hs, hn⟩ => ⟨hp, ?_⟩)
  exact List.any_eq_true.2 ⟨y, hy, by simp [hs, hn]⟩

/-! The registers as commands. -/

variable (ho : s.regsOpen = true) (ha : s.centralAsleep = false)
include ho ha

theorem exec_create : exec (.create p) s = .next (s.aqCommand p 1) :=
  congrArg Host.Outcome.next (regWrite_awake ho ha _ _ fun s => s.aqCommand p 1)

theorem exec_contextReset : exec (.contextReset p) s = .next (s.aqCommand p 2) :=
  congrArg Host.Outcome.next (regWrite_awake ho ha _ _ fun s => s.aqCommand p 2)

theorem exec_resume : exec (.resume p) s = .next (s.aqCommand p 3) :=
  congrArg Host.Outcome.next (regWrite_awake ho ha _ _ fun s => s.aqCommand p 3)

theorem exec_destroy : exec (.destroy p) s = .next (s.aqCommand p 4) :=
  congrArg Host.Outcome.next (regWrite_awake ho ha _ _ fun s => s.aqCommand p 4)

end

/-- Settles O55, by the rules of the four commands. -/
theorem administrativeQueuesAreSetUp : Obligations.AdministrativeQueuesAreSetUp := by
  unfold Obligations.AdministrativeQueuesAreSetUp
  intro s p ho ha hp a done
  refine ⟨fun hb => ⟨?_, ?_, ?_, ?_⟩, fun hb => ?_⟩
  · exact (exec_create ho ha).trans (congrArg Host.Outcome.next (aqCommand_busy hb 1))
  · exact (exec_contextReset ho ha).trans (congrArg Host.Outcome.next (aqCommand_busy hb 2))
  · exact (exec_resume ho ha).trans (congrArg Host.Outcome.next (aqCommand_busy hb 3))
  · exact (exec_destroy ho ha).trans (congrArg Host.Outcome.next (aqCommand_busy hb 4))
  have hg := takesCommand_guard (s := s) (p := p) ⟨hb, hp⟩
  have hcreate {t : State} (h : s.aqCreate p = t) : exec (.create p) s = .next t :=
    (exec_create ho ha).trans (congrArg Host.Outcome.next ((if_neg hg).trans h))
  have hreset {t : State} (h : s.aqReset p = t) : exec (.contextReset p) s = .next t :=
    (exec_contextReset ho ha).trans (congrArg Host.Outcome.next ((if_neg hg).trans h))
  have hresume {t : State} (h : s.aqResume p = t) : exec (.resume p) s = .next t :=
    (exec_resume ho ha).trans (congrArg Host.Outcome.next ((if_neg hg).trans h))
  have hdestroy {t : State} (h : s.aqDestroy p = t) : exec (.destroy p) s = .next t :=
    (exec_destroy ho ha).trans (congrArg Host.Outcome.next ((if_neg hg).trans h))
  refine ⟨fun h4 h16 hr hst h0 => ?_, fun h => hcreate (aqCreate_fails (aqCreateCode_illegal h) (by decide)), fun x hx => ?_⟩
  · have hl : legalAq s p := ⟨h4, h16, hr, hst, h0⟩
    refine ⟨fun hp0 hc => hcreate (aqCreate_fails (aqCreateCode_uncommitted hl hp0 hc) (by decide)),
      fun hc => ⟨fun hx => ?_, fun hx => ?_⟩⟩
    · exact hcreate (aqCreate_fails ((aqCreateCode_checked hl hc).trans (if_pos (Option.isSome_iff_ne_none.2 hx))) (by decide))
    · exact hcreate (aqCreate_makes ((aqCreateCode_checked hl hc).trans (if_neg (by rw [hx]; exact Bool.false_ne_true))))
  · exact ⟨fun hs => hreset (aqReset_starts hx hs), fun hs => hreset (aqReset_refused hx hs),
      fun hs => hresume (aqResume_resumes hx hs), fun hs => hresume (aqResume_refused hx hs),
      fun hop h0 => hdestroy (aqDestroy_destroys hx hop h0), fun h => hdestroy (aqDestroy_held hx h)⟩

end Sys2Proof.Proofs

/-! Registers: 64-bit reads and writes through latches and shadows, incident entries, event slots, the profile window (20 R460 to R474). -/

namespace Sys2Proof.Proofs

open Sys2Proof Sys2Proof.Machine Sys2Proof.Laws

-- One theorem at a time: many at once, in one text, hold more threads than the memory limit allows.
set_option Elab.async false

/-! Where the 64-bit registers lie. -/

/-- A 64-bit register lies at a multiple of 8, below the end of the partition pages, outside the incident entries. -/
theorem reg64?_place {s : State} {off v : Nat} (h : s.reg64? off = some v) :
    off % 8 = 0 ∧ off < 0x180000 ∧ (off < 0x1100 ∨ 0x1200 ≤ off) := by
  unfold State.reg64? at h
  by_cases h1 : off = 0x1010 ∨ off = 0x2018 ∨ off = 0x2028 ∨ off = 0x3010 ∨ off = 0x3018 ∨ off = 0x40008 ∨ off = 0x40010
  · omega
  · obtain ⟨a1, a2, a3, a4, a5, a6, a7⟩ : off ≠ 0x1010 ∧ off ≠ 0x2018 ∧ off ≠ 0x2028 ∧ off ≠ 0x3010 ∧ off ≠ 0x3018 ∧ off ≠ 0x40008 ∧
        off ≠ 0x40010 := by omega
    rw [if_neg a1, if_neg a2, if_neg a3, if_neg a4, if_neg a5, if_neg a6, if_neg a7] at h
    by_cases hc : 0x30000 ≤ off ∧ off < 0x38000 ∧ off % 0x1000 < 0x200
    · rw [if_pos hc] at h
      have hm : off % 0x40 = 0x10 ∨ off % 0x40 = 0x18 ∨ off % 0x40 = 0x20 ∨ off % 0x40 = 0x28 := by
        dsimp only at h
        split at h
        · exact .inl ‹_›
        · exact .inr (.inl ‹_›)
        · exact .inr (.inr (.inl ‹_›))
        · exact .inr (.inr (.inr ‹_›))
        · cases h
      omega
    · rw [if_neg hc] at h
      by_cases hr : 0x100000 ≤ off ∧ off < 0x180000
      · rw [if_pos hr] at h
        by_cases hm : off % 0x10000 % 8 = 0
        · omega
        · dsimp only at h
          by_cases hd : (!s.defined (off / 0x10000 - 0xF)) = true
          · rw [if_pos hd] at h
            cases h
          · rw [if_neg hd, if_neg (by omega), if_neg (by omega), if_neg (by omega), if_neg (by omega), if_neg (by omega), if_neg (by omega),
              if_neg (by omega), if_neg (by omega), if_neg (by omega)] at h
            cases h
      · rw [if_neg hr] at h
        cases h

theorem reg64?_upper {s : State} {off v : Nat} (h : s.reg64? off = some v) : s.reg64? (off + 4) = none := by
  cases hx : s.reg64? (off + 4) with
  | none => rfl
  | some w =>
    have h1 := (reg64?_place h).1
    have h2 := (reg64?_place hx).1
    omega

/-- A 64-bit register that takes writes lies at a multiple of 8, below the end of the partition pages. -/
theorem writable64_place {s : State} {off : Nat} (h : s.writable64 off = true) : off % 8 = 0 ∧ off < 0x180000 := by
  simp only [State.writable64, Bool.or_eq_true, Bool.and_eq_true, beq_iff_eq, decide_eq_true_eq] at h
  omega

/-! Reads (R460, R464). -/

section
variable {s : State}

theorem doRead_lower {off v : Nat} (h : s.reg64? off = some v) : s.doRead off =
    ({ s with regs := { s.regs with latch := assocPut s.regs.latch off (BitVec.ofNat 32 (v / 2 ^ 32)) } } : State).emit
      (.regData off (BitVec.ofNat 32 v)) := by
  have hp := reg64?_place h
  rw [State.doRead, State.readWord, if_neg (by omega), h]

theorem doRead_upper {off v : Nat} (h : s.reg64? off = some v) :
    s.doRead (off + 4) = s.emit (.regData (off + 4) (lookupD s.regs.latch off 0)) := by
  have hp := reg64?_place h
  rw [State.doRead, State.readWord, if_neg (by omega), reg64?_upper h]
  dsimp only
  rw [Nat.add_sub_cancel, if_pos ⟨by rw [h]; rfl, by omega⟩]

/-- Word 0 of an incident entry copies the entry whole to its latch. -/
theorem doRead_incident {e : Nat} (he : e < 16) : s.doRead (0x1100 + 16 * e) =
    ({ s with keeper := { s.keeper with ringLatch := modAt s.keeper.ringLatch e fun _ => s.keeper.ring.getD e 0 } } : State).emit
      (.regData (0x1100 + 16 * e) (BitVec.ofNat 32 (s.keeper.ring.getD e 0).toNat)) := by
  have hd : (0x1100 + 16 * e - 0x1100) / 16 = e := by omega
  rw [State.doRead, State.readWord, if_pos (by omega), hd, if_pos (by omega), State.incWord, Nat.mul_zero, Nat.pow_zero, Nat.div_one]

/-- Words 1 to 3 answer the latch. -/
theorem doRead_incidentWord {e k : Nat} (he : e < 16) (h1 : 1 ≤ k) (h3 : k ≤ 3) : s.doRead (0x1100 + 16 * e + 4 * k) =
    s.emit (.regData (0x1100 + 16 * e + 4 * k) (BitVec.ofNat 32 ((s.keeper.ringLatch.getD e 0).toNat / 2 ^ (32 * k)))) := by
  have hd : (0x1100 + 16 * e + 4 * k - 0x1100) / 16 = e := by omega
  have hk : (0x1100 + 16 * e + 4 * k) % 16 / 4 = k := by omega
  rw [State.doRead, State.readWord, if_pos (by omega), hd, if_neg (by omega), hk]
  rfl

theorem hostRead_awake (ho : s.regsOpen = true) (ha : s.centralAsleep = false) (off : Nat) : s.hostRead off = s.doRead off := by
  simp [State.hostRead, ho, ha]

/-- A word read of the register window is the host's read. -/
theorem exec_registerRead_word {off : Nat} (ho : s.regsOpen = true) (h4 : off % 4 = 0) (hlt : off < 0x400000) :
    exec (.registerRead off 4) s = .next (s.hostRead off) := by
  refine congrArg Host.Outcome.next ((if_neg (by simp [ho])).trans ((if_neg ?_).trans ((if_neg (Nat.not_le.2 hlt)).trans (if_pos rfl))))
  rintro (h | h)
  · exact h (by simpa using h4)
  · exact h.1 rfl

/-! Writes (00 R10, R460). -/

/-- A word write of the register window is the host's write. -/
theorem exec_registerWrite_word {off : Nat} (v : Word64) (h4 : off % 4 = 0) (hlt : off < 0x400000) :
    exec (.registerWrite off 4 ⟨v, none⟩) s = .next (s.hostWrite off (v.setWidth 32)) := by
  have hbad : ¬(off % max 1 4 ≠ 0 ∨ 0x400000 ≤ off) := by
    rintro (h | h)
    · exact h (by simpa using h4)
    · omega
  refine congrArg Host.Outcome.next (Eq.trans (hwEvent_none _) ((if_neg hbad).trans (if_pos rfl)))

theorem hostWrite_awake (ho : s.regsOpen = true) (ha : s.centralAsleep = false) (off : Nat) (v : Word32) :
    s.hostWrite off v = s.writeWord off v :=
  regWrite_awake ho ha off v fun s => s.writeWord off v

theorem writeWord_lower {off : Nat} (h : s.writable64 off = true) (v : Word32) : s.writeWord off v = s.writeLower off v := if_pos h

/-- The upper word's write leaves latches and shadows. -/
theorem regs_write64 (off : Nat) (v : Word64) : (s.write64 off v).regs = s.regs :=
  ((within_write64 s off v).only .regs).resolve_left (by decide)

/-- The upper word of a writable register joins the shadow of its lower word. -/
theorem exec_upperWordWrite {off : Nat} (ho : s.regsOpen = true) (ha : s.centralAsleep = false) (h : s.writable64 off = true) (v : Word32) :
    exec (.upperWordWrite (off + 4) v) s = .next (s.write64 off (v ++ lookupD s.regs.shadow off 0)) :=
  congrArg Host.Outcome.next ((if_pos ⟨Nat.le_add_left _ _, h⟩).trans (regWrite_awake ho ha _ v fun s => s.writeUpper off v))

/-- A partition's page, by its number. -/
theorem aqBase_of_defined {p : Nat} (hd : s.defined p = true) : State.aqBase p = 0x100000 + (p - 1) * 0x10000 ∧ 1 ≤ p ∧ p ≤ 8 := by
  simp only [State.defined, Bool.and_eq_true, decide_eq_true_eq] at hd
  exact ⟨if_neg (by omega), hd.1⟩

theorem writable64_eventSlot {p : Nat} (hd : s.defined p = true) : s.writable64 (State.aqBase p + 0x40) = true := by
  obtain ⟨hb, h1, h8⟩ := aqBase_of_defined hd
  have hp : (State.aqBase p + 0x40) / 0x10000 - 0xF = p := by omega
  have ho : (State.aqBase p + 0x40) % 0x10000 = 0x40 := by omega
  have hr : 0x100000 ≤ State.aqBase p + 0x40 ∧ State.aqBase p + 0x40 < 0x180000 := by omega
  simp [State.writable64, hp, ho, hd, hr]

theorem write64_eventSlot {p : Nat} (hd : s.defined p = true) (v : Word64) :
    s.write64 (State.aqBase p + 0x40) v = s.setEventSlot p v := by
  obtain ⟨hb, h1, h8⟩ := aqBase_of_defined hd
  have hp : (State.aqBase p + 0x40) / 0x10000 - 0xF = p := by omega
  have ho : (State.aqBase p + 0x40) % 0x10000 = 0x40 := by omega
  unfold State.write64
  rw [if_neg (by omega), if_neg (by omega), if_neg (by omega), if_neg (by omega), if_neg (by omega), hp, ho]
  rfl

/-- EVENT_SLOT takes the upper word joined with the shadow (R474). -/
theorem exec_eventSlot {p : Nat} (ho : s.regsOpen = true) (ha : s.centralAsleep = false) (hd : s.defined p = true) (v : Word32) :
    exec (.eventSlot p v) s = .next (s.setEventSlot p (v ++ lookupD s.regs.shadow (State.aqBase p + 0x40) 0)) := by
  have hn : ¬ s.writable64 (State.aqBase p + 0x44) = true := fun h => by
    have := (writable64_place h).1
    have := aqBase_of_defined hd
    omega
  refine congrArg Host.Outcome.next ((if_pos hd).trans ((hostWrite_awake ho ha _ v).trans ?_))
  exact (if_neg hn).trans ((if_pos ⟨by omega, writable64_eventSlot hd⟩).trans (write64_eventSlot hd _))

theorem exec_eventPd {p : Nat} (ho : s.regsOpen = true) (ha : s.centralAsleep = false) (hd : s.defined p = true) (v : Word32) :
    exec (.eventPd p v) s = .next (s.setEventPd p v) :=
  congrArg Host.Outcome.next ((if_pos hd).trans (regWrite_awake ho ha _ v fun s => s.setEventPd p v))

end

/-! The profile window (R462). -/

/-- Four neighbouring bytes put into a list of bytes stand there; every other byte stands as before. -/
theorem memGet_foldl_memPut (off : Nat) (bs : List (Nat × Byte)) (hn : (bs.map (·.1)).Nodup) (m : List Host.Cell)
    (hm : CellsOk (fun _ => 0) m) :
    (∀ x ∈ bs, memGet (bs.foldl (fun m x => memPut m (off + x.1) x.2 0) m) (off + x.1) 0 = x.2) ∧
    ∀ k, (∀ x ∈ bs, k ≠ off + x.1) → memGet (bs.foldl (fun m x => memPut m (off + x.1) x.2 0) m) k 0 = memGet m k 0 := by
  induction bs generalizing m with
  | nil => exact ⟨fun x hx => absurd hx List.not_mem_nil, fun _ _ => rfl⟩
  | cons b bs ih =>
    have hp := ((cellsOk_iff _ _).1 hm).1
    obtain ⟨hb, hn⟩ := List.nodup_cons.1 hn
    obtain ⟨ih1, ih2⟩ := ih hn _ (cellsOk_memPut (fun _ => 0) m (off + b.1) b.2 hm)
    refine ⟨fun x hx => ?_, fun k hk => ?_⟩
    · rcases List.mem_cons.1 hx with rfl | hx
      · refine (ih2 _ fun y hy he => hb (List.mem_map.2 ⟨y, hy, (Nat.add_left_cancel he).symm⟩)).trans (memGet_memPut_same m _ _ 0 hp)
      · exact ih1 x hx
    · exact (ih2 k fun y hy => hk y (List.mem_cons_of_mem _ hy)).trans (memGet_memPut_other m _ k _ 0 0 hp (hk b List.mem_cons_self))

/-- The offsets and bytes of one word of the profile window. -/
def windowBytes (v : Word32) : List (Nat × Byte) := (List.range 4).zip (leBytes 4 v.toNat)

theorem windowBytes_getD (v : Word32) {i : Nat} (hi : i < 4) : (i, (leBytes 4 v.toNat).getD i 0) ∈ windowBytes v := by
  obtain rfl | rfl | rfl | rfl : i = 0 ∨ i = 1 ∨ i = 2 ∨ i = 3 := by omega
  all_goals simp [windowBytes, leBytes, List.range_succ]

theorem windowBytes_offsets (v : Word32) : (windowBytes v).map (·.1) = [0, 1, 2, 3] := rfl

section
variable {s : State}

theorem exec_profileWindowWrite (ho : s.regsOpen = true) (ha : s.centralAsleep = false) (off : Nat) (v : Word32) :
    exec (.profileWindowWrite off v) s = .next (s.windowWrite off v) :=
  congrArg Host.Outcome.next (regWrite_awake ho ha _ v fun s => s.windowWrite off v)

theorem windowWrite_open {off : Nat} (hc : s.prof.committed = false) (hl : off < 0x7FC) (v : Word32) : s.windowWrite off v =
    { s with prof := { s.prof with image := (windowBytes v).foldl (fun m x => memPut m (off + x.1) x.2 0) s.prof.image } } := by
  refine if_neg ?_
  rintro (h | h)
  · rw [hc] at h
    cases h
  · omega

/-- Before commit a window write puts its four bytes and no other. -/
theorem windowWrite_bytes {off : Nat} (hc : s.prof.committed = false) (hl : off < 0x7FC) (hi : Inv s) (v : Word32) :
    s.windowWrite off v = { s with prof := { s.prof with image := (s.windowWrite off v).prof.image } } ∧
    (∀ i < 4, memGet (s.windowWrite off v).prof.image (off + i) 0 = (leBytes 4 v.toNat).getD i 0) ∧
    ∀ k, (k < off ∨ off + 4 ≤ k) → memGet (s.windowWrite off v).prof.image k 0 = memGet s.prof.image k 0 := by
  rw [windowWrite_open hc hl]
  have hn : ((windowBytes v).map (·.1)).Nodup := by rw [windowBytes_offsets]; decide
  obtain ⟨h1, h2⟩ := memGet_foldl_memPut off (windowBytes v) hn s.prof.image hi.image
  refine ⟨rfl, fun i hi => h1 _ (windowBytes_getD v hi), fun k hk => h2 k fun x hx => ?_⟩
  have hm : x.1 ∈ [0, 1, 2, 3] := windowBytes_offsets v ▸ List.mem_map_of_mem hx
  simp only [List.mem_cons, List.not_mem_nil, or_false] at hm
  omega

/-! Hardware events of a write's clock, records, the timer, OFF and accesses that wait. -/

theorem exec_registerWrite_event (off width : Nat) (v : Word64) (ev : Option HwEvent) : ∃ t,
    exec (.registerWrite off width ⟨v, none⟩) s = .next t ∧ exec (.registerWrite off width ⟨v, ev⟩) s = .next (t.hwEvent ev) :=
  ⟨_, congrArg Host.Outcome.next (hwEvent_none _), rfl⟩

theorem ring_slotWrite (p : Nat) (bs : List Byte) : (s.slotWrite p bs).keeper.ring = s.keeper.ring := by
  unfold State.slotWrite
  dsimp only
  split <;> rfl

/-- A record goes to the entry of its SEQUENCE. -/
theorem ring_writeRecord {u : Nat} {x : Incident} (closed : Bool) (h : (s.unit u).incident = some x) :
    (s.writeRecord u closed).keeper.ring =
      modAt s.keeper.ring (x.seq.toNat % 16) fun _ => BitVec.ofNat 128 (leNat (State.incidentBytes u x closed)) := by
  unfold State.writeRecord
  rw [h]
  dsimp only
  split
  · rw [ring_slotWrite]
  · rw [ring_slotWrite, ring_slotWrite]

/-- A write to a register of chapter 16 acts at once, asleep or awake. -/
theorem regWrite_powerPage (ho : s.regsOpen = true) {off : Nat} (hp : State.powerPage off = true) (v : Word32) (f : State → State) :
    s.regWrite off v f = f s := by
  simp [State.regWrite, ho, hp]

theorem exec_wakeTimer (ho : s.regsOpen = true) (v : Word32) :
    exec (.wakeTimer v) s = .next { s with central := { s.central with wakeTimer := v, timerFired := false } } :=
  congrArg Host.Outcome.next (regWrite_powerPage ho (by decide) v fun s => s.wakeTimerWrite v)

theorem exec_offReq (ho : s.regsOpen = true) {v : Word32} (hv : v.getLsbD 3 = true) : exec (.offReq v) s = .next (State.offRequest
    { s with central := { s.central with deepEnable := v.getLsbD 2, dwell := BitVec.ofNat 16 (v.toNat / 2 ^ 16) } }) :=
  congrArg Host.Outcome.next ((regWrite_powerPage ho (by decide) v fun s => s.centralWrite 0 v).trans (if_pos hv))

theorem offRequest_of_bar {c : Nat} (h : s.offBar = some c) : s.offRequest = s.refuseCentral c := by
  unfold State.offRequest
  rw [h]

theorem offRequest_of_free (h : s.offBar = none) : s.offRequest = { s with block := { s.block with offEntry := true } } := by
  unfold State.offRequest
  rw [h]

theorem hostRead_asleep (ho : s.regsOpen = true) (ha : s.centralAsleep = true) {off : Nat} (hp : State.powerPage off = false) :
    s.hostRead off = s.deferAccess off none := by
  simp [State.hostRead, ho, ha, hp]

theorem hostWrite_asleep (ho : s.regsOpen = true) (ha : s.centralAsleep = true) {off : Nat} (hp : State.powerPage off = false) (v : Word32) :
    s.hostWrite off v = s.deferAccess off (some v) := by
  simp [State.hostWrite, State.regWrite, ho, ha, hp]

end

section
variable {s : State} (ho : s.regsOpen = true) (ha : s.centralAsleep = false)
include ho ha

/-- The reads of a 64-bit register: by the lower word with its latch, by the upper word from it. -/
theorem exec_reads_reg64 {off v : Nat} (h : s.reg64? off = some v) :
    exec (.lowerWordRead off) s = .next (s.doRead off) ∧ exec (.registerRead off 4) s = .next (s.doRead off) ∧
    exec (.registerRead (off + 4) 4) s = .next (s.doRead (off + 4)) := by
  obtain ⟨h8, hlt, -⟩ := reg64?_place h
  refine ⟨congrArg Host.Outcome.next ((if_pos (by rw [h]; rfl)).trans (hostRead_awake ho ha off)), ?_, ?_⟩
  · rw [exec_registerRead_word ho (by omega) (by omega), hostRead_awake ho ha]
  · rw [exec_registerRead_word ho (by omega) (by omega), hostRead_awake ho ha]

theorem exec_write_lower {off : Nat} (h : s.writable64 off = true) (v : Word64) :
    exec (.registerWrite off 4 ⟨v, none⟩) s =
      .next { s with regs := { s.regs with shadow := assocPut s.regs.shadow off (v.setWidth 32) } } := by
  obtain ⟨h8, hlt⟩ := writable64_place h
  rw [exec_registerWrite_word v (by omega) (by omega), hostWrite_awake ho ha, writeWord_lower h]
  rfl

theorem exec_ownerEventSlot (v : Word32) : exec (.ownerEventSlot v) s =
    .next (s.setOwnerSlot (v ++ lookupD s.regs.shadow 0x1010 0)) :=
  congrArg Host.Outcome.next (regWrite_awake ho ha _ v fun s => s.writeUpper 0x1010 v)

theorem exec_write_ownerContext (v : Word64) : exec (.registerWrite 0x18 4 ⟨v, none⟩) s =
    .next { s with regs := { s.regs with ownerCtx := v.setWidth 32 } } := by
  rw [exec_registerWrite_word v (by decide) (by decide), hostWrite_awake ho ha]
  exact congrArg Host.Outcome.next rfl

end

/-- Settles O54: the latch and shadow of a 64-bit register are its own, since the registers lie at multiples of 8 and none of them among
the incident entries (R460, R464); the other registers act by their rule, at once or after the wake. -/
theorem registersReadAndWriteByTheirRules : Obligations.RegistersReadAndWriteByTheirRules := by
  intro s ho
  refine ⟨fun ha => ⟨fun off v h => ?_, fun off h => ⟨exec_write_lower ho ha h, fun v => ⟨_, exec_upperWordWrite ho ha h v, regs_write64 _ _, rfl⟩⟩,
    exec_ownerEventSlot ho ha, fun e he => ⟨?_, fun k h1 h3 => ?_⟩, fun p v hd _ => ?_, fun off v => ⟨fun hc _ hl hi => ?_, fun h => ?_⟩,
    exec_write_ownerContext ho ha⟩, exec_registerWrite_event, fun u x closed h => ring_writeRecord closed h, exec_wakeTimer ho,
    fun v hv => ⟨fun c hc => ?_, fun hc => ?_⟩, fun ha off h4 hlt hp => ⟨?_, fun v => ?_⟩⟩
  · obtain ⟨h1, h2, h3⟩ := exec_reads_reg64 ho ha h
    rw [h1, h2, h3, doRead_upper h, doRead_lower h]
    exact ⟨rfl, rfl, rfl⟩
  · exact congrArg Host.Outcome.next ((hostRead_awake ho ha _).trans (doRead_incident he))
  · rw [exec_registerRead_word ho (by omega) (by omega), hostRead_awake ho ha, doRead_incidentWord he h1 h3]
  · dsimp only
    rw [exec_eventSlot ho ha hd, exec_eventPd ho ha hd, ← (aqBase_of_defined hd).1]
    refine ⟨fun h => ?_, fun hw h => ?_, fun h => ?_, fun hx h => ?_, fun hx h => ?_⟩
    · exact congrArg Host.Outcome.next (if_pos h)
    · exact congrArg Host.Outcome.next (if_neg (not_or.2 ⟨hw, by rw [h]; decide⟩))
    · exact congrArg Host.Outcome.next (if_pos h)
    · exact congrArg Host.Outcome.next ((if_neg hx).trans (if_pos h))
    · exact congrArg Host.Outcome.next ((if_neg hx).trans (if_neg (by rw [h]; decide)))
  · exact ⟨_, exec_profileWindowWrite ho ha off v, windowWrite_bytes hc hl hi v⟩
  · exact (exec_profileWindowWrite ho ha off v).trans (congrArg Host.Outcome.next (if_pos h))
  · rw [exec_offReq ho hv, offRequest_of_bar hc]
  · rw [exec_offReq ho hv, offRequest_of_free hc]
  · rw [exec_registerRead_word ho h4 hlt, hostRead_asleep ho ha hp]
    rfl
  · rw [exec_registerWrite_word v h4 hlt, hostWrite_asleep ho ha hp]
    rfl

end Sys2Proof.Proofs

/-! Connections, windows, links and the deck (19 R436 to R448). -/

namespace Sys2Proof.Proofs

open Sys2Proof Sys2Proof.Machine Sys2Proof.Laws

-- One theorem at a time: many at once, in one text, hold more threads than the memory limit allows.
set_option Elab.async false

section
variable {s : State}

/-- A window stands ready once the spans of its partition are awake (16 R379). -/
theorem readyWindow_of_awake {p w : Nat} {x : Window} (hx : s.window? p w = some x) (hr : x.ready = false) (hc : x.closing = false)
    (ha : ∀ n ∈ s.unfencedSpans p, (s.span n).trans = none ∧ ((s.span n).power = .run ∨ (s.span n).power = .idle)) :
    s.readyWindow p w = (s.modPart p fun y =>
      { y with windows := y.windows.map fun z => if z.w == w then { z with ready := true } else z }).emit (.winReady x.conn w) := by
  have hall : ((s.unfencedSpans p).all fun n =>
      (s.span n).trans.isNone && ((s.span n).power == .run || (s.span n).power == .idle)) = true := by
    refine List.all_eq_true.2 fun n hn => ?_
    obtain ⟨ht, hp⟩ := ha n hn
    rcases hp with hp | hp <;> simp [ht, hp]
  unfold State.readyWindow
  rw [hx]
  dsimp only
  exact if_neg (by simp [hr, hc, hall])

/-- Where no outstanding request takes a path that is cut, a cut is LINK_DOWN alone. -/
theorem cutPaths_of_none {f : Port → Bool} (h : ∀ w ∈ s.ports.requests, f w.port = true → w.late = true) :
    s.cutPaths f = s.countEvent 0x51 15 {} := by
  have hl : (s.ports.requests.filter fun w => f w.port && !w.late) = [] :=
    List.filter_eq_nil_iff.2 fun w hw hc => by
      obtain ⟨h1, h2⟩ := Bool.and_eq_true_iff.1 hc
      simp [h w hw h1] at h2
  have hk : (s.ports.requests.filter fun w => !(f w.port && !w.late)) = s.ports.requests :=
    List.filter_eq_self.2 fun w hw => by
      cases hf : f w.port with
      | false => rfl
      | true => simp [h w hw hf]
  unfold State.cutPaths
  rw [hl, hk]
  rfl

theorem linkGone_viaduct (n : Nat) : s.linkGone (.vp n) = State.cutPaths ({ s with ports := { s.ports with
    vpUp := s.ports.vpUp &&& ~~~ BitVec.ofNat 2 (2 ^ n)
    peers := s.ports.peers.map fun (x : Peer) => if n = 0 then { x with hops0 := none } else { x with hops1 := none } } }) (· == .vp n) := rfl

/-- A link to the right neighbour comes up (R447). -/
theorem viaductUp_right {vp peer peerPort : Nat} (hf : s.ports.deckFault = false)
    (hr : (if vp = 0 then peerPort == 1 && (peer == s.block.deckId.toNat + 1 || (peer == 0 && s.block.deckId.toNat != 0))
      else peerPort == 0 && (peer + 1 == s.block.deckId.toNat || (s.block.deckId.toNat == 0 && peer != 0))) = true) :
    s.viaductUp vp peer peerPort = { s with ports := { s.ports with vpUp := s.ports.vpUp ||| BitVec.ofNat 2 (2 ^ vp) } } :=
  if_neg (by rw [hf, hr]; decide)

/-- VP0 against VP0 faults the deck (R448). -/
theorem viaductUp_wrong (peer : Nat) : s.viaductUp 0 peer 0 = s.faultDeck :=
  if_pos (by simp)

theorem deckFlood_distinct {peers : List Peer} (h : (s.block.deckId.toNat :: peers.map (·.deckId)).Nodup) :
    s.deckFlood peers false = { s with ports := { s.ports with peers, deckFault := false } } :=
  if_neg (not_or.2 ⟨Bool.false_ne_true, not_not_intro h⟩)

theorem deckFlood_clash {peers : List Peer} (h : ¬(s.block.deckId.toNat :: peers.map (·.deckId)).Nodup) :
    s.deckFlood peers false = s.faultDeck := if_pos (.inr h)

theorem deckFlood_faulted (peers : List Peer) : s.deckFlood peers true = s.faultDeck := if_pos (.inl rfl)

end

/-- Settles O45: each command is one of the operations above; a cut path without outstanding requests only counts LINK_DOWN. -/
theorem linksAndWindowsComeAndGo : Obligations.LinksAndWindowsComeAndGo := by
  intro s
  refine ⟨fun _ _ _ => rfl, fun _ => rfl, fun p w x hx hr hc ha => ?_, fun _ => rfl, fun n h _ => ⟨_, rfl, ?_⟩, fun _ _ => rfl,
    fun hf => ⟨?_, fun h0 => ?_, ?_⟩, fun peers => ⟨fun h => ?_, fun h => ?_⟩, fun peers => ?_, fun f h => cutPaths_of_none h⟩
  · exact congrArg Host.Outcome.next (readyWindow_of_awake hx hr hc ha)
  · exact (linkGone_viaduct n).trans (cutPaths_of_none fun w hw hp => h w hw (eq_of_beq hp))
  · exact congrArg Host.Outcome.next (viaductUp_right (vp := 0) hf (by simp))
  · exact congrArg Host.Outcome.next (viaductUp_right (vp := 1) hf (by simp; omega))
  · exact congrArg Host.Outcome.next (viaductUp_wrong _)
  · exact congrArg Host.Outcome.next (deckFlood_distinct h)
  · exact congrArg Host.Outcome.next (deckFlood_clash h)
  · exact congrArg Host.Outcome.next (deckFlood_faulted peers)

end Sys2Proof.Proofs

/-! Inbound accesses and deck items (19 R444, R445, R450, 02 R55). -/

namespace Sys2Proof.Proofs

open Sys2Proof Sys2Proof.Machine Sys2Proof.Laws

-- One theorem at a time: many at once, in one text, hold more threads than the memory limit allows.
set_option Elab.async false

/-! Translation requests (R439): what asks is listed, tag or no tag. -/

/-- A request without its tag. -/
def untagged (x : XReq) : XReq := { x with tag := none }

/-- One request takes the lowest free tag, where one is free. -/
def takeTag (a : List XReq × List Nat) (x : XReq) : List XReq × List Nat :=
  let t := lowestFree a.2
  if x.tag.isNone && decide (t < 4096) then (a.1 ++ [{ x with tag := some t }], t :: a.2) else (a.1 ++ [x], a.2)

theorem takeTag_untagged (a : List XReq × List Nat) (x : XReq) : (takeTag a x).1.map untagged = a.1.map untagged ++ [untagged x] := by
  unfold takeTag
  dsimp only
  split <;> simp [untagged]

theorem foldl_takeTag_untagged (l : List XReq) (a : List XReq × List Nat) :
    (l.foldl takeTag a).1.map untagged = a.1.map untagged ++ l.map untagged := by
  induction l generalizing a with
  | nil => simp
  | cons x l ih => rw [List.foldl_cons, ih, takeTag_untagged, List.append_assoc]; rfl

/-- Tags are all that giving tags changes. -/
theorem giveXTags_untagged (l : List XReq) : (State.giveXTags l).map untagged = l.map untagged :=
  (foldl_takeTag_untagged l ([], l.filterMap fun x : XReq => x.tag)).trans (List.nil_append _)

theorem exists_of_giveXTags {l : List XReq} {x : XReq} (h : x ∈ l) : ∃ y ∈ State.giveXTags l, untagged y = untagged x :=
  List.mem_map.1 (giveXTags_untagged l ▸ List.mem_map_of_mem h)

/-- The request for the page of an address (R439). -/
def pageRequest (s : State) (own : XOwner) (p access a : Nat) : XReq :=
  { owner := own, route := a / 2 ^ 56, ctx := if p = 0 then s.regs.ownerCtx.toNat else s.rec_ p 0x20 4, page := a % 2 ^ 56 / 4096 * 4096, access }

/-- An owner's request is listed already. -/
def isAsked (s : State) (x : XReq) : Bool := s.ports.xreqs.any fun y => untagged y == x

theorem askXlat_xreqs (s : State) (own : XOwner) (p access : Nat) (as : List Nat) : (s.askXlat own p access as).ports.xreqs =
    State.giveXTags (s.ports.xreqs ++ (((as.filter fun a => State.translated (a / 2 ^ 56)).map (pageRequest s own p access)).eraseDups).filter
      fun x => !isAsked s x) := rfl

/-- After an access at an address of a translated route has asked, a request for its page is listed. -/
theorem exists_askXlat {s : State} {own : XOwner} {p access : Nat} {as : List Nat} {a : Nat} (ha : a ∈ as)
    (ht : State.translated (a / 2 ^ 56) = true) :
    ∃ x ∈ (s.askXlat own p access as).ports.xreqs, untagged x = pageRequest s own p access a := by
  have hn : pageRequest s own p access a ∈
      ((as.filter fun a => State.translated (a / 2 ^ 56)).map (pageRequest s own p access)).eraseDups :=
    List.mem_eraseDups.2 (List.mem_map_of_mem (List.mem_filter.2 ⟨ha, ht⟩))
  rw [askXlat_xreqs]
  cases hk : isAsked s (pageRequest s own p access a) with
  | true =>
    obtain ⟨y, hy, he⟩ := List.any_eq_true.1 hk
    obtain ⟨z, hz, hzy⟩ := exists_of_giveXTags (List.mem_append_left _ hy)
    exact ⟨z, hz, hzy.trans (eq_of_beq he)⟩
  | false => exact exists_of_giveXTags (List.mem_append_right _ (List.mem_filter.2 ⟨hn, by rw [hk]; rfl⟩))

/-! Places and routes without a translation. -/

section
variable {s : State}

/-- Without a translation an address of a translated route has no place. -/
theorem locate_untranslated {p a : Nat} (ht : State.translated (a / 2 ^ 56) = true) : s.locate p [] a = none := by
  unfold State.locate
  dsimp only
  split
  · rfl
  · rfl

theorem place_untranslated {p a : Nat} {data : List Byte} (ht : State.translated (a / 2 ^ 56) = true) (hd : data ≠ []) :
    s.place p [] a data = none := by
  obtain ⟨b, bs, rfl⟩ := List.exists_cons_of_ne_nil hd
  unfold State.place
  rw [List.length_cons, List.range_succ_eq_map, List.zip_cons_cons, List.mapM_cons]
  simp [locate_untranslated ht]

/-- A translated route is lost where its port is not present. -/
theorem routeLost_of_translated {p r : Nat} (h : State.translated r = true) :
    s.routeLost p r = !(r == 0 || s.apPresent (r - 0x10)) := by
  simp only [State.translated, Bool.or_eq_true, beq_iff_eq, decide_eq_true_eq] at h
  unfold State.routeLost State.hasTarget
  rw [if_neg (by omega)]
  by_cases h0 : r = 0
  · simp [h0]
  · rw [if_neg h0, if_pos (by omega)]
    simp [h0]

/-! The target access of an inbound request. -/

theorem inboundGo_asks {id : Nat} {xl : List Xlat} {x : Inbound} (hf : (s.ports.inbound.find? fun x => x.id == id && !x.issued) = some x)
    (hr : s.routeLost x.part (x.addr / 2 ^ 56) = false) (hw : x.write = true) (hp : s.place x.part xl x.addr x.data = none) :
    s.inboundGo id xl = s.askRange (.inbound id) x.part xl 2 x.addr x.data.length := by
  unfold State.inboundGo
  rw [hf]
  dsimp only
  rw [if_neg (by rw [hr]; decide), if_pos hw, hp]

theorem inboundGo_reads {id : Nat} {xl : List Xlat} {x : Inbound} {ks : List Nat}
    (hf : (s.ports.inbound.find? fun x => x.id == id && !x.issued) = some x)
    (hr : s.routeLost x.part (x.addr / 2 ^ 56) = false) (hw : x.write = false) (hk : s.keys x.part xl x.addr x.len = some ks) :
    s.inboundGo id xl = ({ s with ports := { s.ports with inbound := s.ports.inbound.filter (·.id != id) } }).emit
      (.rdd x.src (ks.map s.store.get) (ks.any s.store.isPoisoned)) := by
  unfold State.inboundGo
  rw [hf]
  dsimp only
  rw [if_neg (by rw [hr]; decide), if_neg (by simp [hw]), hk]

/-- A new inbound request stands behind the others. -/
def holding (s : State) (x : Inbound) : State :=
  { s with ports := { s.ports with nextId := s.ports.nextId + 1, inbound := s.ports.inbound ++ [x] } }

/-- It is found by its number. -/
theorem find?_holding {x : Inbound} (hn : ∀ y ∈ s.ports.inbound, y.id ≠ x.id) (hi : x.issued = false) :
    ((holding s x).ports.inbound.find? fun y => y.id == x.id && !y.issued) = some x := by
  unfold holding
  rw [List.find?_append, List.find?_eq_none.2 fun y hy => by simp [hn y hy]]
  simp [hi]

/-- Once it is gone the others stand. -/
theorem filter_holding {x : Inbound} (hn : ∀ y ∈ s.ports.inbound, y.id ≠ x.id) :
    (holding s x).ports.inbound.filter (·.id != x.id) = s.ports.inbound := by
  unfold holding
  rw [List.filter_append, List.filter_eq_self.2 fun y hy => by simpa using hn y hy]
  simp

/-- An inbound read of known places is answered at once, and its number is used up. -/
theorem takeInbound_reads {src : MsgSrc} {p addr len : Nat} {data : List Byte} {ks : List Nat}
    (hn : ∀ x ∈ s.ports.inbound, x.id ≠ s.ports.nextId) (hr : s.routeLost p (addr / 2 ^ 56) = false) (hk : s.keys p [] addr len = some ks) :
    s.takeInbound src p addr false data len = ({ s with ports := { s.ports with nextId := s.ports.nextId + 1 } }).emit
      (.rdd src (ks.map s.store.get) (ks.any s.store.isPoisoned)) := by
  let x : Inbound := { id := s.ports.nextId, src, part := p, addr, write := false, data, len }
  refine (inboundGo_reads (s := holding s x) (x := x) (find?_holding hn rfl) hr rfl hk).trans ?_
  rw [filter_holding hn]
  rfl

/-- An inbound write without a place waits for its translation. -/
theorem takeInbound_asks {src : MsgSrc} {p addr : Nat} {data : List Byte} (hn : ∀ x ∈ s.ports.inbound, x.id ≠ s.ports.nextId)
    (hr : s.routeLost p (addr / 2 ^ 56) = false) (ht : State.translated (addr / 2 ^ 56) = true) (hd : data ≠ []) :
    s.takeInbound src p addr true data 0 = (holding s
      { id := s.ports.nextId, src, part := p, addr, write := true, data, len := 0 }).askRange (.inbound s.ports.nextId) p [] 2 addr data.length := by
  let x : Inbound := { id := s.ports.nextId, src, part := p, addr, write := true, data, len := 0 }
  have hf : ((holding s x).ports.inbound.find? fun y => y.id == x.id && !y.issued) = some x := find?_holding hn rfl
  exact inboundGo_asks hf hr rfl (place_untranslated ht hd)

/-- The first page that a range on a translated route asks for is its address's. -/
theorem exists_askRange {own : XOwner} {p access a n : Nat} (ht : State.translated (a / 2 ^ 56) = true) (hn : 0 < n) :
    ∃ x ∈ (s.askRange own p [] access a n).ports.xreqs, x.owner = own ∧ x.route = a / 2 ^ 56 ∧ x.access = access ∧
      x.page = a % 2 ^ 56 / 4096 * 4096 := by
  have hm : a / 4096 * 4096 ∈ s.unplaced p [] ((List.range n).map fun i => a + i) :=
    List.mem_eraseDups.2 (List.mem_map.2 ⟨a, List.mem_filter.2 ⟨List.mem_map.2 ⟨0, List.mem_range.2 hn, rfl⟩, by
      rw [locate_untranslated ht]; rfl⟩, rfl⟩)
  have hr : a / 4096 * 4096 / 2 ^ 56 = a / 2 ^ 56 := by omega
  have hp : a / 4096 * 4096 % 2 ^ 56 / 4096 * 4096 = a % 2 ^ 56 / 4096 * 4096 := by omega
  obtain ⟨x, hx, he⟩ := exists_askXlat (s := s) (own := own) (p := p) (access := access) hm (hr ▸ ht)
  exact ⟨x, hx, congrArg XReq.owner he, (congrArg XReq.route he).trans hr, congrArg XReq.access he, (congrArg XReq.page he).trans hp⟩

/-! Inbound writes. -/

/-- A partition but for PORT_BYTES. -/
def withoutBytes (x : Part) : Part := { x with portBytes := [] }

theorem inboundBytes_of_within {l : List Field} {t : State} (h : Within l s t) (hl : Field.parts ∉ l := by decide) (p : Nat) :
    (t.part p).inboundBytes = (s.part p).inboundBytes := by
  have hm : t.parts.map withoutBytes = s.parts.map withoutBytes := (h.only .parts).resolve_left hl
  have hg : ∀ l : List Part, ((l.map withoutBytes).getD p (withoutBytes {})).inboundBytes = (l.getD p {}).inboundBytes := fun l => by
    rw [List.getD_map]
    rfl
  exact (hg t.parts).symm.trans ((congrArg (fun l : List Part => (l.getD p (withoutBytes {})).inboundBytes) hm).trans (hg s.parts))

theorem inboundWrite_notReady {c addr : Nat} {data : List Byte} (h : s.connReady c = none) :
    s.inboundWrite c addr data = s.emit (.placement c 2) := by
  unfold State.inboundWrite
  rw [h]

theorem inboundWrite_refused {c p addr : Nat} {data : List Byte} (h : s.connReady c = some p) (ho : s.inboundOk p addr data.length true = false) :
    s.inboundWrite c addr data = (s.modPart p fun x => { x with inboundRefused := x.inboundRefused + 1 }).emit (.placement c 1) := by
  unfold State.inboundWrite
  rw [h]
  exact if_neg (by simp [ho])

/-- A placed write's bytes are counted and answered with PLACED. -/
def placedInbound (s : State) (c p n : Nat) : State :=
  ((s.modPart p fun x => { x with inboundBytes := x.inboundBytes + BitVec.ofNat 64 n }).countInbound (.conn c) p n).emit (.placement c 0)

theorem inboundWrite_placed {c p addr : Nat} {data : List Byte} (h : s.connReady c = some p) (ho : s.inboundOk p addr data.length true = true) :
    s.inboundWrite c addr data = (placedInbound s c p data.length).takeInbound (.conn c) p addr true data 0 := by
  unfold State.inboundWrite
  rw [h]
  exact if_pos ho

theorem within_placedInbound (c p n : Nat) : Within [.parts, .bytes, .out] s (placedInbound s c p n) :=
  (((within_modPart s p _).mono).step (within_countInbound _ _ _ _)).step (within_emit _ _)

theorem out_placedInbound (c p n : Nat) : (placedInbound s c p n).block.out = .placement c 0 :: s.block.out := by
  unfold placedInbound State.countInbound State.countBytes
  split
  · split <;> rfl
  · rfl

theorem store_placedInbound (c p n : Nat) : (placedInbound s c p n).store = s.store := by
  unfold placedInbound State.countInbound State.countBytes
  split
  · split <;> rfl
  · rfl

theorem inbound_placedInbound (c p n : Nat) : (placedInbound s c p n).ports.inbound = s.ports.inbound ∧
    (placedInbound s c p n).ports.nextId = s.ports.nextId :=
  Prod.mk.inj (((within_placedInbound (s := s) c p n).only .inbound).resolve_left (by decide))

theorem inboundBytes_placedInbound {p : Nat} (c n : Nat) (hp : p < s.parts.length) :
    ((placedInbound s c p n).part p).inboundBytes = (s.part p).inboundBytes + BitVec.ofNat 64 n :=
  (inboundBytes_of_within (within_countInbound _ _ _ _) (by decide) p).trans
    (congrArg Part.inboundBytes (getD_modAt_same s.parts p _ {} hp))

theorem apPresent_of_within {l : List Field} {t : State} (h : Within l s t) (hl : Field.prof ∉ l := by decide) (n : Nat) :
    t.apPresent n = s.apPresent n := by
  unfold State.apPresent State.img
  rw [prof_of_within h hl]

/-- A placed write that waits for its place. -/
def placedWrite (s : State) (c p addr : Nat) (data : List Byte) : State :=
  holding (placedInbound s c p data.length) { id := s.ports.nextId, src := .conn c, part := p, addr, write := true, data, len := 0 }

/-- What an inbound write does that is placed and whose translation is not known. -/
theorem inboundWrite_waits {c p addr : Nat} {data : List Byte} (h : s.connReady c = some p) (ho : s.inboundOk p addr data.length true = true)
    (ht : State.translated (addr / 2 ^ 56) = true) (hr : s.routeLost p (addr / 2 ^ 56) = false) (hd : data ≠ [])
    (hn : ∀ x ∈ s.ports.inbound, x.id ≠ s.ports.nextId) :
    s.inboundWrite c addr data = (placedWrite s c p addr data).askRange (.inbound s.ports.nextId) p [] 2 addr data.length := by
  have hw : Within [.parts, .bytes, .out] s (placedInbound s c p data.length) := within_placedInbound c p _
  obtain ⟨h1, h2⟩ := inbound_placedInbound (s := s) c p data.length
  have hr' : (placedInbound s c p data.length).routeLost p (addr / 2 ^ 56) = false := by
    rw [routeLost_of_translated ht] at hr ⊢
    rw [apPresent_of_within hw, hr]
  rw [inboundWrite_placed h ho, takeInbound_asks (by rw [h1, h2]; exact hn) hr' ht hd, h2]
  rfl

/-! Deck items. -/

theorem deckItem_forwarded {src dest p off len : Nat} {wr : Bool} {data : List Byte} (h : dest ≠ s.block.deckId.toNat) :
    s.deckItem src dest p wr off data len = s.emit (.forwarded src dest) := if_pos h

theorem deckItem_refused {src p off len : Nat} {data : List Byte} (h : 8 * s.cs p < off + len) :
    s.deckItem src s.block.deckId.toNat p false off data len = s.emit (.rsp (.deck src) .refused) :=
  (if_neg (not_not_intro rfl)).trans (if_pos (by simp [h]))

theorem deckItem_reads {src p off len : Nat} {data : List Byte} (hd : s.deckParts p = true) (ho : off + len ≤ 8 * s.cs p) (hl : 0 < len)
    (ht : s.hasTarget p 0x20 = true) :
    s.deckItem src s.block.deckId.toNat p false off data len = s.takeInbound (.deck src) p (0x20 * 2 ^ 56 + off) false data len :=
  (if_neg (not_not_intro rfl)).trans ((if_neg (by simp [hd]; omega)).trans (if_neg (by rw [ht]; decide)))

theorem routeLost_pool {p : Nat} (ht : s.hasTarget p 0x20 = true) : s.routeLost p 0x20 = false := by
  unfold State.routeLost
  rw [if_neg (by decide), ht]
  rfl

/-! Reads, acknowledgements, messages. -/

theorem inboundRead_refused {c addr len : Nat} (h : s.connReady c = none ∨ ∃ p, s.connReady c = some p ∧ s.inboundOk p addr len false = false) :
    s.inboundRead c addr len = s.emit (.rsp (.conn c) .error) := by
  unfold State.inboundRead
  rcases h with h | ⟨p, h, ho⟩
  · rw [h]
  · rw [h]
    exact if_neg (by rw [ho]; decide)

theorem inboundRead_allowed {c p addr len : Nat} (h : s.connReady c = some p) (ho : s.inboundOk p addr len false = true) :
    s.inboundRead c addr len = s.takeInbound (.conn c) p addr false [] len := by
  unfold State.inboundRead
  rw [h]
  exact if_pos ho

theorem seenResult_of_none (p addr len : Nat) (h : ∀ j ∈ s.jobs, j.pass.retried = false) : s.seenResult p addr len = s := by
  unfold State.seenResult State.rewritten
  rw [List.map_congr_left (g := id) fun j hj => by simp [h j hj], List.map_id]

theorem inboundAck_answers {id : Nat} {x : Inbound} (hx : (s.ports.inbound.find? fun y => y.id == id && y.issued) = some x)
    (hw : ∀ w ∈ s.ports.requests, w.owner = .inbound id → w.late = true) (hj : ∀ j ∈ s.jobs, j.pass.retried = false) :
    s.inboundAck id = ({ s with ports := { s.ports with inbound := s.ports.inbound.filter (·.id != id) } }).emit
      (.rsp x.src (if x.error then .error else .okay)) := by
  have ha : (s.ports.requests.any fun w => !w.late && w.owner == .inbound id) = false :=
    List.any_eq_false.2 fun w hm hc => by
      obtain ⟨h1, h2⟩ := Bool.and_eq_true_iff.1 hc
      simp [hw w hm (eq_of_beq h2)] at h1
  unfold State.inboundAck
  rw [hx]
  dsimp only
  rw [if_neg (by rw [ha]; decide), seenResult_of_none]
  exact hj

theorem inboundMessage_unreached {d : Nat} (m : Msg) (h : s.reached d = false) :
    s.inboundMessage (.deck d) m = s.emit (.rsp (.deck d) .error) :=
  if_pos (congrArg not h)

theorem inboundMessage_reply {d : Nat} {m : Msg} (h : s.reached d = true) (hm : State.replies m = true) :
    s.inboundMessage (.deck d) m = (s.emit (.rsp (.deck d) .okay)).actReply m :=
  (if_neg (ne_true_of_eq_false (congrArg not h))).trans (if_pos hm)

theorem inboundMessage_waits {d : Nat} {m : Msg} (h : s.reached d = true) (hm : State.replies m = false) : s.inboundMessage (.deck d) m =
    ({ s with ports := { s.ports with inbox := s.ports.inbox ++ [m] } }).emit (.rsp (.deck d) .okay) :=
  (if_neg (ne_true_of_eq_false (congrArg not h))).trans (if_neg (by rw [hm]; decide))

end

/-- Settles O46: a placed write asks for its page, since on a translated route nothing has a place without a translation; a read with
known places is answered from memory at once. -/
theorem inboundAccessesAreCheckedThenPlaced : Obligations.InboundAccessesAreCheckedThenPlaced := by
  intro s
  refine ⟨fun c addr data h => ?_, fun c p addr data h ho => ?_, fun c p addr data h ho ht hr hd hn => ?_, fun c addr n h => ?_,
    fun c p addr n ks h ho hr hn hk => ?_, fun id x hx hw hj => ?_, fun d m h => ?_, fun d m h hm => ?_, fun d m h hm => ?_,
    fun src dest p wr off data len h => ?_, fun src p off data len h => ?_, fun src p off data len ks hd ho h56 hl ht hn hk => ?_⟩
  · exact congrArg Host.Outcome.next (inboundWrite_notReady h)
  · exact congrArg Host.Outcome.next (inboundWrite_refused h ho)
  · refine ⟨_, congrArg Host.Outcome.next (inboundWrite_waits h ho ht hr hd hn), out_placedInbound c p _, ?_, ?_, ?_, ?_, fun hp => ?_⟩
    · exact store_placedInbound c p _
    · exact congrArg (· + 1) (inbound_placedInbound c p _).2
    · exact congrArg (· ++ _) (inbound_placedInbound c p _).1
    · exact exists_askRange (s := placedWrite s c p addr.toNat data) (p := p) ht (List.length_pos_of_ne_nil hd)
    · exact inboundBytes_placedInbound c _ hp
  · exact congrArg Host.Outcome.next (inboundRead_refused h)
  · exact congrArg Host.Outcome.next ((inboundRead_allowed h ho).trans (takeInbound_reads hn hr hk))
  · exact congrArg Host.Outcome.next (inboundAck_answers hx hw hj)
  · exact congrArg Host.Outcome.next (inboundMessage_unreached m h)
  · exact congrArg Host.Outcome.next (inboundMessage_waits h hm)
  · exact congrArg Host.Outcome.next (inboundMessage_reply h hm)
  · exact congrArg Host.Outcome.next (deckItem_forwarded h)
  · exact congrArg Host.Outcome.next (deckItem_refused h)
  · have hr : (0x20 * 2 ^ 56 + off) / 2 ^ 56 = 0x20 := by omega
    refine congrArg Host.Outcome.next ((deckItem_reads hd ho hl ht).trans (takeInbound_reads hn ?_ hk))
    rw [hr]
    exact routeLost_pool ht

end Sys2Proof.Proofs

/-! Translation responses (19 R439, R440, 02 R51 to R53). -/

namespace Sys2Proof.Proofs

open Sys2Proof Sys2Proof.Machine Sys2Proof.Laws

-- One theorem at a time: many at once, in one text, hold more threads than the memory limit allows.
set_option Elab.async false

/-- A job that halts at an element, in tile t (06 R151). -/
def haltedAt (t n : Nat) (noTile : Bool) (j : Job) : Job :=
  { j with phase := .halted, saved := n, recheck := noTile, early := none, threads := [], again := [], next := t,
           retired := j.retired.filter (· < t), contribs := j.contribs.filter fun c => decide (c.tile < t) || j.ofPass1,
           marks := j.marks.filter (·.tile < t), xlat := [], pass := j.pass.backTo (j.tileStart t) (Entry.rowLen j.entry) }

section
variable {s : State}

/-- A job that halts stands halted at its element, whatever its queue's status line does. -/
theorem haltJob_job {uid : Nat} {j : Job} (h : s.job? uid = some j) (n : Nat) (noTile : Bool) :
    ∃ k, (s.haltJob uid n noTile).job? uid = some k ∧ k.phase = .halted ∧ k.saved = n := by
  let t := min (j.tileOf n) (j.tiles - 1)
  have h0 : (s.modJob uid (haltedAt t n noTile)).job? uid = some (haltedAt t n noTile j) := job?_modJob_self h rfl
  have hj : JobsStand (s.modJob uid (haltedAt t n noTile)) (s.haltJob uid n noTile) := by
    have h1 := (jobsStand_of_within (within_drainReads (s.modJob uid (haltedAt t n noTile)) uid fun _ => true)).trans
      (jobsStand_foldl (f := State.settleRun) (fun _ _ => jobsStand_of_within (within_settleRun _ _)) (j.threads.map (·.span)).eraseDups _)
    unfold State.haltJob
    rw [h]
    dsimp only
    split
    · split
      · exact h1.trans (JobsStand.trans (t := State.modQueue _ _ _) rfl (jobsStand_writeStatus _ _))
      · exact h1
    · exact h1
  obtain ⟨k, hk, hb⟩ := hj.job?_some h0
  exact ⟨k, hk, congrArg Job.phase hb, congrArg Job.saved hb⟩

/-- No status line is due: nothing is written. -/
theorem flushDue_of_none {q : QId} {x : Queue} (h : s.queue? q = some x) (hd : x.due = 0) : s.flushDue q = s := by
  unfold State.flushDue
  rw [h]
  exact if_pos hd

/-- A translation is added to a queue's, whose next access it serves. -/
theorem mapped_ring {q : QId} {y : Queue} (h : s.live? q = some y) (hd : y.due = 0) (x : Xlat) :
    s.mapped (.ring q) x = s.modQueue q fun y => { y with xlat := y.xlat ++ [x] } :=
  flushDue_of_none (queue?_modQueue_self (live?_some.1 h).1 rfl) hd

/-! A response and the request it answers. -/

theorem translation_unasked {route iova : Nat} {a : Access} (h : s.xreqOf route iova a = none) (res : XResult) :
    s.translation route iova a res = s := by
  unfold State.translation
  rw [h]

variable {route iova : Nat} {a : Access} {x : XReq} (hx : s.xreqOf route iova a = some x)
include hx

theorem translation_stale (hk : s.accKnown a = false) (res : XResult) : s.translation route iova a res = s.xreqDone x := by
  have h : ((s.xreqDone x).accKnown a) = false := hk
  unfold State.translation
  rw [hx]
  exact if_pos (by rw [h]; rfl)

theorem translation_abort (hk : s.accKnown a = true) : s.translation route iova a .abort = (s.xreqDone x).xlatFails route iova a false := by
  have h : ((s.xreqDone x).accKnown a) = true := hk
  unfold State.translation
  rw [hx]
  exact if_neg (by rw [h]; decide)

theorem translation_pageFault (hk : s.accKnown a = true) :
    s.translation route iova a .pageFault = (s.xreqDone x).xlatFails route iova a true := by
  have h : ((s.xreqDone x).accKnown a) = true := hk
  unfold State.translation
  rw [hx]
  exact if_neg (by rw [h]; decide)

/-- A page size out of range counts as ABORT. -/
theorem translation_badSize (hk : s.accKnown a = true) (addr : Word64) {log2 : Nat} (hl : log2 < 12 ∨ 30 < log2) :
    s.translation route iova a (.mapped addr log2) = (s.xreqDone x).xlatFails route iova a false := by
  have h : ((s.xreqDone x).accKnown a) = true := hk
  unfold State.translation
  rw [hx]
  exact (if_neg (by rw [h]; decide)).trans (if_neg (by omega))

theorem translation_mapped (hk : s.accKnown a = true) (addr : Word64) {log2 : Nat} (h12 : 12 ≤ log2) (h30 : log2 ≤ 30) :
    s.translation route iova a (.mapped addr log2) =
      (s.xreqDone x).mapped a { route, page := iova / 2 ^ log2 * 2 ^ log2, log2, addr := addr.toNat } := by
  have h : ((s.xreqDone x).accKnown a) = true := hk
  unfold State.translation
  rw [hx]
  exact (if_neg (by rw [h]; decide)).trans (if_pos ⟨h12, h30⟩)

end

section
variable {s : State} {j : Job} (hj : s.job? j.uid = some j)
include hj

theorem accKnown_decode : s.accKnown (.decode j.uid) = true := congrArg Option.isSome hj

theorem accKnown_job (elem : Nat) (index : Bool) : s.accKnown (.job j.uid elem index) = true := congrArg Option.isSome hj

/-- A page fault of decode halts the entry at 0 and counts nothing (02 R52). -/
theorem xlatFails_decode_fault (hp : j.phase = .fetched) (route iova : Nat) :
    s.xlatFails route iova (.decode j.uid) true = s.haltJob j.uid 0 false := by
  have hd : s.decodeFails j.uid 0x44 route true = s.haltJob j.uid 0 (j.phase == .running) := by
    unfold State.decodeFails
    rw [hj]
    exact (if_neg (by simp [hp])).trans (if_pos rfl)
  exact hd.trans (by rw [hp]; rfl)

/-- An ABORT counts TRANSLATION at the unit of the route's port and fails the entry. -/
theorem xlatFails_decode_abort (route iova : Nat) : s.xlatFails route iova (.decode j.uid) false =
    (s.countEvent (State.xlatUnit route) 7 { queue := some j.queue, job := some j.idx.toNat }).decodeFails j.uid 0x44 route false := by
  have hc : s.accCtx (.decode j.uid) = { queue := some j.queue, job := some j.idx.toNat } := by
    unfold State.accCtx
    simp only [State.accUid, Option.bind_some, hj]
  rw [← hc]
  rfl

end

/-- Settles O44: a response frees the request of its access; what follows is the access's own rule, which serves it or fails it. -/
theorem translationsServeOrFailTheirAccess : Obligations.TranslationsServeOrFailTheirAccess := by
  intro s route iova acc res
  refine ⟨fun h => ⟨congrArg Host.Outcome.next (translation_unasked h res), congrArg Host.Outcome.next (translation_unasked h .abort)⟩,
    fun x hx => ⟨fun hk => ?_, fun hk => ?_, fun addr log2 h12 h30 => ⟨fun q y ha hq hd => ?_, fun j ha hj => ?_, fun j ha hj hp => ?_⟩⟩⟩
  · exact ⟨congrArg Host.Outcome.next (translation_stale hx hk res), congrArg Host.Outcome.next (translation_stale hx hk .abort)⟩
  · exact ⟨_, congrArg Host.Outcome.next (translation_abort hx hk), congrArg Host.Outcome.next (translation_abort hx hk),
      fun addr log2 hl => congrArg Host.Outcome.next (translation_badSize hx hk addr hl)⟩
  · subst ha
    have hk : s.accKnown (.ring q) = true := by simp [State.accKnown, hq]
    exact congrArg Host.Outcome.next ((translation_mapped hx hk addr h12 h30).trans (mapped_ring (s := s.xreqDone x) hq hd _))
  · obtain rfl | ⟨elem, index, rfl⟩ := ha
    · exact congrArg Host.Outcome.next (translation_mapped hx (accKnown_decode hj) addr h12 h30)
    · exact congrArg Host.Outcome.next (translation_mapped hx (accKnown_job hj elem index) addr h12 h30)
  · subst ha
    have hz : (s.xreqDone x).job? j.uid = some j := hj
    have hf := (translation_pageFault hx (accKnown_decode hj)).trans (xlatFails_decode_fault hz hp route iova)
    obtain ⟨k, hk⟩ := haltJob_job hz 0 false
    exact ⟨⟨_, k, congrArg Host.Outcome.next hf, hk⟩,
      congrArg Host.Outcome.next ((translation_abort hx (accKnown_decode hj)).trans (xlatFails_decode_abort hz route iova))⟩

end Sys2Proof.Proofs

/-! Write answers, timeouts and credits (19 R430 to R433, R438). -/

namespace Sys2Proof.Proofs

open Sys2Proof Sys2Proof.Machine Sys2Proof.Laws

-- One theorem at a time: many at once, in one text, hold more threads than the memory limit allows.
set_option Elab.async false

section
variable {s : State} {port : Port} {tag : Nat}

/-! The answer of a write (R432, R433). -/

theorem writeResponse_unasked (h : s.sentAs false port tag = none) (res : Resp) :
    s.writeResponse port tag res = s.countEvent (State.portUnit port) 4 {} := by
  unfold State.writeResponse
  rw [h]

variable {w : Request} (hw : s.sentAs false port tag = some w)
include hw

theorem writeResponse_late (hl : w.late = true) (res : Resp) :
    s.writeResponse port tag res = (s.modSent false port tag fun _ => none).pumpPort port := by
  unfold State.writeResponse
  rw [hw]
  exact if_pos hl

theorem writeResponse_okay (hl : w.late = false) : s.writeResponse port tag .okay =
    (((s.modSent false port tag fun _ => none).landBody w .okay).answered w none).pumpPort port := by
  unfold State.writeResponse
  rw [hw]
  dsimp only
  rw [if_neg (by rw [hl]; decide), answerAt_okay, if_neg (by decide)]
  rfl

theorem writeResponse_error (hl : w.late = false) : s.writeResponse port tag .error =
    ((((s.modSent false port tag fun _ => none).countEvent (State.portUnit port) 4 (s.requestCtx w)).landBody w .error).answered w
      (some 0x48)).pumpPort port := by
  unfold State.writeResponse
  rw [hw]
  dsimp only
  rw [if_neg (by rw [hl]; decide), answerAt_error, if_pos rfl]
  rfl

/-- A write that times out counts as answered with ERROR, and keeps its TAG. -/
theorem requestTimeout_write (hl : w.late = false) {a : Access} (ha : s.ownsAccess w.owner a = true) : s.requestTimeout port a tag =
    (((s.modSent false port tag fun x => some { x with late := true }).countEvent (State.portUnit port) 4 (s.requestCtx w)).landBody w
      .error).answered w (some 0x48) := by
  have hf : (s.sentAs false port tag).filter (fun w => !w.late && s.ownsAccess w.owner a) = some w :=
    Option.filter_eq_some_iff.2 ⟨hw, by rw [hl, ha]; rfl⟩
  cases a
  case fetch t => exact absurd ha (by cases w.owner <;> simp [State.ownsAccess])
  all_goals
    unfold State.requestTimeout
    dsimp only
    rw [hf]

end

/-! What a write leaves in memory (02 R67). -/

/-- All bits of a byte that is written take the value's. -/
theorem wholeByte_value (o : Byte) (v : Nat) : BitVec.ofNat 8 (Nat.lor (o.toNat - Nat.land o.toNat 255) v) = BitVec.ofNat 8 v := by
  have h : Nat.land o.toNat 255 = o.toNat := (Nat.and_two_pow_sub_one_eq_mod o.toNat 8).trans (Nat.mod_eq_of_lt o.isLt)
  have h0 : Nat.lor 0 v = v := Nat.zero_or v
  rw [h, Nat.sub_self, h0]

/-- A whole byte of a write stands at its target, where the write names the target once. -/
theorem get_change_whole {st : Store} {bs : List WByte} (hm : Memory.wf st) (hn : (bs.map WByte.key).Nodup) {b : WByte} (hb : b ∈ bs)
    (hk : b.mask = 255) : (st.change bs).get b.key = BitVec.ofNat 8 b.val := by
  obtain ⟨l, m, rfl⟩ := List.append_of_mem hb
  rw [List.map_append, List.map_cons] at hn
  obtain ⟨-, hr, hd⟩ := List.nodup_append.1 hn
  have hl : ∀ c ∈ l, c.key ≠ b.key := fun c hc => hd _ (List.mem_map_of_mem hc) _ List.mem_cons_self
  have hm' : ∀ c ∈ m, c.key ≠ b.key := fun c hc he => (List.nodup_cons.1 hr).1 (he ▸ List.mem_map_of_mem hc)
  rw [get_change_once hm hl hm', hk, wholeByte_value]

section
variable {s : State}

theorem get_landBody_whole {w : Request} {bs : List WByte} {poison : List Nat} (hb : w.body = .write bs poison) (hm : Memory.wf s.store)
    (hn : (bs.map WByte.key).Nodup) {b : WByte} (h : b ∈ bs) (hk : b.mask = 255) :
    (s.landBody w .okay).store.get b.key = BitVec.ofNat 8 b.val := by
  have he : s.landBody w .okay = s.landBytes w.owner bs poison := by
    unfold State.landBody
    rw [hb]
  rw [he, get_landBytes, get_change_whole hm hn h hk]

/-- A byte that a write does not name stands, whatever the answer. -/
theorem get_landBody_other {w : Request} {bs : List WByte} {poison : List Nat} (hb : w.body = .write bs poison) (hm : Memory.wf s.store)
    {k : Nat} (hk : k ∉ bs.map WByte.key) (res : Resp) : (s.landBody w res).store.get k = s.store.get k := by
  have hne : ∀ b ∈ bs, b.key ≠ k := fun b h he => hk (he ▸ List.mem_map_of_mem h)
  unfold State.landBody
  rw [hb]
  cases res with
  | okay => exact (get_landBytes s w.owner bs poison k).trans (get_change_other hm hne)
  | error =>
    dsimp only
    split
    · refine get_change_other hm fun b h => ?_
      obtain ⟨c, hc, rfl⟩ := List.mem_map.1 h
      exact hne c hc
    · rfl
  | refused => rfl

/-! What follows an answer. -/

theorem answered_thread_okay {w : Request} {uid n : Nat} (h : w.owner = .job uid .thread n) :
    s.answered w none = (s.settleAll uid).settleFences := by
  unfold State.answered
  rw [h]

theorem answered_thread_error {w : Request} {uid n : Nat} (h : w.owner = .job uid .thread n) : s.answered w (some 0x48) =
    ((s.noteEarly uid { elem := w.elem, code := 0x48, detail := w.route, rank := 2 }).settleAll uid).settleFences := by
  unfold State.answered
  rw [h]

/-- A read that times out: the granules that have not come count as answered with ERROR. -/
theorem requestTimeout_read {port : Port} {tag uid tile : Nat} {r : Request} {f : Fetch} (hr : s.sentAs true port tag = some r)
    (hb : r.body = .fetch f) (ho : r.owner = .fetch uid tile) (hl : r.late = false) (hs : r.span = none) (hd : f.drained = false) :
    s.requestTimeout port (.fetch tag) tag =
      (((s.modSent true port tag fun x => some { x with late := true, body := .fetch { f with tagged := false } }).countEvent
        (State.portUnit port) 4 (s.requestCtx r)).modSeen uid tile fun v =>
          { v with bad := v.bad ++ f.left.map fun g => (g, 0x48) }).wakeReader uid tile := by
  have hf : State.fetchOf r = some f := by
    unfold State.fetchOf
    rw [hb]
  have hh : ((s.sentAs true port tag).bind fun r => if r.late then none else (State.fetchOf r).map fun f => (r, f)) = some (r, f) := by
    rw [hr, Option.bind_some, if_neg (by rw [hl]; decide), hf]
    rfl
  unfold State.requestTimeout State.fetchTimeout
  dsimp only
  rw [hh]
  dsimp only
  rw [hs, ho, if_neg (by rw [hd]; decide)]

/-! Credits (R430). -/

/-- What is put as a port's state is its state. -/
theorem portState_putPort (x : PortState) : (s.putPort x).portState x.port = x := by
  have hn : (s.ports.states.filter (·.port != x.port)).find? (·.port == x.port) = none :=
    List.find?_eq_none.2 fun y hy hc => by
      have := (List.mem_filter.1 hy).2
      simp [eq_of_beq hc] at this
  unfold State.putPort State.portState
  dsimp only
  rw [List.find?_append, hn]
  simp

/-- Requests of which none waits at a port. -/
theorem waiting_of_none {rs : List Request} {p : Port} (h : ∀ w ∈ rs, w.port = p → State.waits w = false) (f : Request → Bool) :
    State.waiting rs p f = none := by
  refine List.find?_eq_none.2 fun x hx hc => ?_
  obtain ⟨i, r⟩ := x
  have hr := (List.of_mem_zip hx).2
  simp only [Bool.and_eq_true, beq_iff_eq] at hc
  obtain ⟨⟨hp, hw⟩, -⟩ := hc
  rw [h r hr hp] at hw
  cases hw

theorem nextPart_of_none {rs : List Request} {p : Port} (h : ∀ w ∈ rs, w.port = p → State.waits w = false) (t : Nat) :
    State.nextPart rs p t = none :=
  List.find?_eq_none.2 fun q _ hc => by
    rw [waiting_of_none h] at hc
    cases hc

theorem idleZero_of_none {rs : List Request} {x : PortState} (h : ∀ w ∈ rs, w.port = x.port → State.waits w = false)
    (hd : x.deficit = List.replicate 9 0) : State.idleZero rs x = x := by
  unfold State.idleZero
  simp only [waiting_of_none h]
  rw [show ((List.range 9).map fun q => if (none : Option (Nat × Request)).isSome then x.deficit.getD q 0 else 0) = x.deficit from hd.symm]

/-- Nothing goes at a port where nothing waits. -/
theorem pumpPort_of_none {x : PortState} (h : ∀ w ∈ s.ports.requests, w.port = x.port → State.waits w = false)
    (hd : x.deficit = List.replicate 9 0) : (s.putPort x).pumpPort x.port = s.putPort x := by
  have hp : (s.putPort x).portState x.port = x := portState_putPort x
  have hr : ∀ w ∈ (s.putPort x).ports.requests, w.port = x.port → State.waits w = false := h
  have hz : State.idleZero (s.putPort x).ports.requests x = x := idleZero_of_none h hd
  have hc : (s.putPort x).choose x = none := by
    unfold State.choose
    dsimp only
    rw [hz, waiting_of_none hr, waiting_of_none hr, nextPart_of_none hr]
    rfl
  have hg : (s.putPort x).pump x.port = (s.putPort x, []) := by
    unfold State.pump State.pumpGo
    rw [hp, hc]
    dsimp only
    rw [hz, if_pos rfl]
  unfold State.pumpPort
  rw [hg]
  rfl

end

/-- Settles O43: an answer, late or not, takes the request away or marks it, and what follows is the owner's rule; a credit moves nothing
at a port where nothing waits. -/
theorem writeAnswersReachTheirOwner : Obligations.WriteAnswersReachTheirOwner := by
  intro s port tag
  refine ⟨fun res h => congrArg Host.Outcome.next (writeResponse_unasked h res), fun w hw hl => ⟨congrArg Host.Outcome.next (writeResponse_okay hw hl),
    congrArg Host.Outcome.next (writeResponse_error hw hl), fun a ha => congrArg Host.Outcome.next (requestTimeout_write hw hl ha),
    fun bs poison hb hm hn => ⟨fun b h hk => get_landBody_whole (s := s.modSent false port tag fun _ => none) hb hm hn h hk, fun k res hk =>
      get_landBody_other (s := s.modSent false port tag fun _ => none) hb hm hk res⟩,
    fun uid n ho z => ⟨answered_thread_okay ho, answered_thread_error ho⟩⟩, fun w res hw hl => congrArg Host.Outcome.next (writeResponse_late hw hl res),
    fun r f uid tile hr hb ho hl hs hd => congrArg Host.Outcome.next (requestTimeout_read hr hb ho hl hs hd), rfl, fun hw hd => ?_⟩
  have hp : (s.portState port).port = port := portState_port s port
  have h (x : PortState) (hx : x.port = port) (hxd : x.deficit = List.replicate 9 0) : (s.putPort x).pumpPort port = s.putPort x := by
    subst hx
    exact pumpPort_of_none hw hxd
  exact ⟨congrArg Host.Outcome.next (h _ hp hd), congrArg Host.Outcome.next (h _ hp hd)⟩

end Sys2Proof.Proofs
